-- ==== Sys2Proof/Word.lean ====
section
/-! DEFINITION. The word types of the Prator P960 and their plainest arithmetic (R3, R4). -/

namespace Sys2Proof

/-- A byte of memory. -/
abbrev Byte := BitVec 8
/-- A 32-bit instruction word. -/
abbrev Word32 := BitVec 32
/-- A 64-bit value: the value bits of a control-thread token (R212). -/
abbrev Word := BitVec 64
/-- A fabric token of 48 bits (R223). -/
abbrev FTok := BitVec 48

/-- Sorted association list: plain data keyed by a natural number. A key that is not listed reads as
the default of its type, which is the reset value of the object it stands for. -/
abbrev SMap (α : Type) := List (Nat × α)

/-- The entry at key `k`, or `d` where none is listed. -/
def SMap.getD {α : Type} : SMap α → Nat → α → α
  | [], _, d => d
  | (j, v) :: m, k, d => if j = k then v else SMap.getD m k d

/-- The entry at key `k`, or the type's default. -/
def SMap.at {α : Type} [Inhabited α] (m : SMap α) (k : Nat) : α := SMap.getD m k default

/-- Write `v` at key `k`, keeping the keys rising. -/
def SMap.set {α : Type} : SMap α → Nat → α → SMap α
  | [], k, v => [(k, v)]
  | (j, w) :: m, k, v =>
    if k < j then (k, v) :: (j, w) :: m
    else if k = j then (k, v) :: m
    else (j, w) :: SMap.set m k v

/-- Apply `f` to the entry at key `k`. -/
def SMap.upd {α : Type} [Inhabited α] (m : SMap α) (k : Nat) (f : α → α) : SMap α :=
  SMap.set m k (f (SMap.at m k))

end Sys2Proof
end

