-- ==== Sys2Proof/Syntax.lean ====
section
/-! DEFINITION. The instructions of the Prator P960: one constructor per row of the opcode table. -/

namespace Sys2Proof

/-- The fields of a handler configuration word other than OP (R219). -/
structure HWord where
  pri : BitVec 3
  msk : BitVec 1
  graph : BitVec 2
  fire : BitVec 4
  a : BitVec 4
  b : BitVec 4
  c : BitVec 4
  dst : BitVec 4
  outmask : BitVec 4
  och : BitVec 4
  rm : BitVec 3
  dsel : BitVec 3
  param : BitVec 16
  deriving DecidableEq, Repr, Inhabited

/-- What an inbound request asks (R18): a read of some bytes, a write of the data, or an atomic. -/
inductive InKind
  | read (n : Nat)
  | write
  | atomic (op : BitVec 5) (size : BitVec 2)
  deriving DecidableEq, Repr

/-- An access performed at its home L2 (R48). -/
inductive L2Kind
  | read (n : Nat) (uncached : Bool)
  | write (uncached : Bool)
  | atomic (op : BitVec 5) (size : BitVec 2)
  deriving DecidableEq, Repr

/-- A hearth access of U-mode (R405). -/
inductive HKind
  | load | store | amo | fetch
  deriving DecidableEq, Repr

/-- A zres request as it travels to the receiving core (R127): the zone handle, the requester's node and place,
and the module port that carried it in. -/
structure ResvReq where
  zh : BitVec 64
  node : BitVec 10
  core : BitVec 8
  ctx : BitVec 3
  ring : BitVec 6
  inPort : Option Nat
  outPort : Option Nat
  deriving DecidableEq, Repr

/-- A copy's write, or end token, aimed at a landing slot (R131). -/
structure SlotWrite where
  core : BitVec 8
  zone : BitVec 3
  slot : BitVec 6
  gen : BitVec 16
  off : Nat
  q : BitVec 12
  src : BitVec 10
  inPort : Option Nat
  copyCore : BitVec 8
  copyId : Nat
  data : List (BitVec 8)
  deriving DecidableEq, Repr

/-- A remote atomic as its request carries it (R168, R169): its source node, core and context, its issuing ASID,
tag and issue time, whether it is a retry, the address in the target's window, the AOP and the operand. -/
structure RemoteAtomic where
  src : BitVec 10
  score : BitVec 8
  sctx : BitVec 3
  asid : BitVec 8
  tag : BitVec 24
  time : BitVec 64
  retry : Bool
  addr : BitVec 44
  op : BitVec 5
  v : BitVec 64
  deriving DecidableEq, Repr, Inhabited

/-- What a flit or a re-sequenced packet delivers (R420, R423). -/
inductive Payload
  | none
  | inbound (src : BitVec 10) (kind : InKind) (addr : BitVec 44) (data : List (BitVec 8))
  | resv (rq : ResvReq)
  | slotWrite (wr : SlotWrite)
  | slotEnd (wr : SlotWrite)
  | notice (core : BitVec 8) (ring : BitVec 6) (w0 w1 : BitVec 64)
  | remoteAtomic (ra : RemoteAtomic)
  | resvReply (core : BitVec 8) (ctx : BitVec 3) (v zh : BitVec 64) (ring : BitVec 6) (port : Option Nat)
  | reply (core : BitVec 8) (ctx : BitVec 3) (status : BitVec 8) (v : BitVec 64) (data : List (BitVec 8))
  | copyReply (core : BitVec 8) (id : Nat) (status : BitVec 8) (bytes : Nat) (fin : Bool)
  | farReply (core : BitVec 8) (id : Nat) (status : BitVec 8) (data : List (BitVec 8))
  | l2 (pa : BitVec 52) (kind : L2Kind) (data : List (BitVec 8))
  | hearth (kind : HKind)
  | replay (seq : BitVec 32)
  deriving DecidableEq, Repr, Inhabited

/-- The operands of a device step or event. Which of them a step reads is said at its meaning. -/
structure EvArg where
  core : BitVec 8
  die : BitVec 2
  port : BitVec 5
  ctx : BitVec 3
  unit : BitVec 12
  sub : BitVec 16
  asid : BitVec 8
  node : BitVec 10
  v : BitVec 64
  w : BitVec 64
  tok : BitVec 48
  toks : List (BitVec 48)
  data : List (BitVec 8)
  words : List (BitVec 64)
  n : Nat
  flag : Bool
  load : Payload
  deriving DecidableEq, Repr, Inhabited

/-- The instructions: one constructor per row of the opcode table. Control-thread forms and ply forms carry
their encoded fields, named as the table names them, and the handler operations carry the handler word's
other fields. The device steps and events have no encoding: their operands stand in `State.sim.arg`, set by
the turn that names the step. -/
inductive Instr
  /-- ADD R231: Sum of the operands modulo 2^64. -/
  | add (p : BitVec 2) (t : BitVec 9) (u : BitVec 9)
  /-- SUB R231: Difference of the operands modulo 2^64. -/
  | sub (p : BitVec 2) (t : BitVec 9) (u : BitVec 9)
  /-- MUL R231: Low 64 bits of the product. -/
  | mul (p : BitVec 2) (t : BitVec 9) (u : BitVec 9)
  /-- MULH R231: High 64 bits of the signed product. -/
  | mulh (p : BitVec 2) (t : BitVec 9) (u : BitVec 9)
  /-- MULHN R231: High 64 bits of the unsigned product. -/
  | mulhn (p : BitVec 2) (t : BitVec 9) (u : BitVec 9)
  /-- ADDS R231: Signed sum saturated to 64 bits. -/
  | adds (p : BitVec 2) (t : BitVec 9) (u : BitVec 9)
  /-- MIN R231: Signed minimum of the operands. -/
  | min (p : BitVec 2) (t : BitVec 9) (u : BitVec 9)
  /-- MAX R231: Signed maximum of the operands. -/
  | max (p : BitVec 2) (t : BitVec 9) (u : BitVec 9)
  /-- MINN R231: Unsigned minimum of the operands. -/
  | minn (p : BitVec 2) (t : BitVec 9) (u : BitVec 9)
  /-- MAXN R231: Unsigned maximum of the operands. -/
  | maxn (p : BitVec 2) (t : BitVec 9) (u : BitVec 9)
  /-- DIVS R232: Signed quotient truncated toward zero, defined for every case. -/
  | divs (p : BitVec 2) (t : BitVec 9) (u : BitVec 9)
  /-- DIVN R232: Unsigned quotient, defined for every case. -/
  | divn (p : BitVec 2) (t : BitVec 9) (u : BitVec 9)
  /-- REMS R232: Signed remainder with the dividend's sign. -/
  | rems (p : BitVec 2) (t : BitVec 9) (u : BitVec 9)
  /-- REMN R232: Unsigned remainder. -/
  | remn (p : BitVec 2) (t : BitVec 9) (u : BitVec 9)
  /-- AND R233: Bitwise AND. -/
  | and (p : BitVec 2) (t : BitVec 9) (u : BitVec 9)
  /-- OR R233: Bitwise OR. -/
  | or (p : BitVec 2) (t : BitVec 9) (u : BitVec 9)
  /-- XOR R233: Bitwise XOR. -/
  | xor (p : BitVec 2) (t : BitVec 9) (u : BitVec 9)
  /-- ANDN R233: a AND NOT b. -/
  | andn (p : BitVec 2) (t : BitVec 9) (u : BitVec 9)
  /-- SHL R234: Left shift by b[5:0]. -/
  | shl (p : BitVec 2) (t : BitVec 9) (u : BitVec 9)
  /-- SHR R234: Logical right shift by b[5:0]. -/
  | shr (p : BitVec 2) (t : BitVec 9) (u : BitVec 9)
  /-- SHA R234: Arithmetic right shift by b[5:0]. -/
  | sha (p : BitVec 2) (t : BitVec 9) (u : BitVec 9)
  /-- ROL R234: Rotate left by b[5:0]. -/
  | rol (p : BitVec 2) (t : BitVec 9) (u : BitVec 9)
  /-- CLZ R235: Count of leading zeros. -/
  | clz (p : BitVec 2) (t : BitVec 9) (u : BitVec 9)
  /-- CTZ R235: Count of trailing zeros. -/
  | ctz (p : BitVec 2) (t : BitVec 9) (u : BitVec 9)
  /-- POPC R235: Count of one bits. -/
  | popc (p : BitVec 2) (t : BitVec 9) (u : BitVec 9)
  /-- MOV R235: Forwards the left operand to two targets. -/
  | mov (p : BitVec 2) (t : BitVec 9) (u : BitVec 9)
  /-- SEXT R236: Sign-extends the low 8, 16 or 32 bits. -/
  | sext (p : BitVec 2) (w : BitVec 2) (t : BitVec 9) (u : BitVec 9)
  /-- ZEXT R236: Zero-extends the low 8, 16 or 32 bits. -/
  | zext (p : BitVec 2) (w : BitVec 2) (t : BitVec 9) (u : BitVec 9)
  /-- ADDI R237: Adds a sign-extended immediate. -/
  | addi (p : BitVec 2) (i : BitVec 14) (t : BitVec 9)
  /-- MULI R237: Multiplies by a sign-extended immediate. -/
  | muli (p : BitVec 2) (i : BitVec 14) (t : BitVec 9)
  /-- ANDI R237: ANDs with a sign-extended immediate. -/
  | andi (p : BitVec 2) (i : BitVec 14) (t : BitVec 9)
  /-- ORI R237: ORs with a zero-extended immediate. -/
  | ori (p : BitVec 2) (i : BitVec 14) (t : BitVec 9)
  /-- XORI R237: XORs with a zero-extended immediate. -/
  | xori (p : BitVec 2) (i : BitVec 14) (t : BitVec 9)
  /-- SHLI R237: Left shift by an immediate count. -/
  | shli (p : BitVec 2) (n : BitVec 6) (t : BitVec 9)
  /-- SHRI R237: Logical right shift by an immediate count. -/
  | shri (p : BitVec 2) (n : BitVec 6) (t : BitVec 9)
  /-- SHAI R237: Arithmetic right shift by an immediate count. -/
  | shai (p : BitVec 2) (n : BitVec 6) (t : BitVec 9)
  /-- BFX R238: Extracts a bit field. -/
  | bfx (p : BitVec 2) (q : BitVec 6) (w : BitVec 6) (t : BitVec 9)
  /-- BFI R238: Inserts the right operand's low bits as a field of the left operand. -/
  | bfi (p : BitVec 2) (q : BitVec 6) (w : BitVec 6) (t : BitVec 9)
  /-- MOVC R239: Delivers a sign-extended 16-bit constant when the block begins. -/
  | movc (c : BitVec 16) (t : BitVec 9)
  /-- MOVH R239: Shifts the left operand 16 bits left and ORs in a constant. -/
  | movh (c : BitVec 16) (t : BitVec 9)
  /-- RDH R240: Reads a hold register as it stood at block start. -/
  | rdh (p : BitVec 2) (h : BitVec 5) (t : BitVec 9) (u : BitVec 9)
  /-- TEQ R241: 1 if the operands are equal. -/
  | teq (p : BitVec 2) (t : BitVec 9) (u : BitVec 9)
  /-- TNE R241: 1 if the operands differ. -/
  | tne (p : BitVec 2) (t : BitVec 9) (u : BitVec 9)
  /-- TLT R241: 1 if a < b, signed. -/
  | tlt (p : BitVec 2) (t : BitVec 9) (u : BitVec 9)
  /-- TLE R241: 1 if a ≤ b, signed. -/
  | tle (p : BitVec 2) (t : BitVec 9) (u : BitVec 9)
  /-- TLTN R241: 1 if a < b, unsigned. -/
  | tltn (p : BitVec 2) (t : BitVec 9) (u : BitVec 9)
  /-- TLEN R241: 1 if a ≤ b, unsigned. -/
  | tlen (p : BitVec 2) (t : BitVec 9) (u : BitVec 9)
  /-- TEQI R242: 1 if a equals the immediate. -/
  | teqi (p : BitVec 2) (i : BitVec 14) (t : BitVec 9)
  /-- TLTI R242: 1 if a is below the immediate, signed. -/
  | tlti (p : BitVec 2) (i : BitVec 14) (t : BitVec 9)
  /-- TLTNI R242: 1 if a is below the immediate, unsigned. -/
  | tltni (p : BitVec 2) (i : BitVec 14) (t : BitVec 9)
  /-- PAND R243: AND of bit 0 of both operands. -/
  | pand (p : BitVec 2) (t : BitVec 9) (u : BitVec 9)
  /-- POR R243: OR of bit 0 of both operands. -/
  | por (p : BitVec 2) (t : BitVec 9) (u : BitVec 9)
  /-- PNOT R243: NOT of bit 0. -/
  | pnot (p : BitVec 2) (t : BitVec 9) (u : BitVec 9)
  /-- LDB R258: Loads a byte, zero-extended. -/
  | ldb (p : BitVec 2) (l : BitVec 5) (i : BitVec 9) (t : BitVec 9)
  /-- LDBS R258: Loads a byte, sign-extended. -/
  | ldbs (p : BitVec 2) (l : BitVec 5) (i : BitVec 9) (t : BitVec 9)
  /-- LDH R258: Loads 2 bytes, zero-extended. -/
  | ldh (p : BitVec 2) (l : BitVec 5) (i : BitVec 9) (t : BitVec 9)
  /-- LDHS R258: Loads 2 bytes, sign-extended. -/
  | ldhs (p : BitVec 2) (l : BitVec 5) (i : BitVec 9) (t : BitVec 9)
  /-- LDW R258: Loads 4 bytes, zero-extended. -/
  | ldw (p : BitVec 2) (l : BitVec 5) (i : BitVec 9) (t : BitVec 9)
  /-- LDWS R258: Loads 4 bytes, sign-extended. -/
  | ldws (p : BitVec 2) (l : BitVec 5) (i : BitVec 9) (t : BitVec 9)
  /-- LDD R258: Loads 8 bytes. -/
  | ldd (p : BitVec 2) (l : BitVec 5) (i : BitVec 9) (t : BitVec 9)
  /-- LDA R259: Acquire load of 8 bytes at a scope. -/
  | lda (p : BitVec 2) (l : BitVec 5) (s : BitVec 3) (t : BitVec 9)
  /-- LDRED R266: Sums one location across the replicas of a group, in replica-index order. -/
  | ldred (p : BitVec 2) (l : BitVec 5) (s : BitVec 3) (t : BitVec 9)
  /-- LDT R260: Loads 8 bytes from a READY tile-table entry's range. -/
  | ldt (p : BitVec 2) (l : BitVec 5) (k : BitVec 8) (t : BitVec 9)
  /-- PRF R261: Prefetches a WB sector into the core cache and never faults. -/
  | prf (p : BitVec 2) (l : BitVec 5) (i : BitVec 9)
  /-- STB R262: Stores a byte at commit. -/
  | stb (p : BitVec 2) (l : BitVec 5) (i : BitVec 18)
  /-- STH R262: Stores 2 bytes at commit. -/
  | sth (p : BitVec 2) (l : BitVec 5) (i : BitVec 18)
  /-- STW R262: Stores 4 bytes at commit. -/
  | stw (p : BitVec 2) (l : BitVec 5) (i : BitVec 18)
  /-- STD R262: Stores 8 bytes at commit. -/
  | std (p : BitVec 2) (l : BitVec 5) (i : BitVec 18)
  /-- STL R263: Release store of 8 bytes at a scope. -/
  | stl (p : BitVec 2) (l : BitVec 5) (s : BitVec 3) (i : BitVec 15)
  /-- STT R260: Stores 8 bytes into a READY tile-table entry's range at commit. -/
  | stt (p : BitVec 2) (l : BitVec 5) (k : BitVec 8)
  /-- SPILLS R264: Stores a range of hold registers to consecutive words, resumable after a fault. -/
  | spills (p : BitVec 2) (l : BitVec 5) (b : BitVec 5) (a : BitVec 5)
  /-- FILLS R264: Loads a range of hold registers from consecutive words, resumable after a fault. -/
  | fills (p : BitVec 2) (l : BitVec 5) (b : BitVec 5) (a : BitVec 5)
  /-- AADD R268: Atomic 64-bit add returning the old value. -/
  | aadd (p : BitVec 2) (l : BitVec 5) (s : BitVec 3) (t : BitVec 9)
  /-- AADDF R268: Atomic FP32 add. -/
  | aaddf (p : BitVec 2) (l : BitVec 5) (s : BitVec 3) (t : BitVec 9)
  /-- AMIN R268: Atomic signed minimum. -/
  | amin (p : BitVec 2) (l : BitVec 5) (s : BitVec 3) (t : BitVec 9)
  /-- AMAX R268: Atomic signed maximum. -/
  | amax (p : BitVec 2) (l : BitVec 5) (s : BitVec 3) (t : BitVec 9)
  /-- AMINN R268: Atomic unsigned minimum. -/
  | aminn (p : BitVec 2) (l : BitVec 5) (s : BitVec 3) (t : BitVec 9)
  /-- AMAXN R268: Atomic unsigned maximum. -/
  | amaxn (p : BitVec 2) (l : BitVec 5) (s : BitVec 3) (t : BitVec 9)
  /-- AAND R268: Atomic AND. -/
  | aand (p : BitVec 2) (l : BitVec 5) (s : BitVec 3) (t : BitVec 9)
  /-- AOR R268: Atomic OR. -/
  | aor (p : BitVec 2) (l : BitVec 5) (s : BitVec 3) (t : BitVec 9)
  /-- AXOR R268: Atomic XOR. -/
  | axor (p : BitVec 2) (l : BitVec 5) (s : BitVec 3) (t : BitVec 9)
  /-- ASWP R268: Atomic swap. -/
  | aswp (p : BitVec 2) (l : BitVec 5) (s : BitVec 3) (t : BitVec 9)
  /-- ACAS R268: Atomic 32-bit compare and swap. -/
  | acas (p : BitVec 2) (l : BitVec 5) (s : BitVec 3) (t : BitVec 9)
  /-- AINC R268: Atomic ring-index increment that wraps at b. -/
  | ainc (p : BitVec 2) (l : BitVec 5) (s : BitVec 3) (t : BitVec 9)
  /-- FENCE R271: Release then acquire at a scope on the CT path. -/
  | fence (p : BitVec 2) (l : BitVec 5) (s : BitVec 3) (t : BitVec 9)
  /-- XFENCE R273: Orders accesses of the source paths before accesses of the destination paths at a scope. -/
  | xfence (p : BitVec 2) (l : BitVec 5) (f : BitVec 8) (g : BitVec 7) (s : BitVec 3)
  /-- SBAR R274: Cuts the named AGU streams and orders the accesses before the cut ahead of those after it. -/
  | sbar (p : BitVec 2) (l : BitVec 5) (a : BitVec 1) (g : BitVec 2)
  /-- ABAR R275: Barrier of the SU path over the named SUUs. -/
  | abar (p : BitVec 2) (l : BitVec 5) (m : BitVec 8)
  /-- WBAR R272: Release without a store; later stores wait until earlier accesses are visible. -/
  | wbar (p : BitVec 2) (l : BitVec 5) (s : BitVec 3)
  /-- TBAR R276: Holds until a tile-table entry reaches the named state. -/
  | tbar (p : BitVec 2) (l : BitVec 5) (q : BitVec 2) (k : BitVec 8)
  /-- YIELD R277: At commit, gives up the frame if another context is READY. -/
  | yield (p : BitVec 2) (t : BitVec 9) (u : BitVec 9)
  /-- WFE R278: At commit, consumes EVF or waits without a frame until it is set. -/
  | wfe (p : BitVec 2) (t : BitVec 9) (u : BitVec 9)
  /-- SEV R278: At commit, releases at .m and sets a target context's EVF. -/
  | sev (p : BitVec 2) (t : BitVec 9) (u : BitVec 9)
  /-- NWRITE R279: Release at .f, then a doorbell store to a DEV page. -/
  | nwrite (p : BitVec 2) (l : BitVec 5) (z : BitVec 1)
  /-- QRSV R285: Opens a record of the given weight in a queue, judged at once. -/
  | qrsv (p : BitVec 2) (n : BitVec 6) (t : BitVec 9)
  /-- QPUSH R285: Ends the context's write at commit, making the open record readable. -/
  | qpush (p : BitVec 2) (n : BitVec 6) (t : BitVec 9)
  /-- QWAIT R286: Waits until n entries of a view are readable, then claims them. -/
  | qwait (p : BitVec 2) (v : BitVec 2) (n : BitVec 6) (t : BitVec 9)
  /-- QPOP R286: Reads one token of a claimed entry without moving anything. -/
  | qpop (p : BitVec 2) (v : BitVec 2) (n : BitVec 6) (t : BitVec 9)
  /-- QADV R286: At commit, removes up to n claimed entries from the view. -/
  | qadv (p : BitVec 2) (v : BitVec 2) (n : BitVec 6) (t : BitVec 9)
  /-- QPADV R286: Claims up to n readable entries without waiting. -/
  | qpadv (p : BitVec 2) (v : BitVec 2) (n : BitVec 6) (t : BitVec 9)
  /-- QPOL R287: Changes a queue's overload policy from its next arrival. -/
  | qpol (p : BitVec 2) (n : BitVec 6) (t : BitVec 9)
  /-- QSTAT R286: Reads a word of the view block, the header or CLM. -/
  | qstat (p : BitVec 2) (v : BitVec 2) (n : BitVec 6) (t : BitVec 9)
  /-- QGAP R285: Places a producer's GAP marker. -/
  | qgap (p : BitVec 2) (n : BitVec 6) (t : BitVec 9)
  /-- QMARK R285: Places a MARK marker of an id. -/
  | qmark (p : BitVec 2) (n : BitVec 6) (t : BitVec 9)
  /-- RWAIT R289: Waits until n ring entries are written, then returns RD with an acquire. -/
  | rwait (p : BitVec 2) (n : BitVec 6) (t : BitVec 9)
  /-- RREL R289: Frees up to n ring entries at commit. -/
  | rrel (p : BitVec 2) (n : BitVec 6) (t : BitVec 9)
  /-- SOPEN R291: Opens an AGU stream from a descriptor. -/
  | sopen (p : BitVec 2) (l : BitVec 5) (s : BitVec 8) (t : BitVec 9)
  /-- SCLOSE R291: Completes when every access of the stream is performed and returns its counts. -/
  | sclose (p : BitVec 2) (l : BitVec 5) (s : BitVec 8) (t : BitVec 9)
  /-- SSEEK R292: Moves a stream's next access to element k at commit. -/
  | sseek (p : BitVec 2) (s : BitVec 8) (t : BitVec 9)
  /-- SHAND R293: Flushes an owned range and advances its owner at commit. -/
  | shand (p : BitVec 2) (o : BitVec 4) (t : BitVec 9)
  /-- CFGLD R295: Loads a region's configuration section for the core into a graph slot. -/
  | cfgld (p : BitVec 2) (g : BitVec 2) (t : BitVec 9)
  /-- CFGSH R296: Loads the shadow handler tables of a slot. -/
  | cfgsh (p : BitVec 2) (g : BitVec 2) (t : BitVec 9)
  /-- RGO R297: Enables the slot's elements, places initial tokens and starts the segment count. -/
  | rgo (p : BitVec 2) (g : BitVec 2) (t : BitVec 9)
  /-- RDRAIN R297: Holds until the region's work on the core has ended after a final wave. -/
  | rdrain (p : BitVec 2) (g : BitVec 2) (t : BitVec 9)
  /-- RSTAT R298: Reads stream counts, the RCB status or the wave state. -/
  | rstat (p : BitVec 2) (q : BitVec 6) (k : BitVec 8) (t : BitVec 9)
  /-- RMARK R297: Starts a marker wave at the region's sources on the core. -/
  | rmark (p : BitVec 2) (g : BitVec 2) (t : BitVec 9)
  /-- RROLL R297: Requests rollback of the region to its last complete wave. -/
  | rroll (p : BitVec 2) (g : BitVec 2) (t : BitVec 9)
  /-- BANKM R299: Requests a bank mode and interleave change. -/
  | bankm (p : BitVec 2) (l : BitVec 5) (b : BitVec 5) (t : BitVec 9)
  /-- TTSET_DEFINE R54: Defines a tile-table entry's range. -/
  | ttsetDefine (p : BitVec 2) (k : BitVec 8) (t : BitVec 9)
  /-- TTSET_UNDEFINE R54: Undefines an EMPTY tile-table entry. -/
  | ttsetUndefine (p : BitVec 2) (k : BitVec 8) (t : BitVec 9)
  /-- TTSET_FILL R55: Fill begin: EMPTY to FILLING. -/
  | ttsetFill (p : BitVec 2) (k : BitVec 8) (t : BitVec 9)
  /-- TTSET_READY R55: Fill end: FILLING to READY. -/
  | ttsetReady (p : BitVec 2) (k : BitVec 8) (t : BitVec 9)
  /-- TTSET_ABORT R55: Fail: FILLING to EMPTY with GEN + 1. -/
  | ttsetAbort (p : BitVec 2) (k : BitVec 8) (t : BitVec 9)
  /-- TTSET_DRAIN R55: Drain request on a READY entry. -/
  | ttsetDrain (p : BitVec 2) (k : BitVec 8) (t : BitVec 9)
  /-- TTSET_EMPTY R55: Release: DRAINING to EMPTY with GEN + 1. -/
  | ttsetEmpty (p : BitVec 2) (k : BitVec 8) (t : BitVec 9)
  /-- TTQ R300: Reads half of a tile-table entry. -/
  | ttq (p : BitVec 2) (w : BitVec 1) (k : BitVec 8) (t : BitVec 9)
  /-- CPARM R303: Arms a copy template, taking its GENs and slot. -/
  | cparm (p : BitVec 2) (t : BitVec 9) (u : BitVec 9)
  /-- CPGO R303: Fires an armed template once with an index. -/
  | cpgo (p : BitVec 2) (t : BitVec 9) (u : BitVec 9)
  /-- CPDIS R303: Disarms a template. -/
  | cpdis (p : BitVec 2) (t : BitVec 9) (u : BitVec 9)
  /-- MXTASK R305: Submits a tile-task record to the Arbiter or to the local island. -/
  | mxtask (p : BitVec 2) (t : BitVec 9) (u : BitVec 9)
  /-- COLL R306: Starts a collective over a replica group. -/
  | coll (p : BitVec 2) (t : BitVec 9) (u : BitVec 9)
  /-- ZRES R127: Requests a landing slot reservation or join, and waits for the reply. -/
  | zres (p : BitVec 2) (t : BitVec 9) (u : BitVec 9)
  /-- ZREL R136: Releases a READY slot, or aborts a FILLING one. -/
  | zrel (p : BitVec 2) (t : BitVec 9) (u : BitVec 9)
  /-- ZBAR R132: Arms a slot's arrival barrier. -/
  | zbar (p : BitVec 2) (t : BitVec 9) (u : BitVec 9)
  /-- ZANNO R126: Defines or undefines a landing zone. -/
  | zanno (p : BitVec 2) (t : BitVec 9) (u : BitVec 9)
  /-- LAUNCH R309: Release at .m and admission of a child region at depth + 1. -/
  | launch (p : BitVec 2) (t : BitVec 9) (u : BitVec 9)
  /-- TENQ R310: Inserts an entry into the task heap. -/
  | tenq (p : BitVec 2) (t : BitVec 9) (u : BitVec 9)
  /-- TDEQ R310: Removes a near-smallest heap entry, or returns nulls when the heap is empty. -/
  | tdeq (p : BitVec 2) (t : BitVec 9) (u : BitVec 9)
  /-- SCHNEXT R310: Returns the next schedule-table value and advances the cursor at commit. -/
  | schnext (p : BitVec 2) (t : BitVec 9) (u : BitVec 9)
  /-- LAUNCH_PARK R309: As launch, but waits parked when no pool slot is free. -/
  | launchPark (p : BitVec 2) (t : BitVec 9) (u : BitVec 9)
  /-- TDEQ_PARK R310: As tdeq, but waits when the heap is empty. -/
  | tdeqPark (p : BitVec 2) (t : BitVec 9) (u : BitVec 9)
  /-- ACOPEN R109: Defines or undefines an accumulator set. -/
  | acopen (p : BitVec 2) (t : BitVec 9) (u : BitVec 9)
  /-- ACADD R311: One row add of one element. -/
  | acadd (p : BitVec 2) (t : BitVec 9) (u : BitVec 9)
  /-- ACSCOPE R116: Closes an add-scope, as a memory token. -/
  | acscope (p : BitVec 2) (t : BitVec 9) (l : BitVec 5)
  /-- ACNORM R312: Issues a temper read, delivered to targets or to a queue. -/
  | acnorm (p : BitVec 2) (t : BitVec 9) (u : BitVec 9)
  /-- ACEVICT R119: Writes a row image to memory, optionally closing the row. -/
  | acevict (p : BitVec 2) (t : BitVec 9) (u : BitVec 9)
  /-- ACLOAD R120: Reloads a row from an image. -/
  | acload (p : BitVec 2) (t : BitVec 9) (u : BitVec 9)
  /-- BR R245: Exit to a block at a relative offset. -/
  | br (p : BitVec 2) (e : BitVec 3) (o : BitVec 20)
  /-- CALL R245: Relative exit that pushes the return address at commit. -/
  | call (p : BitVec 2) (e : BitVec 3) (o : BitVec 20)
  /-- BRT R246: Exit to the address in the left operand. -/
  | brt (p : BitVec 2) (e : BitVec 3)
  /-- CALLT R246: Exit to the left operand, pushing the return address. -/
  | callt (p : BitVec 2) (e : BitVec 3)
  /-- RET R248: Exit to the popped link-stack entry. -/
  | ret (p : BitVec 2) (e : BitVec 3)
  /-- SEL R250: Forwards whichever of its inputs arrives first. -/
  | sel (p : BitVec 2) (t : BitVec 9) (u : BitVec 9)
  /-- NULLW R251: Sends null writes to its targets. -/
  | nullw (p : BitVec 2) (t : BitVec 9) (u : BitVec 9)
  /-- NULLS R252: Completes an LSID as a null token. -/
  | nulls (p : BitVec 2) (t : BitVec 9) (l : BitVec 5)
  /-- TRAP R314: Software trap of class TRAP at commit. -/
  | trap (p : BitVec 2)
  /-- SYSC R314: Software trap of class SYSC at commit. -/
  | sysc (p : BitVec 2)
  /-- RDSR R313: Reads a system register at firing. -/
  | rdsr (p : BitVec 2) (t : BitVec 9) (r : BitVec 8)
  /-- WRSR R313: Writes a system register at commit. -/
  | wrsr (p : BitVec 2) (t : BitVec 9) (r : BitVec 8)
  /-- RDTIME R314: Returns the GTSC at firing. -/
  | rdtime (p : BitVec 2) (t : BitVec 9) (u : BitVec 9)
  /-- ERET R381: Resumes a trapped context at the block its FLTREC names. -/
  | eret (p : BitVec 2)
  /-- HALT R314: The context becomes FREE at commit. -/
  | halt (p : BitVec 2)
  /-- BRK R314: Halts the region for a debugger, or traps with BRK. -/
  | brk (p : BitVec 2)
  /-- IDLE R314: Privileged wait until EVF is set or L mc pass. -/
  | idle (p : BitVec 2) (t : BitVec 9) (u : BitVec 9)
  /-- SETCTX R314: Starts a FREE context under an ASID at a block. -/
  | setctx (p : BitVec 2) (t : BitVec 9) (u : BitVec 9)
  /-- INVAL R29: Invalidates translations of the given kind and holds until done. -/
  | inval (p : BitVec 2) (t : BitVec 9) (u : BitVec 9)
  /-- KILL R394: Runs the kill sequence of an ASID. -/
  | kill (p : BitVec 2) (t : BitVec 9) (u : BitVec 9)
  /-- DSNAP R33: Returns and clears a dirty-bitmap word, removing the W entries it covers. -/
  | dsnap (p : BitVec 2) (t : BitVec 9) (u : BitVec 9)
  /-- PLY_SEND R413: Places a STEP observation from the window. -/
  | plySend (b : BitVec 5) (a : BitVec 5) (d : BitVec 5)
  /-- PLY_RECV R414: Delivers the oldest action, or raises WAITACT when none waits. -/
  | plyRecv (b : BitVec 5) (a : BitVec 5) (d : BitVec 5)
  /-- PLY_POLL R412: Returns the number of accepted, undelivered actions. -/
  | plyPoll (b : BitVec 5) (a : BitVec 5) (d : BitVec 5)
  /-- PLY_TAG R412: Returns the stored PTAG. -/
  | plyTag (b : BitVec 5) (a : BitVec 5) (d : BitVec 5)
  /-- PLY_FLAG R412: Arms or disarms the flag-fall budget. -/
  | plyFlag (b : BitVec 5) (a : BitVec 5) (d : BitVec 5)
  /-- PLY_END R412: Places an END observation and makes the episode DEAD. -/
  | plyEnd (b : BitVec 5) (a : BitVec 5) (d : BitVec 5)
  /-- PLY_RWD R412: Places a REWARD observation. -/
  | plyRwd (b : BitVec 5) (a : BitVec 5) (d : BitVec 5)
  /-- IADD R332: Handler: 32-bit integer add. -/
  | iadd (h : HWord)
  /-- ISUB R332: Handler: 32-bit integer subtract. -/
  | isub (h : HWord)
  /-- IMUL R332: Handler: 32-bit integer multiply. -/
  | imul (h : HWord)
  /-- IMULH R332: Handler: high half of the signed product. -/
  | imulh (h : HWord)
  /-- IAND R332: Handler: bitwise AND. -/
  | iand (h : HWord)
  /-- IOR R332: Handler: bitwise OR. -/
  | ior (h : HWord)
  /-- IXOR R332: Handler: bitwise XOR. -/
  | ixor (h : HWord)
  /-- ISHL R332: Handler: left shift. -/
  | ishl (h : HWord)
  /-- ISHR R332: Handler: logical right shift. -/
  | ishr (h : HWord)
  /-- ISHA R332: Handler: arithmetic right shift. -/
  | isha (h : HWord)
  /-- IMIN R332: Handler: signed minimum. -/
  | imin (h : HWord)
  /-- IMAX R332: Handler: signed maximum. -/
  | imax (h : HWord)
  /-- IEQ R332: Handler: integer equality test. -/
  | ieq (h : HWord)
  /-- ILT R332: Handler: signed less-than test. -/
  | ilt (h : HWord)
  /-- ILTN R332: Handler: unsigned less-than test. -/
  | iltn (h : HWord)
  /-- ISEL R332: Handler: a if c[0] else b. -/
  | isel (h : HWord)
  /-- FADD R333: Handler: XF42 add. -/
  | fadd (h : HWord)
  /-- FSUB R333: Handler: XF42 subtract. -/
  | fsub (h : HWord)
  /-- FMUL R333: Handler: XF42 multiply. -/
  | fmul (h : HWord)
  /-- FMA R333: Handler: fused multiply-add with one rounding. -/
  | fma (h : HWord)
  /-- FMIN R333: Handler: XF42 minimum. -/
  | fmin (h : HWord)
  /-- FMAX R333: Handler: XF42 maximum. -/
  | fmax (h : HWord)
  /-- FNEG R333: Handler: sign negation. -/
  | fneg (h : HWord)
  /-- FABS R333: Handler: absolute value. -/
  | fabs (h : HWord)
  /-- FRCP R329: Handler: correctly rounded reciprocal, four mc. -/
  | frcp (h : HWord)
  /-- FRSQ R329: Handler: correctly rounded reciprocal square root. -/
  | frsq (h : HWord)
  /-- FEXP2 R329: Handler: correctly rounded 2^x. -/
  | fexp2 (h : HWord)
  /-- FLOG2 R329: Handler: correctly rounded log2. -/
  | flog2 (h : HWord)
  /-- FEQ R333: Handler: XF42 equality test. -/
  | feq (h : HWord)
  /-- FLT R333: Handler: XF42 less-than test. -/
  | flt (h : HWord)
  /-- FSEL R333: Handler: a when c is non-NaN and positive, else b. -/
  | fsel (h : HWord)
  /-- CVIF R334: Handler: integer to XF42, exactly. -/
  | cvif (h : HWord)
  /-- CVFI R334: Handler: XF42 to a saturated integer. -/
  | cvfi (h : HWord)
  /-- PASS R335: Handler: forwards a token unchanged apart from CH. -/
  | pass (h : HWord)
  /-- DUP R335: Handler: forwards a data token n times. -/
  | dup (h : HWord)
  /-- CNT R342: Handler: weighted record count, emitted at EOT. -/
  | cnt (h : HWord)
  /-- GATE R338: Handler: forwards values by predicate or by steering token. -/
  | gate (h : HWord)
  /-- TSEL R335: Handler: forwards the head of the queue that c chooses. -/
  | tsel (h : HWord)
  /-- MERGE R337: Handler: merges two coordinate streams in order. -/
  | merge (h : HWord)
  /-- ISECT R337: Handler: intersection steering of two coordinate streams. -/
  | isect (h : HWord)
  /-- UNION R337: Handler: union steering of two coordinate streams. -/
  | union (h : HWord)
  /-- STOPCK R339: Handler: checks STOP levels against a limit. -/
  | stopck (h : HWord)
  /-- SWAP R340: Handler: emits a SWAP token. -/
  | swap (h : HWord)
  /-- MARK R340: Handler: emits a MARK and takes the element snapshot. -/
  | mark (h : HWord)
  /-- HAND R340: Handler: emits a HAND token for an ownership entry. -/
  | hand (h : HWord)
  /-- ACC R341: Handler: accumulates into st0 and releases at a trigger. -/
  | acc (h : HWord)
  /-- ACCW R342: Handler: weighted accumulation, optionally the mean. -/
  | accw (h : HWord)
  /-- BFLY R343: Handler: butterfly sum and difference in two firings. -/
  | bfly (h : HWord)
  /-- WMUL R344: Handler: multiplies a value by the record weight. -/
  | wmul (h : HWord)
  /-- GAPW R344: Handler: replaces a GAP pair with its weight token. -/
  | gapw (h : HWord)
  /-- WIDEN R166: Handler: cuts and releases the subgraph's streams at a scope, then forwards the token. -/
  | widen (h : HWord)
  /-- CMPD R345: Handler: compares duplicated tokens and raises DUPMIS on a mismatch. -/
  | cmpd (h : HWord)
  /-- JOIN R346: Handler: keyed join of two record streams. -/
  | join (h : HWord)
  /-- WIN R347: Handler: weighted window that closes by weight, gap or EOT. -/
  | win (h : HWord)
  /-- MXNODE R348: Handler: matrix-island A-feed or result port. -/
  | mxnode (h : HWord)
  /-- CPNODE R349: Handler: fires a copy template per data token. -/
  | cpnode (h : HWord)
  /-- CLNODE R349: Handler: combines tokens across a replica group at a collective point. -/
  | clnode (h : HWord)
  /-- ASID_ENABLE R11: A descriptor write that sets V from 0 to 1 increments GEN and removes every translation and walk-cache entry of the ASID on all dies. -/
  | asidEnable
  /-- ASID_DISABLE R11: A descriptor write that clears V makes later translations under the ASID fail with NOCTX; already-translated accesses go on to complete. -/
  | asidDisable
  /-- ASID_DISABLE_DRAINED R11: The V-clearing write is acknowledged once each translated access has been performed, or once the 500 µs link wait has run out. -/
  | asidDisableDrained
  /-- REGISTER_WRITE R6: A write to a device register that has no behaviour of its own, applied by the access codes of its field map and kept identical on all dies where R12 applies. -/
  | registerWrite
  /-- INBOUND_REQUEST R18: An inbound request reaches a receiving port; the lowest matching inbound window admits it and stamps it with the window's ASID and GEN, and an unmatched request is refused. -/
  | inboundRequest
  /-- WALKER_QUOTA_WRITE R27: A write to a tenant's walker-quota register; it is refused and sets QERR when the MIN and MAX limits would be broken. -/
  | walkerQuotaWrite
  /-- WALK_SLOT_GRANT R27: A free walk slot goes to a pending walk request under the MIN, MAX and age rules. -/
  | walkSlotGrant
  /-- WALK_COMPLETE R22: A page-table walk ends with a translation status; on success its entry is installed, unless an invalidation intervened, and a held stream refill is released. -/
  | walkComplete
  /-- DIRTY_TRACKING_WRITE R32: A write to a tenant's dirty-tracking descriptor; setting ON removes every entry of the tenant that grants W. -/
  | dirtyTrackingWrite
  /-- INVALIDATION_COMPLETE R29: An invalidation completes once every matching entry is removed and every access translated through those entries has been performed. -/
  | invalidationComplete
  /-- BANK_PORT_GRANT R36: A bank port grants one pending request in its round-robin order and performs it. -/
  | bankPortGrant
  /-- BANK_CHANGE_REACH R41: An accepted bank change reaches a bank: the bank's coalescing units are flushed, BUSY becomes 1, queued stores drain under the old mapping, and CACHE contents are written back. -/
  | bankChangeReach
  /-- BANK_CHANGE_COMPLETE R42: A bank's clear and mode change end; BUSY clears and the held accesses are performed under the new mode. -/
  | bankChangeComplete
  /-- CORE_CACHE_FILL R45: A missed sector arrives from the home L2 and fills a way of the core cache, evicting a line when no way is free. -/
  | coreCacheFill
  /-- L2_ACCESS R48: An access is performed at its home L2: a hit, an allocation, a UC access or an atomic read-modify-write. -/
  | l2Access
  /-- L2_FILL_COMPLETE R48: A sector read from DRAM arrives and fills the L2 line. -/
  | l2FillComplete
  /-- TILE_ENGINE_WRITE R57: An engine or inbound write aimed at a tile-table entry is performed only when the entry is FILLING with a matching GEN; otherwise it is dropped, DROPW increases and STALE is recorded. -/
  | tileEngineWrite
  /-- TILE_REF_ISSUE R56: A held instruction that names a tile issues once its entry is READY with DRQ = 0, and USE increases. -/
  | tileRefIssue
  /-- QUEUE_RECORD_ARRIVAL R67: A REC reaches a queue and is judged in each view, either admitted plainly or judged by the view's overload policy, with shed-log entries written. -/
  | queueRecordArrival
  /-- QUEUE_DATA_TOKEN R63: A data token reaches a queue; it joins the open record, opens a record of weight 1.0, or withdraws an overlong record. -/
  | queueDataToken
  /-- QUEUE_MARKER_ARRIVAL R65: A marker reaches a queue; it ends any streak and is placed in every view, or counted in MKOVF when no slot is free. -/
  | queueMarkerArrival
  /-- SPILL_REFILL R72: The oldest spill-ring entry moves into the view's slots while OCC < C, and SPL clears when the ring empties. -/
  | spillRefill
  /-- ROW_ADD R112: The add port applies one row add element by element, keeping S and SX exact and setting OVF or NF. -/
  | rowAdd
  /-- TEMPER_READ R114: Once its required scopes are closed, a temper read snapshots a row and delivers normalised tokens. -/
  | temperRead
  /-- ADD_SCOPE_CLOSE R116: acscope is performed at the add port after the earlier adds of its scope, and clears OPN[s] or returns STREAMOPEN. -/
  | addScopeClose
  /-- RESERVATION_REQUEST R128: A zres request reaches the receiving core, which decides it and grants a slot, joins a slot or refuses. -/
  | reservationRequest
  /-- RESERVATION_REPLY R129: A zres reply reaches the sender; an OK reply makes a reservation-table entry and zres completes. -/
  | reservationReply
  /-- SLOT_WRITE_ARRIVAL R131: A write aimed at a landing slot is checked against the inbound window, GEN and bounds, reduced or held in the reorder store, and counted in FILLB. -/
  | slotWriteArrival
  /-- SLOT_END_TOKEN R131: A copy's end token reaches a slot, increases CA and advances NSEQ, or is dropped as stale. -/
  | slotEndToken
  /-- PHASE_NOTICE_ARRIVAL R133: A phase notice reaches the holder's port, which writes it to the holder's ring and removes the reservation entry. -/
  | phaseNoticeArrival
  /-- RESERVATION_TIMEOUT R136: The slot's reservation timeout expires while it is FILLING; the slot fails with TIMEOUT and notices are sent. -/
  | reservationTimeout
  /-- LANDING_QUOTA_WRITE R130: A write to a landing-quota register; it is refused and sets QERR when ΣRMAX would exceed 4,096. -/
  | landingQuotaWrite
  /-- LINK_DOWN R137: A port loses lane lock and starts its 50 µs retrain window. -/
  | linkDown
  /-- RETRAIN_WINDOW_EXPIRY R137: The retrain window ends without a retrain; FILLING slots held through the port fail, copies and reservations end with LINK_LOST, and remote replies become INDET. -/
  | retrainWindowExpiry
  /-- LINK_RETRAINED R420: A link retrains within its window; unacknowledged flits are replayed and RETR increases. -/
  | linkRetrained
  /-- AGU_STREAM_ACCESS R146: An AGU stream performs its next access in stream order, converting formats and applying chain, ownership and translation rules. -/
  | aguStreamAccess
  /-- COALESCE_IDLE_FLUSH R153: A coalescing unit that no write has entered for 64 mc is flushed into its bank port queue. -/
  | coalesceIdleFlush
  /-- HAND_TOKEN R156: A HAND token reaches the current owner node, which flushes the range and passes ownership on. -/
  | handToken
  /-- REMOTE_ATOMIC_ARRIVAL R169: A remote atomic reaches its receiving port and is dropped, replayed, refused or performed, with a replay-cache entry made. -/
  | remoteAtomicArrival
  /-- REPLAY_ENTRY_EXPIRY R169: A replay-cache entry's 1 ms lifetime ends and the entry is removed. -/
  | replayEntryExpiry
  /-- REMOTE_REPLY R256: The reply to a remote access or atomic arrives and completes the access with its status. -/
  | remoteReply
  /-- REMOTE_REPLY_TIMEOUT R170: No reply has arrived 500 µs after issue; the access completes INDET and an atomic is recorded in the indeterminate table. -/
  | remoteReplyTimeout
  /-- REPLAY_QUOTA_WRITE R171: A write to a replay-quota register; it is refused and sets QERR when ΣRMAX would exceed 4,096. -/
  | replayQuotaWrite
  /-- NOTIFY_PAGE_ENABLE R193: A write that sets V of a notify page clears HEAD and TAIL, or leaves V at 0 when TEN or LOGN is wrong. -/
  | notifyPageEnable
  /-- DOORBELL_WRITE R194: A doorbell write to TAIL is decided as OK, NOTIFYOFF, BACKWARD or OVERRUN and completes at once. -/
  | doorbellWrite
  /-- ADMIT_REGION R182: A REGION task record is read and its RCB chain checked and resolved; the region enters the Arbiter queue. -/
  | admitRegion
  /-- ADMIT_TILE R195: A TILE task record is read, its tile-task record copied, and the task enters the Arbiter queue. -/
  | admitTile
  /-- ADMIT_HEAP R195: A HEAP task record inserts a key and value into the tenant's heap on the named die, or returns FULL. -/
  | admitHeap
  /-- ADMIT_EVENT R195: An EVENT task record sets the named context's EVF after the release of its admission. -/
  | admitEvent
  /-- SCHED_QUOTA_WRITE R196: A write to a scheduling-quota register; it is refused and sets QERR when a pool sum or the LMAX range is broken. -/
  | schedQuotaWrite
  /-- ARBITER_PLACE_REGION R197: The Arbiter places an eligible region at the origin with the best TALW sum and reserves its graph slots. -/
  | arbiterPlaceRegion
  /-- ARBITER_PLACE_TILE R197: The Arbiter places an eligible tile task on the free eligible core with the highest TALW. -/
  | arbiterPlaceTile
  /-- ARBITER_COUNTER_POLL R197: The Arbiter re-reads a waiting dependence counter, at least every 256 mc. -/
  | arbiterCounterPoll
  /-- FRAME_ALLOCATE R191: A free block frame goes to the READY context of highest priority, then the one READY longest. -/
  | frameAllocate
  /-- FRAME_SURRENDER R191: A block HELD for 256 mc, with another context READY, gives up its frame and is abandoned. -/
  | frameSurrender
  /-- BLOCK_FETCH R207: A block is fetched and checked for translation, header, checksum and instruction words before it starts. -/
  | blockFetch
  /-- BLOCK_COMMIT R208: A block with all its LSIDs, hold writes and one exit commits its stores, hold writes, queue writes and exit together. -/
  | blockCommit
  /-- SEGMENT_BUDGET_EXPIRY R393: A segment reaches SEGB; the region is rolled back to its last complete wave and pre-empted. -/
  | segmentBudgetExpiry
  /-- CHANNEL_PULL R187: Each mc a consumer pulls a pending result token into an input queue that held fewer than two tokens. -/
  | channelPull
  /-- STALEMATE_CHECK R202: After 4,096 mc without progress the detector examines blocked nodes and raises STALEMATE unless an outward wait exists. -/
  | stalemateCheck
  /-- STALLOUT R202: The count of waits on unbounded objects reaches 2^24 mc and the NOTE error STALLOUT is raised. -/
  | stallout
  /-- ELEMENT_SWAP R203: Once swap tokens have arrived on all its FIRE queues, an element exchanges its active and shadow tables and emits swap tokens. -/
  | elementSwap
  /-- WAIT_RELEASE R281: The condition of a context in WAIT or PARKED comes to hold; the context becomes READY and re-executes its block. -/
  | waitRelease
  /-- IDLE_TIMEOUT R314: The L mc of an idle wait pass and the context becomes READY. -/
  | idleTimeout
  /-- COPY_TRIGGER_RECORD R301: An armed template reads a TRIGQ record and fires one copy with the record's index; ARM clears at LIM. -/
  | copyTriggerRecord
  /-- COPY_COMPLETE R302: A copy ends and writes its record to its ring; with REL, an OK copy releases its source entry. -/
  | copyComplete
  /-- MATRIX_TASK_COMPLETE R305: A tile task ends: C is made visible at .m, FIN is decremented, and the ring record is written. -/
  | matrixTaskComplete
  /-- COLLECTIVE_COMPLETE R306: A collective ends with OK or LINK_LOST and writes its KIND 0x03 record. -/
  | collectiveComplete
  /-- CFGLD_COMPLETE R295: A configuration load finishes writing banks, handlers and objects, or stops at its first refusal and fails the launch. -/
  | cfgldComplete
  /-- REGION_DRAIN_COMPLETE R297: A region's work on a core has ended and its final wave has completed; rdrain returns, and RST passes to DONE once every core has drained. -/
  | regionDrainComplete
  /-- MARKER_WAVE_COMPLETE R386: A wave's MARK has reached every sink and all its snapshots are written; HV flips and the gate opens. -/
  | markerWaveComplete
  /-- REGION_ROLLBACK R389: A region stops, discards uncompleted gated copies, restores half HV, and restarts with its streams replaying. -/
  | regionRollback
  /-- REGION_PREEMPT R391: At a segment boundary the region's running state is saved to the save block and RST becomes PREEMPTED. -/
  | regionPreempt
  /-- KILL_DRAIN_COMPLETE R394: Every drain of a kill has been acknowledged; the ASID's objects are cleared, its regions reach KILLED, and kill returns. -/
  | killDrainComplete
  /-- FAULT_WINDOW_WRITE R380: An ASID 0 write to a context's fault window takes effect only while the context is trapped, and a write to word 1 clears PV. -/
  | faultWindowWrite
  /-- DEBUG_HALT R395: Setting HALT in DBGA, or a committed brk while attached, halts the slot's elements and contexts and sends inbound arrivals to the debug area. -/
  | debugHalt
  /-- DEBUG_RESUME R395: Clearing HALT resumes the slot. -/
  | debugResume
  /-- DEBUG_AREA_REFILL R395: After a resume, a debug-area entry returns to its view ahead of later arrivals, at up to one per mc. -/
  | debugAreaRefill
  /-- HISTOGRAM_SAVE R397: Every 10 ms the management controller copies the mismatch histograms to non-volatile storage. -/
  | histogramSave
  /-- EPISODE_BIND R404: A write that sets V of an episode entry binds the mailbox after its checks, or leaves V at 0 with BERR set. -/
  | episodeBind
  /-- EPISODE_UNBIND R404: A write that clears V ends the episode as a kill without a KILLED record, and the entry becomes FREE. -/
  | episodeUnbind
  /-- HEARTH_WINDOW_ACCESS R405: A U-mode access is relocated into the current episode's window, or raises an access fault; a write bearing a stale KGEN is dropped. -/
  | hearthWindowAccess
  /-- ACTION_RECORD_ACCEPT R408: The mailbox reads one AQ record, checks it, assigns ASEQ, and frees the acknowledged observation slots. -/
  | actionRecordAccept
  /-- FLAG_FALL R416: FLAG reaches 0 during an interval; the episode becomes DEAD, KGEN increments, a KILLED observation is placed, and FLAGFALL is raised. -/
  | flagFall
  /-- NODEID_WRITE R418: A write to NODEID sets the device's node number; a write of 0x3FF is ignored. -/
  | nodeidWrite
  /-- PORT_ENABLE R419: Setting EN trains the port anew, with four lanes. -/
  | portEnable
  /-- PORT_DISABLE R419: Clearing EN on a trained port takes the link down at once, runs the R137 actions with no window, and increases DOWN. -/
  | portDisable
  /-- PORT_MODE_SET R419: A write of MODE while EN = 0 selects NATIVE, UALINK or UEC; other MODE writes are ignored. -/
  | portModeSet
  /-- FLIT_RECEIVE R420: A native flit arrives; a CRC or sequence failure refuses it and starts a replay, and otherwise its payload is delivered in sequence. -/
  | flitReceive
  /-- TIME_SYNC_TICK R421: Every 1 µs a trained port exchanges time flits, and the GTSC slews toward the reference. -/
  | timeSyncTick
  /-- GTSC_ALIGN R421: Once its ports have trained, the device aligns its GTSC to the reference in one step. -/
  | gtscAlign
  /-- RESEQ_PACKET_ARRIVAL R423: A UALink or UEC packet enters the re-sequencing queue; it is held, delivered in sequence, or dropped with RSQD. -/
  | reseqPacketArrival
  /-- RESEQ_SOURCE_TIMEOUT R423: A source stays silent for 500 µs with packets missing and is treated as a lost link. -/
  | reseqSourceTimeout
  /-- POWER_ON R426: After power-on the controller verifies firmware, self-tests, retires units and enables the ports toward READY. -/
  | powerOn
  /-- ATTESTATION_REQUEST R427: On request over the management link the controller returns a signed attestation report. -/
  | attestationRequest
  /-- FIRMWARE_INSTALL R427: An image whose version is above the fused minimum is installed and raises that minimum. -/
  | firmwareInstall
  /-- SENSOR_SAMPLE R429: Every 10 µs each junction and stack sensor is sampled and TALW updated; 115 °C enters SAFE state. -/
  | sensorSample
  /-- COOLANT_REPORT R432: Every 10 ms the controller reports inlet temperature, flow and module power. -/
  | coolantReport
  /-- FLOW_LOSS R432: The flow stays below its minimum for 1 s and the module enters SAFE state with CODE 7. -/
  | flowLoss
  /-- LINK_TRAINED R419: A port's training completes on all four lanes; UP becomes 1, LANES becomes 4 and PEER records the link partner. -/
  | linkTrained
  /-- MODULE_RESET R6: A module reset returns every register field to its Reset value, and the management controller saves the histograms. -/
  | moduleReset
  deriving DecidableEq, Repr

end Sys2Proof
end

