-- ==== Sys2Proof/Decode.lean ====
section
/-! DEFINITION. Decoding and encoding of the P960's instruction words: control-thread words (R212–R218), the
ply words of the hearth cores (R412), and handler words (R219–R222). -/

namespace Sys2Proof

/-- Causes of a block load fault (R214, R207) and the checksum fetch fault. -/
inductive LoadCause
  | illword | badop | badxop | badpr | badfld | badtgt | badlsid | badpre | badhdr | csum
  deriving DecidableEq, Repr

/-- The value of a cause (R214). -/
def LoadCause.code : LoadCause → Nat
  | .illword => 1 | .badop => 2 | .badxop => 3 | .badpr => 4 | .badfld => 5
  | .badtgt => 6 | .badlsid => 7 | .badpre => 8 | .badhdr => 9 | .csum => 10

/-- An assigned word passes cause 4 (PR, in a format that has it) and then cause 5 (fixed bits). -/
def fldOk (w : BitVec 32) (hasPr zeros : Bool) (i : Instr) : Except LoadCause Instr :=
  if hasPr && w.extractLsb' 23 2 == 3#2 then .error .badpr
  else if zeros then .ok i else .error .badfld

/-! ### The encoding layouts of R212, one for each way the table cuts a word -/

/-- Bits [31:25], [24:23], [22:18], [17:9], [8:0]. -/
def Enc.fmtAdd (x0 : BitVec 7) (x1 : BitVec 2) (x2 : BitVec 5) (x3 : BitVec 9) (x4 : BitVec 9) : BitVec 32 :=
  x0 ++ x1 ++ x2 ++ x3 ++ x4

/-- Bits [31:25], [24:23], [22:20], [19:18], [17:9], [8:0]. -/
def Enc.fmtSext (x0 : BitVec 7) (x1 : BitVec 2) (x2 : BitVec 3) (x3 : BitVec 2) (x4 : BitVec 9) (x5 : BitVec 9) : BitVec 32 :=
  x0 ++ x1 ++ x2 ++ x3 ++ x4 ++ x5

/-- Bits [31:25], [24:23], [22:9], [8:0]. -/
def Enc.fmtAddi (x0 : BitVec 7) (x1 : BitVec 2) (x2 : BitVec 14) (x3 : BitVec 9) : BitVec 32 :=
  x0 ++ x1 ++ x2 ++ x3

/-- Bits [31:25], [24:23], [22:15], [14:9], [8:0]. -/
def Enc.fmtShli (x0 : BitVec 7) (x1 : BitVec 2) (x2 : BitVec 8) (x3 : BitVec 6) (x4 : BitVec 9) : BitVec 32 :=
  x0 ++ x1 ++ x2 ++ x3 ++ x4

/-- Bits [31:25], [24:23], [22:21], [20:15], [14:9], [8:0]. -/
def Enc.fmtBfx (x0 : BitVec 7) (x1 : BitVec 2) (x2 : BitVec 2) (x3 : BitVec 6) (x4 : BitVec 6) (x5 : BitVec 9) : BitVec 32 :=
  x0 ++ x1 ++ x2 ++ x3 ++ x4 ++ x5

/-- Bits [31:25], [24:9], [8:0]. -/
def Enc.fmtMovc (x0 : BitVec 7) (x1 : BitVec 16) (x2 : BitVec 9) : BitVec 32 :=
  x0 ++ x1 ++ x2

/-- Bits [31:25], [24:23], [22:18], [17:9], [8:0]. -/
def Enc.fmtRdh (x0 : BitVec 7) (x1 : BitVec 2) (x2 : BitVec 5) (x3 : BitVec 9) (x4 : BitVec 9) : BitVec 32 :=
  x0 ++ x1 ++ x2 ++ x3 ++ x4

/-- Bits [31:25], [24:23], [22:18], [17:13], [12:10], [9:9], [8:0]. -/
def Enc.fmtLda (x0 : BitVec 7) (x1 : BitVec 2) (x2 : BitVec 5) (x3 : BitVec 5) (x4 : BitVec 3) (x5 : BitVec 1) (x6 : BitVec 9) : BitVec 32 :=
  x0 ++ x1 ++ x2 ++ x3 ++ x4 ++ x5 ++ x6

/-- Bits [31:25], [24:23], [22:18], [17:17], [16:9], [8:0]. -/
def Enc.fmtLdt (x0 : BitVec 7) (x1 : BitVec 2) (x2 : BitVec 5) (x3 : BitVec 1) (x4 : BitVec 8) (x5 : BitVec 9) : BitVec 32 :=
  x0 ++ x1 ++ x2 ++ x3 ++ x4 ++ x5

/-- Bits [31:25], [24:23], [22:18], [17:9], [8:0]. -/
def Enc.fmtPrf (x0 : BitVec 7) (x1 : BitVec 2) (x2 : BitVec 5) (x3 : BitVec 9) (x4 : BitVec 9) : BitVec 32 :=
  x0 ++ x1 ++ x2 ++ x3 ++ x4

/-- Bits [31:25], [24:23], [22:18], [17:0]. -/
def Enc.fmtStb (x0 : BitVec 7) (x1 : BitVec 2) (x2 : BitVec 5) (x3 : BitVec 18) : BitVec 32 :=
  x0 ++ x1 ++ x2 ++ x3

/-- Bits [31:25], [24:23], [22:18], [17:15], [14:0]. -/
def Enc.fmtStl (x0 : BitVec 7) (x1 : BitVec 2) (x2 : BitVec 5) (x3 : BitVec 3) (x4 : BitVec 15) : BitVec 32 :=
  x0 ++ x1 ++ x2 ++ x3 ++ x4

/-- Bits [31:25], [24:23], [22:18], [17:8], [7:0]. -/
def Enc.fmtStt (x0 : BitVec 7) (x1 : BitVec 2) (x2 : BitVec 5) (x3 : BitVec 10) (x4 : BitVec 8) : BitVec 32 :=
  x0 ++ x1 ++ x2 ++ x3 ++ x4

/-- Bits [31:25], [24:23], [22:18], [17:10], [9:5], [4:0]. -/
def Enc.fmtSpills (x0 : BitVec 7) (x1 : BitVec 2) (x2 : BitVec 5) (x3 : BitVec 8) (x4 : BitVec 5) (x5 : BitVec 5) : BitVec 32 :=
  x0 ++ x1 ++ x2 ++ x3 ++ x4 ++ x5

/-- Bits [31:25], [24:23], [22:18], [17:10], [9:3], [2:0]. -/
def Enc.fmtXfence (x0 : BitVec 7) (x1 : BitVec 2) (x2 : BitVec 5) (x3 : BitVec 8) (x4 : BitVec 7) (x5 : BitVec 3) : BitVec 32 :=
  x0 ++ x1 ++ x2 ++ x3 ++ x4 ++ x5

/-- Bits [31:25], [24:23], [22:18], [17:3], [2:2], [1:0]. -/
def Enc.fmtSbar (x0 : BitVec 7) (x1 : BitVec 2) (x2 : BitVec 5) (x3 : BitVec 15) (x4 : BitVec 1) (x5 : BitVec 2) : BitVec 32 :=
  x0 ++ x1 ++ x2 ++ x3 ++ x4 ++ x5

/-- Bits [31:25], [24:23], [22:18], [17:3], [2:0]. -/
def Enc.fmtWbar (x0 : BitVec 7) (x1 : BitVec 2) (x2 : BitVec 5) (x3 : BitVec 15) (x4 : BitVec 3) : BitVec 32 :=
  x0 ++ x1 ++ x2 ++ x3 ++ x4

/-- Bits [31:25], [24:23], [22:18], [17:10], [9:8], [7:0]. -/
def Enc.fmtTbar (x0 : BitVec 7) (x1 : BitVec 2) (x2 : BitVec 5) (x3 : BitVec 8) (x4 : BitVec 2) (x5 : BitVec 8) : BitVec 32 :=
  x0 ++ x1 ++ x2 ++ x3 ++ x4 ++ x5

/-- Bits [31:25], [24:23], [22:18], [17:1], [0:0]. -/
def Enc.fmtNwrite (x0 : BitVec 7) (x1 : BitVec 2) (x2 : BitVec 5) (x3 : BitVec 17) (x4 : BitVec 1) : BitVec 32 :=
  x0 ++ x1 ++ x2 ++ x3 ++ x4

/-- Bits [31:25], [24:23], [22:21], [20:15], [14:9], [8:0]. -/
def Enc.fmtQwait (x0 : BitVec 7) (x1 : BitVec 2) (x2 : BitVec 2) (x3 : BitVec 6) (x4 : BitVec 6) (x5 : BitVec 9) : BitVec 32 :=
  x0 ++ x1 ++ x2 ++ x3 ++ x4 ++ x5

/-- Bits [31:25], [24:23], [22:17], [16:9], [8:0]. -/
def Enc.fmtSseek (x0 : BitVec 7) (x1 : BitVec 2) (x2 : BitVec 6) (x3 : BitVec 8) (x4 : BitVec 9) : BitVec 32 :=
  x0 ++ x1 ++ x2 ++ x3 ++ x4

/-- Bits [31:25], [24:23], [22:13], [12:9], [8:0]. -/
def Enc.fmtShand (x0 : BitVec 7) (x1 : BitVec 2) (x2 : BitVec 10) (x3 : BitVec 4) (x4 : BitVec 9) : BitVec 32 :=
  x0 ++ x1 ++ x2 ++ x3 ++ x4

/-- Bits [31:25], [24:23], [22:11], [10:9], [8:0]. -/
def Enc.fmtCfgld (x0 : BitVec 7) (x1 : BitVec 2) (x2 : BitVec 12) (x3 : BitVec 2) (x4 : BitVec 9) : BitVec 32 :=
  x0 ++ x1 ++ x2 ++ x3 ++ x4

/-- Bits [31:25], [24:23], [22:17], [16:9], [8:0]. -/
def Enc.fmtRstat (x0 : BitVec 7) (x1 : BitVec 2) (x2 : BitVec 6) (x3 : BitVec 8) (x4 : BitVec 9) : BitVec 32 :=
  x0 ++ x1 ++ x2 ++ x3 ++ x4

/-- Bits [31:25], [24:23], [22:18], [17:14], [13:9], [8:0]. -/
def Enc.fmtBankm (x0 : BitVec 7) (x1 : BitVec 2) (x2 : BitVec 5) (x3 : BitVec 4) (x4 : BitVec 5) (x5 : BitVec 9) : BitVec 32 :=
  x0 ++ x1 ++ x2 ++ x3 ++ x4 ++ x5

/-- Bits [31:25], [24:23], [22:18], [17:17], [16:9], [8:0]. -/
def Enc.fmtTtq (x0 : BitVec 7) (x1 : BitVec 2) (x2 : BitVec 5) (x3 : BitVec 1) (x4 : BitVec 8) (x5 : BitVec 9) : BitVec 32 :=
  x0 ++ x1 ++ x2 ++ x3 ++ x4 ++ x5

/-- Bits [31:25], [24:23], [22:18], [17:9], [8:5], [4:0]. -/
def Enc.fmtAcscope (x0 : BitVec 7) (x1 : BitVec 2) (x2 : BitVec 5) (x3 : BitVec 9) (x4 : BitVec 4) (x5 : BitVec 5) : BitVec 32 :=
  x0 ++ x1 ++ x2 ++ x3 ++ x4 ++ x5

/-- Bits [31:25], [24:23], [22:20], [19:0]. -/
def Enc.fmtBr (x0 : BitVec 7) (x1 : BitVec 2) (x2 : BitVec 3) (x3 : BitVec 20) : BitVec 32 :=
  x0 ++ x1 ++ x2 ++ x3

/-- Bits [31:25], [24:23], [22:20], [19:0]. -/
def Enc.fmtBrt (x0 : BitVec 7) (x1 : BitVec 2) (x2 : BitVec 3) (x3 : BitVec 20) : BitVec 32 :=
  x0 ++ x1 ++ x2 ++ x3

/-- Bits [31:25], [24:23], [22:21], [20:18], [17:0]. -/
def Enc.fmtRet (x0 : BitVec 7) (x1 : BitVec 2) (x2 : BitVec 2) (x3 : BitVec 3) (x4 : BitVec 18) : BitVec 32 :=
  x0 ++ x1 ++ x2 ++ x3 ++ x4

/-- Bits [31:25], [24:23], [22:18], [17:0]. -/
def Enc.fmtTrap (x0 : BitVec 7) (x1 : BitVec 2) (x2 : BitVec 5) (x3 : BitVec 18) : BitVec 32 :=
  x0 ++ x1 ++ x2 ++ x3

/-- Bits [31:25], [24:23], [22:18], [17:9], [8:8], [7:0]. -/
def Enc.fmtRdsr (x0 : BitVec 7) (x1 : BitVec 2) (x2 : BitVec 5) (x3 : BitVec 9) (x4 : BitVec 1) (x5 : BitVec 8) : BitVec 32 :=
  x0 ++ x1 ++ x2 ++ x3 ++ x4 ++ x5

/-- Bits [31:25], [24:20], [19:15], [14:12], [11:7], [6:0]. -/
def Enc.fmtPlySend (x0 : BitVec 7) (x1 : BitVec 5) (x2 : BitVec 5) (x3 : BitVec 3) (x4 : BitVec 5) (x5 : BitVec 7) : BitVec 32 :=
  x0 ++ x1 ++ x2 ++ x3 ++ x4 ++ x5

/-- The decoder of a control-thread word: causes 1 to 5 of R214 in their order, and the instruction. The
ranges of sub-fields that are not fixed bits are judged by `Instr.rangeOk` (BADFLD). -/
def decodeWord (w : BitVec 32) : Except LoadCause Instr :=
  if w = 0#32 ∨ w = 0xFFFFFFFF#32 then .error .illword
  else match (w.extractLsb' 25 7).toNat with
  | 0x01 => match (w.extractLsb' 18 5).toNat with
    | 0 => fldOk w true true (.add (w.extractLsb' 23 2) (w.extractLsb' 9 9) (w.extractLsb' 0 9))
    | 1 => fldOk w true true (.sub (w.extractLsb' 23 2) (w.extractLsb' 9 9) (w.extractLsb' 0 9))
    | 2 => fldOk w true true (.mul (w.extractLsb' 23 2) (w.extractLsb' 9 9) (w.extractLsb' 0 9))
    | 3 => fldOk w true true (.mulh (w.extractLsb' 23 2) (w.extractLsb' 9 9) (w.extractLsb' 0 9))
    | 4 => fldOk w true true (.mulhn (w.extractLsb' 23 2) (w.extractLsb' 9 9) (w.extractLsb' 0 9))
    | 5 => fldOk w true true (.adds (w.extractLsb' 23 2) (w.extractLsb' 9 9) (w.extractLsb' 0 9))
    | 6 => fldOk w true true (.min (w.extractLsb' 23 2) (w.extractLsb' 9 9) (w.extractLsb' 0 9))
    | 7 => fldOk w true true (.max (w.extractLsb' 23 2) (w.extractLsb' 9 9) (w.extractLsb' 0 9))
    | 8 => fldOk w true true (.minn (w.extractLsb' 23 2) (w.extractLsb' 9 9) (w.extractLsb' 0 9))
    | 9 => fldOk w true true (.maxn (w.extractLsb' 23 2) (w.extractLsb' 9 9) (w.extractLsb' 0 9))
    | _ => .error .badxop
  | 0x02 => match (w.extractLsb' 18 5).toNat with
    | 0 => fldOk w true true (.divs (w.extractLsb' 23 2) (w.extractLsb' 9 9) (w.extractLsb' 0 9))
    | 1 => fldOk w true true (.divn (w.extractLsb' 23 2) (w.extractLsb' 9 9) (w.extractLsb' 0 9))
    | 2 => fldOk w true true (.rems (w.extractLsb' 23 2) (w.extractLsb' 9 9) (w.extractLsb' 0 9))
    | 3 => fldOk w true true (.remn (w.extractLsb' 23 2) (w.extractLsb' 9 9) (w.extractLsb' 0 9))
    | _ => .error .badxop
  | 0x03 => match (w.extractLsb' 18 5).toNat with
    | 0 => fldOk w true true (.and (w.extractLsb' 23 2) (w.extractLsb' 9 9) (w.extractLsb' 0 9))
    | 1 => fldOk w true true (.or (w.extractLsb' 23 2) (w.extractLsb' 9 9) (w.extractLsb' 0 9))
    | 2 => fldOk w true true (.xor (w.extractLsb' 23 2) (w.extractLsb' 9 9) (w.extractLsb' 0 9))
    | 3 => fldOk w true true (.andn (w.extractLsb' 23 2) (w.extractLsb' 9 9) (w.extractLsb' 0 9))
    | _ => .error .badxop
  | 0x04 => match (w.extractLsb' 18 5).toNat with
    | 0 => fldOk w true true (.shl (w.extractLsb' 23 2) (w.extractLsb' 9 9) (w.extractLsb' 0 9))
    | 1 => fldOk w true true (.shr (w.extractLsb' 23 2) (w.extractLsb' 9 9) (w.extractLsb' 0 9))
    | 2 => fldOk w true true (.sha (w.extractLsb' 23 2) (w.extractLsb' 9 9) (w.extractLsb' 0 9))
    | 3 => fldOk w true true (.rol (w.extractLsb' 23 2) (w.extractLsb' 9 9) (w.extractLsb' 0 9))
    | _ => .error .badxop
  | 0x05 => match (w.extractLsb' 18 5).toNat with
    | 0 => fldOk w true true (.clz (w.extractLsb' 23 2) (w.extractLsb' 9 9) (w.extractLsb' 0 9))
    | 1 => fldOk w true true (.ctz (w.extractLsb' 23 2) (w.extractLsb' 9 9) (w.extractLsb' 0 9))
    | 2 => fldOk w true true (.popc (w.extractLsb' 23 2) (w.extractLsb' 9 9) (w.extractLsb' 0 9))
    | 3 => fldOk w true true (.mov (w.extractLsb' 23 2) (w.extractLsb' 9 9) (w.extractLsb' 0 9))
    | _ => .error .badxop
  | 0x06 => if w.extractLsb' 18 2 = 3#2 then .error .badxop else match (w.extractLsb' 20 3).toNat with
    | 0 => fldOk w true true (.sext (w.extractLsb' 23 2) (w.extractLsb' 18 2) (w.extractLsb' 9 9) (w.extractLsb' 0 9))
    | 1 => fldOk w true true (.zext (w.extractLsb' 23 2) (w.extractLsb' 18 2) (w.extractLsb' 9 9) (w.extractLsb' 0 9))
    | _ => .error .badxop
  | 0x07 => fldOk w true true (.addi (w.extractLsb' 23 2) (w.extractLsb' 9 14) (w.extractLsb' 0 9))
  | 0x08 => fldOk w true true (.muli (w.extractLsb' 23 2) (w.extractLsb' 9 14) (w.extractLsb' 0 9))
  | 0x09 => fldOk w true true (.andi (w.extractLsb' 23 2) (w.extractLsb' 9 14) (w.extractLsb' 0 9))
  | 0x0A => fldOk w true true (.ori (w.extractLsb' 23 2) (w.extractLsb' 9 14) (w.extractLsb' 0 9))
  | 0x0B => fldOk w true true (.xori (w.extractLsb' 23 2) (w.extractLsb' 9 14) (w.extractLsb' 0 9))
  | 0x0C => fldOk w true (decide (w.extractLsb' 15 8 = 0x0#8)) (.shli (w.extractLsb' 23 2) (w.extractLsb' 9 6) (w.extractLsb' 0 9))
  | 0x0D => fldOk w true (decide (w.extractLsb' 15 8 = 0x0#8)) (.shri (w.extractLsb' 23 2) (w.extractLsb' 9 6) (w.extractLsb' 0 9))
  | 0x0E => fldOk w true (decide (w.extractLsb' 15 8 = 0x0#8)) (.shai (w.extractLsb' 23 2) (w.extractLsb' 9 6) (w.extractLsb' 0 9))
  | 0x0F => fldOk w true (decide (w.extractLsb' 21 2 = 0x0#2)) (.bfx (w.extractLsb' 23 2) (w.extractLsb' 15 6) (w.extractLsb' 9 6) (w.extractLsb' 0 9))
  | 0x10 => fldOk w true (decide (w.extractLsb' 21 2 = 0x0#2)) (.bfi (w.extractLsb' 23 2) (w.extractLsb' 15 6) (w.extractLsb' 9 6) (w.extractLsb' 0 9))
  | 0x11 => fldOk w false true (.movc (w.extractLsb' 9 16) (w.extractLsb' 0 9))
  | 0x12 => fldOk w false true (.movh (w.extractLsb' 9 16) (w.extractLsb' 0 9))
  | 0x13 => fldOk w true true (.rdh (w.extractLsb' 23 2) (w.extractLsb' 18 5) (w.extractLsb' 9 9) (w.extractLsb' 0 9))
  | 0x18 => match (w.extractLsb' 18 5).toNat with
    | 0 => fldOk w true true (.teq (w.extractLsb' 23 2) (w.extractLsb' 9 9) (w.extractLsb' 0 9))
    | 1 => fldOk w true true (.tne (w.extractLsb' 23 2) (w.extractLsb' 9 9) (w.extractLsb' 0 9))
    | 2 => fldOk w true true (.tlt (w.extractLsb' 23 2) (w.extractLsb' 9 9) (w.extractLsb' 0 9))
    | 3 => fldOk w true true (.tle (w.extractLsb' 23 2) (w.extractLsb' 9 9) (w.extractLsb' 0 9))
    | 4 => fldOk w true true (.tltn (w.extractLsb' 23 2) (w.extractLsb' 9 9) (w.extractLsb' 0 9))
    | 5 => fldOk w true true (.tlen (w.extractLsb' 23 2) (w.extractLsb' 9 9) (w.extractLsb' 0 9))
    | _ => .error .badxop
  | 0x19 => fldOk w true true (.teqi (w.extractLsb' 23 2) (w.extractLsb' 9 14) (w.extractLsb' 0 9))
  | 0x1A => fldOk w true true (.tlti (w.extractLsb' 23 2) (w.extractLsb' 9 14) (w.extractLsb' 0 9))
  | 0x1B => fldOk w true true (.tltni (w.extractLsb' 23 2) (w.extractLsb' 9 14) (w.extractLsb' 0 9))
  | 0x1C => match (w.extractLsb' 18 5).toNat with
    | 0 => fldOk w true true (.pand (w.extractLsb' 23 2) (w.extractLsb' 9 9) (w.extractLsb' 0 9))
    | 1 => fldOk w true true (.por (w.extractLsb' 23 2) (w.extractLsb' 9 9) (w.extractLsb' 0 9))
    | 2 => fldOk w true true (.pnot (w.extractLsb' 23 2) (w.extractLsb' 9 9) (w.extractLsb' 0 9))
    | _ => .error .badxop
  | 0x20 => fldOk w true true (.ldb (w.extractLsb' 23 2) (w.extractLsb' 18 5) (w.extractLsb' 9 9) (w.extractLsb' 0 9))
  | 0x21 => fldOk w true true (.ldbs (w.extractLsb' 23 2) (w.extractLsb' 18 5) (w.extractLsb' 9 9) (w.extractLsb' 0 9))
  | 0x22 => fldOk w true true (.ldh (w.extractLsb' 23 2) (w.extractLsb' 18 5) (w.extractLsb' 9 9) (w.extractLsb' 0 9))
  | 0x23 => fldOk w true true (.ldhs (w.extractLsb' 23 2) (w.extractLsb' 18 5) (w.extractLsb' 9 9) (w.extractLsb' 0 9))
  | 0x24 => fldOk w true true (.ldw (w.extractLsb' 23 2) (w.extractLsb' 18 5) (w.extractLsb' 9 9) (w.extractLsb' 0 9))
  | 0x25 => fldOk w true true (.ldws (w.extractLsb' 23 2) (w.extractLsb' 18 5) (w.extractLsb' 9 9) (w.extractLsb' 0 9))
  | 0x26 => fldOk w true true (.ldd (w.extractLsb' 23 2) (w.extractLsb' 18 5) (w.extractLsb' 9 9) (w.extractLsb' 0 9))
  | 0x27 => match (w.extractLsb' 13 5).toNat with
    | 0 => fldOk w true (decide (w.extractLsb' 9 1 = 0x0#1)) (.lda (w.extractLsb' 23 2) (w.extractLsb' 18 5) (w.extractLsb' 10 3) (w.extractLsb' 0 9))
    | _ => .error .badxop
  | 0x28 => match (w.extractLsb' 13 5).toNat with
    | 0 => fldOk w true (decide (w.extractLsb' 9 1 = 0x0#1)) (.ldred (w.extractLsb' 23 2) (w.extractLsb' 18 5) (w.extractLsb' 10 3) (w.extractLsb' 0 9))
    | _ => .error .badxop
  | 0x29 => fldOk w true (decide (w.extractLsb' 17 1 = 0x0#1)) (.ldt (w.extractLsb' 23 2) (w.extractLsb' 18 5) (w.extractLsb' 9 8) (w.extractLsb' 0 9))
  | 0x2A => fldOk w true (decide (w.extractLsb' 0 9 = 0x1A0#9)) (.prf (w.extractLsb' 23 2) (w.extractLsb' 18 5) (w.extractLsb' 9 9))
  | 0x2B => fldOk w true true (.stb (w.extractLsb' 23 2) (w.extractLsb' 18 5) (w.extractLsb' 0 18))
  | 0x2C => fldOk w true true (.sth (w.extractLsb' 23 2) (w.extractLsb' 18 5) (w.extractLsb' 0 18))
  | 0x2D => fldOk w true true (.stw (w.extractLsb' 23 2) (w.extractLsb' 18 5) (w.extractLsb' 0 18))
  | 0x2E => fldOk w true true (.std (w.extractLsb' 23 2) (w.extractLsb' 18 5) (w.extractLsb' 0 18))
  | 0x2F => fldOk w true true (.stl (w.extractLsb' 23 2) (w.extractLsb' 18 5) (w.extractLsb' 15 3) (w.extractLsb' 0 15))
  | 0x30 => fldOk w true (decide (w.extractLsb' 8 10 = 0x0#10)) (.stt (w.extractLsb' 23 2) (w.extractLsb' 18 5) (w.extractLsb' 0 8))
  | 0x31 => fldOk w true (decide (w.extractLsb' 10 8 = 0x0#8)) (.spills (w.extractLsb' 23 2) (w.extractLsb' 18 5) (w.extractLsb' 5 5) (w.extractLsb' 0 5))
  | 0x32 => fldOk w true (decide (w.extractLsb' 10 8 = 0x0#8)) (.fills (w.extractLsb' 23 2) (w.extractLsb' 18 5) (w.extractLsb' 5 5) (w.extractLsb' 0 5))
  | 0x38 => match (w.extractLsb' 13 5).toNat with
    | 0 => fldOk w true (decide (w.extractLsb' 9 1 = 0x0#1)) (.aadd (w.extractLsb' 23 2) (w.extractLsb' 18 5) (w.extractLsb' 10 3) (w.extractLsb' 0 9))
    | 1 => fldOk w true (decide (w.extractLsb' 9 1 = 0x0#1)) (.aaddf (w.extractLsb' 23 2) (w.extractLsb' 18 5) (w.extractLsb' 10 3) (w.extractLsb' 0 9))
    | 2 => fldOk w true (decide (w.extractLsb' 9 1 = 0x0#1)) (.amin (w.extractLsb' 23 2) (w.extractLsb' 18 5) (w.extractLsb' 10 3) (w.extractLsb' 0 9))
    | 3 => fldOk w true (decide (w.extractLsb' 9 1 = 0x0#1)) (.amax (w.extractLsb' 23 2) (w.extractLsb' 18 5) (w.extractLsb' 10 3) (w.extractLsb' 0 9))
    | 4 => fldOk w true (decide (w.extractLsb' 9 1 = 0x0#1)) (.aminn (w.extractLsb' 23 2) (w.extractLsb' 18 5) (w.extractLsb' 10 3) (w.extractLsb' 0 9))
    | 5 => fldOk w true (decide (w.extractLsb' 9 1 = 0x0#1)) (.amaxn (w.extractLsb' 23 2) (w.extractLsb' 18 5) (w.extractLsb' 10 3) (w.extractLsb' 0 9))
    | 6 => fldOk w true (decide (w.extractLsb' 9 1 = 0x0#1)) (.aand (w.extractLsb' 23 2) (w.extractLsb' 18 5) (w.extractLsb' 10 3) (w.extractLsb' 0 9))
    | 7 => fldOk w true (decide (w.extractLsb' 9 1 = 0x0#1)) (.aor (w.extractLsb' 23 2) (w.extractLsb' 18 5) (w.extractLsb' 10 3) (w.extractLsb' 0 9))
    | 8 => fldOk w true (decide (w.extractLsb' 9 1 = 0x0#1)) (.axor (w.extractLsb' 23 2) (w.extractLsb' 18 5) (w.extractLsb' 10 3) (w.extractLsb' 0 9))
    | 9 => fldOk w true (decide (w.extractLsb' 9 1 = 0x0#1)) (.aswp (w.extractLsb' 23 2) (w.extractLsb' 18 5) (w.extractLsb' 10 3) (w.extractLsb' 0 9))
    | 10 => fldOk w true (decide (w.extractLsb' 9 1 = 0x0#1)) (.acas (w.extractLsb' 23 2) (w.extractLsb' 18 5) (w.extractLsb' 10 3) (w.extractLsb' 0 9))
    | 11 => fldOk w true (decide (w.extractLsb' 9 1 = 0x0#1)) (.ainc (w.extractLsb' 23 2) (w.extractLsb' 18 5) (w.extractLsb' 10 3) (w.extractLsb' 0 9))
    | _ => .error .badxop
  | 0x40 => match (w.extractLsb' 13 5).toNat with
    | 0 => fldOk w true (decide (w.extractLsb' 9 1 = 0x0#1)) (.fence (w.extractLsb' 23 2) (w.extractLsb' 18 5) (w.extractLsb' 10 3) (w.extractLsb' 0 9))
    | _ => .error .badxop
  | 0x41 => fldOk w true true (.xfence (w.extractLsb' 23 2) (w.extractLsb' 18 5) (w.extractLsb' 10 8) (w.extractLsb' 3 7) (w.extractLsb' 0 3))
  | 0x42 => fldOk w true (decide (w.extractLsb' 3 15 = 0x0#15)) (.sbar (w.extractLsb' 23 2) (w.extractLsb' 18 5) (w.extractLsb' 2 1) (w.extractLsb' 0 2))
  | 0x43 => fldOk w true (decide (w.extractLsb' 8 10 = 0x0#10)) (.abar (w.extractLsb' 23 2) (w.extractLsb' 18 5) (w.extractLsb' 0 8))
  | 0x44 => fldOk w true (decide (w.extractLsb' 3 15 = 0x0#15)) (.wbar (w.extractLsb' 23 2) (w.extractLsb' 18 5) (w.extractLsb' 0 3))
  | 0x45 => fldOk w true (decide (w.extractLsb' 10 8 = 0x0#8)) (.tbar (w.extractLsb' 23 2) (w.extractLsb' 18 5) (w.extractLsb' 8 2) (w.extractLsb' 0 8))
  | 0x46 => match (w.extractLsb' 18 5).toNat with
    | 0 => fldOk w true true (.yield (w.extractLsb' 23 2) (w.extractLsb' 9 9) (w.extractLsb' 0 9))
    | _ => .error .badxop
  | 0x47 => match (w.extractLsb' 18 5).toNat with
    | 0 => fldOk w true true (.wfe (w.extractLsb' 23 2) (w.extractLsb' 9 9) (w.extractLsb' 0 9))
    | _ => .error .badxop
  | 0x48 => match (w.extractLsb' 18 5).toNat with
    | 0 => fldOk w true true (.sev (w.extractLsb' 23 2) (w.extractLsb' 9 9) (w.extractLsb' 0 9))
    | _ => .error .badxop
  | 0x49 => fldOk w true (decide (w.extractLsb' 1 17 = 0x0#17)) (.nwrite (w.extractLsb' 23 2) (w.extractLsb' 18 5) (w.extractLsb' 0 1))
  | 0x50 => fldOk w true (decide (w.extractLsb' 15 8 = 0x0#8)) (.qrsv (w.extractLsb' 23 2) (w.extractLsb' 9 6) (w.extractLsb' 0 9))
  | 0x51 => fldOk w true (decide (w.extractLsb' 15 8 = 0x0#8)) (.qpush (w.extractLsb' 23 2) (w.extractLsb' 9 6) (w.extractLsb' 0 9))
  | 0x52 => fldOk w true (decide (w.extractLsb' 15 6 = 0x0#6)) (.qwait (w.extractLsb' 23 2) (w.extractLsb' 21 2) (w.extractLsb' 9 6) (w.extractLsb' 0 9))
  | 0x53 => fldOk w true (decide (w.extractLsb' 15 6 = 0x0#6)) (.qpop (w.extractLsb' 23 2) (w.extractLsb' 21 2) (w.extractLsb' 9 6) (w.extractLsb' 0 9))
  | 0x54 => fldOk w true (decide (w.extractLsb' 15 6 = 0x0#6)) (.qadv (w.extractLsb' 23 2) (w.extractLsb' 21 2) (w.extractLsb' 9 6) (w.extractLsb' 0 9))
  | 0x55 => fldOk w true (decide (w.extractLsb' 15 6 = 0x0#6)) (.qpadv (w.extractLsb' 23 2) (w.extractLsb' 21 2) (w.extractLsb' 9 6) (w.extractLsb' 0 9))
  | 0x56 => fldOk w true (decide (w.extractLsb' 15 8 = 0x0#8)) (.qpol (w.extractLsb' 23 2) (w.extractLsb' 9 6) (w.extractLsb' 0 9))
  | 0x57 => fldOk w true (decide (w.extractLsb' 15 6 = 0x0#6)) (.qstat (w.extractLsb' 23 2) (w.extractLsb' 21 2) (w.extractLsb' 9 6) (w.extractLsb' 0 9))
  | 0x58 => fldOk w true (decide (w.extractLsb' 15 8 = 0x0#8)) (.qgap (w.extractLsb' 23 2) (w.extractLsb' 9 6) (w.extractLsb' 0 9))
  | 0x59 => fldOk w true (decide (w.extractLsb' 15 8 = 0x0#8)) (.qmark (w.extractLsb' 23 2) (w.extractLsb' 9 6) (w.extractLsb' 0 9))
  | 0x5A => fldOk w true (decide (w.extractLsb' 15 8 = 0x0#8)) (.rwait (w.extractLsb' 23 2) (w.extractLsb' 9 6) (w.extractLsb' 0 9))
  | 0x5B => fldOk w true (decide (w.extractLsb' 15 8 = 0x0#8)) (.rrel (w.extractLsb' 23 2) (w.extractLsb' 9 6) (w.extractLsb' 0 9))
  | 0x60 => fldOk w true (decide (w.extractLsb' 17 1 = 0x0#1)) (.sopen (w.extractLsb' 23 2) (w.extractLsb' 18 5) (w.extractLsb' 9 8) (w.extractLsb' 0 9))
  | 0x61 => fldOk w true (decide (w.extractLsb' 17 1 = 0x0#1)) (.sclose (w.extractLsb' 23 2) (w.extractLsb' 18 5) (w.extractLsb' 9 8) (w.extractLsb' 0 9))
  | 0x62 => fldOk w true (decide (w.extractLsb' 17 6 = 0x0#6)) (.sseek (w.extractLsb' 23 2) (w.extractLsb' 9 8) (w.extractLsb' 0 9))
  | 0x63 => fldOk w true (decide (w.extractLsb' 13 10 = 0x0#10)) (.shand (w.extractLsb' 23 2) (w.extractLsb' 9 4) (w.extractLsb' 0 9))
  | 0x64 => fldOk w true (decide (w.extractLsb' 11 12 = 0x0#12)) (.cfgld (w.extractLsb' 23 2) (w.extractLsb' 9 2) (w.extractLsb' 0 9))
  | 0x65 => fldOk w true (decide (w.extractLsb' 11 12 = 0x0#12)) (.cfgsh (w.extractLsb' 23 2) (w.extractLsb' 9 2) (w.extractLsb' 0 9))
  | 0x66 => fldOk w true (decide (w.extractLsb' 11 12 = 0x0#12)) (.rgo (w.extractLsb' 23 2) (w.extractLsb' 9 2) (w.extractLsb' 0 9))
  | 0x67 => fldOk w true (decide (w.extractLsb' 11 12 = 0x0#12)) (.rdrain (w.extractLsb' 23 2) (w.extractLsb' 9 2) (w.extractLsb' 0 9))
  | 0x68 => fldOk w true true (.rstat (w.extractLsb' 23 2) (w.extractLsb' 17 6) (w.extractLsb' 9 8) (w.extractLsb' 0 9))
  | 0x69 => fldOk w true (decide (w.extractLsb' 11 12 = 0x0#12)) (.rmark (w.extractLsb' 23 2) (w.extractLsb' 9 2) (w.extractLsb' 0 9))
  | 0x6A => fldOk w true (decide (w.extractLsb' 11 12 = 0x0#12)) (.rroll (w.extractLsb' 23 2) (w.extractLsb' 9 2) (w.extractLsb' 0 9))
  | 0x6B => fldOk w true (decide (w.extractLsb' 14 4 = 0x0#4)) (.bankm (w.extractLsb' 23 2) (w.extractLsb' 18 5) (w.extractLsb' 9 5) (w.extractLsb' 0 9))
  | 0x6C => match (w.extractLsb' 17 6).toNat with
    | 0 => fldOk w true true (.ttsetDefine (w.extractLsb' 23 2) (w.extractLsb' 9 8) (w.extractLsb' 0 9))
    | 8 => fldOk w true true (.ttsetUndefine (w.extractLsb' 23 2) (w.extractLsb' 9 8) (w.extractLsb' 0 9))
    | 16 => fldOk w true true (.ttsetFill (w.extractLsb' 23 2) (w.extractLsb' 9 8) (w.extractLsb' 0 9))
    | 24 => fldOk w true true (.ttsetReady (w.extractLsb' 23 2) (w.extractLsb' 9 8) (w.extractLsb' 0 9))
    | 32 => fldOk w true true (.ttsetAbort (w.extractLsb' 23 2) (w.extractLsb' 9 8) (w.extractLsb' 0 9))
    | 40 => fldOk w true true (.ttsetDrain (w.extractLsb' 23 2) (w.extractLsb' 9 8) (w.extractLsb' 0 9))
    | 48 => fldOk w true true (.ttsetEmpty (w.extractLsb' 23 2) (w.extractLsb' 9 8) (w.extractLsb' 0 9))
    | _ => if w.extractLsb' 23 2 = 3#2 then .error .badpr else .error .badfld
  | 0x6D => fldOk w true (decide (w.extractLsb' 18 5 = 0x0#5)) (.ttq (w.extractLsb' 23 2) (w.extractLsb' 17 1) (w.extractLsb' 9 8) (w.extractLsb' 0 9))
  | 0x70 => match (w.extractLsb' 18 5).toNat with
    | 0 => fldOk w true true (.cparm (w.extractLsb' 23 2) (w.extractLsb' 9 9) (w.extractLsb' 0 9))
    | 1 => fldOk w true true (.cpgo (w.extractLsb' 23 2) (w.extractLsb' 9 9) (w.extractLsb' 0 9))
    | 2 => fldOk w true true (.cpdis (w.extractLsb' 23 2) (w.extractLsb' 9 9) (w.extractLsb' 0 9))
    | 3 => fldOk w true true (.mxtask (w.extractLsb' 23 2) (w.extractLsb' 9 9) (w.extractLsb' 0 9))
    | 4 => fldOk w true true (.coll (w.extractLsb' 23 2) (w.extractLsb' 9 9) (w.extractLsb' 0 9))
    | _ => .error .badxop
  | 0x71 => match (w.extractLsb' 18 5).toNat with
    | 0 => fldOk w true true (.zres (w.extractLsb' 23 2) (w.extractLsb' 9 9) (w.extractLsb' 0 9))
    | 1 => fldOk w true true (.zrel (w.extractLsb' 23 2) (w.extractLsb' 9 9) (w.extractLsb' 0 9))
    | 2 => fldOk w true true (.zbar (w.extractLsb' 23 2) (w.extractLsb' 9 9) (w.extractLsb' 0 9))
    | 3 => fldOk w true true (.zanno (w.extractLsb' 23 2) (w.extractLsb' 9 9) (w.extractLsb' 0 9))
    | _ => .error .badxop
  | 0x72 => match (w.extractLsb' 18 5).toNat with
    | 0 => fldOk w true true (.launch (w.extractLsb' 23 2) (w.extractLsb' 9 9) (w.extractLsb' 0 9))
    | 1 => fldOk w true true (.tenq (w.extractLsb' 23 2) (w.extractLsb' 9 9) (w.extractLsb' 0 9))
    | 2 => fldOk w true true (.tdeq (w.extractLsb' 23 2) (w.extractLsb' 9 9) (w.extractLsb' 0 9))
    | 3 => fldOk w true true (.schnext (w.extractLsb' 23 2) (w.extractLsb' 9 9) (w.extractLsb' 0 9))
    | 16 => fldOk w true true (.launchPark (w.extractLsb' 23 2) (w.extractLsb' 9 9) (w.extractLsb' 0 9))
    | 18 => fldOk w true true (.tdeqPark (w.extractLsb' 23 2) (w.extractLsb' 9 9) (w.extractLsb' 0 9))
    | _ => .error .badxop
  | 0x73 => match (w.extractLsb' 18 5).toNat with
    | 0 => fldOk w true true (.acopen (w.extractLsb' 23 2) (w.extractLsb' 9 9) (w.extractLsb' 0 9))
    | 1 => fldOk w true true (.acadd (w.extractLsb' 23 2) (w.extractLsb' 9 9) (w.extractLsb' 0 9))
    | 2 => fldOk w true (decide (w.extractLsb' 5 4 = 0x0#4)) (.acscope (w.extractLsb' 23 2) (w.extractLsb' 9 9) (w.extractLsb' 0 5))
    | 3 => fldOk w true true (.acnorm (w.extractLsb' 23 2) (w.extractLsb' 9 9) (w.extractLsb' 0 9))
    | 4 => fldOk w true true (.acevict (w.extractLsb' 23 2) (w.extractLsb' 9 9) (w.extractLsb' 0 9))
    | 5 => fldOk w true true (.acload (w.extractLsb' 23 2) (w.extractLsb' 9 9) (w.extractLsb' 0 9))
    | _ => .error .badxop
  | 0x78 => fldOk w true true (.br (w.extractLsb' 23 2) (w.extractLsb' 20 3) (w.extractLsb' 0 20))
  | 0x79 => fldOk w true true (.call (w.extractLsb' 23 2) (w.extractLsb' 20 3) (w.extractLsb' 0 20))
  | 0x7A => fldOk w true (decide (w.extractLsb' 0 20 = 0x0#20)) (.brt (w.extractLsb' 23 2) (w.extractLsb' 20 3))
  | 0x7B => fldOk w true (decide (w.extractLsb' 0 20 = 0x0#20)) (.callt (w.extractLsb' 23 2) (w.extractLsb' 20 3))
  | 0x7C => if w.extractLsb' 21 2 = 0#2 then fldOk w true (decide (w.extractLsb' 0 18 = 0x341A0#18)) (.ret (w.extractLsb' 23 2) (w.extractLsb' 18 3)) else match (w.extractLsb' 18 5).toNat with
    | 8 => fldOk w true true (.sel (w.extractLsb' 23 2) (w.extractLsb' 9 9) (w.extractLsb' 0 9))
    | 9 => fldOk w true true (.nullw (w.extractLsb' 23 2) (w.extractLsb' 9 9) (w.extractLsb' 0 9))
    | 10 => fldOk w true (decide (w.extractLsb' 5 4 = 0x0#4)) (.nulls (w.extractLsb' 23 2) (w.extractLsb' 9 9) (w.extractLsb' 0 5))
    | _ => .error .badxop
  | 0x7D => match (w.extractLsb' 18 5).toNat with
    | 0 => fldOk w true (decide (w.extractLsb' 0 18 = 0x341A0#18)) (.trap (w.extractLsb' 23 2))
    | 1 => fldOk w true (decide (w.extractLsb' 0 18 = 0x341A0#18)) (.sysc (w.extractLsb' 23 2))
    | 2 => fldOk w true (decide (w.extractLsb' 8 1 = 0x0#1)) (.rdsr (w.extractLsb' 23 2) (w.extractLsb' 9 9) (w.extractLsb' 0 8))
    | 3 => fldOk w true (decide (w.extractLsb' 8 1 = 0x0#1)) (.wrsr (w.extractLsb' 23 2) (w.extractLsb' 9 9) (w.extractLsb' 0 8))
    | 4 => fldOk w true true (.rdtime (w.extractLsb' 23 2) (w.extractLsb' 9 9) (w.extractLsb' 0 9))
    | 5 => fldOk w true (decide (w.extractLsb' 0 18 = 0x341A0#18)) (.eret (w.extractLsb' 23 2))
    | 6 => fldOk w true (decide (w.extractLsb' 0 18 = 0x341A0#18)) (.halt (w.extractLsb' 23 2))
    | 7 => fldOk w true (decide (w.extractLsb' 0 18 = 0x341A0#18)) (.brk (w.extractLsb' 23 2))
    | 8 => fldOk w true true (.idle (w.extractLsb' 23 2) (w.extractLsb' 9 9) (w.extractLsb' 0 9))
    | 9 => fldOk w true true (.setctx (w.extractLsb' 23 2) (w.extractLsb' 9 9) (w.extractLsb' 0 9))
    | 10 => fldOk w true true (.inval (w.extractLsb' 23 2) (w.extractLsb' 9 9) (w.extractLsb' 0 9))
    | 11 => fldOk w true true (.kill (w.extractLsb' 23 2) (w.extractLsb' 9 9) (w.extractLsb' 0 9))
    | 12 => fldOk w true true (.dsnap (w.extractLsb' 23 2) (w.extractLsb' 9 9) (w.extractLsb' 0 9))
    | _ => .error .badxop
  | _ => .error .badop

/-- The decoder of a ply word: RISC-V custom-0 with funct7 = 0, selected by funct3 (R412). -/
def decodePly (w : BitVec 32) : Option Instr :=
  if w.extractLsb' 0 7 = 0x0B#7 ∧ w.extractLsb' 25 7 = 0#7 then
    match (w.extractLsb' 12 3).toNat with
    | 0 => some (.plySend (w.extractLsb' 20 5) (w.extractLsb' 15 5) (w.extractLsb' 7 5))
    | 1 => some (.plyRecv (w.extractLsb' 20 5) (w.extractLsb' 15 5) (w.extractLsb' 7 5))
    | 2 => some (.plyPoll (w.extractLsb' 20 5) (w.extractLsb' 15 5) (w.extractLsb' 7 5))
    | 3 => some (.plyTag (w.extractLsb' 20 5) (w.extractLsb' 15 5) (w.extractLsb' 7 5))
    | 4 => some (.plyFlag (w.extractLsb' 20 5) (w.extractLsb' 15 5) (w.extractLsb' 7 5))
    | 5 => some (.plyEnd (w.extractLsb' 20 5) (w.extractLsb' 15 5) (w.extractLsb' 7 5))
    | 6 => some (.plyRwd (w.extractLsb' 20 5) (w.extractLsb' 15 5) (w.extractLsb' 7 5))
    | _ => none
  else none

/-- The encoder of the 32-bit forms, from the same encoding tables (R212, R216, R217, R412). Device
steps and handler operations have no 32-bit word. -/
def encodeWord (i : Instr) : Option (BitVec 32) :=
  match i with
  | .add p t u => some (Enc.fmtAdd 0x1#7 p 0x0#5 t u)
  | .sub p t u => some (Enc.fmtAdd 0x1#7 p 0x1#5 t u)
  | .mul p t u => some (Enc.fmtAdd 0x1#7 p 0x2#5 t u)
  | .mulh p t u => some (Enc.fmtAdd 0x1#7 p 0x3#5 t u)
  | .mulhn p t u => some (Enc.fmtAdd 0x1#7 p 0x4#5 t u)
  | .adds p t u => some (Enc.fmtAdd 0x1#7 p 0x5#5 t u)
  | .min p t u => some (Enc.fmtAdd 0x1#7 p 0x6#5 t u)
  | .max p t u => some (Enc.fmtAdd 0x1#7 p 0x7#5 t u)
  | .minn p t u => some (Enc.fmtAdd 0x1#7 p 0x8#5 t u)
  | .maxn p t u => some (Enc.fmtAdd 0x1#7 p 0x9#5 t u)
  | .divs p t u => some (Enc.fmtAdd 0x2#7 p 0x0#5 t u)
  | .divn p t u => some (Enc.fmtAdd 0x2#7 p 0x1#5 t u)
  | .rems p t u => some (Enc.fmtAdd 0x2#7 p 0x2#5 t u)
  | .remn p t u => some (Enc.fmtAdd 0x2#7 p 0x3#5 t u)
  | .and p t u => some (Enc.fmtAdd 0x3#7 p 0x0#5 t u)
  | .or p t u => some (Enc.fmtAdd 0x3#7 p 0x1#5 t u)
  | .xor p t u => some (Enc.fmtAdd 0x3#7 p 0x2#5 t u)
  | .andn p t u => some (Enc.fmtAdd 0x3#7 p 0x3#5 t u)
  | .shl p t u => some (Enc.fmtAdd 0x4#7 p 0x0#5 t u)
  | .shr p t u => some (Enc.fmtAdd 0x4#7 p 0x1#5 t u)
  | .sha p t u => some (Enc.fmtAdd 0x4#7 p 0x2#5 t u)
  | .rol p t u => some (Enc.fmtAdd 0x4#7 p 0x3#5 t u)
  | .clz p t u => some (Enc.fmtAdd 0x5#7 p 0x0#5 t u)
  | .ctz p t u => some (Enc.fmtAdd 0x5#7 p 0x1#5 t u)
  | .popc p t u => some (Enc.fmtAdd 0x5#7 p 0x2#5 t u)
  | .mov p t u => some (Enc.fmtAdd 0x5#7 p 0x3#5 t u)
  | .sext p w t u => some (Enc.fmtSext 0x6#7 p 0x0#3 w t u)
  | .zext p w t u => some (Enc.fmtSext 0x6#7 p 0x1#3 w t u)
  | .addi p i t => some (Enc.fmtAddi 0x7#7 p i t)
  | .muli p i t => some (Enc.fmtAddi 0x8#7 p i t)
  | .andi p i t => some (Enc.fmtAddi 0x9#7 p i t)
  | .ori p i t => some (Enc.fmtAddi 0xA#7 p i t)
  | .xori p i t => some (Enc.fmtAddi 0xB#7 p i t)
  | .shli p n t => some (Enc.fmtShli 0xC#7 p 0x0#8 n t)
  | .shri p n t => some (Enc.fmtShli 0xD#7 p 0x0#8 n t)
  | .shai p n t => some (Enc.fmtShli 0xE#7 p 0x0#8 n t)
  | .bfx p q w t => some (Enc.fmtBfx 0xF#7 p 0x0#2 q w t)
  | .bfi p q w t => some (Enc.fmtBfx 0x10#7 p 0x0#2 q w t)
  | .movc c t => some (Enc.fmtMovc 0x11#7 c t)
  | .movh c t => some (Enc.fmtMovc 0x12#7 c t)
  | .rdh p h t u => some (Enc.fmtRdh 0x13#7 p h t u)
  | .teq p t u => some (Enc.fmtAdd 0x18#7 p 0x0#5 t u)
  | .tne p t u => some (Enc.fmtAdd 0x18#7 p 0x1#5 t u)
  | .tlt p t u => some (Enc.fmtAdd 0x18#7 p 0x2#5 t u)
  | .tle p t u => some (Enc.fmtAdd 0x18#7 p 0x3#5 t u)
  | .tltn p t u => some (Enc.fmtAdd 0x18#7 p 0x4#5 t u)
  | .tlen p t u => some (Enc.fmtAdd 0x18#7 p 0x5#5 t u)
  | .teqi p i t => some (Enc.fmtAddi 0x19#7 p i t)
  | .tlti p i t => some (Enc.fmtAddi 0x1A#7 p i t)
  | .tltni p i t => some (Enc.fmtAddi 0x1B#7 p i t)
  | .pand p t u => some (Enc.fmtAdd 0x1C#7 p 0x0#5 t u)
  | .por p t u => some (Enc.fmtAdd 0x1C#7 p 0x1#5 t u)
  | .pnot p t u => some (Enc.fmtAdd 0x1C#7 p 0x2#5 t u)
  | .ldb p l i t => some (Enc.fmtRdh 0x20#7 p l i t)
  | .ldbs p l i t => some (Enc.fmtRdh 0x21#7 p l i t)
  | .ldh p l i t => some (Enc.fmtRdh 0x22#7 p l i t)
  | .ldhs p l i t => some (Enc.fmtRdh 0x23#7 p l i t)
  | .ldw p l i t => some (Enc.fmtRdh 0x24#7 p l i t)
  | .ldws p l i t => some (Enc.fmtRdh 0x25#7 p l i t)
  | .ldd p l i t => some (Enc.fmtRdh 0x26#7 p l i t)
  | .lda p l s t => some (Enc.fmtLda 0x27#7 p l 0x0#5 s 0x0#1 t)
  | .ldred p l s t => some (Enc.fmtLda 0x28#7 p l 0x0#5 s 0x0#1 t)
  | .ldt p l k t => some (Enc.fmtLdt 0x29#7 p l 0x0#1 k t)
  | .prf p l i => some (Enc.fmtPrf 0x2A#7 p l i 0x1A0#9)
  | .stb p l i => some (Enc.fmtStb 0x2B#7 p l i)
  | .sth p l i => some (Enc.fmtStb 0x2C#7 p l i)
  | .stw p l i => some (Enc.fmtStb 0x2D#7 p l i)
  | .std p l i => some (Enc.fmtStb 0x2E#7 p l i)
  | .stl p l s i => some (Enc.fmtStl 0x2F#7 p l s i)
  | .stt p l k => some (Enc.fmtStt 0x30#7 p l 0x0#10 k)
  | .spills p l b a => some (Enc.fmtSpills 0x31#7 p l 0x0#8 b a)
  | .fills p l b a => some (Enc.fmtSpills 0x32#7 p l 0x0#8 b a)
  | .aadd p l s t => some (Enc.fmtLda 0x38#7 p l 0x0#5 s 0x0#1 t)
  | .aaddf p l s t => some (Enc.fmtLda 0x38#7 p l 0x1#5 s 0x0#1 t)
  | .amin p l s t => some (Enc.fmtLda 0x38#7 p l 0x2#5 s 0x0#1 t)
  | .amax p l s t => some (Enc.fmtLda 0x38#7 p l 0x3#5 s 0x0#1 t)
  | .aminn p l s t => some (Enc.fmtLda 0x38#7 p l 0x4#5 s 0x0#1 t)
  | .amaxn p l s t => some (Enc.fmtLda 0x38#7 p l 0x5#5 s 0x0#1 t)
  | .aand p l s t => some (Enc.fmtLda 0x38#7 p l 0x6#5 s 0x0#1 t)
  | .aor p l s t => some (Enc.fmtLda 0x38#7 p l 0x7#5 s 0x0#1 t)
  | .axor p l s t => some (Enc.fmtLda 0x38#7 p l 0x8#5 s 0x0#1 t)
  | .aswp p l s t => some (Enc.fmtLda 0x38#7 p l 0x9#5 s 0x0#1 t)
  | .acas p l s t => some (Enc.fmtLda 0x38#7 p l 0xA#5 s 0x0#1 t)
  | .ainc p l s t => some (Enc.fmtLda 0x38#7 p l 0xB#5 s 0x0#1 t)
  | .fence p l s t => some (Enc.fmtLda 0x40#7 p l 0x0#5 s 0x0#1 t)
  | .xfence p l f g s => some (Enc.fmtXfence 0x41#7 p l f g s)
  | .sbar p l a g => some (Enc.fmtSbar 0x42#7 p l 0x0#15 a g)
  | .abar p l m => some (Enc.fmtStt 0x43#7 p l 0x0#10 m)
  | .wbar p l s => some (Enc.fmtWbar 0x44#7 p l 0x0#15 s)
  | .tbar p l q k => some (Enc.fmtTbar 0x45#7 p l 0x0#8 q k)
  | .yield p t u => some (Enc.fmtAdd 0x46#7 p 0x0#5 t u)
  | .wfe p t u => some (Enc.fmtAdd 0x47#7 p 0x0#5 t u)
  | .sev p t u => some (Enc.fmtAdd 0x48#7 p 0x0#5 t u)
  | .nwrite p l z => some (Enc.fmtNwrite 0x49#7 p l 0x0#17 z)
  | .qrsv p n t => some (Enc.fmtShli 0x50#7 p 0x0#8 n t)
  | .qpush p n t => some (Enc.fmtShli 0x51#7 p 0x0#8 n t)
  | .qwait p v n t => some (Enc.fmtQwait 0x52#7 p v 0x0#6 n t)
  | .qpop p v n t => some (Enc.fmtQwait 0x53#7 p v 0x0#6 n t)
  | .qadv p v n t => some (Enc.fmtQwait 0x54#7 p v 0x0#6 n t)
  | .qpadv p v n t => some (Enc.fmtQwait 0x55#7 p v 0x0#6 n t)
  | .qpol p n t => some (Enc.fmtShli 0x56#7 p 0x0#8 n t)
  | .qstat p v n t => some (Enc.fmtQwait 0x57#7 p v 0x0#6 n t)
  | .qgap p n t => some (Enc.fmtShli 0x58#7 p 0x0#8 n t)
  | .qmark p n t => some (Enc.fmtShli 0x59#7 p 0x0#8 n t)
  | .rwait p n t => some (Enc.fmtShli 0x5A#7 p 0x0#8 n t)
  | .rrel p n t => some (Enc.fmtShli 0x5B#7 p 0x0#8 n t)
  | .sopen p l s t => some (Enc.fmtLdt 0x60#7 p l 0x0#1 s t)
  | .sclose p l s t => some (Enc.fmtLdt 0x61#7 p l 0x0#1 s t)
  | .sseek p s t => some (Enc.fmtSseek 0x62#7 p 0x0#6 s t)
  | .shand p o t => some (Enc.fmtShand 0x63#7 p 0x0#10 o t)
  | .cfgld p g t => some (Enc.fmtCfgld 0x64#7 p 0x0#12 g t)
  | .cfgsh p g t => some (Enc.fmtCfgld 0x65#7 p 0x0#12 g t)
  | .rgo p g t => some (Enc.fmtCfgld 0x66#7 p 0x0#12 g t)
  | .rdrain p g t => some (Enc.fmtCfgld 0x67#7 p 0x0#12 g t)
  | .rstat p q k t => some (Enc.fmtRstat 0x68#7 p q k t)
  | .rmark p g t => some (Enc.fmtCfgld 0x69#7 p 0x0#12 g t)
  | .rroll p g t => some (Enc.fmtCfgld 0x6A#7 p 0x0#12 g t)
  | .bankm p l b t => some (Enc.fmtBankm 0x6B#7 p l 0x0#4 b t)
  | .ttsetDefine p k t => some (Enc.fmtSseek 0x6C#7 p 0x0#6 k t)
  | .ttsetUndefine p k t => some (Enc.fmtSseek 0x6C#7 p 0x8#6 k t)
  | .ttsetFill p k t => some (Enc.fmtSseek 0x6C#7 p 0x10#6 k t)
  | .ttsetReady p k t => some (Enc.fmtSseek 0x6C#7 p 0x18#6 k t)
  | .ttsetAbort p k t => some (Enc.fmtSseek 0x6C#7 p 0x20#6 k t)
  | .ttsetDrain p k t => some (Enc.fmtSseek 0x6C#7 p 0x28#6 k t)
  | .ttsetEmpty p k t => some (Enc.fmtSseek 0x6C#7 p 0x30#6 k t)
  | .ttq p w k t => some (Enc.fmtTtq 0x6D#7 p 0x0#5 w k t)
  | .cparm p t u => some (Enc.fmtAdd 0x70#7 p 0x0#5 t u)
  | .cpgo p t u => some (Enc.fmtAdd 0x70#7 p 0x1#5 t u)
  | .cpdis p t u => some (Enc.fmtAdd 0x70#7 p 0x2#5 t u)
  | .mxtask p t u => some (Enc.fmtAdd 0x70#7 p 0x3#5 t u)
  | .coll p t u => some (Enc.fmtAdd 0x70#7 p 0x4#5 t u)
  | .zres p t u => some (Enc.fmtAdd 0x71#7 p 0x0#5 t u)
  | .zrel p t u => some (Enc.fmtAdd 0x71#7 p 0x1#5 t u)
  | .zbar p t u => some (Enc.fmtAdd 0x71#7 p 0x2#5 t u)
  | .zanno p t u => some (Enc.fmtAdd 0x71#7 p 0x3#5 t u)
  | .launch p t u => some (Enc.fmtAdd 0x72#7 p 0x0#5 t u)
  | .tenq p t u => some (Enc.fmtAdd 0x72#7 p 0x1#5 t u)
  | .tdeq p t u => some (Enc.fmtAdd 0x72#7 p 0x2#5 t u)
  | .schnext p t u => some (Enc.fmtAdd 0x72#7 p 0x3#5 t u)
  | .launchPark p t u => some (Enc.fmtAdd 0x72#7 p 0x10#5 t u)
  | .tdeqPark p t u => some (Enc.fmtAdd 0x72#7 p 0x12#5 t u)
  | .acopen p t u => some (Enc.fmtAdd 0x73#7 p 0x0#5 t u)
  | .acadd p t u => some (Enc.fmtAdd 0x73#7 p 0x1#5 t u)
  | .acscope p t l => some (Enc.fmtAcscope 0x73#7 p 0x2#5 t 0x0#4 l)
  | .acnorm p t u => some (Enc.fmtAdd 0x73#7 p 0x3#5 t u)
  | .acevict p t u => some (Enc.fmtAdd 0x73#7 p 0x4#5 t u)
  | .acload p t u => some (Enc.fmtAdd 0x73#7 p 0x5#5 t u)
  | .br p e o => some (Enc.fmtBr 0x78#7 p e o)
  | .call p e o => some (Enc.fmtBr 0x79#7 p e o)
  | .brt p e => some (Enc.fmtBrt 0x7A#7 p e 0x0#20)
  | .callt p e => some (Enc.fmtBrt 0x7B#7 p e 0x0#20)
  | .ret p e => some (Enc.fmtRet 0x7C#7 p 0x0#2 e 0x341A0#18)
  | .sel p t u => some (Enc.fmtAdd 0x7C#7 p 0x8#5 t u)
  | .nullw p t u => some (Enc.fmtAdd 0x7C#7 p 0x9#5 t u)
  | .nulls p t l => some (Enc.fmtAcscope 0x7C#7 p 0xA#5 t 0x0#4 l)
  | .trap p => some (Enc.fmtTrap 0x7D#7 p 0x0#5 0x341A0#18)
  | .sysc p => some (Enc.fmtTrap 0x7D#7 p 0x1#5 0x341A0#18)
  | .rdsr p t r => some (Enc.fmtRdsr 0x7D#7 p 0x2#5 t 0x0#1 r)
  | .wrsr p t r => some (Enc.fmtRdsr 0x7D#7 p 0x3#5 t 0x0#1 r)
  | .rdtime p t u => some (Enc.fmtAdd 0x7D#7 p 0x4#5 t u)
  | .eret p => some (Enc.fmtTrap 0x7D#7 p 0x5#5 0x341A0#18)
  | .halt p => some (Enc.fmtTrap 0x7D#7 p 0x6#5 0x341A0#18)
  | .brk p => some (Enc.fmtTrap 0x7D#7 p 0x7#5 0x341A0#18)
  | .idle p t u => some (Enc.fmtAdd 0x7D#7 p 0x8#5 t u)
  | .setctx p t u => some (Enc.fmtAdd 0x7D#7 p 0x9#5 t u)
  | .inval p t u => some (Enc.fmtAdd 0x7D#7 p 0xA#5 t u)
  | .kill p t u => some (Enc.fmtAdd 0x7D#7 p 0xB#5 t u)
  | .dsnap p t u => some (Enc.fmtAdd 0x7D#7 p 0xC#5 t u)
  | .plySend b a d => some (Enc.fmtPlySend 0x0#7 b a 0x0#3 d 0xB#7)
  | .plyRecv b a d => some (Enc.fmtPlySend 0x0#7 b a 0x1#3 d 0xB#7)
  | .plyPoll b a d => some (Enc.fmtPlySend 0x0#7 b a 0x2#3 d 0xB#7)
  | .plyTag b a d => some (Enc.fmtPlySend 0x0#7 b a 0x3#3 d 0xB#7)
  | .plyFlag b a d => some (Enc.fmtPlySend 0x0#7 b a 0x4#3 d 0xB#7)
  | .plyEnd b a d => some (Enc.fmtPlySend 0x0#7 b a 0x5#3 d 0xB#7)
  | .plyRwd b a d => some (Enc.fmtPlySend 0x0#7 b a 0x6#3 d 0xB#7)
  | .iadd _ => none
  | .isub _ => none
  | .imul _ => none
  | .imulh _ => none
  | .iand _ => none
  | .ior _ => none
  | .ixor _ => none
  | .ishl _ => none
  | .ishr _ => none
  | .isha _ => none
  | .imin _ => none
  | .imax _ => none
  | .ieq _ => none
  | .ilt _ => none
  | .iltn _ => none
  | .isel _ => none
  | .fadd _ => none
  | .fsub _ => none
  | .fmul _ => none
  | .fma _ => none
  | .fmin _ => none
  | .fmax _ => none
  | .fneg _ => none
  | .fabs _ => none
  | .frcp _ => none
  | .frsq _ => none
  | .fexp2 _ => none
  | .flog2 _ => none
  | .feq _ => none
  | .flt _ => none
  | .fsel _ => none
  | .cvif _ => none
  | .cvfi _ => none
  | .pass _ => none
  | .dup _ => none
  | .cnt _ => none
  | .gate _ => none
  | .tsel _ => none
  | .merge _ => none
  | .isect _ => none
  | .union _ => none
  | .stopck _ => none
  | .swap _ => none
  | .mark _ => none
  | .hand _ => none
  | .acc _ => none
  | .accw _ => none
  | .bfly _ => none
  | .wmul _ => none
  | .gapw _ => none
  | .widen _ => none
  | .cmpd _ => none
  | .join _ => none
  | .win _ => none
  | .mxnode _ => none
  | .cpnode _ => none
  | .clnode _ => none
  | .asidEnable => none
  | .asidDisable => none
  | .asidDisableDrained => none
  | .registerWrite => none
  | .inboundRequest => none
  | .walkerQuotaWrite => none
  | .walkSlotGrant => none
  | .walkComplete => none
  | .dirtyTrackingWrite => none
  | .invalidationComplete => none
  | .bankPortGrant => none
  | .bankChangeReach => none
  | .bankChangeComplete => none
  | .coreCacheFill => none
  | .l2Access => none
  | .l2FillComplete => none
  | .tileEngineWrite => none
  | .tileRefIssue => none
  | .queueRecordArrival => none
  | .queueDataToken => none
  | .queueMarkerArrival => none
  | .spillRefill => none
  | .rowAdd => none
  | .temperRead => none
  | .addScopeClose => none
  | .reservationRequest => none
  | .reservationReply => none
  | .slotWriteArrival => none
  | .slotEndToken => none
  | .phaseNoticeArrival => none
  | .reservationTimeout => none
  | .landingQuotaWrite => none
  | .linkDown => none
  | .retrainWindowExpiry => none
  | .linkRetrained => none
  | .aguStreamAccess => none
  | .coalesceIdleFlush => none
  | .handToken => none
  | .remoteAtomicArrival => none
  | .replayEntryExpiry => none
  | .remoteReply => none
  | .remoteReplyTimeout => none
  | .replayQuotaWrite => none
  | .notifyPageEnable => none
  | .doorbellWrite => none
  | .admitRegion => none
  | .admitTile => none
  | .admitHeap => none
  | .admitEvent => none
  | .schedQuotaWrite => none
  | .arbiterPlaceRegion => none
  | .arbiterPlaceTile => none
  | .arbiterCounterPoll => none
  | .frameAllocate => none
  | .frameSurrender => none
  | .blockFetch => none
  | .blockCommit => none
  | .segmentBudgetExpiry => none
  | .channelPull => none
  | .stalemateCheck => none
  | .stallout => none
  | .elementSwap => none
  | .waitRelease => none
  | .idleTimeout => none
  | .copyTriggerRecord => none
  | .copyComplete => none
  | .matrixTaskComplete => none
  | .collectiveComplete => none
  | .cfgldComplete => none
  | .regionDrainComplete => none
  | .markerWaveComplete => none
  | .regionRollback => none
  | .regionPreempt => none
  | .killDrainComplete => none
  | .faultWindowWrite => none
  | .debugHalt => none
  | .debugResume => none
  | .debugAreaRefill => none
  | .histogramSave => none
  | .episodeBind => none
  | .episodeUnbind => none
  | .hearthWindowAccess => none
  | .actionRecordAccept => none
  | .flagFall => none
  | .nodeidWrite => none
  | .portEnable => none
  | .portDisable => none
  | .portModeSet => none
  | .flitReceive => none
  | .timeSyncTick => none
  | .gtscAlign => none
  | .reseqPacketArrival => none
  | .reseqSourceTimeout => none
  | .powerOn => none
  | .attestationRequest => none
  | .firmwareInstall => none
  | .sensorSample => none
  | .coolantReport => none
  | .flowLoss => none
  | .linkTrained => none
  | .moduleReset => none

/-! ### Handler words (R219, R221) -/

/-- The operation code of a handler instruction (R221). -/
def handlerOp (i : Instr) : Option (BitVec 8 × HWord) :=
  match i with
  | .add _ _ _ => none
  | .sub _ _ _ => none
  | .mul _ _ _ => none
  | .mulh _ _ _ => none
  | .mulhn _ _ _ => none
  | .adds _ _ _ => none
  | .min _ _ _ => none
  | .max _ _ _ => none
  | .minn _ _ _ => none
  | .maxn _ _ _ => none
  | .divs _ _ _ => none
  | .divn _ _ _ => none
  | .rems _ _ _ => none
  | .remn _ _ _ => none
  | .and _ _ _ => none
  | .or _ _ _ => none
  | .xor _ _ _ => none
  | .andn _ _ _ => none
  | .shl _ _ _ => none
  | .shr _ _ _ => none
  | .sha _ _ _ => none
  | .rol _ _ _ => none
  | .clz _ _ _ => none
  | .ctz _ _ _ => none
  | .popc _ _ _ => none
  | .mov _ _ _ => none
  | .sext _ _ _ _ => none
  | .zext _ _ _ _ => none
  | .addi _ _ _ => none
  | .muli _ _ _ => none
  | .andi _ _ _ => none
  | .ori _ _ _ => none
  | .xori _ _ _ => none
  | .shli _ _ _ => none
  | .shri _ _ _ => none
  | .shai _ _ _ => none
  | .bfx _ _ _ _ => none
  | .bfi _ _ _ _ => none
  | .movc _ _ => none
  | .movh _ _ => none
  | .rdh _ _ _ _ => none
  | .teq _ _ _ => none
  | .tne _ _ _ => none
  | .tlt _ _ _ => none
  | .tle _ _ _ => none
  | .tltn _ _ _ => none
  | .tlen _ _ _ => none
  | .teqi _ _ _ => none
  | .tlti _ _ _ => none
  | .tltni _ _ _ => none
  | .pand _ _ _ => none
  | .por _ _ _ => none
  | .pnot _ _ _ => none
  | .ldb _ _ _ _ => none
  | .ldbs _ _ _ _ => none
  | .ldh _ _ _ _ => none
  | .ldhs _ _ _ _ => none
  | .ldw _ _ _ _ => none
  | .ldws _ _ _ _ => none
  | .ldd _ _ _ _ => none
  | .lda _ _ _ _ => none
  | .ldred _ _ _ _ => none
  | .ldt _ _ _ _ => none
  | .prf _ _ _ => none
  | .stb _ _ _ => none
  | .sth _ _ _ => none
  | .stw _ _ _ => none
  | .std _ _ _ => none
  | .stl _ _ _ _ => none
  | .stt _ _ _ => none
  | .spills _ _ _ _ => none
  | .fills _ _ _ _ => none
  | .aadd _ _ _ _ => none
  | .aaddf _ _ _ _ => none
  | .amin _ _ _ _ => none
  | .amax _ _ _ _ => none
  | .aminn _ _ _ _ => none
  | .amaxn _ _ _ _ => none
  | .aand _ _ _ _ => none
  | .aor _ _ _ _ => none
  | .axor _ _ _ _ => none
  | .aswp _ _ _ _ => none
  | .acas _ _ _ _ => none
  | .ainc _ _ _ _ => none
  | .fence _ _ _ _ => none
  | .xfence _ _ _ _ _ => none
  | .sbar _ _ _ _ => none
  | .abar _ _ _ => none
  | .wbar _ _ _ => none
  | .tbar _ _ _ _ => none
  | .yield _ _ _ => none
  | .wfe _ _ _ => none
  | .sev _ _ _ => none
  | .nwrite _ _ _ => none
  | .qrsv _ _ _ => none
  | .qpush _ _ _ => none
  | .qwait _ _ _ _ => none
  | .qpop _ _ _ _ => none
  | .qadv _ _ _ _ => none
  | .qpadv _ _ _ _ => none
  | .qpol _ _ _ => none
  | .qstat _ _ _ _ => none
  | .qgap _ _ _ => none
  | .qmark _ _ _ => none
  | .rwait _ _ _ => none
  | .rrel _ _ _ => none
  | .sopen _ _ _ _ => none
  | .sclose _ _ _ _ => none
  | .sseek _ _ _ => none
  | .shand _ _ _ => none
  | .cfgld _ _ _ => none
  | .cfgsh _ _ _ => none
  | .rgo _ _ _ => none
  | .rdrain _ _ _ => none
  | .rstat _ _ _ _ => none
  | .rmark _ _ _ => none
  | .rroll _ _ _ => none
  | .bankm _ _ _ _ => none
  | .ttsetDefine _ _ _ => none
  | .ttsetUndefine _ _ _ => none
  | .ttsetFill _ _ _ => none
  | .ttsetReady _ _ _ => none
  | .ttsetAbort _ _ _ => none
  | .ttsetDrain _ _ _ => none
  | .ttsetEmpty _ _ _ => none
  | .ttq _ _ _ _ => none
  | .cparm _ _ _ => none
  | .cpgo _ _ _ => none
  | .cpdis _ _ _ => none
  | .mxtask _ _ _ => none
  | .coll _ _ _ => none
  | .zres _ _ _ => none
  | .zrel _ _ _ => none
  | .zbar _ _ _ => none
  | .zanno _ _ _ => none
  | .launch _ _ _ => none
  | .tenq _ _ _ => none
  | .tdeq _ _ _ => none
  | .schnext _ _ _ => none
  | .launchPark _ _ _ => none
  | .tdeqPark _ _ _ => none
  | .acopen _ _ _ => none
  | .acadd _ _ _ => none
  | .acscope _ _ _ => none
  | .acnorm _ _ _ => none
  | .acevict _ _ _ => none
  | .acload _ _ _ => none
  | .br _ _ _ => none
  | .call _ _ _ => none
  | .brt _ _ => none
  | .callt _ _ => none
  | .ret _ _ => none
  | .sel _ _ _ => none
  | .nullw _ _ _ => none
  | .nulls _ _ _ => none
  | .trap _ => none
  | .sysc _ => none
  | .rdsr _ _ _ => none
  | .wrsr _ _ _ => none
  | .rdtime _ _ _ => none
  | .eret _ => none
  | .halt _ => none
  | .brk _ => none
  | .idle _ _ _ => none
  | .setctx _ _ _ => none
  | .inval _ _ _ => none
  | .kill _ _ _ => none
  | .dsnap _ _ _ => none
  | .plySend _ _ _ => none
  | .plyRecv _ _ _ => none
  | .plyPoll _ _ _ => none
  | .plyTag _ _ _ => none
  | .plyFlag _ _ _ => none
  | .plyEnd _ _ _ => none
  | .plyRwd _ _ _ => none
  | .iadd h => some (0x01#8, h)
  | .isub h => some (0x02#8, h)
  | .imul h => some (0x03#8, h)
  | .imulh h => some (0x04#8, h)
  | .iand h => some (0x05#8, h)
  | .ior h => some (0x06#8, h)
  | .ixor h => some (0x07#8, h)
  | .ishl h => some (0x08#8, h)
  | .ishr h => some (0x09#8, h)
  | .isha h => some (0x0A#8, h)
  | .imin h => some (0x0B#8, h)
  | .imax h => some (0x0C#8, h)
  | .ieq h => some (0x0D#8, h)
  | .ilt h => some (0x0E#8, h)
  | .iltn h => some (0x0F#8, h)
  | .isel h => some (0x10#8, h)
  | .fadd h => some (0x20#8, h)
  | .fsub h => some (0x21#8, h)
  | .fmul h => some (0x22#8, h)
  | .fma h => some (0x23#8, h)
  | .fmin h => some (0x24#8, h)
  | .fmax h => some (0x25#8, h)
  | .fneg h => some (0x26#8, h)
  | .fabs h => some (0x27#8, h)
  | .frcp h => some (0x28#8, h)
  | .frsq h => some (0x29#8, h)
  | .fexp2 h => some (0x2A#8, h)
  | .flog2 h => some (0x2B#8, h)
  | .feq h => some (0x2C#8, h)
  | .flt h => some (0x2D#8, h)
  | .fsel h => some (0x2E#8, h)
  | .cvif h => some (0x30#8, h)
  | .cvfi h => some (0x31#8, h)
  | .pass h => some (0x40#8, h)
  | .dup h => some (0x41#8, h)
  | .cnt h => some (0x42#8, h)
  | .gate h => some (0x43#8, h)
  | .tsel h => some (0x44#8, h)
  | .merge h => some (0x45#8, h)
  | .isect h => some (0x46#8, h)
  | .union h => some (0x47#8, h)
  | .stopck h => some (0x48#8, h)
  | .swap h => some (0x49#8, h)
  | .mark h => some (0x4A#8, h)
  | .hand h => some (0x4B#8, h)
  | .acc h => some (0x50#8, h)
  | .accw h => some (0x51#8, h)
  | .bfly h => some (0x52#8, h)
  | .wmul h => some (0x53#8, h)
  | .gapw h => some (0x54#8, h)
  | .widen h => some (0x58#8, h)
  | .cmpd h => some (0x59#8, h)
  | .join h => some (0x60#8, h)
  | .win h => some (0x61#8, h)
  | .mxnode h => some (0x62#8, h)
  | .cpnode h => some (0x63#8, h)
  | .clnode h => some (0x64#8, h)
  | .asidEnable => none
  | .asidDisable => none
  | .asidDisableDrained => none
  | .registerWrite => none
  | .inboundRequest => none
  | .walkerQuotaWrite => none
  | .walkSlotGrant => none
  | .walkComplete => none
  | .dirtyTrackingWrite => none
  | .invalidationComplete => none
  | .bankPortGrant => none
  | .bankChangeReach => none
  | .bankChangeComplete => none
  | .coreCacheFill => none
  | .l2Access => none
  | .l2FillComplete => none
  | .tileEngineWrite => none
  | .tileRefIssue => none
  | .queueRecordArrival => none
  | .queueDataToken => none
  | .queueMarkerArrival => none
  | .spillRefill => none
  | .rowAdd => none
  | .temperRead => none
  | .addScopeClose => none
  | .reservationRequest => none
  | .reservationReply => none
  | .slotWriteArrival => none
  | .slotEndToken => none
  | .phaseNoticeArrival => none
  | .reservationTimeout => none
  | .landingQuotaWrite => none
  | .linkDown => none
  | .retrainWindowExpiry => none
  | .linkRetrained => none
  | .aguStreamAccess => none
  | .coalesceIdleFlush => none
  | .handToken => none
  | .remoteAtomicArrival => none
  | .replayEntryExpiry => none
  | .remoteReply => none
  | .remoteReplyTimeout => none
  | .replayQuotaWrite => none
  | .notifyPageEnable => none
  | .doorbellWrite => none
  | .admitRegion => none
  | .admitTile => none
  | .admitHeap => none
  | .admitEvent => none
  | .schedQuotaWrite => none
  | .arbiterPlaceRegion => none
  | .arbiterPlaceTile => none
  | .arbiterCounterPoll => none
  | .frameAllocate => none
  | .frameSurrender => none
  | .blockFetch => none
  | .blockCommit => none
  | .segmentBudgetExpiry => none
  | .channelPull => none
  | .stalemateCheck => none
  | .stallout => none
  | .elementSwap => none
  | .waitRelease => none
  | .idleTimeout => none
  | .copyTriggerRecord => none
  | .copyComplete => none
  | .matrixTaskComplete => none
  | .collectiveComplete => none
  | .cfgldComplete => none
  | .regionDrainComplete => none
  | .markerWaveComplete => none
  | .regionRollback => none
  | .regionPreempt => none
  | .killDrainComplete => none
  | .faultWindowWrite => none
  | .debugHalt => none
  | .debugResume => none
  | .debugAreaRefill => none
  | .histogramSave => none
  | .episodeBind => none
  | .episodeUnbind => none
  | .hearthWindowAccess => none
  | .actionRecordAccept => none
  | .flagFall => none
  | .nodeidWrite => none
  | .portEnable => none
  | .portDisable => none
  | .portModeSet => none
  | .flitReceive => none
  | .timeSyncTick => none
  | .gtscAlign => none
  | .reseqPacketArrival => none
  | .reseqSourceTimeout => none
  | .powerOn => none
  | .attestationRequest => none
  | .firmwareInstall => none
  | .sensorSample => none
  | .coolantReport => none
  | .flowLoss => none
  | .linkTrained => none
  | .moduleReset => none

/-- The handler instruction of an operation code, none where R221 assigns none. -/
def handlerOfOp (op : Nat) (h : HWord) : Option Instr :=
  match op with
  | 0x01 => some (.iadd h)
  | 0x02 => some (.isub h)
  | 0x03 => some (.imul h)
  | 0x04 => some (.imulh h)
  | 0x05 => some (.iand h)
  | 0x06 => some (.ior h)
  | 0x07 => some (.ixor h)
  | 0x08 => some (.ishl h)
  | 0x09 => some (.ishr h)
  | 0x0A => some (.isha h)
  | 0x0B => some (.imin h)
  | 0x0C => some (.imax h)
  | 0x0D => some (.ieq h)
  | 0x0E => some (.ilt h)
  | 0x0F => some (.iltn h)
  | 0x10 => some (.isel h)
  | 0x20 => some (.fadd h)
  | 0x21 => some (.fsub h)
  | 0x22 => some (.fmul h)
  | 0x23 => some (.fma h)
  | 0x24 => some (.fmin h)
  | 0x25 => some (.fmax h)
  | 0x26 => some (.fneg h)
  | 0x27 => some (.fabs h)
  | 0x28 => some (.frcp h)
  | 0x29 => some (.frsq h)
  | 0x2A => some (.fexp2 h)
  | 0x2B => some (.flog2 h)
  | 0x2C => some (.feq h)
  | 0x2D => some (.flt h)
  | 0x2E => some (.fsel h)
  | 0x30 => some (.cvif h)
  | 0x31 => some (.cvfi h)
  | 0x40 => some (.pass h)
  | 0x41 => some (.dup h)
  | 0x42 => some (.cnt h)
  | 0x43 => some (.gate h)
  | 0x44 => some (.tsel h)
  | 0x45 => some (.merge h)
  | 0x46 => some (.isect h)
  | 0x47 => some (.union h)
  | 0x48 => some (.stopck h)
  | 0x49 => some (.swap h)
  | 0x4A => some (.mark h)
  | 0x4B => some (.hand h)
  | 0x50 => some (.acc h)
  | 0x51 => some (.accw h)
  | 0x52 => some (.bfly h)
  | 0x53 => some (.wmul h)
  | 0x54 => some (.gapw h)
  | 0x58 => some (.widen h)
  | 0x59 => some (.cmpd h)
  | 0x60 => some (.join h)
  | 0x61 => some (.win h)
  | 0x62 => some (.mxnode h)
  | 0x63 => some (.cpnode h)
  | 0x64 => some (.clnode h)
  | _ => none

/-- A handler word with an operation code above its fields (R219). -/
def packHandler (op : BitVec 8) (h : HWord) : BitVec 64 :=
  op ++ h.pri ++ h.msk ++ h.graph ++ h.fire ++ h.a ++ h.b ++ h.c ++ h.dst ++ h.outmask ++ h.och ++ h.rm
    ++ h.dsel ++ h.param

/-- The fields of a handler word (R219). -/
def unpackHandler (w : BitVec 64) : HWord :=
  { pri := w.extractLsb' 53 3, msk := w.extractLsb' 52 1, graph := w.extractLsb' 50 2,
    fire := w.extractLsb' 46 4, a := w.extractLsb' 42 4, b := w.extractLsb' 38 4, c := w.extractLsb' 34 4,
    dst := w.extractLsb' 30 4, outmask := w.extractLsb' 26 4, och := w.extractLsb' 22 4,
    rm := w.extractLsb' 19 3, dsel := w.extractLsb' 16 3, param := w.extractLsb' 0 16 }

/-- The encoder of handler words. -/
def encodeHandler (i : Instr) : Option (BitVec 64) :=
  (handlerOp i).map (fun x => packHandler x.1 x.2)

/-- The decoder of handler words: none where the word or its OP is illegal by R221 and R222. -/
def decodeHandler (w : BitVec 64) : Option Instr :=
  if w = 0#64 ∨ w = 0xFFFFFFFFFFFFFFFF#64 then none
  else handlerOfOp (w.extractLsb' 56 8).toNat (unpackHandler w)

/-- A 32-bit word from its bytes in memory order, the byte at the lowest address in bits [7:0] (R3). -/
def wordOfBytes (b0 b1 b2 b3 : Byte) : BitVec 32 := b3 ++ b2 ++ b1 ++ b0

/-- The bytes of a word in memory order (R3). -/
def bytesOfWord (w : BitVec 32) : List Byte :=
  [w.extractLsb' 0 8, w.extractLsb' 8 8, w.extractLsb' 16 8, w.extractLsb' 24 8]

/-- The decoder on bytes: a control-thread word, or a ply word, whose OP field 0x00 is never assigned to
the control-thread set (R216); fewer than four bytes are no word. -/
def decodeBytes : List Byte → Option Instr
  | b0 :: b1 :: b2 :: b3 :: _ =>
    let w := wordOfBytes b0 b1 b2 b3
    match decodePly w with
    | some i => some i
    | none => match decodeWord w with
      | .ok i => some i
      | .error _ => none
  | _ => none

/-- The instruction the decoder reads from a word numbered as the opcode table numbers it: 32-bit forms by
`decodeBytes` on the word's bytes as memory holds them, 64-bit handler words by `decodeHandler`. -/
def decodeTableWord (nbits w : Nat) : Option Instr :=
  if nbits ≤ 32 then decodeBytes (bytesOfWord (BitVec.ofNat 32 w))
  else if nbits ≤ 64 then decodeHandler (BitVec.ofNat 64 w)
  else none

end Sys2Proof
end

