-- ==== Sys2Proof/Config.lean ====
section
/-! DEFINITION. What an implementation of the P960 fixes and its manual does not: the free values.
Each is an opaque constant with no body, so no proof can rest on a value of it (log entry 3). -/

namespace Sys2Proof.Config

/-- A free 64-bit value, one for each index (log entry 3). -/
opaque freeWord : Nat → BitVec 64
/-- A free natural number: a choice the manual leaves open (log entry 3). -/
opaque freeNat : Nat → Nat
/-- How many nanoseconds a step takes, less one (R204 gives no rule a model of whole steps could follow; log entry 3). -/
opaque elapsed : Nat → Nat
/-- The byte offset from BASE that a memory node's address token of some element size names: no rule says how a token
becomes an address (R290; log entry 17). -/
opaque tokenOffset : BitVec 48 → Nat → BitVec 64
/-- A free bit. -/
opaque freeBit : Nat → Bool

end Sys2Proof.Config
end

