-- ==== Sys2Proof/Machine/State.lean ====
section
/-! DEFINITION. The machine's state: every piece of state the manual gives the P960, as plain data, and
the state after reset. Objects are kept in sorted association lists whose missing entries read as the
object's reset value, so a structure below has the manual's reset values as its defaults. -/

namespace Sys2Proof.Machine

/-! ### Addresses and translation (R8–R34) -/

/-- Address-space descriptor (R10), with the V-clear that is not yet acknowledged and when it was made (R11). -/
structure AsidDesc where
  root : BitVec 36
  ten : BitVec 6
  v : Bool
  gen : BitVec 16
  clearing : Bool
  since : Word := 0#64         -- when V was cleared
  deriving DecidableEq, Repr, Inhabited

/-- Peer slot (R17). -/
structure Peer where
  node : BitVec 10
  v : Bool
  deriving DecidableEq, Repr, Inhabited

/-- Inbound window (R18). -/
structure InWin where
  src : BitVec 10
  asid : BitVec 8
  a : Bool
  w : Bool
  rd : Bool
  v : Bool
  base : BitVec 28
  limit : BitVec 28
  deriving DecidableEq, Repr, Inhabited

/-- Walker quota (R27). `maxC` holds 64 − MAX, so that the reset value 64 of MAX is its default. -/
structure WalkQuota where
  qerr : Bool
  maxC : Nat
  min : Nat
  deriving DecidableEq, Repr, Inhabited

/-- Dirty-tracking descriptor (R31). -/
structure DirtyDesc where
  base : BitVec 36
  on : Bool
  vlo : BitVec 39
  npg : BitVec 27
  deriving DecidableEq, Repr, Inhabited

/-- A leaf translation (R25): the page number VA[54:16], whether it is a 512 MiB page, and the leaf's fields. -/
structure Tlb where
  asid : BitVec 8
  gen : BitVec 16
  vpn : BitVec 39
  big : Bool
  ppn : BitVec 36
  mt : BitVec 2
  x : Bool
  w : Bool
  rd : Bool
  deriving DecidableEq, Repr, Inhabited

/-- A walk-cache entry: a level-1 or level-2 table entry (R25), by level and VA prefix. -/
structure WalkEnt where
  asid : BitVec 8
  gen : BitVec 16
  level : Nat
  idx : Nat
  pte : Word
  deriving DecidableEq, Repr, Inhabited

/-- A stream's walk request in its die's walk queue or in a walk slot (R26, R27). -/
structure WalkReq where
  id : Nat
  die : Nat
  asid : BitVec 8
  gen : BitVec 16
  va : Word
  write : Bool
  core : Nat
  strm : Nat
  granted : Bool
  stale : Bool      -- an invalidation began while it was in flight (R30)
  deriving DecidableEq, Repr, Inhabited

/-- Translation state (R8–R34): `mods` 256 descriptors and the tables of the register directory. -/
structure Xlat where
  asids : SMap AsidDesc
  peers : SMap Peer
  wins : SMap InWin
  walkQ : SMap WalkQuota
  dirty : SMap DirtyDesc
  groups : SMap Word
  tlbs : SMap (List Tlb)
  walkC : SMap (List WalkEnt)
  walks : List WalkReq
  deriving DecidableEq, Repr, Inhabited

/-! ### Banks, caches and the tile table (R35–R58) -/

/-- Bank modes (R37); SCRATCH, code 0b01, is the reset value and stands first. -/
inductive BankMode
  | scratch | cache | fifo | accum
  deriving DecidableEq, Repr, Inhabited

/-- A store waiting at a bank port (R36): bank-local bytes, with what each byte becomes and which of its bits the store writes. -/
structure PortStore where
  bytes : List (Nat × Byte × Byte)
  asid : BitVec 8
  rid : Nat
  deriving DecidableEq, Repr, Inhabited

/-- A bank change waiting or in progress (R40, R41). -/
structure BankChange where
  mode : BankMode
  ilv : BitVec 2
  deriving DecidableEq, Repr, Inhabited

/-- A bank: its configuration word (R37), port queue and the change in progress. -/
structure Bank where
  busy : Bool
  ilv : BitVec 2
  mode : BankMode
  queue : List PortStore
  change : Option BankChange
  pend : List BankChange
  deriving DecidableEq, Repr, Inhabited

/-- A 128-byte sector of the core cache. -/
structure CcSector where
  v : Bool
  d : Bool
  data : BitVec 1024
  deriving DecidableEq, Repr, Inhabited

/-- A line of the core cache (R44). -/
structure CcLine where
  tag : BitVec 34
  asid : BitVec 8
  gen : BitVec 16
  rid : Nat
  lo : CcSector
  hi : CcSector
  used : Nat
  deriving DecidableEq, Repr, Inhabited

/-- A sector of the L2: valid, dirty, and while `u` the bytes that DRAM holds beneath it, which differ from the sector's: those it
held before the sector became dirty, or what DEV stores left there. -/
structure L2Sector where
  v : Bool
  d : Bool
  u : Bool
  under : BitVec 1024
  deriving DecidableEq, Repr, Inhabited

/-- An L2 line: its line number PA[51:8], sectors, and owner list (R48, R50). -/
structure L2Line where
  line : Nat
  lo : L2Sector
  hi : L2Sector
  owners : List (BitVec 8)
  ovf : Bool
  badTag : Bool
  badOwn : Bool
  deriving DecidableEq, Repr, Inhabited

/-- An L2 set: sixteen ways and the fifteen bits of its replacement tree (R48). -/
structure L2Set where
  plru : BitVec 15
  ways : SMap L2Line
  deriving DecidableEq, Repr, Inhabited

/-- A gated byte of a region whose wave has not completed (R388). -/
structure Gated where
  rid : Nat
  wave : Nat
  pa : Nat
  byte : Byte
  asid : BitVec 8
  deriving DecidableEq, Repr, Inhabited

/-- Tile-entry states (R53). -/
inductive TileSt
  | empty | filling | ready | draining
  deriving DecidableEq, Repr, Inhabited

/-- Tile-table entry (R53). -/
structure Tile where
  gen : BitVec 16
  st : TileSt
  drq : Bool
  sp : Bool
  sz : BitVec 5
  off : BitVec 26
  fillb : BitVec 32
  dropw : BitVec 8
  use : BitVec 8
  asid : BitVec 8
  rel : Bool        -- a release that takes effect when the entry reaches DRAINING (R55, R136)
  deriving DecidableEq, Repr, Inhabited

/-- Bank, cache and tile state. -/
structure Store where
  banks : SMap Bank
  poison : List Nat            -- poisoned 8-byte words, by address (R50)
  cc : SMap CcLine
  l2 : SMap L2Set
  gated : List Gated
  tiles : SMap Tile
  lrs : SMap (Option Nat) := []  -- reservations of LR at the home L2: by hearth core, the sector (RISC-V's A extension, log entry 7)
  deriving DecidableEq, Repr, Inhabited

/-! ### Queues (R59–R80) -/

/-- A record or marker in a view: its tokens (REC or marker first), whether it is complete, the arrival it
is, its ordinal in the view (R76), which one that arrived before the MARK of the last complete wave no longer has, and in the spill
ring its entry's index. -/
structure QRec where
  toks : List FTok
  done : Bool
  id : Nat
  ord : Nat
  aged : Bool := false
  at_ : Nat := 0
  deriving DecidableEq, Repr, Inhabited

/-- One occupied slot: a marker, a record, or a narrow group of several records with its format (R67, R71). -/
structure QEnt where
  marker : Bool
  nar : Option Nat
  slot : Nat
  recs : List QRec
  deriving DecidableEq, Repr, Inhabited

/-- One position of the merge buffer (R70): the running XF42 value, the exact integer sum, the weight sum of
the values that came, the last value, and whether any came that was not null. -/
structure MergePos where
  acc : FTok
  isum : Int
  wsum : Nat
  last : FTok
  any : Bool
  deriving DecidableEq, Repr, Inhabited

/-- An arrival judged under MERGE that is not complete: it folds when it ends (R67). -/
structure Folding where
  id : Nat
  weight : Nat
  toks : List FTok
  deriving DecidableEq, Repr, Inhabited

/-- A consumer view (R79): its counters, its entries oldest first, the spill ring's entries (their images
stand in memory), the merge buffer, the shed log, and what a rollback replays. -/
structure QView where
  rd : Nat
  wr : Nat
  occ : Nat
  stk : Bool
  spl : Bool
  scnt : Nat
  mcnt : Nat
  xs : BitVec 32
  pgc : Nat
  lgn : Nat
  pgw : Nat
  hgc : Nat
  tgw : Nat
  hgw : Nat
  sph : Nat
  adm : Nat
  lost : Nat
  ovl : Nat
  wsat : Nat
  badctl : Nat
  gaps : Nat
  mkovf : Nat
  ents : List QEnt
  spill : List QRec
  merge : List MergePos
  mweight : Nat
  mhead : FTok
  folding : List Folding
  ord : Nat                    -- ordinal of the next arrival (R76)
  log : List (Nat × Nat)
  logAt : Nat                  -- where in the view's log the oldest of them stands
  ordMark : Nat                -- ordinal of the first arrival after the MARK of a wave in flight, 0 without one
  replayTo : Nat
  rlog : List (Nat × Nat)
  claim : Nat
  pos : Nat                    -- tokens of the oldest entry already delivered at the read port
  deriving DecidableEq, Repr, Inhabited

/-- The producer of a queue (R62): none, a fabric channel, or the control threads of the defining region. -/
inductive QProd
  | none | fabric | threads
  deriving DecidableEq, Repr, Inhabited

/-- An arrival that takes its data tokens (R63), from the fabric (`src` 8) or from a context (0-7): a record,
or a GAP that waits for its weight token (R64). -/
structure QOpen where
  src : Nat
  id : Nat
  ndata : Nat
  weight : Nat
  dead : Bool
  gap : Bool
  tok : FTok
  deriving DecidableEq, Repr, Inhabited

/-- Queue descriptor (R59), with its region, producer, the consumer of each view (R284), views, the arrivals
in progress, and a qpol that waits for the next arrival (R80). -/
structure Queue where
  asid : BitVec 8
  v : Bool
  nv : Nat
  bank : Nat
  nb : Nat
  c : Nat
  t : Nat
  len : Nat
  pol : Nat
  smode : Bool
  mop : Nat
  mty : Bool
  nfmt : Nat
  pn : Nat
  seed : BitVec 32
  sbase : BitVec 39
  slim : Nat
  llim : Nat
  rid : Nat
  prod : QProd
  pstrm : Nat
  ch : BitVec 4
  cons : List Nat
  views : SMap QView
  opens : List QOpen
  pol1 : Option Word
  autoAt : Option Nat          -- arrival before which an automatic MARK stands (R388)
  deriving DecidableEq, Repr, Inhabited

/-! ### Residual accumulators (R106–R123) -/

/-- Accumulator-set descriptor (R107) and what a marker wave keeps of it (R122). -/
structure AccSet where
  asid : BitVec 8
  v : Bool
  bank : Nat
  nb : Nat
  nm1 : Nat
  nrow : Nat
  eps : BitVec 42
  opn : BitVec 16
  radd : BitVec 32
  trd : BitVec 32
  ovfn : BitVec 16
  nfn : BitVec 16
  poin : BitVec 16
  nulln : BitVec 16
  rid : Nat
  marked : Bool                -- the region's MARK has passed every add stream of the set
  deriving DecidableEq, Repr, Inhabited

/-- An accumulator row (R108): elements, S in units of 2^-384, SX in units of 2^-181, and the RCW flags.
`shut` is the complement of OPEN, so that the rows of a new set, which list nothing, read as zeroed and open
(R109); `hold` is the stream (plus 1) whose row add is in progress (R113). -/
structure AccRow where
  x : SMap Word
  sq : BitVec 640
  sx : BitVec 320
  shut : Bool
  poi : Bool
  nf : Bool
  ovf : Bool
  hold : Nat
  imaged : Bool                -- its image since the last MARK has been written (R122)
  deriving DecidableEq, Repr, Inhabited

/-! ### Landing zones (R124–R139) -/

/-- A holder of a landing slot (R128, R133): where the notice goes. -/
structure Holder where
  node : BitVec 10
  die : Nat
  core : Nat
  port : Option Nat            -- module port that carried the request, none on the same module
  ring : Nat
  deriving DecidableEq, Repr, Inhabited

/-- Zone descriptor (R124). -/
structure Zone where
  asid : BitVec 8
  v : Bool
  rop : BitVec 3
  tte : BitVec 8
  ns1 : BitVec 6
  sz : BitVec 5
  off : BitVec 26
  tmo : BitVec 16
  send : List (BitVec 10 × Bool)
  rid : Nat
  deriving DecidableEq, Repr, Inhabited

/-- Slot block (R125); `pstC` holds 7 − PST, so that the reset value 0b111 is its default. -/
structure SlotBlk where
  arm : Bool
  pstC : BitVec 3
  a : BitVec 12
  b : BitVec 21
  ring : BitVec 6
  ca : BitVec 12
  nseq : BitVec 12
  hold : BitVec 6
  pmask : BitVec 24
  holders : List Holder
  ended : List Nat             -- sequence numbers whose end token was performed (R135)
  since : Word                 -- GTSC of the grant, where the timeout starts (R128)
  deriving DecidableEq, Repr, Inhabited

/-- Reservation-table entry (R129), with the ASID and region whose zres made it. -/
structure Resv where
  zh : Word
  slot : BitVec 6
  gen : BitVec 16
  port : Option Nat
  ring : Nat
  asid : BitVec 8 := 0#8
  rid : Nat := 0
  deriving DecidableEq, Repr, Inhabited

/-- Reorder-store entry (R135): one 64-byte unit of a contribution that came early. -/
structure RoUnit where
  zone : Nat
  slot : Nat
  q : Nat
  unit : Nat
  valid : BitVec 16
  data : BitVec 512
  deriving DecidableEq, Repr, Inhabited

/-- Landing quota (R130); `smaxC` holds 4,096 − SMAX. RMAX reads 64 until a write sets it. -/
structure LandQuota where
  qerr : Bool
  smaxC : Nat
  set : Bool
  rmaxV : Nat
  deriving DecidableEq, Repr, Inhabited

/-- Zones and their senders' state. -/
structure ZoneState where
  zones : SMap Zone
  blks : SMap SlotBlk
  resv : SMap (List Resv)
  reorder : SMap (List RoUnit)
  landQ : SMap LandQuota
  deriving DecidableEq, Repr, Inhabited

/-- Queues. -/
structure QueueState where
  queues : SMap Queue
  deriving DecidableEq, Repr, Inhabited

/-- Accumulators. -/
structure AccState where
  sets : SMap AccSet
  rows : SMap AccRow
  deriving DecidableEq, Repr, Inhabited

/-! ### Control threads (R190, R13, R98, R199, R256, R278, R377) -/

/-- Context states (R190). -/
inductive CtxSt
  | free | ready | run | held | parked | wait
  deriving DecidableEq, Repr, Inhabited

/-- A control-thread context (R190): `exitIx` is the exit that named the block in `blk`, `rid` its region's
number plus one, `since` the stamp since which it has been READY, `deadline` the GTSC at which an idle ends. -/
structure Ctx where
  st : CtxSt
  frm : Nat
  depth : Nat
  blk : BitVec 55
  blkHi : BitVec 9             -- bits [63:55] of the address that named the block, nonzero for NONCANON
  rcba : BitVec 55
  wcode : Nat
  widx : Nat
  exitIx : Nat
  h : SMap Word
  gen : BitVec 16
  ten : BitVec 6
  asid : BitVec 8
  modef : BitVec 6
  astat : Word
  flt0 : Word
  flt1 : Word
  flt2 : Word
  flt3 : Word
  link : List (BitVec 55)
  evf : Bool
  schBase : Nat
  schLen : Nat
  cursor : Nat
  count : Nat
  deadline : Word
  rid : Nat
  since : Nat
  park : Word                  -- operand of the instruction it waits in: n, an address
  parkIx : Nat                 -- view of the qwait it waits in
  resume : Option Nat          -- PROG at which spills or fills resumes after eret (R265)
  acq : Bool                   -- its next block begins with an acquire of scope .m (R178, R278)
  deriving DecidableEq, Repr, Inhabited

/-- A control-thread token: a value, or null (R212). -/
abbrev Tok := Option Word

/-- A store waiting for its block's commit (R143). -/
structure PendStore where
  ix : Nat                     -- the instruction it belongs to
  lsid : Nat
  va : Word
  pa : Nat
  mt : BitVec 2
  bytes : List Byte
  rel : Option Nat             -- scope of a release store (R162)
  tile : Bool := false         -- a store of stt: its place is a tile-table entry's, not a translation's
  deriving DecidableEq, Repr, Inhabited

/-- What an instruction does at the commit of its block besides stores, hold writes and queue writes: the value
ASTAT takes for an access (R256), registers that fills writes (R264), the tile use of an stt (R260), and the
effects that chapters 12 and 13 place at commit. -/
inductive AtCommit
  | astat (lsid : Nat) (v : Word)
  | fill (reg : Nat) (v : Word)
  | stt (tile : Nat)
  | yield
  | wfe
  | idle (l : Word)
  | sev (core ctx : Nat)
  | trap (cls : Nat) (code : Word)
  | brk
  | halt
  | eret (l : Word)
  | wrsr (n : Nat) (v : Word)
  | qpush (q : Nat)
  | qadv (q view n : Nat)
  | rrel (ring n : Nat)
  | sseek (strm k : Nat)
  | shand (own : Nat)
  | schnext
  | cfg (g : Nat) (sh : Bool)
  deriving DecidableEq, Repr, Inhabited

/-- A fault taken at the block boundary (R211, R376): class, code, translation status, index, address. -/
structure Flt where
  cls : Nat
  code : Nat
  xst : Nat
  idx : Nat
  addr : Word
  deriving DecidableEq, Repr, Inhabited

/-- A block frame (R190): `own` is its context plus one. Operand buffers are keyed 4 × index + input (0 left,
1 right, 2 predicate). -/
structure Frame where
  own : Nat
  loaded : Bool
  hdr : BitVec 32
  words : List (BitVec 32)
  opnd : SMap (Option Tok)
  fired : BitVec 64
  issued : BitVec 64           -- instructions that issued and wait for their completion (a reply, a hold)
  lsids : BitVec 32            -- LSIDs completed
  rightFirst : BitVec 64       -- instructions whose right token came before their left one (R250)
  stores : List PendStore
  holds : List (Nat × Tok)
  qwrites : List (Nat × Nat × Nat × Tok)   -- index, target position, queue, token
  exit : Option (Nat × BitVec 64)
  irrev : Bool
  defer : Option Flt
  heldFor : Nat
  commits : List (Nat × AtCommit)          -- by instruction index
  deriving DecidableEq, Repr, Inhabited

/-- Schedule-table entry (R199). -/
structure SchedEnt where
  arg : Word
  v : Bool
  next : BitVec 6
  rep : BitVec 8
  deriving DecidableEq, Repr, Inhabited

/-- An entry of a core's indeterminate table (R170). -/
structure Indet where
  tag : BitVec 24
  asid : BitVec 8
  req : RemoteAtomic
  node : BitVec 10
  time : Word
  deriving DecidableEq, Repr, Inhabited

/-- A replay-cache entry (R169). -/
structure ReplayEnt where
  src : BitVec 10
  asid : BitVec 8
  tag : BitVec 24
  op : BitVec 5
  addr : BitVec 44
  v : BitVec 64
  result : BitVec 64
  time : Word
  deriving DecidableEq, Repr, Inhabited

/-! ### Ownership (R154) and coalescing (R153) -/

/-- Ownership entry. -/
structure OwnEnt where
  asid : BitVec 8
  v : Bool
  no : Nat
  cur : Nat
  owners : List Nat
  lim : BitVec 26
  base : BitVec 26
  deriving DecidableEq, Repr, Inhabited

/-- A coalescing unit: its bank-window address in 64-byte units, valid bytes with the bits of each that were written, when a write
last entered it, the streams that wrote into it. -/
structure CoalUnit where
  unit : Nat
  bytes : List (Nat × Byte × Byte)
  used : Nat
  asid : BitVec 8
  rid : Nat
  streams : List Nat
  deriving DecidableEq, Repr, Inhabited

/-! ### Admission, the Arbiter, heaps and launch pools (R193–R200) -/

/-- Notify page (R193). -/
structure NotifyPage where
  rbase : BitVec 49
  asid : BitVec 8
  v : Bool
  logn : BitVec 5
  head : BitVec 32
  tail : BitVec 32
  ovr : Bool
  nst : BitVec 8
  deriving DecidableEq, Repr, Inhabited

/-- Scheduling quota (R196); the reset values hold until a write sets it. -/
structure SchedQuota where
  qerr : Bool
  set : Bool
  aq : Nat
  hm : Nat
  lm : Nat
  deriving DecidableEq, Repr, Inhabited

/-- Task-heap entry (R198): `skips` counts the tdeqs it has stayed among the sixteen smallest. -/
structure HeapEnt where
  key : Word
  val : Word
  skips : Nat
  deriving DecidableEq, Repr, Inhabited

/-- Arbiter-queue entry (R197): a region by its number, or a tile task by its copied record. -/
structure ArbEnt where
  tile : Bool
  rid : Nat
  words : List Word
  asid : BitVec 8
  pri : Nat
  stamp : Nat
  dep : Word                   -- virtual address of the dependence counter, 0 for none
  ready : Bool
  owner : Nat                  -- submitting core × 8 + context + 1, 0 for the host
  deriving DecidableEq, Repr, Inhabited

/-! ### Streams (R95, R104, R146–R149, R290) -/

/-- Part of an access: bytes within one aligned 64-byte unit of one page. -/
structure AgPart where
  va : Word
  pa : Nat
  mt : BitVec 2
  n : Nat
  deriving DecidableEq, Repr, Inhabited

/-- An AGU stream (R290). `desc` is its descriptor's eight words as sopen read them; `pos` is the next element,
`done` how many elements were performed; `port` and `inp` are the tokens at its edge port; `gather` the tokens of a
block not yet written or delivered; `addr` the address of a PAT 2 access whose data token has not come; `drop` that the row add in
progress is discarded; `parts` what is translated
of its next access, `farN` and `farB` the remote reads of that access that wait for their replies and the bytes that have come, by
part. -/
structure Stream where
  isOpen : Bool
  rid : Nat
  asid : BitVec 8
  gen : BitVec 16
  desc : List Word
  modef : BitVec 6
  xs : BitVec 32
  fmterr : Nat
  satn : Nat
  disp : Nat
  flsh : Nat
  nulln : Nat
  pos : Nat
  done : Nat
  tlb : Option Tlb
  port : List FTok             -- tokens to deliver at its port, oldest first
  inp : List FTok              -- the token pulled at its port, not performed yet
  gather : List FTok
  gatherIx : Nat               -- first element of the block being gathered
  addr : Option Word
  drop : Bool := false
  round : Nat
  rank : Nat                   -- its place in the order of its chain's segment (R148)
  eot : Bool
  chainBad : Bool
  chainOn : Bool               -- a member of its chain's present segment (R149)
  mark : Option Nat            -- MARK to place before the next element (R386)
  autoAt : Option Nat          -- element before which an automatic MARK stands (R388)
  marked : Bool                -- the wave's MARK has reached this sink
  halted : Bool                -- performs no further access (R26, R291)
  walking : Bool               -- holds for a walk (R26)
  parts : List AgPart
  farN : Nat
  farB : SMap (List Byte)
  bound : Nat                  -- queue whose port it is, plus one (R372)
  cin : Nat
  cout : Nat
  deriving DecidableEq, Repr, Inhabited

/-- Streams, coalescing buffers and ownership. -/
structure StreamState where
  streams : SMap Stream
  coal : SMap (List CoalUnit)  -- by core × 64 + node, in order of allocation
  own : SMap OwnEnt
  deriving DecidableEq, Repr, Inhabited

/-! ### Engines (R288, R301–R306) -/

/-- Completion ring (R288). -/
structure Ring where
  asid : BitVec 8
  v : Bool
  log : BitVec 5
  base : BitVec 51
  wr : BitVec 32
  rd : BitVec 32
  rlost : BitVec 32
  rid : Nat
  deriving DecidableEq, Repr, Inhabited

/-- Copy template (R301); `held` counts its uses of its source entry, `armer` is the context, plus one, that armed it,
`arming` the stamp of the arming, `fires` the fires since. -/
structure Template where
  asid : BitVec 8
  v : Bool
  arm : Bool
  trigq : BitVec 6
  tq : Bool
  ring : BitVec 6
  srck : BitVec 2
  dstk : BitVec 2
  stile : BitVec 8
  dtile : BitVec 8
  rel : Bool
  lim : BitVec 16
  src : BitVec 55
  dst : BitVec 55
  len : BitVec 32
  seq : BitVec 12
  zh : Word
  sstep : BitVec 32
  dstep : BitVec 32
  sgen : BitVec 16
  dgen : BitVec 16
  dslot : BitVec 6
  nf : BitVec 10
  rid : Nat
  held : Nat
  armer : Nat
  arming : Nat
  fires : Nat
  deriving DecidableEq, Repr, Inhabited

/-- A copy accepted by a streamer island (R301), with its template as it stood at the fire; `pos` counts the bytes it has read and
written or sent, `port` is the port its writes leave through, once they have, `acked` the bytes performed at the destination that it
knows of, `sent` says that only answers are outstanding, and `by_` is the context plus one whose cpgo fired it, 0 for another fire. -/
structure CopyRun where
  id : Nat
  core : Nat
  tmpl : Nat
  t : Template
  idx : BitVec 32
  ctx : Nat
  by_ : Nat := 0
  port : Option Nat
  acked : Nat
  fin : Nat := 0               -- the status and translation status that end it once its writes are answered
  finXs : Nat := 0
  pos : Nat := 0
  sent : Bool := false
  deriving DecidableEq, Repr, Inhabited

/-- A tile task on an island (R304): the record as admission or mxtask read it, whether it holds a use of its B entry, and how far it is:
its next row and pass, the nodes and A scales of a row begun, the rows of C that are done, the status of a fault, and the mc of its
stalls. -/
structure MxTask where
  words : List Word
  asid : BitVec 8
  gen : BitVec 16
  start : Word
  owner : Nat
  used : Bool
  rid : Nat := 0
  row : Nat := 0
  pass : Nat := 0
  nodes : List (BitVec 80) := []
  scales : List Byte := []
  out : List (List Byte) := []
  st : Nat := 0
  late : Nat := 0
  deriving DecidableEq, Repr, Inhabited

/-- An A-feed of the island (R348), by its element: its region, the run in progress, the runs since the SOT, and its B entry
plus one while it holds a use of it. -/
structure MxFeed where
  rid : Nat
  run : List FTok
  runs : Nat
  ent : Nat
  deriving DecidableEq, Repr, Inhabited

/-- A matrix island: its running task, tasks of LOCAL = 1 that wait, its A-feeds, the nodes they add to (by 128 × row + column)
with how many passes each row has, and the tokens for the result ports. -/
structure Island where
  task : Option MxTask
  wait : List MxTask
  feeds : SMap MxFeed
  nodes : SMap (BitVec 80)
  passes : SMap Nat
  outq : List FTok
  outRid : Nat
  deriving DecidableEq, Repr, Inhabited

/-- A collective issued by a member (R306). -/
structure CollRun where
  id : Nat
  core : Nat
  asid : BitVec 8
  gen : BitVec 16
  rid : Nat
  desc : List Word
  ctx : Nat
  deriving DecidableEq, Repr, Inhabited

/-- A request of an engine that left the module and waits for its reply (R24, R161): its path, the stream plus one and the part of its
access that it reads, or a write. -/
structure FarReq where
  id : Nat
  core : Nat
  path : Nat
  asid : BitVec 8
  gen : BitVec 16
  rid : Nat
  strm : Nat
  part : Nat
  va : Word
  read : Bool
  node : BitVec 10
  port : Nat
  time : Word
  owner : Nat                  -- issuing context, plus one
  deriving DecidableEq, Repr, Inhabited

/-- Engines. -/
structure EngState where
  rings : SMap Ring
  tmpls : SMap Template
  copies : List CopyRun
  islands : SMap Island
  colls : List CollRun
  far : List FarReq
  deriving DecidableEq, Repr, Inhabited

/-! ### Elements (R315) -/

/-- What join has taken of a record on one side (R346): its weight, and its key token. -/
structure JoinSide where
  weight : Option Nat
  key : Option FTok
  deriving DecidableEq, Repr, Inhabited

/-- A handler table entry (R219) with its state (R315), the coordinates last compared (R336, R346), join's records, and the GAP
whose weight token it must still forward (R324). -/
structure Handler where
  present : Bool
  word : Word
  rwt : BitVec 24
  ph : BitVec 8
  age : Nat
  gapPend : Bool
  prevA : Option (BitVec 32)
  prevB : Option (BitVec 32)
  sideA : JoinSide
  sideB : JoinSide
  din : Nat
  dout : Nat
  deriving DecidableEq, Repr, Inhabited

/-- A token in an input queue, with the stamp of its arrival at the head of the line (R185). -/
structure QTok where
  tok : FTok
  at_ : Nat
  deriving DecidableEq, Repr, Inhabited

/-- A fabric element (R315). Queue sources are kept per slot as QS + 1, so that an unset one reads as none; a
channel entry is kept as handler + 1. Pending consumers of the result: 0–3 the directions N, E, S, W, 4–7 the
element's own queues in0–in3, 8 and 9 the first and second edge port; `emit` holds the swap tokens still to be sent (R203). -/
structure Elem where
  inq : SMap (List QTok)
  res : Option FTok
  pend : List Nat
  resSlot : Nat
  emit : List (FTok × List Nat)
  act : SMap Handler
  chm : SMap Nat
  k : SMap FTok
  shad : SMap Word
  shadCh : SMap Nat
  shadK : SMap FTok
  shadQs : SMap Nat
  shv : Bool
  shvSlot : Nat
  st0 : FTok
  st1 : FTok
  seg : Option Nat
  qs : SMap Nat
  itok : SMap (Option (Nat × FTok))
  blocked : BitVec 4
  enabled : BitVec 4
  deriving DecidableEq, Repr, Inhabited

/-- What a MARK records of an element (R325). -/
structure ElemSnap where
  st0 : FTok
  st1 : FTok
  rwt : List (BitVec 24)
  ph : List (BitVec 8)
  deriving DecidableEq, Repr, Inhabited

/-- The fabric. -/
structure FabState where
  elems : SMap Elem
  deriving DecidableEq, Repr, Inhabited

/-! ### Regions (R181–R186, R370–R375, R386–R391) -/

/-- Snapshot of a region (R386, R387) as the model keeps it beside the image in memory (log entry 13). -/
structure Snap where
  taken : Bool
  id : Nat
  ctxs : SMap Ctx
  streams : SMap Stream
  queues : SMap Queue
  own : SMap OwnEnt
  sets : SMap AccSet
  rows : SMap AccRow
  elems : SMap ElemSnap
  logUsed : SMap Nat           -- bytes of the row-image log, by core
  full : Bool                  -- the row-image log overflowed (SNAPFULL)
  deriving DecidableEq, Repr, Inhabited

/-- A graph slot of a core (R184). -/
structure GSlot where
  rid : Nat
  allot : BitVec 192
  live : Bool
  loaded : Bool
  halted : Bool
  preempt : Bool               -- a pre-emption waits for the segment boundary (R391)
  segN : Nat                   -- elements in a segment
  segAt : Word
  prog : Word                  -- GTSC of the last progress (R202)
  prog2 : Word                 -- GTSC since which only unbounded waits restarted the counter
  sfirst : Nat
  scnt : Nat
  noshadow : Bool
  deriving DecidableEq, Repr, Inhabited

/-- The running state that a pre-emption saves (R391). -/
structure Saved where
  here : Bool
  ctxs : SMap Ctx
  streams : SMap Stream
  queues : SMap Queue
  rings : SMap Ring
  tmpls : SMap Template
  zones : SMap Zone
  blks : SMap SlotBlk
  resv : SMap (List Resv)
  reorder : SMap (List RoUnit)
  sets : SMap AccSet
  rows : SMap AccRow
  tiles : SMap Tile
  own : SMap OwnEnt
  sched : SMap SchedEnt
  elems : SMap Elem
  slots : SMap GSlot
  banks : SMap Bank
  deriving DecidableEq, Repr, Inhabited

/-- A region: its RCB as admission resolved it (R181–R183), its placement, its waves and its recovery. -/
structure Region where
  rcba : BitVec 55
  asid : BitVec 8
  gen : BitVec 16
  ten : BitVec 6
  die : Nat
  pri : Nat
  fd : BitVec 12
  segb : BitVec 32
  image : BitVec 55
  snapVa : BitVec 55
  doneVa : BitVec 55
  arg : Word
  rst : Nat
  err : Nat
  loc : BitVec 21
  rbk : Nat
  w : Nat
  h : Nat
  slot : Nat
  placed : Bool
  origin : Nat                 -- core of the origin
  depth : Nat
  pool : Nat                   -- launch-pool slot: 0 none, 1 shared, 2 reserved to its depth
  stamp : Nat
  members : List Nat           -- cores that run a control thread of the region (R370)
  goCores : List Nat
  drainCores : List Nat
  drained : List Nat
  wave : Nat                   -- number of waves completed or begun: gated copies bear it
  inFlight : Bool
  waveId : Nat
  lastId : Nat
  hvC : Nat                    -- 0 none, 1 half 0, 2 half 1
  rollbacks : Nat              -- taken since the last complete wave, GATEFULL ones not counted
  autoMark : Bool              -- an automatic MARK is due after a GATEFULL rollback
  want : Bool                  -- a rollback is requested
  faulted : Bool               -- its fault domain is in a context fault
  base : Snap
  last : Snap
  cur : Snap
  save : Saved
  deriving DecidableEq, Repr, Inhabited

/-- Regions, slots, admission and the Arbiter. A launch-pool slot is of kind 1, shared, or 2, reserved to a depth (R200). -/
structure RegionState where
  regions : SMap Region
  slots : SMap GSlot
  nextRid : Nat
  sched : SMap SchedEnt
  notify : SMap NotifyPage
  schedQ : SMap SchedQuota
  arb : SMap (List ArbEnt)
  heaps : SMap (List HeapEnt)
  poolHold : List (Nat × Nat × Nat)  -- freed slots held for parked contexts: die × 64 + tenant, kind of slot, context
  deriving DecidableEq, Repr, Inhabited

/-! ### Control (R190, R169–R171, R380, R395, R399) -/

/-- What an issued instruction waits for, its context held in its frame. -/
inductive PendKind
  | inval | kill | cfgld | cfgsh | rdrain | zres | remote | shand | acadd
  deriving DecidableEq, Repr, Inhabited

/-- An instruction that has issued and waits for its completion. -/
structure PendOp where
  core : Nat
  ctx : Nat
  ix : Nat
  kind : PendKind
  a : Word
  b : Word
  c : Word
  time : Word
  va : Word                    -- virtual address of a remote access
  port : Nat                   -- port its request left through
  tag : BitVec 24
  req : Option RemoteAtomic
  deriving DecidableEq, Repr, Inhabited

/-- Replay quota (R171); RMAX reads 64 until a write sets it. -/
structure ReplayQuota where
  qerr : Bool
  set : Bool
  rmaxV : Nat
  deriving DecidableEq, Repr, Inhabited

/-- Event log of a die (R399). -/
structure EvLog where
  v : Bool
  logn : BitVec 5
  base : BitVec 46
  wr : BitVec 32
  rd : BitVec 32
  lost : BitVec 32
  deriving DecidableEq, Repr, Inhabited

/-- TSUP (R380). -/
structure Tsup where
  v : Bool
  ctx : BitVec 3
  die : BitVec 2
  core : BitVec 6
  deriving DecidableEq, Repr, Inhabited

/-- An entry of a debug area (R395): its queue, the source of its tokens, the tokens, whether it is complete, whether it took more
data than a record holds, and its offset in the area. -/
structure DbgEnt where
  q : Nat
  src : Nat
  toks : List FTok
  done : Bool
  long : Bool
  off : Nat
  deriving DecidableEq, Repr, Inhabited

/-- DBGA (R395) with the entries of its debug area, oldest first. -/
structure Dbga where
  v : Bool
  halt : Bool
  slot : BitVec 2
  area : BitVec 55
  used : Nat
  ents : List DbgEnt
  deriving DecidableEq, Repr, Inhabited

/-- Contexts, frames and what control threads wait for. -/
structure CtlState where
  ctxs : SMap Ctx
  frames : SMap Frame
  pend : List PendOp
  tags : SMap (BitVec 24)
  indet : SMap (List Indet)
  replay : SMap (List ReplayEnt)
  replayQ : SMap ReplayQuota
  tsup : SMap Tsup
  dbga : SMap Dbga
  logs : SMap EvLog
  deriving DecidableEq, Repr, Inhabited

/-! ### Ports (R419–R423) -/

/-- A packet held by a re-sequencing queue, with the place of its requester, or a flit kept for replay. -/
structure Held where
  seq : Nat
  node : BitVec 10
  core : BitVec 8
  ctx : BitVec 3
  load : Payload
  asid : BitVec 8 := 0#8       -- whose access it is (R179)
  deriving DecidableEq, Repr, Inhabited

/-- Re-sequencing state of one source node (R423). -/
structure Reseq where
  node : BitVec 10
  next : Nat
  held : List Held
  seen : Word
  deriving DecidableEq, Repr, Inhabited

/-- A scale-up port (R419). `peerC` holds 0x3FF − PEER. -/
structure Port where
  up : Bool
  mode : BitVec 2
  en : Bool
  lanes : BitVec 4
  peerC : BitVec 10
  retr : BitVec 16
  down : BitVec 16
  rsqd : BitVec 32
  retrain : Option Word        -- start of the retrain window
  rxSeq : BitVec 32
  txSeq : BitVec 32
  kept : List Held             -- unacknowledged flits, oldest first, 512 at most
  reseq : List Reseq
  deriving DecidableEq, Repr, Inhabited

/-- A message on its way out of the module through a port. -/
structure OutMsg where
  port : Nat
  node : BitVec 10
  load : Payload
  asid : BitVec 8 := 0#8
  deriving DecidableEq, Repr, Inhabited

/-- Ports. -/
structure LinkState where
  ports : SMap Port
  deriving DecidableEq, Repr, Inhabited

/-! ### Hearth (R401–R417) -/

/-- A hearth core's registers (R401). `user` is U-mode; the reset mode is M. -/
structure Hart where
  x : SMap Word
  f : SMap Word
  pc : Word
  user : Bool
  mepc : Word
  mcause : Word
  mtval : Word
  mtvec : Word
  mstatus : Word
  mie : Word
  mip : Word
  mscratch : Word
  fcsr : Word
  hepsel : BitVec 4
  hepcur : BitVec 5
  falls : List (BitVec 4)      -- entries whose FLAGFALL interrupt waits (R416)
  key : BitVec 16              -- KEY and KGEN that its accesses carry: those of the entry when HEPCUR named it (R405, log entry 7)
  kgen : BitVec 16
  mcounteren : Word
  cycle : Word                 -- what mcycle adds to the hearth cycles that GTSC gives, and minstret (log entry 7)
  instret : Word
  deriving DecidableEq, Repr, Inhabited

/-- An action accepted and not yet delivered (R408). -/
structure Action where
  slot : Nat
  kind : Nat
  len : Nat
  ptag : BitVec 32
  ack : BitVec 32
  seq : BitVec 32
  time : Word                  -- GTSC at placement (R406)
  deriving DecidableEq, Repr, Inhabited

/-- Episode states (R403). -/
inductive EpSt
  | free | live | dead
  deriving DecidableEq, Repr, Inhabited

/-- Episode-table entry (R403) with its mailbox (R406–R411). -/
structure Episode where
  v : Bool
  st : EpSt
  rule : Bool
  ns : BitVec 3
  berr : BitVec 4
  kgen : BitVec 16
  key : BitVec 16
  base : BitVec 36
  limit : BitVec 36
  box : BitVec 39
  asid : BitVec 8
  pdie : BitVec 2
  pcore : BitVec 6
  aq : BitVec 6
  oq : BitVec 6
  bud : BitVec 40
  flag : BitVec 40
  flagAt : Word                -- GTSC up to which FLAG has counted
  ivl : Bool                   -- an interval runs (R415)
  aseq : BitVec 32
  oseq : BitVec 32
  ptag : BitVec 32
  dseq : BitVec 32
  tagSet : Bool
  acts : List Action
  busy : List (Nat × BitVec 32)
  trunc : Option (BitVec 32 × BitVec 32 × Word)  -- SEQ, PTAG and TIME of a pending TRUNCATED message (R410)
  deriving DecidableEq, Repr, Inhabited

/-- Hearth cores and episodes. -/
structure HearthState where
  harts : SMap Hart
  eps : SMap Episode
  deriving DecidableEq, Repr, Inhabited

/-! ### The device (R418, R421, R426–R432) -/

/-- Module phases (R426, R428). -/
inductive Phase
  | off | ready | safe
  deriving DecidableEq, Repr, Inhabited

/-- A diagnosis record (R428). -/
structure Diag where
  step : BitVec 8
  code : BitVec 8
  die : BitVec 8
  unit : BitVec 40
  count : Word
  detail : List Word
  deriving DecidableEq, Repr, Inhabited

/-- A firmware image (R427): version, digest, and whether its signature verifies under the fused key. -/
structure Firmware where
  version : BitVec 32
  digest : BitVec 256
  signed : Bool
  deriving DecidableEq, Repr, Inhabited

/-- Mismatch histogram of a unit (R397). -/
structure Hist where
  corr : BitVec 16
  unc : BitVec 16
  mis : BitVec 16
  link : BitVec 16
  deriving DecidableEq, Repr, Inhabited

/-- Stack word (R430). -/
structure Stack where
  dbl : Bool
  scnt : Nat
  temp : BitVec 16
  stalln : BitVec 32
  deriving DecidableEq, Repr, Inhabited

/-- An attestation report (R427). -/
structure Attest where
  images : List (BitVec 256 × BitVec 32)
  key : BitVec 256
  retired : Nat
  nonce : Word
  deriving DecidableEq, Repr, Inhabited

/-- Coolant report (R432). -/
structure Coolant where
  inlet : BitVec 16
  flow : BitVec 16
  power : BitVec 16
  lowSince : Option Word
  deriving DecidableEq, Repr, Inhabited

/-- The module. `nodeC` holds 0x3FF − NODEID. -/
structure Device where
  gtsc : Word
  aligned : Bool
  isRef : Bool
  nodeC : BitVec 10
  phase : Phase
  diags : List Diag
  images : SMap Firmware
  minVer : SMap (BitVec 32)
  keyHash : BitVec 256
  retired : List (BitVec 16)
  hist : SMap Hist
  histNv : SMap Hist
  attest : List Attest
  cool : Coolant
  talw : SMap (BitVec 16)
  hbm : SMap Stack
  deriving DecidableEq, Repr, Inhabited

/-! ### Order of execution (log entry 2) -/

/-- A bit error that the environment brings (R50, R397; log entry 50): a read corrected a single-bit error in a unit, named by its histogram's
key; or a double-bit error stands in the protected word of a physical address, in the tag of the L2 line that holds one, or in that
line's owner list. -/
inductive BitErr
  | corrected (unit : Nat)
  | word (pa : Nat)
  | tag (pa : Nat)
  | owners (pa : Nat)
  deriving DecidableEq, Repr

/-- Whose turn it is: an event with its operands, a control-thread context, a fabric element, a hearth core; or a bit error. -/
inductive Turn
  | ev (i : Instr) (arg : EvArg)
  | ct (core ctx : Nat)
  | el (core elem : Nat)
  | hart (hc : Nat)
  | err (e : BitErr)
  deriving DecidableEq, Repr

/-- The agent whose instruction is being executed: a context and the index of its instruction, an element and its
handler, or a hearth core. -/
inductive Cur
  | none
  | ct (core ctx ix : Nat)
  | elem (core e hnd : Nat)
  | hart (hc : Nat)
  deriving DecidableEq, Repr, Inhabited

/-- The model's own fields: turns still to come, the current agent, the operands of the current event, the index of
the next free value, the next order stamp, and messages that left the module. `stall` says that an access of the turn met a bank that
changes its mode (R42) or found no walk slot (R27): the turn is not taken, and stands in `parked` until it can be. -/
structure Sim where
  agenda : List Turn
  parked : List Turn
  stall : Bool
  cur : Cur
  arg : EvArg
  freeIdx : Nat
  seqNo : Nat
  out : List OutMsg
  deriving DecidableEq, Repr, Inhabited

/-- Why the machine stops. -/
inductive Fault
  /-- Raised by no step: hearth cores execute RV64IMAFDC (log entry 7), and every condition the manual reports is a state. -/
  | hearthBase (pc : Word)
  deriving DecidableEq, Repr

/-- Why an instruction is not executed. -/
inductive Refusal
  /-- Raised by an arm of `exec` whose instruction has no meaning in the model yet. Safe: nothing is claimed of it. -/
  | notModelled (mnemonic : String)
  deriving DecidableEq, Repr

/-- The state of the P960. -/
structure State where
  sim : Sim
  dev : Device
  xl : Xlat
  mem : List Host.Cell
  st : Store
  qu : QueueState
  ac : AccState
  zn : ZoneState
  sm : StreamState
  eng : EngState
  fab : FabState
  rg : RegionState
  ctl : CtlState
  lnk : LinkState
  hth : HearthState
  deriving DecidableEq, Repr, Inhabited

/-- The machine right after reset: every object at the reset value the manual gives, which is the default of its
structure; where the manual gives none, at the value of log entries 1 to 7. Memory lists nothing, the module is
off (R426), and no port is enabled. -/
def State.reset : State where
  sim := { agenda := [], parked := [], stall := false, cur := .none, arg := default, freeIdx := 0, seqNo := 0, out := [] }
  dev := default
  xl := default
  mem := []
  st := default
  qu := default
  ac := default
  zn := default
  sm := default
  eng := default
  fab := default
  rg := default
  ctl := default
  lnk := default
  hth := default

end Sys2Proof.Machine
end

