-- ==== Sys2Proof/Machine/Mem.lean ====
section
/-! DEFINITION. Memory: its bytes in canonical form, the physical map (R14–R19), banks and their interleave
(R39), the core cache (R44–R46), the L2 (R47–R50), gated copies (R388), and translation (R20–R33). -/

namespace Sys2Proof.Machine

/-! ### Bytes -/

/-- What an address that memory does not list reads as (DESIGN CHOICE, log entry 1). -/
def Mem.unlisted : Byte := 0#8

/-- One byte. -/
def Mem.get : List Host.Cell → Nat → Byte
  | [], _ => Mem.unlisted
  | (b, v) :: m, a => if b = a then v else Mem.get m a

/-- Remove an address. -/
def Mem.drop : List Host.Cell → Nat → List Host.Cell
  | [], _ => []
  | (b, v) :: m, a => if b = a then Mem.drop m a else (b, v) :: Mem.drop m a

/-- List an address with a byte. -/
def Mem.ins : List Host.Cell → Nat → Byte → List Host.Cell
  | [], a, x => [(a, x)]
  | (b, v) :: m, a, x =>
    if a < b then (a, x) :: (b, v) :: m
    else if a = b then (a, x) :: m
    else (b, v) :: Mem.ins m a x

/-- Write one byte, keeping the canonical form: an address whose byte is the unlisted one is not listed. -/
def Mem.put (m : List Host.Cell) (a : Nat) (x : Byte) : List Host.Cell :=
  if x = Mem.unlisted then Mem.drop m a else Mem.ins m a x

/-- Addresses strictly rising above `lo`, and no entry equal to the unlisted byte. -/
def Mem.wfFrom : Nat → List Host.Cell → Bool
  | _, [] => true
  | lo, (b, v) :: m => decide (lo ≤ b) && decide (v ≠ Mem.unlisted) && Mem.wfFrom (b + 1) m

/-- The canonical form. -/
def Mem.wf (m : List Host.Cell) : Bool := Mem.wfFrom 0 m

/-- Consecutive bytes. -/
def Mem.getN (m : List Host.Cell) (a : Nat) : Nat → List Byte
  | 0 => []
  | n + 1 => Mem.get m a :: Mem.getN m (a + 1) n

/-- Write consecutive bytes. -/
def Mem.putN (m : List Host.Cell) (a : Nat) : List Byte → List Host.Cell
  | [] => m
  | x :: xs => Mem.putN (Mem.put m a x) (a + 1) xs

/-- Remove every listed byte of a range (its bytes become the unlisted byte). -/
def Mem.clear (m : List Host.Cell) (a n : Nat) : List Host.Cell :=
  m.filter (fun c => !(decide (a ≤ c.1) && decide (c.1 < a + n)))

/-- Little-endian value of bytes (R3). -/
def leNat : List Byte → Nat
  | [] => 0
  | b :: bs => b.toNat + 256 * leNat bs

/-- n little-endian bytes of a value. -/
def leBytes : Nat → Nat → List Byte
  | 0, _ => []
  | n + 1, v => BitVec.ofNat 8 v :: leBytes n (v / 256)

/-- A 64-bit word of little-endian bytes. -/
def leWord (bs : List Byte) : Word := BitVec.ofNat 64 (leNat bs)

/-! ### Agents and their accesses -/

/-- Paths to memory (R174); `inb` is the inbound network. -/
inductive Path
  | ct | ag | cp | mx | su | cl | en | inb
  deriving DecidableEq, Repr, Inhabited

/-- The bit of a path in the masks of xfence (R174). -/
def Path.bit : Path → Nat
  | .ct => 0 | .ag => 1 | .cp => 2 | .mx => 3 | .su => 4 | .cl => 5 | .en => 6 | .inb => 7

/-- Who makes an access: its core (die × 64 + core), path, ASID and generation, and the region it works for
(the region's number plus one, 0 for none). -/
structure Actor where
  core : Nat
  path : Path
  asid : BitVec 8
  gen : BitVec 16
  rid : Nat
  late : Bool := false         -- its writes belong to the wave after the one in flight (R388)
  strm : Nat := 0              -- the stream of its core that makes it, plus one
  deriving DecidableEq, Repr, Inhabited

/-- Access types (R23). -/
inductive Acc
  | load | store | atomic | fetch | ldred
  deriving DecidableEq, Repr, Inhabited

/-- Translation statuses (R24). -/
inductive XSt
  | ok | noncanon | noctx | invalid | rsvbit | misalign | perm | type | nopeer | walkerr | refused
  deriving DecidableEq, Repr, Inhabited

/-- Codes of R24. -/
def XSt.code : XSt → Nat
  | .ok => 0 | .noncanon => 1 | .noctx => 2 | .invalid => 3 | .rsvbit => 4 | .misalign => 5
  | .perm => 6 | .type => 7 | .nopeer => 8 | .walkerr => 9 | .refused => 10

/-- Memory types (R21). -/
inductive MType
  | wb | uc | dev
  deriving DecidableEq, Repr, Inhabited

def MType.ofBits (b : BitVec 2) : MType := if b = 0#2 then .wb else if b = 1#2 then .uc else .dev
/-- The code of a memory type (R21). -/
def MType.bits : MType → BitVec 2
  | .wb => 0#2 | .uc => 1#2 | .dev => 2#2

/-! ### The physical map (R14, R15) -/

/-- What a physical address names. -/
inductive Place
  | dram
  | bank (core off : Nat)
  | anvil (core off : Nat)
  | notify (die page off : Nat)
  | regs (die off : Nat)
  | repl (g off : Nat)
  | remote (peer off : Nat)
  | hole
  deriving DecidableEq, Repr, Inhabited

/-- Base of the on-chip window of a die (R15). -/
def dieBase (d : Nat) : Nat := 0x10000000000 + d * 0x4000000000
/-- Base of the bank window of a core of the module (R15). -/
def bankWin (core : Nat) : Nat := dieBase (core / 64) + (core % 64) * 0x800000
/-- Base of the anvil window of a core (R15). -/
def anvilWin (core : Nat) : Nat := dieBase (core / 64) + 0x100000000 + (core % 64) * 0x4000000
/-- Base of a die's device register space (R15). -/
def regBase (d : Nat) : Nat := dieBase d + 0x300000000
/-- Where a bank's bytes stand in memory: its own window, at its bank-local addresses (R39). -/
def bankAddr (core bank loc : Nat) : Nat := bankWin core + bank * 0x8000 + loc

/-- The place of an address inside the local window (R15). -/
def placeLocal (a : Nat) : Place :=
  if a < 0x8000000000 then .dram
  else if a < 0x10000000000 then .hole
  else if a < 0x20000000000 then
    let d := (a - 0x10000000000) / 0x4000000000
    let o := (a - 0x10000000000) % 0x4000000000
    if o < 0x20000000 then
      (if o % 0x800000 < 0x600000 then .bank (d * 64 + o / 0x800000) (o % 0x800000) else .hole)
    else if o < 0x100000000 then .hole
    else if o < 0x200000000 then .anvil (d * 64 + (o - 0x100000000) / 0x4000000) (o % 0x4000000)
    else if o < 0x210000000 then .notify d ((o - 0x200000000) / 0x10000) (o % 0x10000)
    else if o < 0x300000000 then .hole
    else if o < 0x310000000 then .regs d (o - 0x300000000)
    else .hole
  else if a < 0x80000000000 then .hole
  else .dram

/-- The place of a physical address (R14). -/
def place (pa : Nat) : Place :=
  let w := pa / 2 ^ 44
  let o := pa % 2 ^ 44
  if w = 0 then placeLocal o
  else if w < 0x40 then .hole
  else if w < 0x80 then .repl (w % 64) o
  else .remote (w % 128) o

/-- Is an address in the local HBM or LPDDR6 (R15)? -/
def isDram (pa : Nat) : Bool := place pa == .dram

/-- The home die of a DRAM address (R16, R47). -/
def homeDie (pa : Nat) : Nat :=
  if pa < 0x8000000000 then Nat.xor (pa / 2 ^ 12 % 8) (pa / 2 ^ 20 % 8) / 2
  else Nat.xor (pa / 2 ^ 8 % 64) (pa / 2 ^ 14 % 64) / 16

/-! ### Keys of the flat maps -/

def bankKey (core bank : Nat) : Nat := core * 192 + bank
def tileKey (core i : Nat) : Nat := core * 256 + i

/-! ### Banks (R39, R43) -/

/-- Log2 of a bank's interleave group, as the bank stands. -/
def ilvOf (s : State) (core bank : Nat) : Nat := (s.st.banks.at (bankKey core bank)).ilv.toNat

/-- The bank and bank-local address of a bank-window offset under the banks' present interleave (R39). -/
def bankOf (s : State) (core off : Nat) : Nat × Nat :=
  let b := off / 0x8000
  let g := 2 ^ ilvOf s core b
  let t := b / 24
  let b0 := t * 24 + (b % 24) / g * g
  let o := off - b0 * 0x8000
  (b0 + o / 64 % g, o / 64 / g * 64 + o % 64)

/-- Where a bank-window byte stands in memory. -/
def bankByte (s : State) (core off : Nat) : Nat :=
  bankAddr core (bankOf s core off).1 (bankOf s core off).2

/-- Does the bank behind an offset take addressed accesses (R43)? -/
def bankScratch (s : State) (core off : Nat) : Bool :=
  (s.st.banks.at (bankKey core (bankOf s core off).1)).mode == .scratch

/-- Is a change in progress at the bank behind an offset (R42)? -/
def bankBusy (s : State) (core off : Nat) : Bool :=
  (s.st.banks.at (bankKey core (bankOf s core off).1)).busy

/-- The memory address of the byte a local physical address names: banks go through their interleave. -/
def homeOf (s : State) (pa : Nat) : Nat :=
  match place pa with
  | .bank c o => bankByte s c o
  | _ => pa

/-! ### Poison (R50) -/

/-- Is any 8-byte word of a range poisoned? -/
def poisoned (s : State) (a n : Nat) : Bool :=
  s.st.poison.any (fun w => decide (w < a + n) && decide (a < w + 8))

/-- A word written whole is no longer poisoned (R50). -/
def unpoison (p : List Nat) (a n : Nat) : List Nat :=
  p.filter (fun w => !(decide (a ≤ w) && decide (w + 8 ≤ a + n)))

/-- The poisoned words of n bytes at `src`, as they stand when the bytes are moved to `dst`. -/
def poisonCopy (p : List Nat) (src dst n : Nat) : List Nat :=
  p.filterMap (fun w => if decide (src ≤ w) && decide (w < src + n) then some (w - src + dst) else none)

/-- Are all eight bytes of a word among the bytes written? Then the word is no longer poisoned (R50). -/
def wordWhole (bs : List (Nat × Byte)) (w : Nat) : Bool := (List.range 8).all (fun i => bs.any (fun b => b.1 == w + i))

/-- Bytes are written at their places in memory; words written whole are no longer poisoned. -/
def storeBytes (s : State) (bs : List (Nat × Byte)) : State :=
  { s with
    mem := bs.foldl (fun m b => Mem.put m b.1 b.2) s.mem
    st.poison := s.st.poison.filter (fun w => !wordWhole bs w) }

/-! ### Bank ports (R36) -/

def bankUpd (s : State) (core bank : Nat) (f : Bank → Bank) : State :=
  { s with st.banks := s.st.banks.upd (bankKey core bank) f }

/-- A byte with the bits that a mask selects taken from another. -/
def maskByte (old v m : Byte) : Byte := (old &&& ~~~m) ||| (v &&& m)

/-- A queued store is performed in its bank (R36). One of four bits leaves the rest of its byte as it stands then (R157). -/
def portPerform (s : State) (core bank : Nat) (p : PortStore) : State :=
  let a (b : Nat × Byte × Byte) : Nat := bankAddr core bank 0 + b.1
  let s := storeBytes s ((p.bytes.filter (fun b => b.2.2 == 0xFF#8)).map (fun b => (a b, b.2.1)))
  let part := p.bytes.filter (fun b => b.2.2 != 0xFF#8)
  { s with mem := part.foldl (fun m b => Mem.put m (a b) (maskByte (Mem.get m (a b)) b.2.1 b.2.2)) s.mem }

/-- A port grants the oldest of its queued stores: stores are performed in the order in which they were queued (R36). -/
def portGrant (s : State) (core bank : Nat) : State :=
  match (s.st.banks.at (bankKey core bank)).queue with
  | [] => s
  | p :: ps => portPerform (bankUpd s core bank (fun b => { b with queue := ps })) core bank p

/-- Every store queued at a port is performed, in the order of queueing (R36). -/
def portDrain (s : State) (core bank : Nat) : State :=
  let q := (s.st.banks.at (bankKey core bank)).queue
  q.foldl (fun s p => portPerform s core bank p) (bankUpd s core bank (fun b => { b with queue := [] }))

/-- Every store queued at a port of a core is performed. -/
def coreDrain (s : State) (core : Nat) : State :=
  (s.st.banks.filter (fun b => b.1 / 192 == core && !b.2.queue.isEmpty)).foldl (fun s b => portDrain s core (b.1 % 192)) s

/-- The banks that n bytes of the bank window fall into. -/
def banksOf (s : State) (core off n : Nat) : List Nat := ((List.range n).map (fun i => (bankOf s core (off + i)).1)).eraseDups

/-! ### The L2 (R47, R48) -/

/-- The key of the set that holds a DRAM address: home die, slice and set. -/
def l2Key (pa : Nat) : Nat :=
  (homeDie pa * 32 + Nat.xor (pa / 2 ^ 8 % 32) (pa / 2 ^ 18 % 32)) * 512 + pa / 2 ^ 13 % 512

/-- The way a tree of fifteen bits points at: bit 0 is the root, node n has children 2n+1 and 2n+2, and a
bit of 0 points left. -/
def plruWay (t : BitVec 15) : Nat :=
  let b (n : Nat) : Nat := if t.getLsbD n then 1 else 0
  let n1 := 1 + b 0
  let n2 := 2 * n1 + 1 + b n1
  let n3 := 2 * n2 + 1 + b n2
  2 * n3 + 1 + b n3 - 15

/-- Touching a way turns every bit on its path away from it. -/
def plruTouch (t : BitVec 15) (way : Nat) : BitVec 15 :=
  let set (t : BitVec 15) (n : Nat) (b : Bool) : BitVec 15 :=
    if b then t ||| (1#15 <<< n) else t &&& ~~~(1#15 <<< n)
  let leaf := way + 15
  let n3 := (leaf - 1) / 2
  let n2 := (n3 - 1) / 2
  let n1 := (n2 - 1) / 2
  let t := set t n3 (leaf == 2 * n3 + 1)
  let t := set t n2 (n3 == 2 * n2 + 1)
  let t := set t n1 (n2 == 2 * n1 + 1)
  set t 0 (n1 == 1)

/-- The way of a set that holds a line. -/
def l2Find (ways : SMap L2Line) (line : Nat) : Option Nat :=
  (ways.find? (fun x => x.2.line == line && (x.2.lo.v || x.2.hi.v))).map (·.1)

/-- The way a new line takes: the lowest invalid way, which no rule states (DESIGN CHOICE, log entry 53), else the tree's (R48). -/
def l2Victim (w : L2Set) : Nat :=
  match (List.range 16).find? (fun i => !((w.ways.at i).lo.v || (w.ways.at i).hi.v)) with
  | some i => i
  | none => plruWay w.plru

/-- The 128 bytes of a sector as memory holds them. -/
def sectorBits (m : List Host.Cell) (sector : Nat) : BitVec 1024 :=
  BitVec.ofNat 1024 (leNat (Mem.getN m (sector * 128) 128))

/-- The sector of a line that an address lies in. -/
def L2Line.sector (l : L2Line) (pa : Nat) : L2Sector := if pa / 128 % 2 = 1 then l.hi else l.lo

def L2Line.setSector (l : L2Line) (pa : Nat) (x : L2Sector) : L2Line :=
  if pa / 128 % 2 = 1 then { l with hi := x } else { l with lo := x }

/-- A write by an ASID enters the line's owner list (R50). -/
def L2Line.own (l : L2Line) (asid : BitVec 8) : L2Line :=
  if l.owners.contains asid then l
  else if l.owners.length < 2 then { l with owners := l.owners ++ [asid] }
  else { l with ovf := true }

/-- The HBM stack of an address (R16). -/
def stackOf (pa : Nat) : Nat := Nat.xor (pa / 2 ^ 12 % 8) (pa / 2 ^ 20 % 8)

/-- A sector is read from the DRAM of its stack: while DBL = 1 it counts, and the 32nd stalls (R431). -/
def stackRead (s : State) (pa : Nat) : State :=
  let h := s.dev.hbm.at (stackOf pa)
  if decide (0x8000000000 ≤ pa) || !h.dbl then s
  else if h.scnt = 31 then
    { s with dev.hbm := s.dev.hbm.set (stackOf pa) { h with
        scnt := 0, stalln := if h.stalln = 0xFFFFFFFF#32 then h.stalln else h.stalln + 1#32 } }
  else { s with dev.hbm := s.dev.hbm.set (stackOf pa) { h with scnt := h.scnt + 1 } }

/-- Does the L2 hold the sector of an address? -/
def l2Holds (s : State) (pa : Nat) : Bool :=
  match l2Find (s.st.l2.at (l2Key pa)).ways (pa / 256) with
  | some way => (((s.st.l2.at (l2Key pa)).ways.at way).sector pa).v
  | none => false

/-- A clean sector that is given up: what DEV stores left in DRAM beneath it is seen again. -/
def l2Reveal (m : List Host.Cell) (l : L2Line) (half : Nat) (x : L2Sector) : List Host.Cell :=
  if x.v && x.u && !x.d then Mem.putN m (l.line * 256 + half * 128) (leBytes 128 x.under.toNat) else m

/-- A sector present in the L2 for an access, allocated where the access allocates (R48). The committed bytes
are those of `State.mem`; a sector that becomes dirty keeps the bytes DRAM still holds. Evicting a line
writes its dirty sectors back. -/
def l2Touch (s : State) (pa : Nat) (write alloc : Bool) (asid : BitVec 8) : State :=
  let k := l2Key pa
  let set := s.st.l2.at k
  let line := pa / 256
  let put (way : Nat) (l : L2Line) : State :=
    let sec := l.sector pa
    let sec' : L2Sector :=
      if write && !sec.d then { v := true, d := true, u := true, under := if sec.u then sec.under else sectorBits s.mem (pa / 128) }
      else { sec with v := true }
    let l := l.setSector pa sec'
    let l := if write then l.own asid else l
    { s with st.l2 := s.st.l2.set k { plru := plruTouch set.plru way, ways := set.ways.set way l } }
  match l2Find set.ways line with
  | some way => if alloc || ((set.ways.at way).sector pa).v then put way (set.ways.at way) else s
  | none =>
    if alloc then
      let way := l2Victim set
      let l := set.ways.at way
      let s' := put way { (default : L2Line) with line := line }
      { s' with mem := l2Reveal (l2Reveal s.mem l 0 l.lo) l 1 l.hi }
    else s

/-- Is the tag of the line that holds an address poisoned, with a dirty sector under it (R50)? -/
def l2BadTag (s : State) (pa : Nat) : Option (Nat × L2Line) :=
  match l2Find (s.st.l2.at (l2Key pa)).ways (pa / 256) with
  | some way =>
    let l := (s.st.l2.at (l2Key pa)).ways.at way
    if l.badTag then some (way, l) else none
  | none => none

/-- A poisoned tag invalidates its line. Dirty data is lost, so DRAM's own bytes stand again, and the loss is reported
in a step of its own to the regions of the owner list (R50). -/
def l2TagCheck (s : State) (pa : Nat) : State :=
  match l2BadTag s pa with
  | none => s
  | some (way, l) =>
    let back (m : List Host.Cell) (half : Nat) (x : L2Sector) : List Host.Cell :=
      if x.v && x.u then Mem.putN m (l.line * 256 + half * 128) (leBytes 128 x.under.toNat) else m
    let arg : EvArg := { (default : EvArg) with
      flag := true, data := l.owners, n := if l.ovf || l.badOwn then 1 else 0, v := BitVec.ofNat 64 pa }
    let s := { s with
      mem := back (back s.mem 0 l.lo) 1 l.hi
      st.l2 := s.st.l2.upd (l2Key pa) (fun t => { t with ways := t.ways.filter (fun x => x.1 != way) }) }
    if l.lo.d || l.hi.d then { s with sim.agenda := .ev .l2Access arg :: s.sim.agenda } else s

/-! ### Committed and gated bytes (R388) -/

/-- The gated copy of a byte that a region sees, the newest first. -/
def gatedByte (g : List Gated) (rid pa : Nat) : Option Byte :=
  (g.find? (fun x => x.rid == rid && x.pa == pa)).map (·.byte)

/-- One byte of local DRAM as an agent of region `rid` sees it at the home L2. -/
def dramByte (s : State) (rid pa : Nat) : Byte :=
  if rid = 0 then Mem.get s.mem pa else (gatedByte s.st.gated rid pa).getD (Mem.get s.mem pa)

/-- Put a gated byte in place of an older one of the same region, wave and address. -/
def gatedPut (g : List Gated) (x : Gated) : List Gated :=
  x :: g.filter (fun y => !(y.rid == x.rid && y.wave == x.wave && y.pa == x.pa))

/-- Does the commit gate hold this agent's writes to local DRAM (R388): the AG, CP and SU paths of a region? -/
def gates (a : Actor) : Bool :=
  a.rid != 0 && (a.path == .ag || a.path == .cp || a.path == .su)

/-- Does a write bear a dead generation (R179)? ASID 0 has no generation to lose. -/
def staleGen (s : State) (asid : BitVec 8) (gen : BitVec 16) : Bool :=
  asid != 0#8 && (s.xl.asids.at asid.toNat).gen != gen

/-- Commit bytes at their home L2 (R47): an ungated write that an own gated copy of the region follows, so the
region keeps seeing its latest value (DEDUCED, log entry 9). -/
def dramCommit (s : State) (a : Actor) (pa : Nat) (bs : List Byte) (uncached : Bool) : State :=
  let s := if !uncached && decide (bs.length < 128) && !l2Holds s pa then stackRead s pa else s
  let s := l2Touch s pa true (!uncached) a.asid
  let lo := pa
  let hi := pa + bs.length
  { s with
    mem := Mem.putN s.mem pa bs
    st.poison := unpoison s.st.poison pa bs.length
    st.gated := s.st.gated.map (fun g =>
      if a.rid != 0 && g.rid == a.rid && decide (lo ≤ g.pa) && decide (g.pa < hi)
      then { g with byte := bs.getD (g.pa - lo) 0#8 } else g) }

/-- A gated write that would need a ninth gated way of its L2 set (R388). -/
def gateFull (s : State) (a : Actor) (pa : Nat) : Bool :=
  gates a &&
    (let lines := ((s.st.gated.filter (fun g => l2Key g.pa == l2Key pa)).map (fun g => g.pa / 256)).eraseDups
     decide (8 ≤ lines.length) && !lines.contains (pa / 256))

/-- Hold bytes at the commit gate (R388). Streams say themselves whether their MARK has passed; a write of another
path belongs to the wave after the one in flight. -/
def dramGate (s : State) (a : Actor) (pa : Nat) : List Byte → State
  | [] => s
  | b :: bs =>
    let r := s.rg.regions.at (a.rid - 1)
    let w := if a.late || (a.path != .ag && r.inFlight) then r.wave + 1 else r.wave
    dramGate { s with st.gated := gatedPut s.st.gated { rid := a.rid, wave := w, pa := pa, byte := b, asid := a.asid } }
      a (pa + 1) bs

/-- A store at the home L2 ends every reservation of LR that holds its sector (RISC-V's A extension; log entry 7). -/
def lrBreak (s : State) (pa : Nat) : State :=
  { s with st.lrs := s.st.lrs.filter (fun r => r.2 != some (pa / 128)) }

/-- Write bytes of one sector at the home L2, gated or committed; a dead generation is dropped (R179). -/
def dramWrite (s : State) (a : Actor) (pa : Nat) (bs : List Byte) (uncached : Bool) : State :=
  if staleGen s a.asid a.gen then s
  else
    let s := l2TagCheck (lrBreak s pa) pa
    if gates a then dramGate s a pa bs else dramCommit s a pa bs uncached

/-- Read bytes of one sector at the home L2. -/
def dramRead (s : State) (a : Actor) (pa n : Nat) (uncached : Bool) : List Byte × State :=
  let s := l2TagCheck s pa
  let c := if l2Holds s pa then s else stackRead s pa
  ((List.range n).map (fun i => dramByte s a.rid (pa + i)), l2Touch c pa false (!uncached) a.asid)

/-- The bytes DRAM itself holds, beneath an L2 sector: DEV accesses bypass the L2 (R48). -/
def dramUnder (s : State) (pa : Nat) : Byte :=
  match l2Find (s.st.l2.at (l2Key pa)).ways (pa / 256) with
  | some way =>
    let sec := ((s.st.l2.at (l2Key pa)).ways.at way).sector pa
    if sec.u then sec.under.extractLsb' (pa % 128 * 8) 8 else Mem.get s.mem pa
  | none => Mem.get s.mem pa

/-- A DEV store to DRAM goes beneath the L2: a sector held above it keeps its bytes. -/
def dramPutUnder (s : State) (pa : Nat) (b : Byte) : State :=
  let s := lrBreak s pa
  let k := l2Key pa
  let set := s.st.l2.at k
  match l2Find set.ways (pa / 256) with
  | some way =>
    let l := set.ways.at way
    let sec := l.sector pa
    if sec.v then
      let sh := pa % 128 * 8
      let under := if sec.u then sec.under else sectorBits s.mem (pa / 128)
      let u := (under &&& ~~~((255#1024) <<< sh)) ||| (b.setWidth 1024 <<< sh)
      { s with st.l2 := s.st.l2.set k { set with ways := set.ways.set way (l.setSector pa { sec with u := true, under := u }) } }
    else { s with mem := Mem.put s.mem pa b }
  | none => { s with mem := Mem.put s.mem pa b }

/-! ### The core cache (R44–R46) -/

/-- Slice and set of an address (R44). -/
def ccSlice (pa : Nat) : Nat := pa / 256 % 8
def ccSet (pa : Nat) : Nat := pa / 2048 % 128

/-- The key of a line: core, slice, set and the bank that is its way. -/
def ccKey (core slice set bank : Nat) : Nat := ((core * 8 + slice) * 128 + set) * 24 + bank

/-- The banks of a slice that are ways: the CACHE banks of its memory tile, ascending (R44). -/
def ccWays (s : State) (core slice : Nat) : List Nat :=
  (List.range 24).filter (fun b => (s.st.banks.at (bankKey core (slice * 24 + b))).mode == .cache)

/-- The current generation of an ASID; ASID 0 has generation 0 (R9, R10). -/
def genOf (s : State) (asid : BitVec 8) : BitVec 16 :=
  if asid = 0#8 then 0#16 else (s.xl.asids.at asid.toNat).gen

def CcLine.sector (l : CcLine) (pa : Nat) : CcSector := if pa / 128 % 2 = 1 then l.hi else l.lo
def CcLine.setSector (l : CcLine) (pa : Nat) (x : CcSector) : CcLine :=
  if pa / 128 % 2 = 1 then { l with hi := x } else { l with lo := x }

/-- The way of a set that holds an address under an ASID's present generation (R44, R45). -/
def ccFind (s : State) (core pa : Nat) (asid : BitVec 8) : Option Nat :=
  (ccWays s core (ccSlice pa)).find? (fun b =>
    let l := s.st.cc.at (ccKey core (ccSlice pa) (ccSet pa) b)
    (l.lo.v || l.hi.v) && l.tag == BitVec.ofNat 34 (pa / 2 ^ 18) && l.asid == asid && l.gen == genOf s asid)

/-- Where the byte of an address stands in the bank that is its way: line s of a way lies at bank-local address 256 × s (R44). -/
def ccPlace (core bank pa : Nat) : Nat := bankAddr core (ccSlice pa * 24 + bank) (256 * ccSet pa + pa % 256)

/-- Write one dirty sector back to its home L2 under the line's ASID and generation; a stale one is dropped
there (R45). A poisoned word stays poisoned (log entry 50). -/
def ccBackSector (s : State) (core : Nat) (l : CcLine) (slice set bank half : Nat) (sec : CcSector) : State :=
  if sec.v && sec.d then
    let pa := l.tag.toNat * 2 ^ 18 + set * 2048 + slice * 256 + half * 128
    let a : Actor := { core := core, path := .ct, asid := l.asid, gen := l.gen, rid := 0 }
    let s := dramWrite s a pa (leBytes 128 sec.data.toNat) false
    { s with st.poison := s.st.poison ++ poisonCopy s.st.poison (ccPlace core bank pa) pa 128 }
  else s

/-- Write back the dirty sectors of a line. -/
def ccBack (s : State) (core slice set bank : Nat) : State :=
  let k := ccKey core slice set bank
  let l := s.st.cc.at k
  let s := ccBackSector s core l slice set bank 0 l.lo
  let s := ccBackSector s core l slice set bank 1 l.hi
  { s with st.cc := s.st.cc.set k { l with lo.d := false, hi.d := false } }

/-- The way a miss takes: the lowest invalid one, else the least recently used (R45). -/
def ccVictim (s : State) (core pa : Nat) : Option Nat :=
  let ways := ccWays s core (ccSlice pa)
  let ln (b : Nat) : CcLine := s.st.cc.at (ccKey core (ccSlice pa) (ccSet pa) b)
  match ways.find? (fun b => !((ln b).lo.v || (ln b).hi.v)) with
  | some b => some b
  | none => ways.foldl (fun best b => match best with
      | none => some b
      | some c => if (ln b).used < (ln c).used then some b else some c) none

/-- A sector enters a way, with the poison that its bytes bear. -/
def ccEnter (s : State) (a : Actor) (pa bank : Nat) (l : CcLine) (sec : CcSector) (poi : List Nat) : State :=
  let at_ := ccPlace a.core bank (pa / 128 * 128)
  { s with
    st.cc := s.st.cc.set (ccKey a.core (ccSlice pa) (ccSet pa) bank) ({ l with used := s.sim.seqNo }.setSector pa sec)
    st.poison := unpoison s.st.poison at_ 128 ++ poisonCopy poi (pa / 128 * 128) at_ 128
    sim.seqNo := s.sim.seqNo + 1 }

/-- A sector fills a way, evicting a line where none is free (R45): it is read from the home L2, unless a store writes it whole. -/
def ccFill (s : State) (a : Actor) (pa : Nat) (whole : Bool) : State :=
  let r := if whole then ([], s) else dramRead s { a with rid := 0 } (pa / 128 * 128) 128 false
  let sec : CcSector := { v := true, d := false, data := BitVec.ofNat 1024 (leNat r.1) }
  let s := r.2
  let poi := if whole then [] else s.st.poison
  match ccFind s a.core pa a.asid with
  | some b => ccEnter s a pa b (s.st.cc.at (ccKey a.core (ccSlice pa) (ccSet pa) b)) sec poi
  | none => match ccVictim s a.core pa with
    | none => s
    | some b =>
      let s := ccBack s a.core (ccSlice pa) (ccSet pa) b
      let l : CcLine := { (default : CcLine) with tag := BitVec.ofNat 34 (pa / 2 ^ 18), asid := a.asid, gen := genOf s a.asid }
      ccEnter s a pa b l sec poi

/-- The valid sector that holds an address, if the core cache holds it. -/
def ccHit (s : State) (a : Actor) (pa : Nat) : Option (Nat × CcSector) :=
  match ccFind s a.core pa a.asid with
  | some b =>
    let sec := (s.st.cc.at (ccKey a.core (ccSlice pa) (ccSet pa) b)).sector pa
    if sec.v then some (b, sec) else none
  | none => none

/-- A cached read of bytes within one sector: hit, fill, or the L2 itself where the slice has no way (R45); none where a word of them
is poisoned. -/
def ccRead (s : State) (a : Actor) (pa n : Nat) : Option (List Byte) × State :=
  let s := if (ccHit s a pa).isNone && !(ccWays s a.core (ccSlice pa)).isEmpty then ccFill s a pa false else s
  match ccHit s a pa with
  | none =>
    if poisoned s pa n then (none, s)
    else let r := dramRead s a pa n false; (some r.1, r.2)
  | some (b, sec) =>
    if poisoned s (ccPlace a.core b pa) n then (none, s) else
    let k := ccKey a.core (ccSlice pa) (ccSet pa) b
    let bs := (List.range n).map (fun i =>
      let own := sec.data.extractLsb' ((pa + i) % 128 * 8) 8
      if a.rid = 0 then own else (gatedByte s.st.gated a.rid (pa + i)).getD own)
    (some bs, { s with st.cc := s.st.cc.set k { (s.st.cc.at k) with used := s.sim.seqNo }, sim.seqNo := s.sim.seqNo + 1 })

/-- Put bytes into a sector's data. -/
def sectorPut (d : BitVec 1024) (o : Nat) : List Byte → BitVec 1024
  | [] => d
  | b :: bs => sectorPut ((d &&& ~~~((255#1024) <<< (o * 8))) ||| (b.setWidth 1024 <<< (o * 8))) (o + 1) bs

/-- A cached write of bytes within one sector (R45); a gated write goes to the gate at its home L2. -/
def ccWrite (s : State) (a : Actor) (pa : Nat) (bs : List Byte) : State :=
  if gates a then dramWrite s a pa bs false
  else
    let s := if (ccHit s a pa).isNone && !(ccWays s a.core (ccSlice pa)).isEmpty then
        ccFill s a pa (decide (128 ≤ bs.length)) else s
    match ccHit s a pa with
    | none => dramWrite s a pa bs false
    | some (b, sec) =>
      let k := ccKey a.core (ccSlice pa) (ccSet pa) b
      let l := { (s.st.cc.at k) with used := s.sim.seqNo }
      { s with
        st.cc := s.st.cc.set k (l.setSector pa { sec with d := true, data := sectorPut sec.data (pa % 128) bs })
        st.gated := s.st.gated.map (fun g =>
          if a.rid != 0 && g.rid == a.rid && decide (pa ≤ g.pa) && decide (g.pa < pa + bs.length)
          then { g with byte := bs.getD (g.pa - pa) 0#8 } else g)
        st.poison := unpoison s.st.poison (ccPlace a.core b pa) bs.length
        sim.seqNo := s.sim.seqNo + 1 }

/-- Every dirty sector of a core's cache is written back: a release of scope .d or wider (R46). -/
def ccClean (s : State) (core : Nat) : State :=
  (s.st.cc.filter (fun x => x.1 / (8 * 128 * 24) == core && (x.2.lo.d || x.2.hi.d))).foldl
    (fun s x => ccBack s core (x.1 / (128 * 24) % 8) (x.1 / 24 % 128) (x.1 % 24)) s

/-- Every clean valid sector of a core's cache is invalidated: an acquire of scope .d or wider (R46). -/
def ccInval (s : State) (core : Nat) : State :=
  { s with st.cc := s.st.cc.map (fun x =>
      if x.1 / (8 * 128 * 24) == core then
        (x.1, { x.2 with lo.v := x.2.lo.v && x.2.lo.d, hi.v := x.2.hi.v && x.2.hi.d })
      else x) }

/-! ### Performing an access at a place -/

/-- Must an access wait for a bank that changes (R42): the bank it names, or for a cached one a way of its slice? -/
def accBusy (s : State) (a : Actor) (mt : MType) (pa n : Nat) : Bool :=
  match place pa with
  | .bank c o => (banksOf s c o n).any (fun b => (s.st.banks.at (bankKey c b)).busy)
  | .dram => mt == .wb && (a.path == .ct || a.path == .ag) &&
      (ccWays s a.core (ccSlice pa)).any (fun b => (s.st.banks.at (bankKey a.core (ccSlice pa * 24 + b))).busy)
  | _ => false

/-- Outcome of a performed access: its bytes, or why it was not performed. -/
inductive PRes
  | ok (bs : List Byte)
  | mode          -- the bank's mode admits no such access (R43)
  | poison        -- a poisoned word was read (R50)
  | full          -- the commit gate has no way for the write (R388)
  deriving DecidableEq, Repr, Inhabited

/-- Read n bytes at a local physical address that translation has admitted. -/
def performRead (s : State) (a : Actor) (mt : MType) (pa n : Nat) : PRes × State :=
  match place pa with
  | .bank c o =>
    if !bankScratch s c o then (.mode, s)
    else if (List.range n).any (fun i => poisoned s (bankByte s c (o + i)) 1) then (.poison, s)
    else (.ok ((List.range n).map (fun i => Mem.get s.mem (bankByte s c (o + i)))), s)
  | .anvil _ _ =>
    if poisoned s pa n then (.poison, s) else (.ok (Mem.getN s.mem pa n), s)
  | .dram =>
    if mt == .wb && (a.path == .ct || a.path == .ag) then
      let r := ccRead s a pa n
      match r.1 with
      | some bs => (.ok bs, r.2)
      | none => (.poison, r.2)
    else if poisoned s pa n then (.poison, s)
    else match mt with
    | .dev => (.ok ((List.range n).map (fun i => dramUnder s (pa + i))), stackRead s pa)
    | .uc => let r := dramRead s a pa n true; (.ok r.1, r.2)
    | .wb => let r := dramRead s a pa n false; (.ok r.1, r.2)
  | _ => (.ok (Mem.getN s.mem pa n), s)

/-- Write bytes at a local physical address that translation has admitted. A store to a bank comes after those queued at its port
(R36). -/
def performWrite (s : State) (a : Actor) (mt : MType) (pa : Nat) (bs : List Byte) : PRes × State :=
  if staleGen s a.asid a.gen then (.ok [], s)
  else match place pa with
  | .bank c o =>
    if !bankScratch s c o then (.mode, s)
    else
      let s := (banksOf s c o bs.length).foldl (fun s b => portDrain s c b) s
      (.ok [], storeBytes s (bs.zipIdx.map (fun x => (bankByte s c (o + x.2), x.1))))
  | .anvil _ _ =>
    (.ok [], storeBytes s (bs.zipIdx.map (fun x => (pa + x.2, x.1))))
  | .dram => match mt with
    | .dev => (.ok [], (List.range bs.length).foldl (fun s i => dramPutUnder s (pa + i) (bs.getD i 0#8)) s)
    | .uc => if gateFull s a pa then (.full, s) else (.ok [], dramWrite s a pa bs true)
    | .wb =>
      if gateFull s a pa then (.full, s)
      else if a.path == .ct || a.path == .ag then (.ok [], ccWrite s a pa bs)
      else (.ok [], dramWrite s a pa bs false)
  | _ => (.ok [], { s with mem := Mem.putN s.mem pa bs })

end Sys2Proof.Machine
end

