-- ==== Sys2Proof/Machine/Tile.lean ====
section
/-! DEFINITION. The tile table (R53–R58): definitions, the state machine of R55, the issue rule of R56 and the
generation check of R57. -/

namespace Sys2Proof.Machine

/-- Size in bytes of an entry's range. -/
def Tile.size (t : Tile) : Nat := 2 ^ t.sz.toNat
/-- Is an entry defined (SZ ≠ 0)? -/
def Tile.isDef (t : Tile) : Bool := t.sz != 0#5

/-- The banks a bank-space range covers: every bank of every interleave group a byte of it falls into (R54). -/
def rangeBanks (s : State) (core off size : Nat) : List Nat :=
  (List.range 192).filter (fun b =>
    let g := 2 ^ ilvOf s core b
    let b0 := b / 24 * 24 + (b % 24) / g * g
    decide (b0 * 0x8000 < off + size) && decide (off < (b0 + g) * 0x8000))

/-- Does a bank belong to a region of another tenant than an ASID's (R54)? A region has a bank while it holds or
has reserved a graph slot whose core section allots it. -/
def bankForeign (s : State) (core bank : Nat) (asid : BitVec 8) : Bool :=
  (List.range 4).any (fun g =>
    let sl := s.rg.slots.at (core * 4 + g)
    sl.rid != 0 && sl.allot.getLsbD bank &&
      (s.xl.asids.at (s.rg.regions.at (sl.rid - 1)).asid.toNat).ten != (s.xl.asids.at asid.toNat).ten)

/-- Statuses of tile-table operations (R54, R55; values of R298). -/
inductive TileStatus
  | ok | live | badsize | badspace | overlap | badstate
  deriving DecidableEq, Repr, Inhabited

/-- The checks of a definition in the order of R54. -/
def tileDefCheck (s : State) (core i : Nat) (sp : Bool) (sz off : Nat) (asid : BitVec 8) : TileStatus :=
  let old := s.st.tiles.at (tileKey core i)
  let lim := if sp then 0x4000000 else 0x600000
  if old.isDef && old.st != .empty then .live
  else if sz < 6 || sz > 20 || off % 64 != 0 then .badsize
  else if off + 2 ^ sz > lim ||
      (!sp && (rangeBanks s core off (2 ^ sz)).any (fun b =>
        (s.st.banks.at (bankKey core b)).mode != .scratch || bankForeign s core b asid)) then .badspace
  else if (List.range 256).any (fun j =>
      let t := s.st.tiles.at (tileKey core j)
      j != i && t.isDef && t.sp == sp && decide (off < t.off.toNat + t.size) && decide (t.off.toNat < off + 2 ^ sz)) then
    .overlap
  else .ok

def tileUpd (s : State) (core i : Nat) (f : Tile → Tile) : State :=
  { s with st.tiles := s.st.tiles.upd (tileKey core i) f }

/-- Define an entry: SP, SZ, OFF and ASID set, GEN kept, EMPTY (R54); DROPW clears (R53). -/
def tileDefine (s : State) (core i : Nat) (sp : Bool) (sz off : Nat) (asid : BitVec 8) : State :=
  tileUpd s core i (fun t => { t with
    sp := sp, sz := BitVec.ofNat 5 sz, off := BitVec.ofNat 26 off, asid := asid, st := .empty, drq := false
    rel := false, dropw := 0#8 })

/-- Undefine an entry: SZ becomes 0. -/
def tileUndefine (s : State) (core i : Nat) : State := tileUpd s core i (fun t => { t with sz := 0#5 })

/-- Entry into EMPTY from FILLING or DRAINING: GEN increments, and the contents are disowned, not cleared (R55). -/
def Tile.toEmpty (t : Tile) : Tile := { t with st := .empty, gen := t.gen + 1#16, drq := false, rel := false }

/-- Fill begin (R55). -/
def Tile.fillBegin (t : Tile) : Tile := { t with st := .filling, fillb := 0#32 }

/-- READY with DRQ = 1 passes to DRAINING when USE is 0, and a release that waits for it takes effect (R55). -/
def Tile.settle (t : Tile) : Tile :=
  if t.st = .ready ∧ t.drq ∧ t.use = 0#8 then
    let t := { t with st := .draining, drq := false }
    if t.rel then t.toEmpty else t
  else t

/-- A tile reference has finished: USE decreases by 1 (R56). -/
def tileDone (s : State) (core i : Nat) : State :=
  tileUpd s core i (fun t => Tile.settle { t with use := if t.use = 0#8 then 0#8 else t.use - 1#8 })

/-- May a reference issue (R56)? -/
def Tile.canIssue (t : Tile) : Bool := t.st == .ready && !t.drq && t.use != 255#8

/-- A reference to an undefined entry or another ASID's is a TILEREF fault (R56). -/
def Tile.badRef (t : Tile) (asid : BitVec 8) : Bool := !t.isDef || t.asid != asid

/-- A reference issues: USE increases by 1 (R56). -/
def tileUse (s : State) (core i : Nat) : State := tileUpd s core i (fun t => { t with use := t.use + 1#8 })

/-- Where a byte of an entry's range stands in memory. -/
def tileByte (s : State) (core : Nat) (t : Tile) (o : Nat) : Nat :=
  if t.sp then anvilWin core + t.off.toNat + o else bankByte s core (t.off.toNat + o)

/-- The physical address of a byte of an entry's range. -/
def tilePa (core : Nat) (t : Tile) (o : Nat) : Nat :=
  (if t.sp then anvilWin core else bankWin core) + t.off.toNat + o

/-- The banks of an entry's range that n bytes at an offset fall into. -/
def tileBanks (s : State) (core : Nat) (t : Tile) (o n : Nat) : List Nat :=
  if t.sp then [] else banksOf s core (t.off.toNat + o) n

/-- Does an access to an entry's range wait for a bank that changes (R42)? -/
def tileBusy (s : State) (core : Nat) (t : Tile) (o n : Nat) : Bool :=
  (tileBanks s core t o n).any (fun b => (s.st.banks.at (bankKey core b)).busy)

/-- Does an access to any byte of entry i wait for a bank that changes? -/
def entryBusy (s : State) (core i : Nat) : Bool :=
  let t := s.st.tiles.at (tileKey core i)
  t.isDef && tileBusy s core t 0 t.size

/-- Write bytes into an entry's range at an offset, after the stores queued at the ports of its banks (R36). -/
def tilePut (s : State) (core : Nat) (t : Tile) (o : Nat) (bs : List Byte) : State :=
  let s := (tileBanks s core t o bs.length).foldl (fun s b => portDrain s core b) s
  storeBytes s (bs.zipIdx.map (fun x => (tileByte s core t (o + x.2), x.1)))

/-- An engine or inbound write aimed at an entry (R57): performed only while the entry is FILLING under the
carried GEN, else dropped with DROPW. The answer says whether it was performed. -/
def tileWrite (s : State) (core i : Nat) (gen : BitVec 16) (o : Nat) (bs : List Byte) : Bool × State :=
  let t := s.st.tiles.at (tileKey core i)
  if t.isDef && t.st == .filling && t.gen == gen then
    (true, tileUpd (tilePut s core t o bs) core i (fun t => { t with
      fillb := BitVec.ofNat 32 (min 0xFFFFFFFF (t.fillb.toNat + bs.length)) }))
  else (false, tileUpd s core i (fun t => { t with dropw := BitVec.ofNat 8 (min 255 (t.dropw.toNat + 1)) }))

/-- The kill of an ASID undefines its entries and increments their GEN (R58). -/
def tilesKill (s : State) (asid : BitVec 8) : State :=
  { s with st.tiles := s.st.tiles.map (fun x =>
      if x.2.isDef && x.2.asid == asid then
        (x.1, { x.2 with sz := 0#5, gen := x.2.gen + 1#16, st := .empty, drq := false, rel := false })
      else x) }

end Sys2Proof.Machine
end

