-- ==== Sys2Proof/Machine/Xlate.lean ====
section
/-! DEFINITION. Translation: the walk and its checks (R20–R24), translation entries (R25, R26), invalidation
(R29, R30) and the dirty-page bitmap (R31–R33). -/

namespace Sys2Proof.Machine

/-- A page-table entry passes checks 4 to 6 at a level: none, or the status (R21, R22). -/
def pteCheck (level : Nat) (p : Word) : Option XSt :=
  let leaf := p.getLsbD 1
  if !p.getLsbD 0 then some .invalid
  else if p.getLsbD 63 || p.extractLsb' 52 4 != 0#4 || p.extractLsb' 8 8 != 0#8 || p.getLsbD 2 then some .rsvbit
  else if !leaf && p.extractLsb' 2 14 != 0#14 then some .rsvbit
  else if leaf && level == 1 then some .rsvbit
  else if !leaf && level == 3 then some .rsvbit
  else if leaf && p.extractLsb' 6 2 == 3#2 then some .rsvbit
  else if leaf && p.getLsbD 4 && !p.getLsbD 3 then some .rsvbit
  else if leaf && level == 2 && p.extractLsb' 16 13 != 0#13 then some .misalign
  else none

/-- Physical bits [51:16] of an entry. -/
def ptePpn (p : Word) : BitVec 36 := p.extractLsb' 16 36

/-- The leaf an entry gives for a virtual address. -/
def pteLeaf (asid : BitVec 8) (gen : BitVec 16) (va : Word) (level : Nat) (p : Word) : Tlb :=
  { asid := asid, gen := gen, vpn := va.extractLsb' 16 39, big := level == 2, ppn := ptePpn p,
    mt := p.extractLsb' 6 2, x := p.getLsbD 5, w := p.getLsbD 4, rd := p.getLsbD 3 }

/-- Is a page-table entry cached by the die's walker under the present generation (R25)? -/
def walkCached (s : State) (die : Nat) (asid : BitVec 8) (level idx : Nat) : Option Word :=
  ((s.xl.walkC.at die).find? (fun e =>
    e.asid == asid && e.gen == genOf s asid && e.level == level && e.idx == idx)).map (·.pte)

/-- Keep a table entry in the die's walk cache of 512 entries (R25; replacement: log entry 4). -/
def walkKeep (s : State) (die : Nat) (e : WalkEnt) : State :=
  { s with xl.walkC := s.xl.walkC.set die ((e :: s.xl.walkC.at die).take 512) }

/-- Read the entry at a physical address as the walker does, at module scope (R20, R28): none is WALKERR. -/
def pteRead (s : State) (pa : Nat) : Option Word × State :=
  if !isDram pa || poisoned s pa 8 then (none, s)
  else (some (leWord (Mem.getN s.mem pa 8)), l2Touch (if l2Holds s pa then s else stackRead s pa) pa false true 0#8)

/-- The end of a walk: its status, the level of the entry that decided it, and the leaf. -/
structure WalkOut where
  st : XSt
  level : Nat
  leaf : Tlb
  deriving DecidableEq, Repr, Inhabited

/-- One level of the walk: the entry at table `t`, checked; `k` goes on with a table entry. -/
def walkStep (s : State) (asid : BitVec 8) (gen : BitVec 16) (va : Word) (level t idx : Nat)
    (k : State → Word → WalkOut × State) : WalkOut × State :=
  let r := pteRead s (t + 8 * idx)
  match r.1 with
  | none => ({ st := .walkerr, level := level, leaf := default }, r.2)
  | some p => match pteCheck level p with
    | some st => ({ st := st, level := level, leaf := default }, r.2)
    | none =>
      if p.getLsbD 1 then ({ st := .ok, level := level, leaf := pteLeaf asid gen va level p }, r.2)
      else k r.2 p

/-- The table that an entry points to. -/
def pteTable (p : Word) : Nat := (ptePpn p).toNat * 0x10000

/-- Level 3 of the walk. -/
def walk3 (s : State) (asid : BitVec 8) (gen : BitVec 16) (va : Word) (t : Nat) : WalkOut × State :=
  walkStep s asid gen va 3 t (va.extractLsb' 16 13).toNat
    (fun s _ => ({ st := .rsvbit, level := 3, leaf := default }, s))

/-- Level 2 of the walk, from a level-2 table. -/
def walk2 (s : State) (die : Nat) (asid : BitVec 8) (gen : BitVec 16) (va : Word) (t : Nat) : WalkOut × State :=
  walkStep s asid gen va 2 t (va.extractLsb' 29 13).toNat (fun s p =>
    walk3 (walkKeep s die { asid := asid, gen := gen, level := 2, idx := (va.extractLsb' 29 26).toNat, pte := p })
      asid gen va (pteTable p))

/-- The whole walk of an ASID from 1 to 255 (checks 1 to 6 of R22), through the die's walk cache. -/
def walk (s : State) (die : Nat) (asid : BitVec 8) (gen : BitVec 16) (va : Word) : WalkOut × State :=
  let d := s.xl.asids.at asid.toNat
  if va.extractLsb' 55 9 != 0#9 then ({ st := .noncanon, level := 0, leaf := default }, s)
  else if !d.v || d.gen != gen then ({ st := .noctx, level := 0, leaf := default }, s)
  else match walkCached s die asid 2 (va.extractLsb' 29 26).toNat with
  | some p => walk3 s asid gen va (pteTable p)
  | none => match walkCached s die asid 1 (va.extractLsb' 42 13).toNat with
    | some p => walk2 s die asid gen va (pteTable p)
    | none => walkStep s asid gen va 1 (d.root.toNat * 0x10000) (va.extractLsb' 42 13).toNat (fun s p =>
        walk2 (walkKeep s die { asid := asid, gen := gen, level := 1, idx := (va.extractLsb' 42 13).toNat, pte := p })
          die asid gen va (pteTable p))

/-- The physical address a leaf gives (R21). -/
def leafPa (l : Tlb) (va : Word) : Nat :=
  if l.big then l.ppn.toNat * 0x10000 + (va.extractLsb' 0 29).toNat
  else l.ppn.toNat * 0x10000 + (va.extractLsb' 0 16).toNat

/-- Does a leaf cover a virtual address? -/
def leafCovers (l : Tlb) (va : Word) : Bool :=
  if l.big then l.vpn.extractLsb' 13 26 == va.extractLsb' 29 26 else l.vpn == va.extractLsb' 16 39

/-- Check 7: the access type is permitted (R23). -/
def leafPerm (l : Tlb) (acc : Acc) : Bool :=
  match acc with
  | .load => l.rd
  | .ldred => l.rd
  | .store => l.w
  | .atomic => l.rd && l.w
  | .fetch => l.x

/-- Word `w` of a replica group's block (R19). -/
def groupWord (s : State) (g w : Nat) : Word := s.xl.groups.at (g * 128 + w)
/-- COUNT of a group. A COUNT above 64, which no rule gives an outcome, is kept as written, and its replicas past index 63 read the
RSV words, which are 0: node 0, base 0 (DESIGN CHOICE, log entry 54). -/
def groupCount (s : State) (g : Nat) : Nat := ((groupWord s g 0).extractLsb' 0 7).toNat
/-- LOCAL of a group. A LOCAL of 64 to 126, which no rule gives an outcome, names a replica in the same way (DESIGN CHOICE, log
entry 54). -/
def groupLocal (s : State) (g : Nat) : Nat := ((groupWord s g 0).extractLsb' 8 7).toNat
/-- NODE of a replica. -/
def groupNode (s : State) (g i : Nat) : BitVec 10 := (groupWord s g (1 + i)).extractLsb' 0 10
/-- BASE of a replica, a local address. -/
def groupBase (s : State) (g i : Nat) : Nat := ((groupWord s g (1 + i)).extractLsb' 16 28).toNat * 0x10000

/-- Checks 8 and 9 (R22): memory type, window and access type agree, then the peer slot or replica group is
usable. -/
def placeCheck (s : State) (a : Actor) (mt : MType) (acc : Acc) (pa size : Nat) : XSt :=
  if mt == .dev && (acc == .atomic || acc == .ldred) then .type
  else if mt == .dev && size != 4 && size != 8 then .type
  else if acc == .ldred && (match place pa with | .repl _ _ => false | _ => true) then .type
  else match place pa with
  | .hole => .type
  | .dram => .ok
  | .bank _ _ => if mt == .dev then .type else .ok
  | .anvil _ _ => if mt == .dev then .type else .ok
  | .notify _ _ _ => if mt == .dev then .ok else .type
  | .regs _ _ => if a.asid == 0#8 && size == 8 && pa % 8 == 0 && acc != .atomic then .ok else .type
  | .repl g _ =>
    if acc == .atomic || acc == .fetch || a.path == .cp then .type
    else if groupCount s g == 0 then .nopeer
    else if acc == .ldred then .ok
    else if groupLocal s g == 0x7F then .nopeer else .ok
  | .remote p _ => if (s.xl.peers.at p).v then .ok else .nopeer

/-- The memory type of an access under ASID 0, which no leaf gives: the one the window requires (DEDUCED,
log entry 10). -/
def identityMt (pa : Nat) : MType :=
  match place pa with
  | .notify _ _ _ => .dev
  | .regs _ _ => .dev
  | _ => .wb

/-- What a translation gives: status, physical address, memory type and the level of the deciding entry. -/
structure XRes where
  st : XSt
  pa : Nat
  mt : MType
  level : Nat
  deriving DecidableEq, Repr, Inhabited

/-- Checks 7 to 9 on a leaf. -/
def leafRes (s : State) (a : Actor) (l : Tlb) (acc : Acc) (va : Word) (size level : Nat) : XRes :=
  let pa := leafPa l va
  let mt := MType.ofBits l.mt
  { st := if !leafPerm l acc then .perm else placeCheck s a mt acc pa size, pa := pa, mt := mt, level := level }

/-! ### Installing an entry under dirty tracking (R31, R32) -/

/-- Does a tenant's descriptor track a page? -/
def tracks (d : DirtyDesc) (vpn : BitVec 39) : Bool :=
  d.on && decide (d.vlo.toNat ≤ vpn.toNat) && decide (vpn.toNat < d.vlo.toNat + d.npg.toNat)

/-- Set a page's bit in the tenant's bitmap (R31). -/
def dirtySet (s : State) (d : DirtyDesc) (vpn : BitVec 39) : State :=
  let i := vpn.toNat - d.vlo.toNat
  let pa := d.base.toNat * 0x10000 + i / 8
  let a : Actor := { core := 0, path := .inb, asid := 0#8, gen := 0#16, rid := 0 }
  dramCommit s a pa [Mem.get s.mem pa ||| (1#8 <<< (i % 8))] false

/-- An entry as it is installed: while its tenant is tracked, an entry that grants W covers one 64 KiB page
(R31: a 512 MiB page is tracked per sub-page) and is installed after the page's bit is set (R32). -/
def installLeaf (s : State) (l : Tlb) (va : Word) : Tlb × State :=
  let ten := (s.xl.asids.at l.asid.toNat).ten.toNat
  let d := s.xl.dirty.at ten
  if d.on && l.w then
    let l := if l.big then
        { l with big := false, vpn := va.extractLsb' 16 39,
                 ppn := BitVec.ofNat 36 (leafPa l va / 0x10000) } else l
    (l, if tracks d l.vpn then dirtySet s d l.vpn else s)
  else (l, s)

/-- The set of a core's translation cache that an entry is kept in: 64 sets of 4 ways, by the low bits of the page's number (R25; the
index and the replacement: log entry 4). -/
def Tlb.setIx (l : Tlb) : Nat := (if l.big then l.vpn.toNat / 8192 else l.vpn.toNat) % 64

/-- The core's translation cache of 256 entries, 4-way (R25): of a full set the oldest entry goes. -/
def tlbKeep (s : State) (core : Nat) (l : Tlb) : State :=
  let es := s.xl.tlbs.at core
  let es := l :: (es.filter (fun e => e.setIx == l.setIx)).take 3 ++ es.filter (fun e => e.setIx != l.setIx)
  { s with xl.tlbs := s.xl.tlbs.set core es }

def tlbFind (s : State) (core : Nat) (asid : BitVec 8) (va : Word) : Option Tlb :=
  (s.xl.tlbs.at core).find? (fun l => l.asid == asid && l.gen == genOf s asid && leafCovers l va)

/-- translate: the walk and checks of R22 and R23 for the paths served by the core's translation cache (R25). -/
def translate (s : State) (a : Actor) (va : Word) (acc : Acc) (size : Nat) : XRes × State :=
  if a.asid = 0#8 then
    let pa := va.toNat
    if va.extractLsb' 52 12 != 0#12 then ({ st := .noncanon, pa := 0, mt := .wb, level := 0 }, s)
    else ({ st := placeCheck s a (identityMt pa) acc pa size, pa := pa, mt := identityMt pa, level := 0 }, s)
  else
    let d := s.xl.asids.at a.asid.toNat
    if va.extractLsb' 55 9 != 0#9 then ({ st := .noncanon, pa := 0, mt := .wb, level := 0 }, s)
    else if !d.v || d.gen != a.gen then ({ st := .noctx, pa := 0, mt := .wb, level := 0 }, s)
    else match tlbFind s a.core a.asid va with
    | some l => (leafRes s a l acc va size (if l.big then 2 else 3), s)
    | none =>
      let r := walk s (a.core / 64) a.asid a.gen va
      match r.1.st with
      | .ok =>
        let i := installLeaf r.2 r.1.leaf va
        let s := tlbKeep i.2 a.core i.1
        (leafRes s a i.1 acc va size r.1.level, s)
      | st => ({ st := st, pa := 0, mt := .wb, level := r.1.level }, r.2)

/-! ### Walk slots (R27) -/

/-- The tenant of an ASID. -/
def tenOf (s : State) (asid : BitVec 8) : Nat := (s.xl.asids.at asid.toNat).ten.toNat

/-- Slots that a tenant holds on a die. -/
def walkHeld (s : State) (die ten : Nat) : Nat :=
  (s.xl.walks.filter (fun w => w.die == die && w.granted && tenOf s w.asid == ten)).length

/-- May a tenant be granted a slot now (R27)? -/
def walkMay (s : State) (die ten : Nat) : Bool :=
  let held := walkHeld s die ten
  let q := s.xl.walkQ.at ten
  let free := 64 - (s.xl.walks.filter (fun w => w.die == die && w.granted)).length
  let owed := (List.range 64).foldl (fun n i => if i = ten then n else n + ((s.xl.walkQ.at i).min - walkHeld s die i)) 0
  decide (0 < free) && decide (held < 64 - q.maxC) && (decide (held < q.min) || decide (owed < free))

/-- The request that takes the next slot: of a tenant below its MIN first, then the oldest. -/
def walkNext (s : State) (die : Nat) : Option WalkReq :=
  let c := s.xl.walks.filter (fun w => w.die == die && !w.granted && walkMay s die (tenOf s w.asid))
  match c.find? (fun w => decide (walkHeld s die (tenOf s w.asid) < (s.xl.walkQ.at (tenOf s w.asid)).min)) with
  | some w => some w
  | none => c.head?

/-- Requests of a tenant that wait in a die's walk queue. -/
def walkWaits (s : State) (die ten : Nat) : Nat :=
  (s.xl.walks.filter (fun w => w.die == die && !w.granted && tenOf s w.asid == ten)).length

/-- Is an entry of the die's walk queue of 256 open to a tenant: one of the MIN reserved to it, or one reserved to none (R27)? -/
def walkRoom (s : State) (die ten : Nat) : Bool :=
  let min (i : Nat) : Nat := (s.xl.walkQ.at i).min
  let shared := (List.range 64).foldl (fun n i => n + (walkWaits s die i - min i)) 0
  let sum := (List.range 64).foldl (fun n i => n + min i) 0
  decide (walkWaits s die ten < min ten) || decide (shared < 256 - sum)

/-- May a walk for a core's translation cache begin now, and so end in its step: its tenant may be granted a slot and no waiting
request goes before it? Otherwise it stays with its requester (R27; log entry 4). -/
def walkFree (s : State) (die : Nat) (asid : BitVec 8) : Bool := (walkNext s die).isNone && walkMay s die (tenOf s asid)

/-- Does an access through a core's translation cache wait for a walk slot? -/
def walkWait (s : State) (a : Actor) (va : Word) : Bool :=
  let d := s.xl.asids.at a.asid.toNat
  a.asid != 0#8 && va.extractLsb' 55 9 == 0#9 && d.v && d.gen == a.gen && (tlbFind s a.core a.asid va).isNone &&
    !walkFree s (a.core / 64) a.asid

/-! ### Invalidation (R29, R30) -/

/-- The kinds of R29, by code. -/
inductive InvKind
  | page (asid : BitVec 8) (vpn : BitVec 39)
  | asid (asid : BitVec 8)
  | tenant (ten : BitVec 6)
  | all
  deriving DecidableEq, Repr, Inhabited

/-- Does an invalidation remove a leaf entry? -/
def InvKind.hits (s : State) (k : InvKind) (l : Tlb) : Bool :=
  match k with
  | .page a v => l.asid == a && leafCovers l (v.setWidth 64 <<< 16)
  | .asid a => l.asid == a
  | .tenant t => (s.xl.asids.at l.asid.toNat).ten == t
  | .all => true

/-- Does an invalidation remove a walk-cache entry? -/
def InvKind.hitsWalk (s : State) (k : InvKind) (e : WalkEnt) : Bool :=
  match k with
  | .page a v => e.asid == a &&
      (if e.level = 1 then e.idx == (v.extractLsb' 26 13).toNat else e.idx == (v.extractLsb' 13 26).toNat)
  | .asid a => e.asid == a
  | .tenant t => (s.xl.asids.at e.asid.toNat).ten == t
  | .all => true

/-- The ASIDs whose entries an invalidation may remove. -/
def InvKind.asids (s : State) (k : InvKind) (b : BitVec 8) : Bool :=
  match k with
  | .page a _ => b == a
  | .asid a => b == a
  | .tenant t => (s.xl.asids.at b.toNat).ten == t
  | .all => true

/-- Stores that wait for the commit of their block lose their translation: their instructions have not fired yet, and their LSIDs are
not complete, so that each is translated again at its place (R30). A store of stt names a tile-table entry and stays. -/
def Frame.unpass (f : Frame) (p : PendStore → Bool) : Frame :=
  let gone := f.stores.filter (fun q => p q && !q.tile)
  { f with
    stores := f.stores.filter (fun q => !(p q && !q.tile))
    fired := gone.foldl (fun b q => b &&& ~~~(1#64 <<< q.ix)) f.fired
    lsids := gone.foldl (fun b q => b &&& ~~~(1#32 <<< q.lsid)) f.lsids }

/-- The stores that wait for the commits of their blocks under some ASIDs are translated again before they are performed, as R30 says
of a control-thread block's access after an invalidation. -/
def storesStale (s : State) (p : BitVec 8 → Bool) : State :=
  { s with ctl.frames := s.ctl.frames.map (fun x =>
      let c := s.ctl.ctxs.at (x.1 / 4 * 8 + (x.2.own - 1))
      if x.2.own != 0 && c.asid != 0#8 && p c.asid then (x.1, x.2.unpass (fun _ => true)) else x) }

/-- Has an access under one of some ASIDs left the module without being answered yet? Then it is not known to have been performed at
its receiving port (R29). -/
def farOut (s : State) (p : BitVec 8 → Bool) : Bool :=
  s.ctl.pend.any (fun w => w.kind == .remote && p (s.ctl.ctxs.at (w.core * 8 + w.ctx)).asid) ||
    s.eng.far.any (fun r => p r.asid) || s.eng.copies.any (fun c => c.port.isSome && p c.t.asid)

/-- Remove every entry that `p` selects from the core caches and the stream entries; what streams and blocks had translated of
accesses under the ASIDs of `q` is translated again. -/
def tlbRemove (s : State) (p : Tlb → Bool) (q : BitVec 8 → Bool) : State :=
  storesStale { s with
    xl.tlbs := s.xl.tlbs.map (fun x => (x.1, x.2.filter (fun l => !p l)))
    sm.streams := s.sm.streams.map (fun x =>
      (x.1, { x.2 with
        tlb := match x.2.tlb with
          | some l => if p l then none else some l
          | none => none
        parts := if x.2.farN = 0 && x.2.farB.isEmpty && q x.2.asid then [] else x.2.parts })) } q

/-- Remove every matching entry on the module, and mark matching walks in flight stale (R29, R30). -/
def invalidate (s : State) (k : InvKind) : State :=
  let s' := tlbRemove s (k.hits s) (k.asids s)
  { s' with
    xl.walkC := s'.xl.walkC.map (fun x => (x.1, x.2.filter (fun e => !k.hitsWalk s e)))
    xl.walks := s'.xl.walks.map (fun r => if k.asids s r.asid then { r with stale := true } else r) }

end Sys2Proof.Machine
end

