-- ==== Sys2Proof/Machine/Words.lean ====
section
/-! DEFINITION. The words of the device register space (R34) and of the notify pages (R193): where each object of the state stands, and
what each word reads as. -/

namespace Sys2Proof.Machine

/-! ### Keys of the objects -/

/-- The device's fabric node number (R418). -/
def nodeId (s : State) : BitVec 10 := 0x3FF#10 - s.dev.nodeC
/-- PEER of a port (R419). -/
def Port.peer (p : Port) : BitVec 10 := 0x3FF#10 - p.peerC
/-- The graph slot of a core. -/
def slotIx (core g : Nat) : Nat := core * 4 + g
def ctxKey (core x : Nat) : Nat := core * 8 + x
def frameKey (core f : Nat) : Nat := core * 4 + f
def ctxOf (s : State) (core x : Nat) : Ctx := s.ctl.ctxs.at (ctxKey core x)
def ctxUpd (s : State) (core x : Nat) (f : Ctx → Ctx) : State :=
  { s with ctl.ctxs := s.ctl.ctxs.upd (ctxKey core x) f }
def ringKey (core i : Nat) : Nat := core * 64 + i
def queueKey (core n : Nat) : Nat := core * 64 + n
def setKey (core a : Nat) : Nat := core * 16 + a
def rowKey (core a j : Nat) : Nat := (core * 16 + a) * 65536 + j
def zoneKey (core z : Nat) : Nat := core * 8 + z
def slotKey (core z k : Nat) : Nat := (core * 8 + z) * 64 + k
def zoneOf (s : State) (core z : Nat) : Zone := s.zn.zones.at (zoneKey core z)
def blkOf (s : State) (core z k : Nat) : SlotBlk := s.zn.blks.at (slotKey core z k)
/-- The tile-table entry of a slot (R124). -/
def slotTile (d : Zone) (k : Nat) : Nat := d.tte.toNat + k
/-- Filling slots of a tenant's zones, module-wide: HELD of R130. -/
def slotsHeld (s : State) (ten : BitVec 6) : Nat :=
  s.zn.zones.foldl (fun n x =>
    if x.2.v && (s.xl.asids.at x.2.asid.toNat).ten == ten then
      n + ((List.range (x.2.ns1.toNat + 1)).filter (fun k =>
        (s.st.tiles.at (tileKey (x.1 / 8) (slotTile x.2 k))).st == .filling)).length
    else n) 0
/-- SMAX of a tenant (R130). -/
def LandQuota.smax (q : LandQuota) : Nat := 4096 - q.smaxC
/-- RMAX of a tenant (R130): the reset value is 64. -/
def LandQuota.rmax (q : LandQuota) : Nat := if q.set then q.rmaxV else 64
/-- The key of entry e of hearth core hc. -/
def epKey (hc e : Nat) : Nat := hc * 16 + e

/-- A Bool as a bit of a word. -/
def bitAt (b : Bool) (n : Nat) : Nat := if b then 2 ^ n else 0

/-! ### Words of the register directory -/

/-- MAX of a walker quota (R27). -/
def WalkQuota.max (q : WalkQuota) : Nat := 64 - q.maxC
/-- AQMAX, HMAX and LMAX of a scheduling quota (R196). -/
def SchedQuota.aqmax (q : SchedQuota) : Nat := if q.set then q.aq else 64
def SchedQuota.hmax (q : SchedQuota) : Nat := if q.set then q.hm else 1024
def SchedQuota.lmax (q : SchedQuota) : Nat := if q.set then q.lm else 16
/-- RMAX of a replay quota (R171). -/
def ReplayQuota.rmax (q : ReplayQuota) : Nat := if q.set then q.rmaxV else 64

/-- Hearth cycles in an interval of nanoseconds: 1.6 for each (R401). -/
def hearthCycles (ns : Nat) : Nat := ns * 8 / 5

/-- FLAG of an episode now (R415). -/
def Episode.flagNow (e : Episode) (t : Word) : Nat :=
  if e.flag = 0 then 0 else e.flag.toNat - hearthCycles (t - e.flagAt).toNat

/-- Words 0–7 of an episode entry (R403). -/
def Episode.word (e : Episode) (t : Word) : Nat → Word
  | 0 => BitVec.ofNat 64 (bitAt e.v 63 + (match e.st with | .free => 0 | .live => 1 | .dead => 2) * 2 ^ 61 + bitAt e.rule 60 +
      e.ns.toNat * 2 ^ 57 + e.berr.toNat * 2 ^ 52 + e.kgen.toNat * 2 ^ 32 + e.key.toNat)
  | 1 => BitVec.ofNat 64 (e.base.toNat * 2 ^ 16)
  | 2 => BitVec.ofNat 64 (e.limit.toNat * 2 ^ 16)
  | 3 => BitVec.ofNat 64 (e.box.toNat * 2 ^ 16)
  | 4 => BitVec.ofNat 64 (e.asid.toNat * 2 ^ 56 + e.pdie.toNat * 2 ^ 54 + e.pcore.toNat * 2 ^ 48 + e.aq.toNat * 2 ^ 40 +
      e.oq.toNat * 2 ^ 32 + e.bud.toNat % 2 ^ 32)
  | 5 => BitVec.ofNat 64 (e.bud.toNat / 2 ^ 32 * 2 ^ 56 + e.flagNow t)
  | 6 => BitVec.ofNat 64 (e.aseq.toNat * 2 ^ 32 + e.oseq.toNat)
  | _ => BitVec.ofNat 64 (e.ptag.toNat * 2 ^ 32 + e.dseq.toNat)

/-- Bank configuration word (R37). -/
def Bank.word (b : Bank) : Word :=
  BitVec.ofNat 64 (bitAt b.busy 10 + b.ilv.toNat * 16 + (match b.mode with | .cache => 0 | .scratch => 1 | .fifo => 2 | .accum => 3))

/-- Words 0 and 1 of a tile-table entry (R53). -/
def Tile.word (t : Tile) : Nat → Word
  | 0 => BitVec.ofNat 64 (t.gen.toNat * 2 ^ 48 + (match t.st with | .empty => 0 | .filling => 1 | .ready => 2 | .draining => 3) * 2 ^ 46 +
      bitAt t.drq 45 + bitAt t.sp 44 + t.sz.toNat * 2 ^ 39 + t.off.toNat)
  | _ => BitVec.ofNat 64 (t.fillb.toNat * 2 ^ 32 + t.dropw.toNat * 2 ^ 24 + t.use.toNat * 2 ^ 16 + t.asid.toNat * 2 ^ 8)

/-- Words of a copy template (R301). -/
def Template.word (t : Template) : Nat → Word
  | 0 => BitVec.ofNat 64 (t.asid.toNat * 2 ^ 56 + bitAt t.v 55 + bitAt t.arm 54 + t.trigq.toNat * 2 ^ 48 + bitAt t.tq 47 +
      t.ring.toNat * 2 ^ 41 + t.srck.toNat * 2 ^ 39 + t.dstk.toNat * 2 ^ 37 + t.stile.toNat * 2 ^ 29 +
      t.dtile.toNat * 2 ^ 21 + bitAt t.rel 20 + t.lim.toNat)
  | 1 => t.src.setWidth 64
  | 2 => t.dst.setWidth 64
  | 3 => BitVec.ofNat 64 (t.len.toNat * 2 ^ 32 + t.seq.toNat * 2 ^ 20)
  | 4 => t.zh
  | 5 => BitVec.ofNat 64 (t.sstep.toNat * 2 ^ 32 + t.dstep.toNat)
  | 6 => BitVec.ofNat 64 (t.sgen.toNat * 2 ^ 48 + t.dgen.toNat * 2 ^ 32 + t.dslot.toNat * 2 ^ 26 + t.nf.toNat * 2 ^ 16)
  | _ => 0

/-- Words of an accumulator-set descriptor (R107). -/
def AccSet.word (d : AccSet) : Nat → Word
  | 0 => BitVec.ofNat 64 (d.asid.toNat * 2 ^ 56 + bitAt d.v 55 + d.bank * 2 ^ 40 + d.nb * 2 ^ 35 + d.nm1 * 2 ^ 16 + d.nrow)
  | 1 => d.eps.setWidth 64
  | 2 => BitVec.ofNat 64 (d.opn.toNat * 2 ^ 48)
  | 3 => BitVec.ofNat 64 (d.radd.toNat * 2 ^ 32 + d.trd.toNat)
  | 4 => BitVec.ofNat 64 (d.ovfn.toNat * 2 ^ 48 + d.nfn.toNat * 2 ^ 32 + d.poin.toNat * 2 ^ 16 + d.nulln.toNat)
  | _ => 0

/-- Code of a context state (R190). -/
def CtxSt.code : CtxSt → Nat
  | .free => 0 | .ready => 1 | .run => 2 | .held => 3 | .parked => 4 | .wait => 5

/-- Does a zone slot whose tile-table entry has an index have live holders (R202)? -/
def slotHolders (s : State) (core i : Nat) : Bool :=
  (List.range 8).any (fun z =>
    let d := zoneOf s core z
    d.v && decide (d.tte.toNat ≤ i) && decide (i ≤ d.tte.toNat + d.ns1.toNat) && !(blkOf s core z (i - d.tte.toNat)).holders.isEmpty)

/-- Is a live episode's step mailbox bound to a queue (R202)? -/
def liveBox (s : State) (core n : Nat) : Bool :=
  s.hth.eps.any (fun e => e.2.v && e.2.st == .live && e.2.pdie.toNat * 64 + e.2.pcore.toNat == core &&
    (e.2.oq.toNat == n || e.2.aq.toNat == n))

/-- The wait code that R202 gives an object waited on: a tile-table entry that is a landing slot with live holders, and a queue
that is the step mailbox of a live episode, bear codes of their own. -/
def waitCode (s : State) (core w i : Nat) : Nat :=
  if w = 5 && slotHolders s core i then 16 else if w = 3 && liveBox s core i then 17 else w

/-- Words of a context status block (R190). -/
def Ctx.status (c : Ctx) (code : Nat) : Nat → Word
  | 0 => BitVec.ofNat 64 (c.st.code * 2 ^ 61 + (if c.st == .run || c.st == .held then c.frm * 2 ^ 59 else 0) + c.depth * 2 ^ 56 + c.blk.toNat)
  | 1 => c.rcba.setWidth 64
  | 2 => BitVec.ofNat 64 (code * 2 ^ 56 + c.widx % 2 ^ 24 * 2 ^ 32)
  | _ => 0

/-- FLTREC word (R377). -/
def Ctx.flt (c : Ctx) : Nat → Word
  | 0 => c.flt0 | 1 => c.flt1 | 2 => c.flt2 | _ => c.flt3

/-- TSUP as a word (R380). -/
def Tsup.word (t : Tsup) : Word :=
  BitVec.ofNat 64 (bitAt t.v 63 + t.ctx.toNat * 2 ^ 8 + t.die.toNat * 2 ^ 6 + t.core.toNat)
def Tsup.of (w : Word) : Tsup :=
  { v := w.getLsbD 63, ctx := w.extractLsb' 8 3, die := w.extractLsb' 6 2, core := w.extractLsb' 0 6 }

/-- DBGA as a word (R395). -/
def Dbga.word (d : Dbga) : Word :=
  BitVec.ofNat 64 (bitAt d.v 63 + bitAt d.halt 62 + d.slot.toNat * 2 ^ 55 + d.area.toNat)

/-- Words of an ownership entry (R154). -/
def OwnEnt.word (o : OwnEnt) : Nat → Word
  | 0 => BitVec.ofNat 64 (o.asid.toNat * 2 ^ 56 + bitAt o.v 55 + o.no * 2 ^ 50 + o.cur * 2 ^ 48 + o.owners.getD 3 0 * 2 ^ 42 +
      o.owners.getD 2 0 * 2 ^ 36 + o.owners.getD 1 0 * 2 ^ 30 + o.owners.getD 0 0 * 2 ^ 24)
  | _ => BitVec.ofNat 64 (o.lim.toNat * 2 ^ 32 + o.base.toNat)

/-- Words of a zone header (R124). -/
def Zone.word (z : Zone) (n : Nat) : Word :=
  if n = 0 then BitVec.ofNat 64 (z.asid.toNat * 2 ^ 56 + bitAt z.v 55 + z.rop.toNat * 2 ^ 52 + z.tte.toNat * 2 ^ 44 + z.ns1.toNat * 2 ^ 38 +
    z.sz.toNat * 2 ^ 33 + z.off.toNat)
  else if n = 1 then BitVec.ofNat 64 (z.tmo.toNat * 2 ^ 48)
  else if n < 6 then
    let e := z.send.getD (n - 2) (0#10, false)
    BitVec.ofNat 64 (e.1.toNat * 2 + bitAt e.2 0)
  else 0

/-- Words of a slot block (R125). -/
def SlotBlk.word (b : SlotBlk) : Nat → Word
  | 0 => BitVec.ofNat 64 (bitAt b.arm 63 + (7 - b.pstC.toNat) * 2 ^ 60 + b.a.toNat * 2 ^ 48 + b.b.toNat * 2 ^ 27 + b.ring.toNat * 2 ^ 21)
  | _ => BitVec.ofNat 64 (b.ca.toNat * 2 ^ 52 + b.nseq.toNat * 2 ^ 40 + b.hold.toNat * 2 ^ 34 + b.pmask.toNat)

/-- Words of a schedule entry (R199). -/
def SchedEnt.word (e : SchedEnt) : Nat → Word
  | 0 => e.arg
  | _ => BitVec.ofNat 64 (bitAt e.v 63 + e.next.toNat * 2 ^ 8 + e.rep.toNat)

/-- Words of a completion ring (R288). -/
def Ring.word (r : Ring) : Nat → Word
  | 0 => BitVec.ofNat 64 (r.asid.toNat * 2 ^ 56 + bitAt r.v 55 + r.log.toNat * 2 ^ 48)
  | 1 => BitVec.ofNat 64 (r.base.toNat * 16)
  | 2 => BitVec.ofNat 64 (r.wr.toNat * 2 ^ 32 + r.rd.toNat)
  | _ => BitVec.ofNat 64 (r.rlost.toNat * 2 ^ 32)

/-- Header words of a queue descriptor (R59). -/
def Queue.word (d : Queue) : Nat → Word
  | 0 => BitVec.ofNat 64 (d.asid.toNat * 2 ^ 56 + bitAt d.v 55 + d.nv * 2 ^ 53 + d.bank * 2 ^ 40 + d.nb * 2 ^ 35 + d.c * 2 ^ 20 + d.t * 2 ^ 8 + d.len)
  | 1 => BitVec.ofNat 64 (d.pol * 2 ^ 60 + bitAt d.smode 59 + d.mop * 2 ^ 56 + bitAt d.mty 55 + d.nfmt * 2 ^ 52 + d.pn * 2 ^ 44 + d.seed.toNat)
  | 2 => BitVec.ofNat 64 (d.sbase.toNat * 2 ^ 16)
  | _ => BitVec.ofNat 64 (d.slim * 2 ^ 48 + d.llim * 2 ^ 40)

/-- Words of a view block (R79). -/
def QView.word (v : QView) : Nat → Word
  | 0 => BitVec.ofNat 64 (v.rd * 2 ^ 52 + v.wr * 2 ^ 40 + v.occ * 2 ^ 28 + bitAt v.stk 25 + bitAt v.spl 24 + v.scnt * 2 ^ 16 + v.mcnt * 2 ^ 12)
  | 1 => BitVec.ofNat 64 (v.xs.toNat * 2 ^ 32 + v.pgc)
  | 2 => BitVec.ofNat 64 (v.lgn % 65536 * 2 ^ 48 + v.pgw)
  | 3 => BitVec.ofNat 64 (v.hgc * 2 ^ 40 + v.tgw)
  | 4 => BitVec.ofNat 64 v.hgw
  | 5 => BitVec.ofNat 64 (v.sph * 2 ^ 32 + v.spill.length)
  | 6 => BitVec.ofNat 64 (v.adm * 2 ^ 32 + v.lost)
  | _ => BitVec.ofNat 64 (v.ovl * 2 ^ 48 + v.wsat * 2 ^ 32 + v.badctl * 2 ^ 16 + v.gaps)

/-- Words of a port (R419). -/
def Port.word (p : Port) : Nat → Word
  | 0 => BitVec.ofNat 64 (bitAt p.up 63 + p.mode.toNat * 2 ^ 61 + bitAt p.en 60 + p.lanes.toNat * 2 ^ 56 + p.peer.toNat * 2 ^ 46 +
      p.retr.toNat * 2 ^ 16 + p.down.toNat)
  | _ => p.rsqd.setWidth 64

/-- Words of a notify page by offset (R193). -/
def NotifyPage.word (p : NotifyPage) (o : Nat) : Word :=
  if o = 0x00 then BitVec.ofNat 64 (p.rbase.toNat * 64)
  else if o = 0x08 then BitVec.ofNat 64 (p.asid.toNat * 2 ^ 56 + bitAt p.v 55 + p.logn.toNat * 2 ^ 48)
  else if o = 0x10 then p.head.setWidth 64
  else if o = 0x18 then p.tail.setWidth 64
  else if o = 0x20 then BitVec.ofNat 64 (bitAt p.ovr 16 + p.nst.toNat)
  else 0

/-- A word of a core's block of the register space. -/
def coreRegRead (s : State) (core o : Nat) : Word :=
  if o < 0x600 then (s.st.banks.at (bankKey core (o / 8))).word
  else if o < 0x800 then 0
  else if o < 0x1000 then (s.eng.tmpls.at (core * 32 + (o - 0x800) / 64)).word (o / 8 % 8)
  else if o < 0x2000 then (s.st.tiles.at (tileKey core ((o - 0x1000) / 16))).word (o / 8 % 2)
  else if o < 0x2400 then (s.ac.sets.at (setKey core ((o - 0x2000) / 64))).word (o / 8 % 8)
  else if o < 0x2600 then
    let c := ctxOf s core ((o - 0x2400) / 64)
    c.status (waitCode s core c.wcode c.widx) (o / 8 % 8)
  else if o = 0x2600 then (s.ctl.tsup.at core).word
  else if o < 0x2700 then 0
  else if o < 0x2800 then (ctxOf s core ((o - 0x2700) / 32)).flt (o / 8 % 4)
  else if o < 0x2900 then (s.sm.own.at (core * 16 + (o - 0x2800) / 16)).word (o / 8 % 2)
  else if o = 0x2900 then (s.ctl.dbga.at core).word
  else if o < 0x3000 then 0
  else if o < 0x7000 then
    let z := (o - 0x3000) / 0x800
    let b := (o - 0x3000) % 0x800
    if b < 64 then (zoneOf s core z).word (b / 8)
    else if b < 64 + 1024 then (blkOf s core z ((b - 64) / 16)).word (b / 8 % 2)
    else 0
  else if o < 0x7400 then (s.rg.sched.at (core * 64 + (o - 0x7000) / 16)).word (o / 8 % 2)
  else if o < 0x7C00 then (s.eng.rings.at (ringKey core ((o - 0x7400) / 32))).word (o / 8 % 4)
  else if o < 0x8000 then 0
  else if o < 0x10000 then
    let d := s.qu.queues.at (queueKey core ((o - 0x8000) / 512))
    let b := (o - 0x8000) % 512
    if b < 32 then d.word (b / 8)
    else if b < 64 then 0
    else if b < 320 then (d.views.at ((b - 64) / 64)).word (b / 8 % 8)
    else 0
  else 0

/-- A word of a die's register space (R34 and the chapters that place a word in it). -/
def regRead (s : State) (die off : Nat) : Word :=
  if off < 0x1000 then
    let d := s.xl.asids.at (off / 16)
    if off / 8 % 2 = 0 then BitVec.ofNat 64 (d.root.toNat * 2 ^ 16 + d.ten.toNat * 4 + bitAt d.v 0) else d.gen.setWidth 64
  else if off < 0x10000 then 0
  else if off < 0x10400 then
    let p := s.xl.peers.at ((off - 0x10000) / 8)
    BitVec.ofNat 64 (p.node.toNat * 2 + bitAt p.v 0)
  else if off < 0x20000 then 0
  else if off < 0x22000 then
    let w := s.xl.wins.at ((off - 0x20000) / 32)
    match off / 8 % 4 with
    | 0 => BitVec.ofNat 64 (w.src.toNat * 2 ^ 20 + w.asid.toNat * 2 ^ 12 + bitAt w.a 3 + bitAt w.w 2 + bitAt w.rd 1 + bitAt w.v 0)
    | 1 => BitVec.ofNat 64 (w.base.toNat * 2 ^ 16)
    | 2 => BitVec.ofNat 64 (w.limit.toNat * 2 ^ 16)
    | _ => 0
  else if off < 0x30000 then 0
  else if off < 0x30200 then
    let q := s.xl.walkQ.at ((off - 0x30000) / 8)
    BitVec.ofNat 64 (bitAt q.qerr 16 + q.max * 2 ^ 8 + q.min)
  else if off < 0x40000 then 0
  else if off < 0x40800 then
    let d := s.xl.dirty.at ((off - 0x40000) / 32)
    match off / 8 % 4 with
    | 0 => BitVec.ofNat 64 (d.base.toNat * 2 ^ 16 + bitAt d.on 0)
    | 1 => d.vlo.setWidth 64
    | 2 => d.npg.setWidth 64
    | _ => 0
  else if off < 0x50000 then 0
  else if off < 0x60000 then s.xl.groups.at ((off - 0x50000) / 8)
  else if off < 0x60200 then
    let t := (off - 0x60000) / 8
    let q := s.zn.landQ.at t
    BitVec.ofNat 64 (bitAt q.qerr 48 + slotsHeld s (BitVec.ofNat 6 t) * 2 ^ 29 + q.smax * 2 ^ 16 + q.rmax)
  else if off < 0x70000 then 0
  else if off < 0x70200 then
    let q := s.ctl.replayQ.at ((off - 0x70000) / 8)
    BitVec.ofNat 64 (bitAt q.qerr 16 + q.rmax)
  else if off < 0x80000 then 0
  else if off < 0x80200 then
    let q := s.rg.schedQ.at ((off - 0x80000) / 8)
    BitVec.ofNat 64 (bitAt q.qerr 48 + q.aqmax * 2 ^ 36 + q.hmax * 2 ^ 16 + q.lmax)
  else if off < 0x90000 then 0
  else if off < 0x90018 then
    let l := s.ctl.logs.at die
    match off / 8 % 4 with
    | 0 => BitVec.ofNat 64 (bitAt l.v 63 + l.logn.toNat * 2 ^ 56 + l.base.toNat * 64)
    | 1 => BitVec.ofNat 64 (l.wr.toNat * 2 ^ 32 + l.rd.toNat)
    | _ => l.lost.setWidth 64
  else if off < 0xA0000 then 0
  else if off < 0xE0000 then
    let hc := (off - 0xA0000) / 0x1000
    let o := (off - 0xA0000) % 0x1000
    if o < 0x400 then (s.hth.eps.at ((die * 64 + hc) * 16 + o / 64)).word s.dev.gtsc (o / 8 % 8) else 0
  else if off < 0xE0180 then
    let p := s.lnk.ports.at (die * 6 + (off - 0xE0000) / 64)
    if off % 64 < 16 then p.word (off / 8 % 2) else 0
  else if off = 0xE0400 then (nodeId s).setWidth 64
  else if off < 0xF0000 then 0
  else if off < 0xF0010 then
    let k := s.dev.hbm.at (2 * die + (off - 0xF0000) / 8)
    BitVec.ofNat 64 (bitAt k.dbl 63 + k.scnt * 2 ^ 48 + k.temp.toNat * 2 ^ 32 + k.stalln.toNat)
  else if off < 0x1000000 then 0
  else if off < 0x1400000 then coreRegRead s (die * 64 + (off - 0x1000000) / 0x10000) (off % 0x10000)
  else 0

/-- A device access: a read of n bytes of the register space or of a notify page. -/
def deviceRead (s : State) (pa n : Nat) : List Byte :=
  match place pa with
  | .regs d o => (leBytes 8 (regRead s d (o / 8 * 8)).toNat).take n
  | .notify d p o => ((leBytes 8 ((s.rg.notify.at (d * 4096 + p)).word (o / 8 * 8)).toNat).drop (o % 8)).take n
  | _ => []

end Sys2Proof.Machine
end

