-- ==== Sys2Proof/Machine/Access.lean ====
section
/-! DEFINITION. Engine accesses at virtual addresses: translated sector by sector, performed at their place; and the
messages and turns that an access to another place leaves behind. -/

namespace Sys2Proof.Machine

/-! ### Turns, messages, free values -/

/-- The next free value (log entry 3). -/
def free (s : State) : Word × State :=
  (Config.freeWord s.sim.freeIdx, { s with sim.freeIdx := s.sim.freeIdx + 1 })

/-- The next free choice among the naturals (log entry 3). -/
def freeN (s : State) : Nat × State :=
  (Config.freeNat s.sim.freeIdx, { s with sim.freeIdx := s.sim.freeIdx + 1 })

/-- A new order stamp. -/
def stamp (s : State) : Nat × State := (s.sim.seqNo, { s with sim.seqNo := s.sim.seqNo + 1 })

/-- A step that follows from this one, last in order (log entry 2). -/
def pushEv (s : State) (i : Instr) (arg : EvArg) : State :=
  { s with sim.agenda := s.sim.agenda ++ [.ev i arg] }

/-- A step that comes at once. -/
def pushFirst (s : State) (i : Instr) (arg : EvArg) : State :=
  { s with sim.agenda := .ev i arg :: s.sim.agenda }

/-- A message leaves the module through a port (log entry 6). In NATIVE mode it is a flit, which the port keeps for replay with its
last 512 (R420); while the link retrains it waits there. A port that is down sends nothing. -/
def sendOut (s : State) (m : OutMsg) : State :=
  let p := s.lnk.ports.at m.port
  let s := if p.mode = 0#2 && (p.up || p.retrain.isSome) then
      let h : Held := { seq := p.txSeq.toNat, node := m.node, core := 0#8, ctx := 0#3, load := m.load, asid := m.asid }
      { s with lnk.ports := s.lnk.ports.set m.port { p with
          kept := (p.kept ++ [h]).drop (p.kept.length + 1 - 512), txSeq := p.txSeq + 1#32 } }
    else s
  if p.up then { s with sim.out := s.sim.out ++ [m] } else s

/-- The port through which a message to a node leaves: one whose link partner is the node, else a free choice among the trained ports,
which the switch serves alike, and among those that retrain where none is trained (log entry 6). -/
def portTo (s : State) (node : BitVec 10) : Nat × State :=
  let up := (List.range 24).filter (fun p => (s.lnk.ports.at p).up)
  let back := (List.range 24).filter (fun p => (s.lnk.ports.at p).retrain.isSome)
  match (up ++ back).find? (fun p => (s.lnk.ports.at p).peer == node) with
  | some p => (p, s)
  | none =>
    let r := freeN s
    let c := if up.isEmpty then back else up
    (c.getD (r.1 % (max 1 c.length)) (r.1 % 24), r.2)

/-- A request of an engine leaves the module, and waits for its reply (R24, R161; log entry 6). `part` is the part of
a stream's access that it reads. -/
def farSend (s : State) (a : Actor) (peer o : Nat) (va : Word) (kind : InKind) (bs : List Byte) (part : Nat) : State :=
  let node := (s.xl.peers.at peer).node
  let q := portTo s node
  let n := stamp q.2
  let r : FarReq := {
    id := n.1, core := a.core, path := a.path.bit, asid := a.asid, gen := a.gen, rid := a.rid, strm := a.strm, part := part, va := va
    read := (match kind with | .read _ => true | _ => false), node := node, port := q.1, time := s.dev.gtsc, owner := 0 }
  sendOut { n.2 with eng.far := n.2.eng.far ++ [r] }
    { port := q.1, node := node, asid := a.asid, load := .inbound (nodeId s) kind (BitVec.ofNat 44 o) bs }

/-! ### One chunk -/

/-- Why an access was not performed. -/
inductive FKind
  | xlate | poison | mode | full
  deriving DecidableEq, Repr, Inhabited

/-- A failed access: its kind, translation status and virtual address. -/
structure MemFault where
  kind : FKind
  st : XSt
  va : Word
  deriving DecidableEq, Repr, Inhabited

/-- The local address behind a replicated one: the local replica (R19). -/
def localPa (s : State) (pa : Nat) : Nat :=
  match place pa with
  | .repl g o => groupBase s g (groupLocal s g) + o
  | _ => pa

/-- Free bytes, one free word for each. -/
def freeBytes : Nat → State → List Byte × State
  | 0, s => ([], s)
  | n + 1, s =>
    let f := free s
    let r := freeBytes n f.2
    (f.1.setWidth 8 :: r.1, r.2)

/-- Read at a translated place. What answers a remote read of an engine other than a stream is free: REFUSED, or any bytes (R24; log
entry 6). -/
def readAt (s : State) (a : Actor) (mt : MType) (pa : Nat) (va : Word) (n : Nat) : (MemFault ⊕ List Byte) × State :=
  match place pa with
  | .remote _ _ =>
    let f := freeN s
    if f.1 % 2 = 1 then (.inl { kind := .xlate, st := .refused, va := va }, f.2)
    else let r := freeBytes n f.2; (.inr r.1, r.2)
  | .regs _ _ => (.inr (deviceRead s pa n), s)
  | .notify _ _ _ => (.inr (deviceRead s pa n), s)
  | _ =>
    let r := performRead s a mt pa n
    match r.1 with
    | .ok bs => (.inr bs, r.2)
    | .mode => (.inl { kind := .mode, st := .type, va := va }, r.2)
    | _ => (.inl { kind := .poison, st := .ok, va := va }, r.2)

/-- The access cannot be performed now: the turn that makes it is held (R27, R42). -/
def stalled (s : State) : State := { s with sim.stall := true }

/-- Read within one sector. -/
def readChunk (s : State) (a : Actor) (acc : Acc) (va : Word) (n : Nat) : (MemFault ⊕ List Byte) × State :=
  let x := translate s a va acc n
  if walkWait s a va then (.inr (List.replicate n 0#8), stalled s)
  else if x.1.st != .ok then (.inl { kind := .xlate, st := x.1.st, va := va }, x.2)
  else
    let pa := localPa x.2 x.1.pa
    if accBusy x.2 a x.1.mt pa n then (.inr (List.replicate n 0#8), stalled x.2) else readAt x.2 a x.1.mt pa va n

/-- A write through a die's register space or a notify page is a step of its own. -/
def deviceTurn (s : State) (a : Actor) (pa : Nat) (bs : List Byte) : State :=
  let arg : EvArg := { (default : EvArg) with
    core := BitVec.ofNat 8 a.core, asid := a.asid, v := BitVec.ofNat 64 pa, w := leWord bs, n := bs.length }
  match place pa with
  | .notify d p o =>
    let arg := { arg with die := BitVec.ofNat 2 d, unit := BitVec.ofNat 12 p }
    if o = 0x18 then pushEv s .doorbellWrite { arg with v := leWord bs }
    else if o / 8 = 1 then pushEv s .notifyPageEnable { arg with v := leWord bs }
    else pushEv s .registerWrite arg
  | _ => pushEv s .registerWrite arg

/-- Write at a translated place. -/
def writeAt (s : State) (a : Actor) (mt : MType) (pa : Nat) (va : Word) (bs : List Byte) : Option MemFault × State :=
  match place pa with
  | .remote p o => (none, farSend s a p o va .write bs 0)
  | .regs _ _ => (none, deviceTurn s a pa bs)
  | .notify _ _ _ => (none, deviceTurn s a pa bs)
  | _ =>
    let r := performWrite s a mt pa bs
    match r.1 with
    | .mode => (some { kind := .mode, st := .type, va := va }, r.2)
    | .full => (some { kind := .full, st := .ok, va := va }, r.2)
    | _ => (none, r.2)

/-- Write within one sector. -/
def writeChunk (s : State) (a : Actor) (va : Word) (bs : List Byte) : Option MemFault × State :=
  let x := translate s a va .store bs.length
  if walkWait s a va then (none, stalled s)
  else if x.1.st != .ok then (some { kind := .xlate, st := x.1.st, va := va }, x.2)
  else
    let pa := localPa x.2 x.1.pa
    if accBusy x.2 a x.1.mt pa bs.length then (none, stalled x.2) else writeAt x.2 a x.1.mt pa va bs

/-! ### Ranges -/

/-- Must an access of a range wait for a walk slot (R27) or for a bank that changes its mode (R42)? -/
def rangeHeld (s : State) (a : Actor) (acc : Acc) : Nat → Word → Nat → Bool
  | 0, _, _ => false
  | fuel + 1, va, n =>
    if n = 0 then false
    else
      let k := min n (128 - va.toNat % 128)
      let x := (translate s a va acc k).1
      walkWait s a va || (x.st == .ok && accBusy s a x.mt (localPa s x.pa) k) ||
        rangeHeld s a acc fuel (va + BitVec.ofNat 64 k) (n - k)

/-- The same of n bytes at a virtual address, given as a natural. -/
def memHeld (s : State) (a : Actor) (acc : Acc) (va n : Nat) : Bool := rangeHeld s a acc (n / 128 + 2) (BitVec.ofNat 64 va) n

/-- A step that reaches a bank while it changes its mode is held there (R42). -/
def parkEv (s : State) (i : Instr) : State := { s with sim.parked := s.sim.parked ++ [.ev i s.sim.arg] }

/-- How many of n bytes from an address lie in its sector. -/
def chunkLen (va : Word) (n : Nat) : Nat := min n (128 - va.toNat % 128)

/-- Read a range chunk by chunk; the first failure ends it. -/
def readRange (a : Actor) (acc : Acc) : Nat → Word → Nat → State → (MemFault ⊕ List Byte) × State
  | 0, _, _, s => (.inr [], s)
  | fuel + 1, va, n, s =>
    if n = 0 then (.inr [], s)
    else
      let k := chunkLen va n
      let r := readChunk s a acc va k
      match r.1 with
      | .inl f => (.inl f, r.2)
      | .inr bs =>
        let t := readRange a acc fuel (va + BitVec.ofNat 64 k) (n - k) r.2
        match t.1 with
        | .inl f => (.inl f, t.2)
        | .inr cs => (.inr (bs ++ cs), t.2)

/-- Write a range chunk by chunk; the first failure ends it, with the bytes before it performed. -/
def writeRange (a : Actor) : Nat → Word → List Byte → State → Option MemFault × State
  | 0, _, _, s => (none, s)
  | fuel + 1, va, bs, s =>
    if bs.isEmpty then (none, s)
    else
      let k := chunkLen va bs.length
      let r := writeChunk s a va (bs.take k)
      match r.1 with
      | some f => (some f, r.2)
      | none => writeRange a fuel (va + BitVec.ofNat 64 k) (bs.drop k) r.2

/-- Read n bytes at a virtual address, given as a natural. -/
def memRead (s : State) (a : Actor) (va n : Nat) : (MemFault ⊕ List Byte) × State :=
  readRange a .load (n / 128 + 2) (BitVec.ofNat 64 va) n s

/-- Write bytes at a virtual address. -/
def memWrite (s : State) (a : Actor) (va : Nat) (bs : List Byte) : Option MemFault × State :=
  writeRange a (bs.length / 128 + 2) (BitVec.ofNat 64 va) bs s

/-- The words of a byte list. -/
def wordsOf : Nat → List Byte → List Word
  | 0, _ => []
  | n + 1, bs => leWord (bs.take 8) :: wordsOf n (bs.drop 8)

/-- Read n 8-byte words. -/
def memWords (s : State) (a : Actor) (va n : Nat) : (MemFault ⊕ List Word) × State :=
  let r := memRead s a va (8 * n)
  match r.1 with
  | .inl f => (.inl f, r.2)
  | .inr bs => (.inr (wordsOf n bs), r.2)

/-- The core-cache action of a release of scope .d or wider (R46, R162). -/
def release (s : State) (core : Nat) (scope : Nat) : State := if 2 ≤ scope then ccClean s core else s
/-- The core-cache action of an acquire of scope .d or wider (R46, R163). -/
def acquire (s : State) (core : Nat) (scope : Nat) : State := if 2 ≤ scope then ccInval s core else s

end Sys2Proof.Machine
end

