-- ==== Sys2Proof/Machine/Errors.lean ====
section
/-! DEFINITION. Event records (R399), completion-ring records (R288), the state a region keeps in its RCB (R181–R183),
undefining a region's objects, region errors (R382–R384) and context faults (R390). -/

namespace Sys2Proof.Machine

/-! ### Places on the module -/

/-- Tile numbers of the eight compute tiles, in ascending order (R7). -/
def computeTiles : List Nat := [0, 2, 5, 7, 8, 10, 13, 15]
/-- Tile numbers of the eight memory tiles, in ascending order (R7, R15). -/
def memoryTiles : List Nat := [1, 3, 4, 6, 9, 11, 12, 14]

/-- Location of a core: RCB word 6 LOC with tile and element zero (R181). -/
def coreLoc (core : Nat) : Word := BitVec.ofNat 64 (core * 2 ^ 13)
/-- Location of a memory tile. -/
def tileLoc (core k : Nat) : Word := BitVec.ofNat 64 (core * 2 ^ 13 + memoryTiles.getD k 0 * 2 ^ 9)
/-- The key of an element: core, compute-tile ordinal, y, x. -/
def elemKey (core ord x y : Nat) : Nat := core * 4096 + ord * 512 + y * 16 + x
/-- Location of an element by its number in the core. -/
def elemLoc (core e : Nat) : Word :=
  BitVec.ofNat 64 (core * 2 ^ 13 + computeTiles.getD (e / 512) 0 * 2 ^ 9 + e % 16 * 2 ^ 5 + e / 16 % 32)

/-! ### Event log (R399) -/

/-- The actor of hardware that writes at home points: physical addresses under ASID 0. -/
def hwActor (core : Nat) : Actor := { core := core, path := .inb, asid := 0#8, gen := 0#16, rid := 0 }

/-- Append a record to a die's event log, or count it in LOST (R399). -/
def eventWrite (s : State) (die : Nat) (ws : List Word) : State :=
  let l := s.ctl.logs.at die
  if !l.v then s
  else if (l.wr - l.rd).toNat ≥ 2 ^ l.logn.toNat then
    { s with ctl.logs := s.ctl.logs.set die { l with lost := if l.lost = 0xFFFFFFFF#32 then l.lost else l.lost + 1#32 } }
  else
    let pa := l.base.toNat * 64 + 64 * (l.wr.toNat % 2 ^ l.logn.toNat)
    let s := (performWrite s (hwActor (die * 64)) .uc pa (ws.map (fun w => leBytes 8 w.toNat)).flatten).2
    { s with ctl.logs := s.ctl.logs.set die { l with wr := l.wr + 1#32 } }

/-- Words of an event record. -/
def eventWords (kind code : Nat) (asid : BitVec 8) (fd : BitVec 12) (core unit : Nat) (time : Word) (rcba : BitVec 55)
    (det : List Word) : List Word :=
  [BitVec.ofNat 64 (kind * 2 ^ 56 + code * 2 ^ 48 + asid.toNat * 2 ^ 40 + fd.toNat * 2 ^ 28 + core / 64 % 4 * 2 ^ 26 +
      core % 64 * 2 ^ 20 + unit % 256 * 2 ^ 12), time, rcba.setWidth 64] ++ (List.range 5).map (fun i => det.getD i 0#64)

/-- Write an event record of a core's unit. -/
def eventRecord (s : State) (kind code : Nat) (asid : BitVec 8) (fd : BitVec 12) (core unit : Nat) (rcba : BitVec 55)
    (det : List Word) : State :=
  eventWrite s (core / 64) (eventWords kind code asid fd core unit s.dev.gtsc rcba det)

/-! ### Regions in their RCB (R181–R183) -/

def regionOf (s : State) (rid : Nat) : Region := s.rg.regions.at (rid - 1)
def regUpd (s : State) (rid : Nat) (f : Region → Region) : State :=
  { s with rg.regions := s.rg.regions.upd (rid - 1) f }

/-- The device's own accesses for a region: at home points, under its ASID, not gated. -/
def Region.actor (r : Region) : Actor :=
  { core := r.origin, path := .inb, asid := r.asid, gen := r.gen, rid := 0 }

/-- RCB word 6 (R181). -/
def Region.word6 (r : Region) : Word :=
  BitVec.ofNat 64 (r.rst * 2 ^ 56 + r.err * 2 ^ 48 + min r.rbk 0xFFFF * 2 ^ 32 + r.loc.toNat)

/-- Store word 6 of the RCB, as a release of scope .m (R183). -/
def rcbStore (s : State) (rid : Nat) : State :=
  let r := regionOf s rid
  (memWrite s r.actor (r.rcba.toNat + 48) (leBytes 8 r.word6.toNat)).2

/-- Is a state one in which the region has ended (R183)? -/
def rstEnded (n : Nat) : Bool := n == 4 || n == 5 || n == 7

/-- Enter a state: word 6 is stored, and on an end the DONE word too, with a release of scope .f (R183). -/
def setRst (s : State) (rid rst : Nat) : State :=
  let s := rcbStore (regUpd s rid (fun r => { r with rst := rst })) rid
  let r := regionOf s rid
  if rstEnded rst then
    (memWrite s r.actor r.doneVa.toNat (leBytes 8 (r.err * 256 + rst))).2
  else s

/-- Has a region stopped: a rollback is requested, it took a context fault, or it has ended? Its elements, streams and
triggers do nothing then (R389, R390). -/
def stopped (s : State) (rid : Nat) : Bool :=
  let r := regionOf s rid
  rid != 0 && (r.want || r.faulted || rstEnded r.rst)

/-- The cores of a region's footprint, in order dy × W + dx (R370). -/
def Region.cores (r : Region) : List Nat :=
  ((List.range r.h).map (fun dy => (List.range r.w).map (fun dx => r.origin + 8 * dy + dx))).flatten

/-- The region of a core's slot, by its number plus one. -/
def slotRid (s : State) (core g : Nat) : Nat := (s.rg.slots.at (slotIx core g)).rid

/-- Progress of a region on a core restarts the stalemate detector's counters (R202). -/
def progress (s : State) (core rid : Nat) : State :=
  if rid = 0 then s
  else
    let k := slotIx core (regionOf s rid).slot
    { s with rg.slots := s.rg.slots.upd k (fun x => { x with prog := s.dev.gtsc, prog2 := s.dev.gtsc }) }

/-! ### Contexts and frames -/

/-- Release the frame a context holds, if any. -/
def frameDrop (s : State) (core x : Nat) : State :=
  { s with ctl.frames := s.ctl.frames.map (fun y => if y.1 / 4 == core && y.2.own == x + 1 then (y.1, default) else y) }

/-- Waits of a context are forgotten. -/
def pendDrop (s : State) (core x : Nat) : State :=
  { s with ctl.pend := s.ctl.pend.filter (fun p => !(p.core == core && p.ctx == x)) }

/-- A context becomes FREE, and its frame is released. -/
def ctxFree (s : State) (core x : Nat) : State :=
  pendDrop (frameDrop (ctxUpd s core x (fun c => { c with st := .free, wcode := 0, widx := 0, rid := 0 })) core x) core x

/-- The contexts of a predicate, as core and number. -/
def ctxsWhere (s : State) (p : Ctx → Bool) : List (Nat × Nat) :=
  (s.ctl.ctxs.filter (fun x => x.2.st != .free && p x.2)).map (fun x => (x.1 / 8, x.1 % 8))

/-! ### Completion rings (R288) -/

/-! ### Undefining a region's objects (R295, R297, R390) -/

/-- Handlers of a slot among an element's table. -/
def handlerSlot (h : Handler) : Nat := (h.word.extractLsb' 50 2).toNat

/-- The handler that a channel of an element is bound to: its index. -/
def Elem.bind (e : Elem) (ch : Nat) : Option Nat :=
  match e.chm.at ch with
  | 0 => none
  | n + 1 => if (e.act.at n).present then some n else none

/-- The slot a token at an element belongs to. -/
def Elem.tokSlot (e : Elem) (t : FTok) : Option Nat :=
  (e.bind (t.extractLsb' 43 4).toNat).map (fun h => handlerSlot (e.act.at h))

/-- An element without anything of one slot (R295, R315). -/
def Elem.dropSlot (e : Elem) (g : Nat) : Elem :=
  { e with
    inq := e.inq.map (fun q => (q.1, q.2.filter (fun t => e.tokSlot t.tok != some g)))
    res := if e.resSlot == g then none else e.res
    pend := if e.resSlot == g then [] else e.pend
    emit := if e.resSlot == g then [] else e.emit
    chm := e.chm.filter (fun c => match e.bind c.1 with
      | some h => handlerSlot (e.act.at h) != g
      | none => true)
    act := e.act.filter (fun h => !(h.2.present && handlerSlot h.2 == g))
    qs := e.qs.filter (fun q => q.1 / 4 != g)
    itok := e.itok.filter (fun x => x.1 != g)
    seg := if e.seg == some g then none else e.seg
    shv := e.shv && e.shvSlot != g
    blocked := e.blocked &&& ~~~(1#4 <<< g)
    enabled := e.enabled &&& ~~~(1#4 <<< g) }

/-- Every element of a core returns to the unconfigured state for a slot. -/
def slotUnconf (s : State) (core g : Nat) : State :=
  { s with fab.elems := s.fab.elems.map (fun x => if x.1 / 4096 == core then (x.1, x.2.dropSlot g) else x) }

/-- The feeds of a region on an island end: their uses of B, their runs, and what is released and not pulled (R348). -/
def feedsEnd (s : State) (rid core : Nat) : State :=
  let i := s.eng.islands.at core
  if i.feeds.any (fun f => f.2.rid == rid) || i.outRid == rid then
    let s := i.feeds.foldl (fun s f => if f.2.rid == rid && f.2.ent != 0 then tileDone s core (f.2.ent - 1) else s) s
    { s with eng.islands := s.eng.islands.upd core (fun i => { i with
        feeds := i.feeds.filter (fun f => f.2.rid != rid), nodes := [], passes := []
        outq := if i.outRid == rid then [] else i.outq, outRid := if i.outRid == rid then 0 else i.outRid }) }
  else s

/-- The tile-table uses that a region's open streams and copy templates hold on the cores a predicate selects end with
them (R56). -/
def usesEnd (s : State) (rid : Nat) (on : Nat → Bool) : State :=
  let s := s.sm.streams.foldl (fun s x =>
    let w := x.2.desc.getD 0 0#64
    if x.2.rid == rid && on (x.1 / 256) && x.2.isOpen && w.getLsbD 59 then tileDone s (x.1 / 256) (w.extractLsb' 51 8).toNat
    else s) s
  s.eng.tmpls.foldl (fun s x =>
    if x.2.rid == rid && on (x.1 / 32) then
      (List.range x.2.held).foldl (fun s _ => tileDone s (x.1 / 32) x.2.stile.toNat) s
    else s) s

/-- Undefine the objects that a region defined on the cores a predicate selects (R295, R297). -/
def objectsClear (s : State) (rid : Nat) (on : Nat → Bool) : State :=
  let hit (n : Nat) (core : Nat) : Bool := n == rid && on core
  let s := usesEnd s rid on
  { s with
    qu.queues := s.qu.queues.map (fun x => if hit x.2.rid (x.1 / 64) then (x.1, default) else x)
    eng.rings := s.eng.rings.map (fun x => if hit x.2.rid (x.1 / 64) then (x.1, { x.2 with v := false }) else x)
    eng.tmpls := s.eng.tmpls.map (fun x => if hit x.2.rid (x.1 / 32) then (x.1, { x.2 with v := false, arm := false, held := 0 }) else x)
    ac.sets := s.ac.sets.map (fun x => if hit x.2.rid (x.1 / 16) then (x.1, { x.2 with v := false }) else x)
    sm.own := s.sm.own.map (fun x => if on (x.1 / 16) && (s.rg.slots.any (fun g => g.1 / 4 == x.1 / 16 && g.2.rid == rid)) &&
        x.2.asid == (regionOf s rid).asid then (x.1, { x.2 with v := false }) else x)
    sm.streams := s.sm.streams.map (fun x => if hit x.2.rid (x.1 / 256) then (x.1, default) else x)
    zn.zones := s.zn.zones.map (fun x => if hit x.2.rid (x.1 / 8) then (x.1, { x.2 with v := false }) else x)
    st.tiles := s.st.tiles.map (fun x =>
      if on (x.1 / 256) && s.zn.zones.any (fun z => z.1 / 8 == x.1 / 256 && z.2.v && z.2.rid == rid &&
          decide (z.2.tte.toNat ≤ x.1 % 256) && decide (x.1 % 256 ≤ z.2.tte.toNat + z.2.ns1.toNat)) then
        (x.1, { x.2 with sz := 0#5, gen := x.2.gen + 1#16, st := .empty, drq := false, rel := false })
      else x)
    rg.sched := s.rg.sched.filter (fun x =>
      !(on (x.1 / 64) && s.rg.slots.any (fun g => g.1 / 4 == x.1 / 64 && g.2.rid == rid &&
          decide (g.2.sfirst ≤ x.1 % 64) && decide (x.1 % 64 < g.2.sfirst + g.2.scnt)))) }

/-- A region leaves a core: its elements are unconfigured, its objects undefined, its slot freed (R184). -/
def slotFree (s : State) (rid core : Nat) : State :=
  let g := (regionOf s rid).slot
  if slotRid s core g != rid then s
  else
    let s := objectsClear (slotUnconf (feedsEnd s rid core) core g) rid (· == core)
    { s with rg.slots := s.rg.slots.set (slotIx core g) default }

/-- A region leaves every core. -/
def regionClear (s : State) (rid : Nat) : State :=
  let s := (regionOf s rid).cores.foldl (fun s c => slotFree s rid c) s
  { s with
    eng.copies := s.eng.copies.filter (fun c => c.t.rid != rid)
    eng.colls := s.eng.colls.filter (fun c => c.rid != rid)
    eng.far := s.eng.far.filter (fun r => r.rid != rid)
    rg.arb := s.rg.arb.map (fun x => (x.1, x.2.filter (fun e => e.tile || e.rid != rid))) }

/-- Discard the gated copies of a region's waves that have not completed (R388, R389). -/
def gatedDrop (s : State) (rid : Nat) : State :=
  { s with st.gated := s.st.gated.filter (fun g => g.rid != rid) }

/-! ### Context faults (R384, R390) -/

/-- The regions of a fault domain: those of one tenant with one FD that have not ended. -/
def domainOf (s : State) (ten : BitVec 6) (fd : BitVec 12) : List Nat :=
  (s.rg.regions.filter (fun x => x.2.ten == ten && x.2.fd == fd && !rstEnded x.2.rst)).map (fun x => x.1 + 1)

/-- A region is killed by a context fault or a kill: contexts freed, copies discarded, objects undefined. -/
def regionKill (s : State) (rid : Nat) : State :=
  let s := gatedDrop s rid
  let s := (ctxsWhere s (fun c => c.rid == rid)).foldl (fun s x => ctxFree s x.1 x.2) s
  regionClear s rid

/-- A context fault acts on every region of a fault domain (R390). -/
def contextFault (s : State) (rid code core : Nat) : State :=
  let r := regionOf s rid
  (domainOf s r.ten r.fd).foldl (fun s q =>
    let r := regionOf s q
    let s := regUpd s q (fun r => { r with err := code, faulted := true, want := false, inFlight := false })
    let s := regionKill s q
    let s := setRst s q 7
    eventRecord s 4 code r.asid r.fd core 0 r.rcba [0#64, 0#64, 0#64, r.loc.setWidth 64, BitVec.ofNat 64 r.waveId]) s

/-! ### Region errors (R382–R384) -/

/-- The region errors of class NOTE (R383). -/
def errNote (code : Nat) : Bool :=
  [0x06, 0x07, 0x08, 0x09, 0x0A, 0x0B, 0x0C, 0x0D, 0x0E, 0x0F, 0x12, 0x16, 0x17, 0x18, 0x1A, 0x1B, 0x20, 0x21].contains code

/-- A DUPMIS or RATE error counts in the histogram of the element row it is located in (R397). -/
def histMis (s : State) (code : Nat) (loc : Word) : State :=
  if code = 0x19 || code = 0x1E then
    let n := loc.toNat
    let ord := (computeTiles.idxOf? (n / 2 ^ 9 % 16)).getD 0
    { s with dev.hist := s.dev.hist.upd (3 * 2 ^ 40 + (n / 2 ^ 13 * 8 + ord) * 32 + n % 32) (fun h =>
        { h with mis := if h.mis = 0xFFFF#16 then h.mis else h.mis + 1#16 }) }
  else s

/-- A region error: ERR and LOC, an event record of KIND 2, and for class ROLL a rollback, which is the next step,
or a context fault after two rollbacks without a complete wave (R382, R384). -/
def regionErrorAt (s : State) (rid code : Nat) (loc : Word) (unit : Nat) (det : List Word) : State :=
  if rid = 0 then s
  else
    let r := regionOf s rid
    if r.faulted || rstEnded r.rst then s
    else
      let core := loc.toNat / 2 ^ 13
      let s := regUpd (histMis s code loc) rid (fun r => { r with err := code, loc := loc.setWidth 21 })
      let s := rcbStore s rid
      let s := eventRecord s 2 code r.asid r.fd core unit r.rcba
        ((List.range 3).map (fun i => det.getD i 0#64) ++ [loc, BitVec.ofNat 64 r.waveId])
      if errNote code then s
      else if code != 0x1F && 2 ≤ r.rollbacks then contextFault s rid code core
      else if r.want then s
      else
        let s := regUpd s rid (fun r => { r with
          want := true, inFlight := false, autoMark := r.autoMark || code == 0x1F })
        pushFirst s .regionRollback { (default : EvArg) with n := rid, unit := BitVec.ofNat 12 code }

/-- A region error of a part whose unit number no field names: the record's Unit is a free value (log entry 3). -/
def regionError (s : State) (rid code : Nat) (loc : Word) (det : List Word) : State :=
  let u := freeN s
  regionErrorAt u.2 rid code loc (u.1 % 256) det

/-- Raise an engine's failed access as its region error: XLATE with address and status, POISON or BANKMODE (R24,
R43, R50). -/
def MemFault.raise (f : MemFault) (s : State) (rid core : Nat) : State :=
  match f.kind with
  | .xlate => regionError s rid 0x01 (coreLoc core) [f.va, BitVec.ofNat 64 f.st.code]
  | .poison => regionError s rid 0x02 (coreLoc core) [f.va]
  | .mode => regionError s rid 0x03 (coreLoc core) [f.va, BitVec.ofNat 64 f.st.code]
  | .full => regionError s rid 0x1F (coreLoc core) [f.va]

/-! ### Ring records (R288) -/

/-- An engine writes a record of two words to a ring, or drops it with RLOST and RINGOVF. -/
def ringPushAs (s : State) (path : Path) (core i : Nat) (asid : BitVec 8) (rid : Nat) (w0 w1 : Word) : State :=
  let k := ringKey core i
  let r := s.eng.rings.at k
  if !r.v || r.asid != asid || (r.wr - r.rd).toNat ≥ 2 ^ r.log.toNat then
    let s := { s with eng.rings := s.eng.rings.set k { r with
      rlost := if r.rlost = 0xFFFFFFFF#32 then r.rlost else r.rlost + 1#32 } }
    regionErrorAt s rid 0x0F (coreLoc core) 0 [BitVec.ofNat 64 i]
  else
    let a : Actor := { core := core, path := path, asid := asid, gen := genOf s asid, rid := 0 }
    let va := r.base.toNat * 16 + 16 * (r.wr.toNat % 2 ^ r.log.toNat)
    let x := memWrite s a va (leBytes 8 w0.toNat ++ leBytes 8 w1.toNat)
    match x.1 with
    | some f => f.raise x.2 rid core
    | none =>
      let s := progress x.2 core rid
      { s with eng.rings := s.eng.rings.set k { r with wr := r.wr + 1#32 } }

/-- A landing-zone record of a reservation's holder (R134): under the ASID and the region of the zres that made the reservation, the
ring's own where none is left that says so. -/
def ringPush (s : State) (core i : Nat) (v : Option Resv) (w0 w1 : Word) : State :=
  let r := s.eng.rings.at (ringKey core i)
  match v with
  | some v => ringPushAs s .inb core i v.asid v.rid w0 w1
  | none => ringPushAs s .inb core i r.asid r.rid w0 w1

/-! ### Snapshot area (R387) -/

/-- Offset of a core's block in a part of the snapshot area: 0 and 1 the halves, 2 the save block. -/
def Region.snapBlock (r : Region) (part core : Nat) : Nat :=
  let dx := (core - r.origin) % 8
  let dy := (core - r.origin) / 8
  r.snapVa.toNat + 0x10000 + part * (r.w * r.h * 0x100000) + (dy * r.w + dx) * 0x100000

/-- The half that a wave in flight writes: the one that is not HV. -/
def Region.half (r : Region) : Nat := if r.hvC = 1 then 1 else 0

/-- Put a row's image into the log of a snapshot, or raise SNAPFULL (R122, R387). -/
def snapLog (s : State) (rid part core key : Nat) (cur : Bool) (img : List Byte) : State :=
  let r := regionOf s rid
  let sn := if cur then r.cur else r.last
  let used := sn.logUsed.at core
  let put (sn : Snap) : State := regUpd s rid (fun r => if cur then { r with cur := sn } else { r with last := sn })
  if used + img.length > 0xC0000 then regionErrorAt (put { sn with full := true }) rid 0x20 (coreLoc core) 8 []
  else
    let s := put { sn with logUsed := sn.logUsed.set core (used + img.length), rows := sn.rows.set key (s.ac.rows.at key) }
    (memWrite s { r.actor with core := core } (r.snapBlock part core + 0x40000 + used) img).2

/-- The first change of a row after a MARK writes its image to the row-image log of that MARK's wave: of the wave in
flight where its MARK has passed the set, else of the last complete one. A wave in flight that is abandoned leaves the
older one, which then needs the image too. -/
def snapRow (s : State) (rid core a j : Nat) (img : List Byte) : State :=
  if rid = 0 then s
  else
    let r := regionOf s rid
    let key := (core * 16 + a) * 65536 + j
    let now := r.cur.taken && r.cur.sets.any (fun x => x.1 == core * 16 + a)
    let s := if r.hvC != 0 && !r.last.rows.any (fun x => x.1 == key) then snapLog s rid (r.hvC - 1) core key false img else s
    if now then snapLog s rid r.half core key true img else s

/-- Is an add stream that bears a scope open on a set (R116)? -/
def addStreamOpen (s : State) (core a scope : Nat) : Bool :=
  s.sm.streams.any (fun x => x.1 / 256 == core && x.2.isOpen &&
    (x.2.desc.getD 0 0).extractLsb' 62 2 == 2#2 && ((x.2.desc.getD 7 0).extractLsb' 60 4).toNat == a &&
    ((x.2.desc.getD 7 0).extractLsb' 56 4).toNat == scope)

end Sys2Proof.Machine
end

