-- ==== Sys2Proof/Machine/Grid.lean ====
section
/-! DEFINITION. The fabric's geometry (R7, R187, R316, R317): neighbours, edge ports, and the result paths of a handler. -/

namespace Sys2Proof.Machine

/-! ### Elements by coordinates -/

def elemCore (e : Nat) : Nat := e / 4096
def elemOrd (e : Nat) : Nat := e / 512 % 8
/-- The tile number of an element's compute tile. -/
def elemTile (e : Nat) : Nat := computeTiles.getD (elemOrd e) 0
def elemX (e : Nat) : Nat := e % 16
def elemY (e : Nat) : Nat := e / 16 % 32

/-- The element of a tile, by tile number; none where it is no compute tile. -/
def elemAt (core tile x y : Nat) : Option Nat := (computeTiles.idxOf? tile).map (fun o => elemKey core o x y)

/-- The order in which the loader reports elements: core, tile, x, y (R351). -/
def elemRank (e : Nat) : Nat := (elemCore e * 8 + elemOrd e) * 512 + elemX e * 32 + elemY e

/-- The location of an element (R181). -/
def keyLoc (e : Nat) : Word := elemLoc (elemCore e) (e % 4096)

/-! ### Neighbours (R316) -/

/-- The neighbour of an element in a direction (0 N, 1 E, 2 S, 3 W): the adjacent element, the facing element of the
next compute tile in the core, or that of the adjacent core; none at the die edge. -/
def neighbour (e d : Nat) : Option Nat :=
  let core := elemCore e
  let x := elemX e
  let y := elemY e
  let row := elemTile e / 4
  let col := elemTile e % 4
  match d with
  | 0 =>
    if 0 < y then some (e - 16)
    else if 2 ≤ row then elemAt core ((row - 2) * 4 + col) x 31
    else if core % 64 < 8 then none
    else elemAt (core - 8) ((2 + col % 2) * 4 + col) x 31
  | 1 =>
    if x < 15 then some (e + 1)
    else if col + 2 ≤ 3 then elemAt core (row * 4 + col + 2) 0 y
    else if core % 8 = 7 then none
    else elemAt (core + 1) (row * 4 + row % 2) 0 y
  | 2 =>
    if y < 31 then some (e + 16)
    else if row + 2 ≤ 3 then elemAt core ((row + 2) * 4 + col) x 0
    else if 56 ≤ core % 64 then none
    else elemAt (core + 8) (col % 2 * 4 + col) x 0
  | _ =>
    if 0 < x then some (e - 1)
    else if 2 ≤ col then elemAt core (row * 4 + col - 2) 15 y
    else if core % 8 = 0 then none
    else elemAt (core - 1) (row * 4 + 2 + row % 2) 15 y

/-- The opposite direction. -/
def opposite (d : Nat) : Nat := (d + 2) % 4

/-- OUTMASK names a direction: bit [29] N to bit [26] W (R219). -/
def outGoes (h : HWord) (d : Nat) : Bool := h.outmask.getLsbD (3 - d)

/-- Operation code of a handler word. -/
def wordOp (w : Word) : Nat := (w.extractLsb' 56 8).toNat

/-- Where the results of an element's handler words go inside the fabric. -/
def handSucc (e : Nat) (ws : List Word) : List Nat :=
  (ws.map (fun w =>
    let h := unpackHandler w
    ((List.range 4).filter (outGoes h)).filterMap (neighbour e) ++ (if 1 ≤ h.dsel.toNat && h.dsel.toNat ≤ 4 then [e] else []))).flatten

/-! ### Butterflies (R101, R103) -/

/-- Operations that only lead the tokens from stage to stage: pass, gate, tsel, merge and widen (log entry 18). -/
def routeOps : List Nat := [0x40, 0x43, 0x44, 0x45, 0x58]

/-- How many bfly stages follow one another from an element on, along `next`, and which elements they are. -/
def bflyReach (words : Nat → List Word) (next : Nat → List Nat) : Nat → List Nat → Nat → Nat × List Nat
  | 0, _, _ => (0, [])
  | fuel + 1, seen, e =>
    let os := (words e).map wordOp
    if seen.contains e then (0, [])
    else
      let r := (next e).map (bflyReach words next fuel (e :: seen))
      let d := (r.map (·.1)).foldl max 0
      let es := (r.map (·.2)).flatten
      if os.contains 0x52 then (d + 1, e :: es) else if os.any routeOps.contains then (d, es) else (0, [])

/-- Can a bfly word form no pair: its operands are not two different input queues? -/
def bflyUnpaired (w : Word) : Bool :=
  let h := unpackHandler w
  wordOp w == 0x52 && (decide (4 ≤ h.a.toNat) || decide (4 ≤ h.b.toNat) || h.a == h.b)

/-! ### Edge ports (R317) -/

/-- What stands at an edge port. -/
inductive EdgePort
  | stream (k : Nat)
  | island
  | coll
  deriving DecidableEq, Repr, Inhabited

/-- The stream whose port faces a side of an element's tile there. -/
def sidePort (e d : Nat) : Option EdgePort :=
  let x := elemX e
  let y := elemY e
  let row := elemTile e / 4
  let col := elemTile e % 4
  let lane := if d % 2 = 1 then y / 4 else x / 2
  let on := match d with
    | 0 => decide (y = 0) && x % 2 == 0 && decide (0 < row)
    | 1 => decide (x = 15) && y % 4 == 0 && decide (col < 3)
    | 2 => decide (y = 31) && x % 2 == 0 && decide (row < 3)
    | _ => decide (x = 0) && y % 4 == 0 && decide (0 < col)
  let mem := match d with
    | 0 => (row - 1) * 4 + col
    | 1 => row * 4 + col + 1
    | 2 => (row + 1) * 4 + col
    | _ => row * 4 + col - 1
  if !on then none
  else (memoryTiles.idxOf? mem).map (fun k => .stream (4 * (8 * k + 2 * opposite d + lane / 4) + lane % 4))

/-- The ports at an element in their rank. -/
def edgePorts (e : Nat) : List EdgePort :=
  [sidePort e 1, sidePort e 3, sidePort e 0, sidePort e 2].filterMap id ++
    (if elemY e = 31 && (elemTile e = 13 || elemTile e = 15) then [.island] else []) ++
    (if elemY e = 0 && (elemTile e = 0 || elemTile e = 2) then [.coll] else [])

/-- The port that a DSEL of 5 or 6 reaches. -/
def dselPort (e dsel : Nat) : Option EdgePort := if 5 ≤ dsel then (edgePorts e)[dsel - 5]? else none

/-- The port that a queue source of 4 or 7 reaches (R316). -/
def srcPort (e qs : Nat) : Option EdgePort :=
  if qs = 4 then (edgePorts e)[0]? else if qs = 7 then (edgePorts e)[1]? else none

end Sys2Proof.Machine
end

