-- ==== Sys2Proof/WellFormed.lean ====
section
/-! DEFINITION. Well-formedness: the ranges of an instruction's fields, the checks of a block at its fetch (R206,
R207, R213, R214) and the legality of a handler word (R220–R222, R331). -/

namespace Sys2Proof

/-- What the block checks and the dataflow ask of a control-thread form: its predicate field (0 where the format
has none), its target fields in order, the inputs it uses (R227, R253 and chapter 13), the LSID it carries, its
rank (0 a form that acts on the frame alone or at commit, 1 a memory token, 2 a form that may wait, 3 a command of
R280), whether it is in format B, and its exit index. -/
structure Form where
  pr : BitVec 2
  targets : List (BitVec 9)
  left : Bool
  right : Bool
  lsid : Option (BitVec 5)
  rank : Nat
  fmtB : Bool
  exit : Option (BitVec 3)
  deriving DecidableEq, Repr

/-- The form of an instruction; none outside the control-thread set. -/
def Instr.form : Instr → Option Form
  | .add p t u => some ⟨p, [t, u], true, true, none, 0, false, none⟩
  | .sub p t u => some ⟨p, [t, u], true, true, none, 0, false, none⟩
  | .mul p t u => some ⟨p, [t, u], true, true, none, 0, false, none⟩
  | .mulh p t u => some ⟨p, [t, u], true, true, none, 0, false, none⟩
  | .mulhn p t u => some ⟨p, [t, u], true, true, none, 0, false, none⟩
  | .adds p t u => some ⟨p, [t, u], true, true, none, 0, false, none⟩
  | .min p t u => some ⟨p, [t, u], true, true, none, 0, false, none⟩
  | .max p t u => some ⟨p, [t, u], true, true, none, 0, false, none⟩
  | .minn p t u => some ⟨p, [t, u], true, true, none, 0, false, none⟩
  | .maxn p t u => some ⟨p, [t, u], true, true, none, 0, false, none⟩
  | .divs p t u => some ⟨p, [t, u], true, true, none, 0, false, none⟩
  | .divn p t u => some ⟨p, [t, u], true, true, none, 0, false, none⟩
  | .rems p t u => some ⟨p, [t, u], true, true, none, 0, false, none⟩
  | .remn p t u => some ⟨p, [t, u], true, true, none, 0, false, none⟩
  | .and p t u => some ⟨p, [t, u], true, true, none, 0, false, none⟩
  | .or p t u => some ⟨p, [t, u], true, true, none, 0, false, none⟩
  | .xor p t u => some ⟨p, [t, u], true, true, none, 0, false, none⟩
  | .andn p t u => some ⟨p, [t, u], true, true, none, 0, false, none⟩
  | .shl p t u => some ⟨p, [t, u], true, true, none, 0, false, none⟩
  | .shr p t u => some ⟨p, [t, u], true, true, none, 0, false, none⟩
  | .sha p t u => some ⟨p, [t, u], true, true, none, 0, false, none⟩
  | .rol p t u => some ⟨p, [t, u], true, true, none, 0, false, none⟩
  | .clz p t u => some ⟨p, [t, u], true, false, none, 0, false, none⟩
  | .ctz p t u => some ⟨p, [t, u], true, false, none, 0, false, none⟩
  | .popc p t u => some ⟨p, [t, u], true, false, none, 0, false, none⟩
  | .mov p t u => some ⟨p, [t, u], true, false, none, 0, false, none⟩
  | .sext p _ t u => some ⟨p, [t, u], true, false, none, 0, false, none⟩
  | .zext p _ t u => some ⟨p, [t, u], true, false, none, 0, false, none⟩
  | .addi p _ t => some ⟨p, [t], true, false, none, 0, false, none⟩
  | .muli p _ t => some ⟨p, [t], true, false, none, 0, false, none⟩
  | .andi p _ t => some ⟨p, [t], true, false, none, 0, false, none⟩
  | .ori p _ t => some ⟨p, [t], true, false, none, 0, false, none⟩
  | .xori p _ t => some ⟨p, [t], true, false, none, 0, false, none⟩
  | .shli p _ t => some ⟨p, [t], true, false, none, 0, false, none⟩
  | .shri p _ t => some ⟨p, [t], true, false, none, 0, false, none⟩
  | .shai p _ t => some ⟨p, [t], true, false, none, 0, false, none⟩
  | .bfx p _ _ t => some ⟨p, [t], true, false, none, 0, false, none⟩
  | .bfi p _ _ t => some ⟨p, [t], true, true, none, 0, false, none⟩
  | .movc _ t => some ⟨0#2, [t], false, false, none, 0, false, none⟩
  | .movh _ t => some ⟨0#2, [t], true, false, none, 0, false, none⟩
  | .rdh p _ t u => some ⟨p, [t, u], false, false, none, 0, false, none⟩
  | .teq p t u => some ⟨p, [t, u], true, true, none, 0, false, none⟩
  | .tne p t u => some ⟨p, [t, u], true, true, none, 0, false, none⟩
  | .tlt p t u => some ⟨p, [t, u], true, true, none, 0, false, none⟩
  | .tle p t u => some ⟨p, [t, u], true, true, none, 0, false, none⟩
  | .tltn p t u => some ⟨p, [t, u], true, true, none, 0, false, none⟩
  | .tlen p t u => some ⟨p, [t, u], true, true, none, 0, false, none⟩
  | .teqi p _ t => some ⟨p, [t], true, false, none, 0, false, none⟩
  | .tlti p _ t => some ⟨p, [t], true, false, none, 0, false, none⟩
  | .tltni p _ t => some ⟨p, [t], true, false, none, 0, false, none⟩
  | .pand p t u => some ⟨p, [t, u], true, true, none, 0, false, none⟩
  | .por p t u => some ⟨p, [t, u], true, true, none, 0, false, none⟩
  | .pnot p t u => some ⟨p, [t, u], true, false, none, 0, false, none⟩
  | .ldb p l _ t => some ⟨p, [t], true, false, (some l), 1, false, none⟩
  | .ldbs p l _ t => some ⟨p, [t], true, false, (some l), 1, false, none⟩
  | .ldh p l _ t => some ⟨p, [t], true, false, (some l), 1, false, none⟩
  | .ldhs p l _ t => some ⟨p, [t], true, false, (some l), 1, false, none⟩
  | .ldw p l _ t => some ⟨p, [t], true, false, (some l), 1, false, none⟩
  | .ldws p l _ t => some ⟨p, [t], true, false, (some l), 1, false, none⟩
  | .ldd p l _ t => some ⟨p, [t], true, false, (some l), 1, false, none⟩
  | .lda p l _ t => some ⟨p, [t], true, false, (some l), 1, false, none⟩
  | .ldred p l _ t => some ⟨p, [t], true, true, (some l), 1, false, none⟩
  | .ldt p l _ t => some ⟨p, [t], true, false, (some l), 1, false, none⟩
  | .prf p l _ => some ⟨p, [], true, false, (some l), 1, false, none⟩
  | .stb p l _ => some ⟨p, [], true, true, (some l), 1, false, none⟩
  | .sth p l _ => some ⟨p, [], true, true, (some l), 1, false, none⟩
  | .stw p l _ => some ⟨p, [], true, true, (some l), 1, false, none⟩
  | .std p l _ => some ⟨p, [], true, true, (some l), 1, false, none⟩
  | .stl p l _ _ => some ⟨p, [], true, true, (some l), 1, false, none⟩
  | .stt p l _ => some ⟨p, [], true, true, (some l), 1, false, none⟩
  | .spills p l _ _ => some ⟨p, [], true, false, (some l), 1, false, none⟩
  | .fills p l _ _ => some ⟨p, [], true, false, (some l), 1, false, none⟩
  | .aadd p l _ t => some ⟨p, [t], true, true, (some l), 1, false, none⟩
  | .aaddf p l _ t => some ⟨p, [t], true, true, (some l), 1, false, none⟩
  | .amin p l _ t => some ⟨p, [t], true, true, (some l), 1, false, none⟩
  | .amax p l _ t => some ⟨p, [t], true, true, (some l), 1, false, none⟩
  | .aminn p l _ t => some ⟨p, [t], true, true, (some l), 1, false, none⟩
  | .amaxn p l _ t => some ⟨p, [t], true, true, (some l), 1, false, none⟩
  | .aand p l _ t => some ⟨p, [t], true, true, (some l), 1, false, none⟩
  | .aor p l _ t => some ⟨p, [t], true, true, (some l), 1, false, none⟩
  | .axor p l _ t => some ⟨p, [t], true, true, (some l), 1, false, none⟩
  | .aswp p l _ t => some ⟨p, [t], true, true, (some l), 1, false, none⟩
  | .acas p l _ t => some ⟨p, [t], true, true, (some l), 1, false, none⟩
  | .ainc p l _ t => some ⟨p, [t], true, true, (some l), 1, false, none⟩
  | .fence p l _ t => some ⟨p, [t], false, false, (some l), 1, false, none⟩
  | .xfence p l _ _ _ => some ⟨p, [], false, false, (some l), 1, false, none⟩
  | .sbar p l a _ => some ⟨p, [], (a == 0#1), false, (some l), 1, false, none⟩
  | .abar p l _ => some ⟨p, [], false, false, (some l), 1, false, none⟩
  | .wbar p l _ => some ⟨p, [], false, false, (some l), 1, false, none⟩
  | .tbar p l _ _ => some ⟨p, [], false, false, (some l), 1, false, none⟩
  | .yield p t u => some ⟨p, [t, u], false, false, none, 0, false, none⟩
  | .wfe p t u => some ⟨p, [t, u], false, false, none, 0, false, none⟩
  | .sev p t u => some ⟨p, [t, u], true, false, none, 0, false, none⟩
  | .nwrite p l _ => some ⟨p, [], true, true, (some l), 1, false, none⟩
  | .qrsv p _ t => some ⟨p, [t], true, false, none, 3, false, none⟩
  | .qpush p _ t => some ⟨p, [t], false, false, none, 0, false, none⟩
  | .qwait p _ _ t => some ⟨p, [t], true, false, none, 2, false, none⟩
  | .qpop p _ _ t => some ⟨p, [t], true, false, none, 0, false, none⟩
  | .qadv p _ _ t => some ⟨p, [t], true, false, none, 0, false, none⟩
  | .qpadv p _ _ t => some ⟨p, [t], true, false, none, 0, false, none⟩
  | .qpol p _ t => some ⟨p, [t], true, false, none, 3, false, none⟩
  | .qstat p _ _ t => some ⟨p, [t], true, false, none, 0, false, none⟩
  | .qgap p _ t => some ⟨p, [t], true, false, none, 3, false, none⟩
  | .qmark p _ t => some ⟨p, [t], true, false, none, 3, false, none⟩
  | .rwait p _ t => some ⟨p, [t], true, false, none, 2, false, none⟩
  | .rrel p _ t => some ⟨p, [t], true, false, none, 0, false, none⟩
  | .sopen p l _ t => some ⟨p, [t], true, false, (some l), 1, false, none⟩
  | .sclose p l _ t => some ⟨p, [t], false, false, (some l), 1, false, none⟩
  | .sseek p _ t => some ⟨p, [t], true, false, none, 0, false, none⟩
  | .shand p _ t => some ⟨p, [t], false, false, none, 0, false, none⟩
  | .cfgld p _ t => some ⟨p, [t], true, false, none, 2, false, none⟩
  | .cfgsh p _ t => some ⟨p, [t], true, false, none, 2, false, none⟩
  | .rgo p _ t => some ⟨p, [t], false, false, none, 3, false, none⟩
  | .rdrain p _ t => some ⟨p, [t], false, false, none, 2, false, none⟩
  | .rstat p _ _ t => some ⟨p, [t], false, false, none, 0, false, none⟩
  | .rmark p _ t => some ⟨p, [t], true, false, none, 3, false, none⟩
  | .rroll p _ t => some ⟨p, [t], false, false, none, 3, false, none⟩
  | .bankm p l _ t => some ⟨p, [t], true, false, (some l), 1, false, none⟩
  | .ttsetDefine p _ t => some ⟨p, [t], true, false, none, 3, false, none⟩
  | .ttsetUndefine p _ t => some ⟨p, [t], false, false, none, 3, false, none⟩
  | .ttsetFill p _ t => some ⟨p, [t], false, false, none, 3, false, none⟩
  | .ttsetReady p _ t => some ⟨p, [t], false, false, none, 3, false, none⟩
  | .ttsetAbort p _ t => some ⟨p, [t], false, false, none, 3, false, none⟩
  | .ttsetDrain p _ t => some ⟨p, [t], false, false, none, 3, false, none⟩
  | .ttsetEmpty p _ t => some ⟨p, [t], false, false, none, 3, false, none⟩
  | .ttq p _ _ t => some ⟨p, [t], false, false, none, 0, false, none⟩
  | .cparm p t u => some ⟨p, [t, u], true, true, none, 3, false, none⟩
  | .cpgo p t u => some ⟨p, [t, u], true, true, none, 3, false, none⟩
  | .cpdis p t u => some ⟨p, [t, u], true, false, none, 3, false, none⟩
  | .mxtask p t u => some ⟨p, [t, u], true, true, none, 3, false, none⟩
  | .coll p t u => some ⟨p, [t, u], true, false, none, 3, false, none⟩
  | .zres p t u => some ⟨p, [t, u], true, true, none, 3, false, none⟩
  | .zrel p t u => some ⟨p, [t, u], true, true, none, 3, false, none⟩
  | .zbar p t u => some ⟨p, [t, u], true, true, none, 3, false, none⟩
  | .zanno p t u => some ⟨p, [t, u], true, true, none, 3, false, none⟩
  | .launch p t u => some ⟨p, [t, u], true, false, none, 3, false, none⟩
  | .tenq p t u => some ⟨p, [t, u], true, true, none, 3, false, none⟩
  | .tdeq p t u => some ⟨p, [t, u], false, false, none, 3, false, none⟩
  | .schnext p t u => some ⟨p, [t, u], false, false, none, 0, false, none⟩
  | .launchPark p t u => some ⟨p, [t, u], true, false, none, 3, false, none⟩
  | .tdeqPark p t u => some ⟨p, [t, u], false, false, none, 3, false, none⟩
  | .acopen p t u => some ⟨p, [t, u], true, true, none, 3, false, none⟩
  | .acadd p t u => some ⟨p, [t, u], true, true, none, 3, false, none⟩
  | .acscope p t l => some ⟨p, [t], true, false, (some l), 1, false, none⟩
  | .acnorm p t u => some ⟨p, [t, u], true, true, none, 3, false, none⟩
  | .acevict p t u => some ⟨p, [t, u], true, true, none, 3, false, none⟩
  | .acload p t u => some ⟨p, [t, u], true, true, none, 3, false, none⟩
  | .br p e _ => some ⟨p, [], false, false, none, 0, true, (some e)⟩
  | .call p e _ => some ⟨p, [], false, false, none, 0, true, (some e)⟩
  | .brt p e => some ⟨p, [], true, false, none, 0, true, (some e)⟩
  | .callt p e => some ⟨p, [], true, false, none, 0, true, (some e)⟩
  | .ret p e => some ⟨p, [], false, false, none, 0, false, (some e)⟩
  | .sel p t u => some ⟨p, [t, u], true, true, none, 0, false, none⟩
  | .nullw p t u => some ⟨p, [t, u], false, false, none, 0, false, none⟩
  | .nulls p t l => some ⟨p, [t], false, false, (some l), 0, false, none⟩
  | .trap p => some ⟨p, [], true, false, none, 0, false, none⟩
  | .sysc p => some ⟨p, [], true, false, none, 0, false, none⟩
  | .rdsr p t _ => some ⟨p, [t], false, false, none, 0, false, none⟩
  | .wrsr p t _ => some ⟨p, [t], true, false, none, 0, false, none⟩
  | .rdtime p t u => some ⟨p, [t, u], false, false, none, 0, false, none⟩
  | .eret p => some ⟨p, [], true, false, none, 0, false, none⟩
  | .halt p => some ⟨p, [], false, false, none, 0, false, none⟩
  | .brk p => some ⟨p, [], false, false, none, 0, false, none⟩
  | .idle p t u => some ⟨p, [t, u], true, false, none, 0, false, none⟩
  | .setctx p t u => some ⟨p, [t, u], true, true, none, 3, false, none⟩
  | .inval p t u => some ⟨p, [t, u], true, true, none, 3, false, none⟩
  | .kill p t u => some ⟨p, [t, u], true, false, none, 3, false, none⟩
  | .dsnap p t u => some ⟨p, [t, u], true, true, none, 3, false, none⟩
  | .plySend _ _ _ => none
  | .plyRecv _ _ _ => none
  | .plyPoll _ _ _ => none
  | .plyTag _ _ _ => none
  | .plyFlag _ _ _ => none
  | .plyEnd _ _ _ => none
  | .plyRwd _ _ _ => none
  | .iadd _ => none
  | .isub _ => none
  | .imul _ => none
  | .imulh _ => none
  | .iand _ => none
  | .ior _ => none
  | .ixor _ => none
  | .ishl _ => none
  | .ishr _ => none
  | .isha _ => none
  | .imin _ => none
  | .imax _ => none
  | .ieq _ => none
  | .ilt _ => none
  | .iltn _ => none
  | .isel _ => none
  | .fadd _ => none
  | .fsub _ => none
  | .fmul _ => none
  | .fma _ => none
  | .fmin _ => none
  | .fmax _ => none
  | .fneg _ => none
  | .fabs _ => none
  | .frcp _ => none
  | .frsq _ => none
  | .fexp2 _ => none
  | .flog2 _ => none
  | .feq _ => none
  | .flt _ => none
  | .fsel _ => none
  | .cvif _ => none
  | .cvfi _ => none
  | .pass _ => none
  | .dup _ => none
  | .cnt _ => none
  | .gate _ => none
  | .tsel _ => none
  | .merge _ => none
  | .isect _ => none
  | .union _ => none
  | .stopck _ => none
  | .swap _ => none
  | .mark _ => none
  | .hand _ => none
  | .acc _ => none
  | .accw _ => none
  | .bfly _ => none
  | .wmul _ => none
  | .gapw _ => none
  | .widen _ => none
  | .cmpd _ => none
  | .join _ => none
  | .win _ => none
  | .mxnode _ => none
  | .cpnode _ => none
  | .clnode _ => none
  | .asidEnable => none
  | .asidDisable => none
  | .asidDisableDrained => none
  | .registerWrite => none
  | .inboundRequest => none
  | .walkerQuotaWrite => none
  | .walkSlotGrant => none
  | .walkComplete => none
  | .dirtyTrackingWrite => none
  | .invalidationComplete => none
  | .bankPortGrant => none
  | .bankChangeReach => none
  | .bankChangeComplete => none
  | .coreCacheFill => none
  | .l2Access => none
  | .l2FillComplete => none
  | .tileEngineWrite => none
  | .tileRefIssue => none
  | .queueRecordArrival => none
  | .queueDataToken => none
  | .queueMarkerArrival => none
  | .spillRefill => none
  | .rowAdd => none
  | .temperRead => none
  | .addScopeClose => none
  | .reservationRequest => none
  | .reservationReply => none
  | .slotWriteArrival => none
  | .slotEndToken => none
  | .phaseNoticeArrival => none
  | .reservationTimeout => none
  | .landingQuotaWrite => none
  | .linkDown => none
  | .retrainWindowExpiry => none
  | .linkRetrained => none
  | .aguStreamAccess => none
  | .coalesceIdleFlush => none
  | .handToken => none
  | .remoteAtomicArrival => none
  | .replayEntryExpiry => none
  | .remoteReply => none
  | .remoteReplyTimeout => none
  | .replayQuotaWrite => none
  | .notifyPageEnable => none
  | .doorbellWrite => none
  | .admitRegion => none
  | .admitTile => none
  | .admitHeap => none
  | .admitEvent => none
  | .schedQuotaWrite => none
  | .arbiterPlaceRegion => none
  | .arbiterPlaceTile => none
  | .arbiterCounterPoll => none
  | .frameAllocate => none
  | .frameSurrender => none
  | .blockFetch => none
  | .blockCommit => none
  | .segmentBudgetExpiry => none
  | .channelPull => none
  | .stalemateCheck => none
  | .stallout => none
  | .elementSwap => none
  | .waitRelease => none
  | .idleTimeout => none
  | .copyTriggerRecord => none
  | .copyComplete => none
  | .matrixTaskComplete => none
  | .collectiveComplete => none
  | .cfgldComplete => none
  | .regionDrainComplete => none
  | .markerWaveComplete => none
  | .regionRollback => none
  | .regionPreempt => none
  | .killDrainComplete => none
  | .faultWindowWrite => none
  | .debugHalt => none
  | .debugResume => none
  | .debugAreaRefill => none
  | .histogramSave => none
  | .episodeBind => none
  | .episodeUnbind => none
  | .hearthWindowAccess => none
  | .actionRecordAccept => none
  | .flagFall => none
  | .nodeidWrite => none
  | .portEnable => none
  | .portDisable => none
  | .portModeSet => none
  | .flitReceive => none
  | .timeSyncTick => none
  | .gtscAlign => none
  | .reseqPacketArrival => none
  | .reseqSourceTimeout => none
  | .powerOn => none
  | .attestationRequest => none
  | .firmwareInstall => none
  | .sensorSample => none
  | .coolantReport => none
  | .flowLoss => none
  | .linkTrained => none
  | .moduleReset => none

/-- System registers that rdsr reads (R313). -/
def srReadable (r : BitVec 8) : Bool := [0, 1, 2, 3, 4, 8, 9, 10, 11].contains r.toNat
/-- System registers that wrsr writes (R313). -/
def srWritable (r : BitVec 8) : Bool := [2, 3, 8, 9, 10, 11].contains r.toNat

/-- The ranges of sub-fields that the encoding's fixed bits do not already give: a word outside them is BADFLD
(R214, R238, R264, R273, R274, R276, R313). -/
def Instr.rangeOk (i : Instr) : Bool :=
  match i with
  | .sext _ w _ _ => w != 3#2
  | .zext _ w _ _ => w != 3#2
  | .bfx _ q w _ => decide (q.toNat + w.toNat + 1 ≤ 64)
  | .bfi _ q w _ => decide (q.toNat + w.toNat + 1 ≤ 64)
  | .lda _ _ s _ => decide (s.toNat ≤ 4)
  | .ldred _ _ s _ => decide (s.toNat ≤ 4)
  | .stl _ _ s _ => decide (s.toNat ≤ 4)
  | .spills _ _ b a => decide (a.toNat ≤ b.toNat)
  | .fills _ _ b a => decide (a.toNat ≤ b.toNat)
  | .aadd _ _ s _ => decide (s.toNat ≤ 4)
  | .aaddf _ _ s _ => decide (s.toNat ≤ 4)
  | .amin _ _ s _ => decide (s.toNat ≤ 4)
  | .amax _ _ s _ => decide (s.toNat ≤ 4)
  | .aminn _ _ s _ => decide (s.toNat ≤ 4)
  | .amaxn _ _ s _ => decide (s.toNat ≤ 4)
  | .aand _ _ s _ => decide (s.toNat ≤ 4)
  | .aor _ _ s _ => decide (s.toNat ≤ 4)
  | .axor _ _ s _ => decide (s.toNat ≤ 4)
  | .aswp _ _ s _ => decide (s.toNat ≤ 4)
  | .acas _ _ s _ => decide (s.toNat ≤ 4)
  | .ainc _ _ s _ => decide (s.toNat ≤ 4)
  | .fence _ _ s _ => decide (s.toNat ≤ 4)
  | .xfence _ _ f g s => f != 0#8 && g != 0#7 && !f.getLsbD 7 && !g.getLsbD 6 && decide (s.toNat ≤ 4)
  | .sbar _ _ a g => (a == 0#1 || g == 0#2)
  | .wbar _ _ s => decide (s.toNat ≤ 4)
  | .tbar _ _ q _ => q != 3#2
  | .rdsr _ _ r => srReadable r
  | .wrsr _ _ r => srWritable r
  | _ => true

/-! ### Targets (R213) -/

/-- The class of a target field. -/
def tgtClass (t : BitVec 9) : Nat := (t.extractLsb' 7 2).toNat
/-- The number in a target field. -/
def tgtNum (t : BitVec 9) : Nat := (t.extractLsb' 0 7).toNat

/-- A target that names something wherever it stands. -/
def tgtOk (t : BitVec 9) : Bool :=
  if tgtClass t = 3 then decide (tgtNum t ≤ 32) || decide (64 ≤ tgtNum t) else decide (tgtNum t < 64)

/-- Does a target name a hold register or a queue handle? -/
def tgtHeld (t : BitVec 9) : Bool := tgtClass t == 3 && tgtNum t != 32

/-- Does a form use the input a target class names? -/
def Form.uses (f : Form) (cls : Nat) : Bool :=
  match cls with
  | 0 => f.left
  | 1 => f.right
  | _ => f.pr != 0#2

/-! ### Handler words (R220–R222, R331) -/

/-- The operands an operation uses. -/
def hUsesB (op : Nat) : Bool :=
  (decide (1 ≤ op) && decide (op ≤ 0x10)) || (decide (0x20 ≤ op) && decide (op ≤ 0x25)) ||
    [0x2C, 0x2D, 0x2E, 0x43, 0x44, 0x45, 0x46, 0x47, 0x52, 0x59, 0x60].contains op
def hUsesC (op : Nat) : Bool := [0x10, 0x23, 0x2E, 0x44].contains op

/-- Operations whose operands must name input queues (R331). -/
def hQueueOnly (op : Nat) : Bool := [0x43, 0x44, 0x45, 0x46, 0x47, 0x59, 0x60].contains op

/-- One source field: used sources are 0–12 and their queues are in FIRE; an unused one is 10. -/
def hSrcOk (op : Nat) (used : Bool) (fire : BitVec 4) (src : BitVec 4) : Bool :=
  if used then
    decide (src.toNat ≤ 12) && (decide (4 ≤ src.toNat) || fire.getLsbD src.toNat) &&
      (!hQueueOnly op || decide (src.toNat ≤ 3))
  else src == 10#4

/-- PARAM within its operation's limits (R331, R345, R347, R349). -/
def hParamOk (op : Nat) (p : BitVec 16) : Bool :=
  match op with
  | 0x30 => decide (p.toNat ≤ 1)
  | 0x31 => decide (p.toNat ≤ 1)
  | 0x41 => decide (p.toNat ≤ 255)
  | 0x42 => decide (p.toNat ≤ 1)
  | 0x43 => decide (p.toNat ≤ 3)
  | 0x48 => decide (p.toNat ≤ 15)
  | 0x4B => decide (p.toNat ≤ 15)
  | 0x50 => p &&& 0xFF08#16 == 0#16 && p.extractLsb' 0 2 != 3#2
  | 0x51 => p &&& 0xFE08#16 == 0#16 && p.extractLsb' 0 2 != 3#2
  | 0x52 => decide (p.toNat ≤ 15)
  | 0x54 => decide (p.toNat ≤ 15)
  | 0x58 => decide (2 ≤ p.toNat) && decide (p.toNat ≤ 4)
  | 0x61 => p.extractLsb' 0 15 != 0#15
  | 0x62 => decide (p.toNat ≤ 11)
  | 0x63 => decide (p.toNat ≤ 31)
  | 0x64 => decide (p.toNat ≤ 255)
  | _ => p == 0#16

/-- Where an operation fixes its outputs (R348, R349). -/
def hOutOk (op : Nat) (h : HWord) : Bool :=
  match op with
  | 0x62 => h.param.getLsbD 0 || h.dsel == 5#3
  | 0x63 => h.outmask == 0#4 && h.dsel == 0#3
  | 0x64 => h.dsel == 5#3 || h.dsel == 6#3
  | _ => true

/-- A handler word is legal but for the slot it is loaded into and the ports at its element (R222, R331). FIRE names
a queue for the operations of R335 to R349, which consume queue tokens; a result port of the island takes its
tokens from the island (DEDUCED, log entry 15). -/
def handlerOk (op : Nat) (h : HWord) : Bool :=
  hSrcOk op true h.fire h.a && hSrcOk op (hUsesB op) h.fire h.b && hSrcOk op (hUsesC op) h.fire h.c &&
    (h.dst == 0#4 || h.dst == 8#4 || h.dst == 9#4) && decide (h.rm.toNat ≤ 3) && h.dsel != 7#3 &&
    (decide (op < 0x40) || h.fire != 0#4 || (op == 0x62 && h.param.getLsbD 0)) && hParamOk op h.param && hOutOk op h &&
    (op != 0x44 || (h.fire.getLsbD h.a.toNat && h.fire.getLsbD h.b.toNat && h.fire.getLsbD h.c.toNat))

/-! ### Well-formed instructions -/

/-- An instruction whose every field holds a value its encoding admits, as far as its word alone decides. -/
def Instr.wf (i : Instr) : Bool :=
  (match i.form with
    | some f => f.pr != 3#2 && f.targets.all tgtOk
    | none => true) && i.rangeOk &&
  (match handlerOp i with
    | some (op, h) => handlerOk op.toNat h
    | none => true)

/-! ### Block headers and blocks (R206, R207, R213, R214) -/

namespace Hdr
def ni (h : BitVec 32) : Nat := (h.extractLsb' 26 6).toNat
def nm (h : BitVec 32) : Nat := (h.extractLsb' 20 6).toNat
def nw (h : BitVec 32) : Nat := (h.extractLsb' 14 6).toNat
def kind (h : BitVec 32) : Nat := (h.extractLsb' 12 2).toNat
def nx (h : BitVec 32) : Nat := (h.extractLsb' 9 3).toNat
def pre (h : BitVec 32) : Bool := h.getLsbD 8
def hsum (h : BitVec 32) : Nat := (h.extractLsb' 0 8).toNat

/-- Check 2 of R207. -/
def ok (h : BitVec 32) : Bool :=
  h != 0#32 && h != 0xFFFFFFFF#32 && kind h != 3 && decide (nm h ≤ 32) && decide (nw h ≤ 32)
end Hdr

/-- Sum modulo 256 of the bytes of instruction words (R206). -/
def byteSum (ws : List (BitVec 32)) : Nat :=
  (ws.map (fun w => ((bytesOfWord w).map BitVec.toNat).sum)).sum % 256

/-- Causes 1 to 5 of R214 for a word of a block whose header gives NX. -/
def wordCheck (nx : Nat) (w : BitVec 32) : Except LoadCause Instr :=
  match decodeWord w with
  | .error c => .error c
  | .ok i =>
    match i.form with
    | none => .error .badop
    | some f =>
      if !i.rangeOk then .error .badfld
      else match f.exit with
        | some e => if e.toNat ≤ nx then .ok i else .error .badfld
        | none => .ok i

/-- The form of a checked word, none where it failed. -/
def formOf (d : Except LoadCause Instr) : Option Form :=
  match d with
  | .ok i => i.form
  | .error _ => none

/-- Cause 6: a target of instruction `ix` in a block of the given words (R213). -/
def blockTgtOk (ds : List (Except LoadCause Instr)) (ix : Nat) (t : BitVec 9) : Bool :=
  tgtOk t && (tgtClass t == 3 ||
    (decide (tgtNum t < ds.length) && tgtNum t != ix &&
      (match formOf (ds.getD (tgtNum t) (.error .illword)) with
        | some f => f.uses (tgtClass t)
        | none => true)))

/-- The LSIDs of a block's memory tokens (R141, R217: nulls is none). -/
def memLsids (ds : List (Except LoadCause Instr)) : List Nat :=
  ds.filterMap (fun d => match formOf d with
    | some f => if f.rank = 1 then f.lsid.map BitVec.toNat else none
    | none => none)

/-- Is an instruction a spills or fills, which must be its block's only memory token (R264)? -/
def Instr.isRange (i : Instr) : Bool :=
  match i with
  | .spills .. => true
  | .fills .. => true
  | _ => false

/-- Cause 7 (R141, R252, R264). -/
def lsidOk (nm : Nat) (lsids : List Nat) (i : Instr) (f : Form) : Bool :=
  match f.lsid with
  | none => true
  | some l => decide (l.toNat < nm) && (f.rank != 1 || lsids.count l.toNat == 1) && (!i.isRange || nm == 1)

/-- Cause 8 (R214). -/
def preOk (pre : Bool) (f : Form) : Bool :=
  pre || f.pr == 0#2 || !(f.targets.any tgtHeld || f.lsid.isSome || f.fmtB)

/-- The first cause of R214 that a word of a block meets. -/
def wordCause (hdr : BitVec 32) (ds : List (Except LoadCause Instr)) (ix : Nat) : Option LoadCause :=
  match ds.getD ix (.error .illword) with
  | .error c => some c
  | .ok i =>
    match i.form with
    | none => some .badop
    | some f =>
      if !f.targets.all (blockTgtOk ds ix) then some .badtgt
      else if !lsidOk (Hdr.nm hdr) (memLsids ds) i f then some .badlsid
      else if !preOk (Hdr.pre hdr) f then some .badpre
      else none

/-- Checks 2 to 4 of R207: the cause and the index reported, none for a block that may start. -/
def blockCheck (hdr : BitVec 32) (ws : List (BitVec 32)) : Option (LoadCause × Nat) :=
  if !Hdr.ok hdr then some (.badhdr, 64)
  else if byteSum ws != Hdr.hsum hdr then some (.csum, 64)
  else
    let ds := ws.map (wordCheck (Hdr.nx hdr))
    (List.range ws.length).findSome? (fun ix => (wordCause hdr ds ix).map (fun c => (c, ix)))

end Sys2Proof
end

