-- ==== Sys2Proof/Machine/Image.lean ====
section
/-! DEFINITION. Region images (R370–R373): reading a core section and checking its form. -/

namespace Sys2Proof.Machine

/-! ### Records (R371) -/

/-- A record of a core section: its tag fields and body words. -/
structure ImgRec where
  kind : Nat
  index : Nat
  aux : Nat
  body : List Word
  deriving DecidableEq, Repr, Inhabited

/-- A core section as read. -/
structure Section where
  dx : Nat
  dy : Nat
  allot : BitVec 192
  sfirst : Nat
  scnt : Nat
  recs : List ImgRec
  deriving DecidableEq, Repr, Inhabited

/-- Body words of a record kind, for the first body word (R371); none for an unknown kind. -/
def recWords (kind : Nat) (w : Word) : Option Nat :=
  match kind with
  | 1 => some 1
  | 2 => some (7 + ((List.range 8).filter (fun i => w.getLsbD (56 + i))).length)
  | 3 => some 5
  | 4 => some 2
  | 5 => some 6
  | 6 => some 8
  | 7 => some 2
  | 8 => some 2
  | 9 => some 2
  | _ => none

/-- Objects of a record kind. -/
def recLimit (kind : Nat) : Nat :=
  match kind with
  | 1 => 192 | 2 => 1 | 3 => 64 | 4 => 64 | 5 => 32 | 6 => 8 | 7 => 16 | 8 => 16 | _ => 64

/-- Read n records; none where a kind is unknown, an NW differs, or words are missing or left over (R373). -/
def recsOf : Nat → List Word → Option (List ImgRec)
  | 0, ws => if ws.isEmpty then some [] else none
  | _ + 1, [] => none
  | n + 1, tag :: ws =>
    let kind := (tag.extractLsb' 0 8).toNat
    let nw := (tag.extractLsb' 16 16).toNat
    let r : ImgRec := {
      kind := kind, index := (tag.extractLsb' 8 8).toNat, aux := (tag.extractLsb' 32 32).toNat, body := ws.take nw }
    if recWords kind (ws.headD 0#64) != some nw || decide (ws.length < nw) || decide (recLimit kind ≤ r.index) ||
        (r.aux != 0 && kind != 3) then none
    else (recsOf n (ws.drop nw)).map (r :: ·)

/-- The place of a record in the order of R373: BANK by index, ELEM by tile, x and y, the rest by kind and index. -/
def ImgRec.rank (r : ImgRec) : Nat :=
  let e := r.body.headD 0#64
  match r.kind with
  | 1 => r.index
  | 2 => 2 ^ 20 + ((e.extractLsb' 9 4).toNat * 16 + (e.extractLsb' 5 4).toNat) * 32 + (e.extractLsb' 0 5).toNat
  | k => 2 ^ 20 * k + r.index

/-- Strictly ascending. -/
def ascending : List Nat → Bool
  | a :: b :: r => decide (a < b) && ascending (b :: r)
  | _ => true

/-- The consumer words of a QUEUE record: those of its views. -/
def ImgRec.consumers (r : ImgRec) : List Nat :=
  (List.range (((r.body.getD 0 0#64).extractLsb' 53 2).toNat + 1)).map
    (fun v => ((r.body.getD 4 0#64).extractLsb' (16 * v) 16).toNat)

/-- The memory tile of a QUEUE record's storage. -/
def ImgRec.queueTile (r : ImgRec) : Nat := ((r.body.getD 0 0#64).extractLsb' 40 8).toNat / 24

/-- The checks of one record against its section (R373), NEXT of a SCHED record within the range among them (DESIGN CHOICE, log entry 62). -/
def Section.recOk (t : Section) (r : ImgRec) : Bool :=
  match r.kind with
  | 1 => t.allot.getLsbD r.index && (r.body.headD 0#64) &&& 0xFFFFFFFFFFFFFFCC#64 == 0#64
  | 3 => (r.aux / 2 ^ 31 = 1 || r.aux % 256 / 32 = r.queueTile) && r.consumers.all (fun c =>
      match c / 0x4000 with
      | 0 => c % 256 / 32 == r.queueTile
      | 1 => t.recs.any (fun o => o.kind == 5 && o.index == c % 256)
      | k => k == 2)
  | 9 => decide (t.sfirst ≤ r.index) && decide (r.index < t.sfirst + t.scnt) &&
      (let n := ((r.body.getD 1 0#64).extractLsb' 8 6).toNat
       decide (t.sfirst ≤ n) && decide (n < t.sfirst + t.scnt))
  | _ => true

/-- A core section from its header and the words after it: none where its form is refused (R371, R373), a range past entry 63 among them
(DESIGN CHOICE, log entry 62). -/
def sectionOf (h ws : List Word) : Option Section :=
  let w0 := h.getD 0 0#64
  let w5 := h.getD 5 0#64
  if w0.extractLsb' 32 32 != 0x43535A55#32 || w0.extractLsb' 7 9 != 0#9 || w0.getLsbD 3 ||
      w5.extractLsb' 15 49 != 0#49 || w5.extractLsb' 6 2 != 0#2 || ws.foldl (· + ·) 0#64 != h.getD 6 0#64 then none
  else
    match recsOf (w0.extractLsb' 16 16).toNat ws with
    | none => none
    | some rs =>
      let t : Section := {
        dx := (w0.extractLsb' 0 3).toNat, dy := (w0.extractLsb' 4 3).toNat
        allot := h.getD 4 0#64 ++ h.getD 3 0#64 ++ h.getD 2 0#64
        sfirst := (w5.extractLsb' 0 6).toNat, scnt := (w5.extractLsb' 8 7).toNat, recs := rs }
      if decide (64 < t.sfirst + t.scnt) || !ascending (rs.map ImgRec.rank) || !rs.all t.recOk then none else some t

/-- Bytes of a section by its header; none where LEN can be no section's (R371). -/
def sectionLen (h : List Word) : Option Nat :=
  let n := (h.getD 1 0#64).toNat
  if n < 64 || n % 8 != 0 || decide (64 + 128 * ((h.getD 0 0#64).extractLsb' 16 16).toNat < n) then none else some n

/-- Read the section at an address: a failed access, a section, or none where it is refused. -/
def sectionRead (s : State) (a : Actor) (va : Nat) : (MemFault ⊕ Option (Section × Nat)) × State :=
  let r := memWords s a va 8
  match r.1 with
  | .inl f => (.inl f, r.2)
  | .inr h =>
    match sectionLen h with
    | none => (.inr none, r.2)
    | some n =>
      let b := memWords r.2 a (va + 64) ((n - 64) / 8)
      match b.1 with
      | .inl f => (.inl f, b.2)
      | .inr ws => (.inr ((sectionOf h ws).map (fun t => (t, (h.getD 7 0#64).toNat))), b.2)

/-- The header of a region image with its core entries: width, height, and per core COFF and ENTRY (R370). -/
structure ImageHdr where
  w : Nat
  h : Nat
  slot : Nat
  ents : List (Nat × Word)
  deriving DecidableEq, Repr, Inhabited

/-- Pairs of words. -/
def pairsOf : List Word → List (Nat × Word)
  | a :: b :: r => (a.toNat, b) :: pairsOf r
  | _ => []

/-- Read a region image's header: none where MAGIC or a bit that must be 0 fails (R370). -/
def imageRead (s : State) (a : Actor) (va : Nat) : (MemFault ⊕ Option ImageHdr) × State :=
  let r := memWords s a va 8
  match r.1 with
  | .inl f => (.inl f, r.2)
  | .inr ws =>
    let w0 := ws.getD 0 0#64
    if w0.extractLsb' 32 32 != 0x49525A55#32 || w0.extractLsb' 10 6 != 0#6 || w0.getLsbD 7 || w0.getLsbD 3 ||
        (ws.drop 2).any (· != 0#64) || va % 64 != 0 then (.inr none, r.2)
    else
      let w := (w0.extractLsb' 0 3).toNat + 1
      let h := (w0.extractLsb' 4 3).toNat + 1
      let e := memWords r.2 a (va + 64) (2 * w * h)
      match e.1 with
      | .inl f => (.inl f, e.2)
      | .inr es => (.inr (some { w := w, h := h, slot := (w0.extractLsb' 8 2).toNat, ents := pairsOf es }), e.2)

/-! ### Element records (R318) -/

/-- An element record: the element, its queue sources, channels, constants, handlers and initial token. -/
structure ImgElem where
  key : Nat
  e0 : Word
  e6 : Word
  qs : List Nat
  ch : List (Nat × Nat)
  k : List Word
  hs : List (Nat × Word)
  deriving DecidableEq, Repr, Inhabited

def ImgElem.tile (p : ImgElem) : Nat := (p.e0.extractLsb' 9 4).toNat
def ImgElem.slot (p : ImgElem) : Nat := (p.e0.extractLsb' 54 2).toNat
/-- The initial token and its queue. -/
def ImgElem.init (p : ImgElem) : Option (Nat × FTok) :=
  if p.e6.getLsbD 63 then some ((p.e6.extractLsb' 61 2).toNat, p.e6.extractLsb' 0 48) else none

/-- An element record of a core. A tile that is no compute tile has no key of its own: the record is refused. -/
def ImgElem.of (core : Nat) (r : ImgRec) : ImgElem :=
  let e0 := r.body.getD 0 0#64
  let e1 := r.body.getD 1 0#64
  let hp := (List.range 8).filter (fun i => e0.getLsbD (56 + i))
  { key := (elemAt core (e0.extractLsb' 9 4).toNat (e0.extractLsb' 5 4).toNat (e0.extractLsb' 0 5).toNat).getD (core * 4096)
    e0 := e0, e6 := r.body.getD 6 0#64
    qs := (List.range 4).map (fun q => (e0.extractLsb' (36 + 3 * q) 3).toNat)
    ch := ((List.range 16).filter (fun c => e1.getLsbD (4 * c + 3))).map (fun c => (c, (e1.extractLsb' (4 * c) 3).toNat))
    k := (List.range 4).map (fun i => r.body.getD (2 + i) 0#64)
    hs := hp.zipIdx.map (fun x => (x.1, r.body.getD (7 + x.2) 0#64)) }

/-- The element records of a section. -/
def Section.elems (t : Section) (core : Nat) : List ImgElem :=
  (t.recs.filter (fun r => r.kind == 2)).map (ImgElem.of core)

/-- The element records of a whole image: those of this core's section, and of every other core's that can be read
(log entry 18). -/
def imageElems (a : Actor) (origin va : Nat) (h : ImageHdr) (me : Nat) (own : Section) : List Nat → State → List (Nat × Section) × State
  | [], s => ([], s)
  | i :: is, s =>
    let core := origin + 8 * (i / h.w) + i % h.w
    let off := (h.ents.getD i (0, 0#64)).1
    if i = me then
      let t := imageElems a origin va h me own is s
      ((core, own) :: t.1, t.2)
    else if off = 0 then imageElems a origin va h me own is s
    else
      let r := sectionRead s a (va + off)
      let t := imageElems a origin va h me own is r.2
      match r.1 with
      | .inr (some x) => ((core, x.1) :: t.1, t.2)
      | _ => t

end Sys2Proof.Machine
end

