-- ==== Sys2Proof/Machine/Num.lean ====
section
/-! DEFINITION. Exact arithmetic and the roundings of the P960: XF42 (R326–R329), XA64 (R106), XE80 (R330),
the storage formats of R83 and the generator of R95. Values are exact dyadic rationals; every result is
computed exactly and narrowed once. -/

namespace Sys2Proof.Machine

/-- Rounding modes of R219 and R87, by their codes: 0 RNE, 1 RZ, 2 RU, 3 RD. -/
inductive RMode
  | rne | rz | ru | rd
  deriving DecidableEq, Repr, Inhabited

/-- The mode of a code; a code past 3 is refused before it is used (R222, R82). -/
def RMode.ofCode : Nat → RMode
  | 1 => .rz
  | 2 => .ru
  | 3 => .rd
  | _ => .rne

/-- A float value: NaN, a signed infinity, a signed zero, or (−1)^neg × mag × 2^exp with mag ≠ 0. -/
inductive FV
  | nan
  | inf (neg : Bool)
  | zero (neg : Bool)
  | fin (neg : Bool) (mag : Nat) (exp : Int)
  deriving DecidableEq, Repr, Inhabited

namespace Num

/-- n × 2^k for an integer k, rounded down. -/
def scale (n : Nat) (k : Int) : Nat :=
  if 0 ≤ k then n <<< k.toNat else n >>> (-k).toNat

/-- Round the magnitude n × 2^e to a multiple of 2^k under a mode; the answer counts units of 2^k. -/
def roundAt (rm : RMode) (neg : Bool) (n : Nat) (e k : Int) : Nat :=
  if k ≤ e then n <<< (e - k).toNat
  else
    let sh := (k - e).toNat
    let q := n >>> sh
    let r := n % 2 ^ sh
    let half := 2 ^ (sh - 1)
    let up := match rm with
      | .rne => decide (half < r) || (r == half && q % 2 == 1)
      | .rz => false
      | .ru => !neg && r != 0
      | .rd => neg && r != 0
    if up then q + 1 else q

/-- Floor of log2 of n × 2^e. -/
def ilog (n : Nat) (e : Int) : Int := (Nat.log2 n : Int) + e

/-- Round n × 2^e to p significant bits: the answer is (mantissa, exponent), the mantissa of p bits
or 2^p where the rounding carried. -/
def roundSig (p : Nat) (rm : RMode) (neg : Bool) (n : Nat) (e : Int) : Nat × Int :=
  let k := ilog n e - (p : Int) + 1
  (roundAt rm neg n e k, k)

/-- The integer of a signed magnitude. -/
def toInt (neg : Bool) (n : Nat) : Int := if neg then -(n : Int) else n

/-- A signed integer times 2^e, with the sign `z` where it is zero. -/
def ofInt (i : Int) (e : Int) (z : Bool := false) : FV :=
  if i = 0 then .zero z else .fin (decide (i < 0)) i.natAbs e

/-- Exact negation. -/
def neg : FV → FV
  | .nan => .nan
  | .inf s => .inf (!s)
  | .zero s => .zero (!s)
  | .fin s n e => .fin (!s) n e

/-- Exact absolute value. -/
def abs : FV → FV
  | .nan => .nan
  | .inf _ => .inf false
  | .zero _ => .zero false
  | .fin _ n e => .fin false n e

/-- The sign bit of a value. -/
def sign : FV → Bool
  | .nan => false
  | .inf s => s
  | .zero s => s
  | .fin s _ _ => s

/-- The exact sum; an exact zero sum of unlike signs, or of values that cancel, takes the sign of R328. -/
def add (rm : RMode) : FV → FV → FV
  | .nan, _ => .nan
  | _, .nan => .nan
  | .inf a, .inf b => if a = b then .inf a else .nan
  | .inf a, _ => .inf a
  | _, .inf b => .inf b
  | .zero a, .zero b => if a = b then .zero a else .zero (decide (rm = .rd))
  | .zero _, y => y
  | x, .zero _ => x
  | .fin a n e, .fin b m f =>
    let k := min e f
    ofInt (toInt a (n <<< (e - k).toNat) + toInt b (m <<< (f - k).toNat)) k (decide (rm = .rd))

/-- The exact product (R328). -/
def mul : FV → FV → FV
  | .nan, _ => .nan
  | _, .nan => .nan
  | .inf a, .zero _ => let _ := a; .nan
  | .zero _, .inf _ => .nan
  | .inf a, y => .inf (a != sign y)
  | x, .inf b => .inf (sign x != b)
  | .zero a, y => .zero (a != sign y)
  | x, .zero b => .zero (sign x != b)
  | .fin a n e, .fin b m f => .fin (a != b) (n * m) (e + f)

/-- The exact fused a × b + c (R328). -/
def fma (rm : RMode) (a b c : FV) : FV := add rm (mul a b) c

/-- n / d × 2^e with at least `g` bits, the last of them a sticky bit. -/
def divSticky (g : Nat) (neg : Bool) (n d : Nat) (e : Int) : FV :=
  if n = 0 then .zero neg
  else
    let sh := g + Nat.log2 d + 2
    let q := (n <<< sh) / d
    let st := if (n <<< sh) % d = 0 then 0 else 1
    .fin neg (2 * q + st) (e - sh - 1)

/-- 1 / √(n/d × 2^e) with more than `g` bits, the last of them a sticky bit; n, d ≠ 0. -/
def rsqrtSticky (g : Nat) (n d : Nat) (e : Int) : FV :=
  let n' := if e % 2 = 0 then n else 2 * n
  let e' := if e % 2 = 0 then e else e - 1
  let t := g + Nat.log2 n'
  let x := (d <<< (2 * t)) / n'
  let q := Nat.sqrt x
  let st := if q * q * n' = d <<< (2 * t) then 0 else 1
  .fin false (2 * q + st) (-(t : Int) - e' / 2 - 1)

/-- Exact order: a < b, for values that are not NaN; −0 and +0 are equal. -/
def lt : FV → FV → Bool
  | .nan, _ => false
  | _, .nan => false
  | .inf a, .inf b => a && !b
  | .inf a, _ => a
  | _, .inf b => !b
  | .zero _, .zero _ => false
  | .zero _, .fin b _ _ => !b
  | .fin a _ _, .zero _ => a
  | .fin a n e, .fin b m f =>
    let k := min e f
    decide (toInt a (n <<< (e - k).toNat) < toInt b (m <<< (f - k).toNat))

/-- Exact equality; NaN equals nothing and −0 equals +0. -/
def eq (a b : FV) : Bool :=
  match a, b with
  | .nan, _ => false
  | _, .nan => false
  | _, _ => !lt a b && !lt b a

/-- Order with −0 below +0, used by minimum and maximum. -/
def ltz (a b : FV) : Bool :=
  match a, b with
  | .zero s, .zero t => s && !t
  | _, _ => lt a b

/-- Round to an integer under a mode. -/
def toInteger (rm : RMode) : FV → Int
  | .fin s n e => toInt s (roundAt rm s n e 0)
  | _ => 0

/-! ### XF42 -/

/-- The XF42 fields of a token as a value (R326). -/
def xfOf (t : FTok) : FV :=
  let e := (t.extractLsb' 32 10).toNat
  let s := t.getLsbD 31
  let f := (t.extractLsb' 0 31).toNat
  if e = 0 then .zero s
  else if e = 1023 then (if f = 0 then .inf s else .nan)
  else .fin s (2 ^ 31 + f) ((e : Int) - 511 - 31)

/-- A token from sign, exponent lane and fraction, with C, CH and N zero (R223, R326). -/
def xfPack (s : Bool) (e f : Nat) : FTok :=
  BitVec.ofNat 48 (e * 2 ^ 32 + (if s then 2 ^ 31 else 0) + f)

/-- The canonical NaN (R326). -/
def xfNaN : FTok := xfPack false 1023 (2 ^ 31 - 1)

/-- xf_round: an exact value as an XF42 token under a mode (R327). -/
def xfRound (rm : RMode) : FV → FTok
  | .nan => xfNaN
  | .inf s => xfPack s 1023 0
  | .zero s => xfPack s 0 0
  | .fin s n e =>
    let r := roundSig 32 rm s n e
    let m := if r.1 = 2 ^ 32 then 2 ^ 31 else r.1
    let k := if r.1 = 2 ^ 32 then r.2 + 1 else r.2
    let x := k + 31
    if x < -510 then xfPack s 0 0
    else if 512 ≤ x then
      match rm, s with
      | .rne, _ => xfPack s 1023 0
      | .rz, _ => xfPack s 1022 (2 ^ 31 - 1)
      | .ru, false => xfPack s 1023 0
      | .ru, true => xfPack s 1022 (2 ^ 31 - 1)
      | .rd, true => xfPack s 1023 0
      | .rd, false => xfPack s 1022 (2 ^ 31 - 1)
    else xfPack s (x + 511).toNat (m - 2 ^ 31)

/-- Fixed-point ln 2 with P fraction bits, rounded down term by term: the sum of 1 / (n 2^n). -/
def ln2Fix (P : Nat) : Nat → Nat
  | 0 => 0
  | n + 1 => ln2Fix P n + 2 ^ P / ((n + 1) * 2 ^ (n + 1))

/-- Σ y^i / i! from i = k on, in fixed point with P bits, `term` being y^k / k!. -/
def expSum (P y : Nat) : Nat → Nat → Nat → Nat
  | 0, _, _ => 0
  | fuel + 1, k, term => term + expSum P y fuel (k + 1) ((term * y / 2 ^ P) / (k + 1))

/-- Σ z^(2i+1) / (2i+1) in fixed point with P bits. -/
def atanhSum (P z2 : Nat) : Nat → Nat → Nat → Nat
  | 0, _, _ => 0
  | fuel + 1, k, pow => pow / (2 * k + 1) + atanhSum P z2 fuel (k + 1) (pow * z2 / 2 ^ P)

/-- Fraction bits of the fixed-point series below; far past what a 32-bit result can need (DEDUCED, log entry 12). -/
def seriesBits : Nat := 384

/-- 2^x for a finite nonzero x, with a sticky last bit (R329). -/
def exp2Val (s : Bool) (n : Nat) (e : Int) : FV :=
  if ilog n e ≥ 11 then (if s then .fin false 1 (-4096) else .fin false 1 4096)
  else if 0 ≤ e then .fin false 1 (toInt s (n <<< e.toNat))
  else
    let d := (-e).toNat
    let v := toInt s n
    let k := v / (2 : Int) ^ d
    let fr := (v - k * (2 : Int) ^ d).toNat
    if fr = 0 then .fin false 1 k
    else
      let f := if d ≤ seriesBits then fr <<< (seriesBits - d) else fr >>> (d - seriesBits)
      let y := f * ln2Fix seriesBits 400 / 2 ^ seriesBits
      let m := expSum seriesBits y 150 0 (2 ^ seriesBits)
      -- a value just below an integer power (a tiny negative x) must not round past it
      let m' := if m ≥ 2 ^ (seriesBits + 1) then 2 ^ (seriesBits + 1) - 1 else m
      .fin false (2 * m' + 1) (k - seriesBits - 1)

/-- log2 of a finite positive value, with a sticky last bit (R329). -/
def log2Val (n : Nat) (e : Int) : FV :=
  let l := Nat.log2 n
  let x := (l : Int) + e
  if n = 2 ^ l then ofInt x 0
  else
    let P := seriesBits
    let z := ((n - 2 ^ l) <<< P) / (n + 2 ^ l)
    let a := 2 * atanhSum P (z * z / 2 ^ P) 200 0 z
    let lg := (a <<< P) / ln2Fix P 400
    let t := x * (2 : Int) ^ P + lg
    ofInt (2 * t + 1) (-(P : Int) - 1)

/-- 1/x (R329). -/
def rcp : FV → FV
  | .nan => .nan
  | .inf s => .zero s
  | .zero s => .inf s
  | .fin s n e => divSticky 40 s 1 n (-e)

/-- 1/√x (R329). -/
def rsq : FV → FV
  | .nan => .nan
  | .inf false => .zero false
  | .inf true => .nan
  | .zero s => .inf s
  | .fin true _ _ => .nan
  | .fin false n e => rsqrtSticky 40 n 1 e

/-- 2^x (R329). -/
def exp2 : FV → FV
  | .nan => .nan
  | .inf false => .inf false
  | .inf true => .zero false
  | .zero _ => .fin false 1 0
  | .fin s n e => exp2Val s n e

/-- log2 x (R329). -/
def log2 : FV → FV
  | .nan => .nan
  | .inf false => .inf false
  | .inf true => .nan
  | .zero _ => .inf true
  | .fin true _ _ => .nan
  | .fin false n e => log2Val n e

/-- An INT32 token's value. -/
def intOf (t : FTok) : Int := (t.extractLsb' 0 32).toInt

/-- An integer token: X = 0 and the low 32 bits (R332). -/
def intTok (i : Int) : FTok := (BitVec.ofInt 32 i).setWidth 48

/-- Saturate. -/
def clampInt (lo hi i : Int) : Int := if i < lo then lo else if hi < i then hi else i

/-! ### XA64 (R106) -/

def xaOf (w : Word) : FV :=
  let e := (w.extractLsb' 55 8).toNat
  let f := (w.extractLsb' 0 55).toNat
  let s := w.getLsbD 63
  if e = 0 then .zero s
  else if e = 255 then (if f = 0 then .inf s else .nan)
  else .fin s (2 ^ 55 + f) ((e : Int) - 127 - 55)

def xaPack (s : Bool) (e f : Nat) : Word :=
  BitVec.ofNat 64 ((if s then 2 ^ 63 else 0) + e * 2 ^ 55 + f)

/-- The canonical NaN of XA64. -/
def xaNaN : Word := 0x7FFFFFFFFFFFFFFF#64

/-- round_rne_xa64 (R106). -/
def xaRound : FV → Word
  | .nan => xaNaN
  | .inf s => xaPack s 255 0
  | .zero s => xaPack s 0 0
  | .fin s n e =>
    let r := roundSig 56 .rne s n e
    let m := if r.1 = 2 ^ 56 then 2 ^ 55 else r.1
    let k := if r.1 = 2 ^ 56 then r.2 + 1 else r.2
    let x := k + 55
    if x < -126 then xaPack s 0 0
    else if 128 ≤ x then xaPack s 255 0
    else xaPack s (x + 127).toNat (m - 2 ^ 55)

/-! ### XE80 (R330) -/

def xeOf (w : BitVec 80) : FV :=
  let e := (w.extractLsb' 64 15).toNat
  let f := (w.extractLsb' 0 64).toNat
  let s := w.getLsbD 79
  if e = 0 then .zero s
  else if e = 32767 then (if f = 0 then .inf s else .nan)
  else .fin s (2 ^ 64 + f) ((e : Int) - 16383 - 64)

def xePack (s : Bool) (e f : Nat) : BitVec 80 :=
  BitVec.ofNat 80 ((if s then 2 ^ 79 else 0) + e * 2 ^ 64 + f)

/-- Rounding into XE80: 65 significant bits, RNE (R330). -/
def xeRound : FV → BitVec 80
  | .nan => xePack false 32767 (2 ^ 64 - 1)
  | .inf s => xePack s 32767 0
  | .zero s => xePack s 0 0
  | .fin s n e =>
    let r := roundSig 65 .rne s n e
    let m := if r.1 = 2 ^ 65 then 2 ^ 64 else r.1
    let k := if r.1 = 2 ^ 65 then r.2 + 1 else r.2
    let x := k + 64
    if x < -16382 then xePack s 0 0
    else if 16384 ≤ x then xePack s 32767 0
    else xePack s (x + 16383).toNat (m - 2 ^ 64)

end Num

/-! ### Storage formats (R83) -/

/-- How a float format codes infinities and NaNs. -/
inductive NanStyle
  | ieee      -- e all ones: infinity and NaN
  | onlyNaN   -- E4M3: the code with e and f all ones is NaN, no infinity
  | none      -- neither
  deriving DecidableEq, Repr, Inhabited

/-- A float format of R83. -/
structure FloatFmt where
  eb : Nat
  fb : Nat
  bias : Nat
  style : NanStyle
  deriving DecidableEq, Repr, Inhabited

namespace FloatFmt

def fp64 : FloatFmt := ⟨11, 52, 1023, .ieee⟩
def fp32 : FloatFmt := ⟨8, 23, 127, .ieee⟩
def fp16 : FloatFmt := ⟨5, 10, 15, .ieee⟩
def bf16 : FloatFmt := ⟨8, 7, 127, .ieee⟩
def e4m3 : FloatFmt := ⟨4, 3, 7, .onlyNaN⟩
def e5m2 : FloatFmt := ⟨5, 2, 15, .ieee⟩
def e3m2 : FloatFmt := ⟨3, 2, 3, .none⟩
def e2m3 : FloatFmt := ⟨2, 3, 1, .none⟩
def e2m1 : FloatFmt := ⟨2, 1, 1, .none⟩

/-- Bits of an element. -/
def bits (f : FloatFmt) : Nat := 1 + f.eb + f.fb

/-- The canonical NaN of R83, without sign. -/
def nanCode (f : FloatFmt) : Nat :=
  match f.style with
  | .ieee => (2 ^ f.eb - 1) * 2 ^ f.fb + 2 ^ (f.fb - 1)
  | .onlyNaN => 2 ^ (f.eb + f.fb) - 1
  | .none => 0

/-- The code of the largest finite magnitude. -/
def maxCode (f : FloatFmt) : Nat :=
  match f.style with
  | .ieee => (2 ^ f.eb - 1) * 2 ^ f.fb - 1
  | .onlyNaN => 2 ^ (f.eb + f.fb) - 2
  | .none => 2 ^ (f.eb + f.fb) - 1

/-- The code of infinity, in a format that has one. -/
def infCode (f : FloatFmt) : Nat := (2 ^ f.eb - 1) * 2 ^ f.fb

/-- Place the sign above a magnitude code. -/
def signed (f : FloatFmt) (s : Bool) (c : Nat) : Nat := if s then 2 ^ (f.eb + f.fb) + c else c

/-- The value of a code (R83). -/
def decode (f : FloatFmt) (c : Nat) : FV :=
  let s := (c / 2 ^ (f.eb + f.fb)) % 2 == 1
  let e := (c / 2 ^ f.fb) % 2 ^ f.eb
  let m := c % 2 ^ f.fb
  if f.style = .ieee ∧ e = 2 ^ f.eb - 1 then (if m = 0 then .inf s else .nan)
  else if f.style = .onlyNaN ∧ e = 2 ^ f.eb - 1 ∧ m = 2 ^ f.fb - 1 then .nan
  else if e = 0 then
    (if m = 0 then .zero s else .fin s m (1 - (f.bias : Int) - f.fb))
  else .fin s (2 ^ f.fb + m) ((e : Int) - f.bias - f.fb)

/-- A stored code is subnormal: exponent field 0 and a fraction. -/
def isSub (f : FloatFmt) (c : Nat) : Bool :=
  (c / 2 ^ f.fb) % 2 ^ f.eb == 0 && c % 2 ^ f.fb != 0

/-- The smallest exponent a value's last place may have. -/
def minUlp (f : FloatFmt) : Int := 1 - (f.bias : Int) - f.fb

/-- The last-place exponent of a magnitude in this format, subnormal range included. -/
def ulpOf (f : FloatFmt) (n : Nat) (e : Int) : Int := max (Num.ilog n e - f.fb) (minUlp f)

/-- The magnitude code of q × 2^k, where k is the last place of the value in this format. -/
def codeOf (f : FloatFmt) (q : Nat) (k : Int) : Nat :=
  let d := (k - minUlp f).toNat
  -- a carry into the next binade adds itself, and the subnormal range has d = 0
  q + d * 2 ^ f.fb

/-- Is the exact magnitude below the smallest normal (R99)? -/
def belowNormal (f : FloatFmt) (n : Nat) (e : Int) : Bool :=
  decide (Num.ilog n e < 1 - (f.bias : Int))

/-- Overflow of a rounding in this format (R87): the code written. -/
def overflowCode (f : FloatFmt) (sat : Bool) (rm : RMode) (s : Bool) : Nat :=
  if sat || f.style != .ieee then maxCode f
  else match rm, s with
    | .rne, _ => infCode f
    | .rz, _ => maxCode f
    | .ru, false => infCode f
    | .ru, true => maxCode f
    | .rd, true => infCode f
    | .rd, false => maxCode f

/-- Conversion out of one value (R87): the code and whether SATN counts it. -/
def encode (f : FloatFmt) (sat : Bool) (rm : RMode) : FV → Nat × Bool
  | .nan => (nanCode f, false)
  | .inf s =>
    if sat then (signed f s (maxCode f), true)
    else match f.style with
      | .ieee => (signed f s (infCode f), false)
      | _ => (nanCode f, true)
  | .zero s => (signed f s 0, false)
  | .fin s n e =>
    let k := ulpOf f n e
    let q := Num.roundAt rm s n e k
    let c := codeOf f q k
    if c > maxCode f then (signed f s (overflowCode f sat rm s), true) else (signed f s c, false)

/-- Stochastic conversion out (R96): the magnitude is cut at the last place, and the sixteen bits below
it are added to the generator's high half. -/
def encodeSR (f : FloatFmt) (sat : Bool) (rnd : BitVec 16) : FV → Nat × Bool
  | .fin s n e =>
    let k := ulpOf f n e
    let t := Num.roundAt .rz s n e k
    let d := Num.scale n (e - (k - 16)) % 2 ^ 16
    let q := if d + rnd.toNat ≥ 2 ^ 16 then t + 1 else t
    let c := codeOf f q k
    if c > maxCode f then (signed f s (overflowCode f sat .rne s), true) else (signed f s c, false)
  | v => encode f sat .rne v

end FloatFmt

/-- One step of the generator of R95 and R68. -/
def xorshift32 (x : BitVec 32) : BitVec 32 :=
  let a := x ^^^ (x <<< 13)
  let b := a ^^^ (a >>> 17)
  b ^^^ (b <<< 5)

end Sys2Proof.Machine
end

