-- ==== Sys2Proof/Machine/Queue.lean ====
section
/-! DEFINITION. Queues and their overload policies (R59–R80): judging an arriving record, markers, gaps,
spilling, merging, narrowing, and what a rollback replays. -/

namespace Sys2Proof.Machine

/-! ### Tokens (R223) -/

/-- Bit C of a token. -/
def tokC (t : FTok) : Bool := t.getLsbD 47
/-- Bit N of a token. -/
def tokN (t : FTok) : Bool := t.getLsbD 42
/-- The channel of a token. -/
def tokCh (t : FTok) : BitVec 4 := t.extractLsb' 43 4
/-- The code of a control token. -/
def tokCode (t : FTok) : Nat := (t.extractLsb' 24 8).toNat
/-- The argument of a control token. -/
def tokArg (t : FTok) : Nat := (t.extractLsb' 0 24).toNat
/-- The X lane. -/
def tokX (t : FTok) : Nat := (t.extractLsb' 32 10).toNat
/-- A token on another channel. -/
def tokOn (t : FTok) (ch : BitVec 4) : FTok :=
  (t &&& 0x87FFFFFFFFFF#48) ||| (ch.setWidth 48 <<< 43)
/-- A null data token on a channel (R323). -/
def tokNull (ch : BitVec 4) : FTok := tokOn 0x040000000000#48 ch
/-- A control token. -/
def ctlTok (ch : BitVec 4) (code arg : Nat) : FTok :=
  tokOn (BitVec.ofNat 48 (2 ^ 47 + code * 2 ^ 24 + arg % 2 ^ 24)) ch
/-- Set one bit of a token. -/
def tokBit (t : FTok) (n : Nat) : FTok := t ||| (1#48 <<< n)
/-- A REC token with another weight. -/
def recWeight (t : FTok) (w : Nat) : FTok := (t &&& 0xFFFFFF000000#48) ||| BitVec.ofNat 48 (w % 2 ^ 24)
/-- Is a token a REC? -/
def isRec (t : FTok) : Bool := tokC t && tokCode t == 8

/-- Saturating increase. -/
def satAdd (lim a b : Nat) : Nat := min lim (a + b)

/-- The canonical XF42 token of a 40.8 weight (R73). -/
def weightTok (ch : BitVec 4) (w : Nat) : FTok :=
  tokOn (if w = 0 then 0#48 else Num.xfRound .rne (.fin false w (-8))) ch

/-! ### A view's slots -/

/-- Slots of a view: C + 2 (R60). -/
def Queue.slots (d : Queue) : Nat := d.c + 2
/-- Bytes of a slot (R60). -/
def Queue.slotBytes (d : Queue) : Nat := 64 * ((8 * (d.len + 3) + 63) / 64)
/-- Entries of a view's spill ring (R72). -/
def Queue.ringEnts (d : Queue) : Nat := d.slim * 65536 / d.slotBytes
/-- Records that one narrow group holds (R67). -/
def narrowCount (nfmt : Nat) : Nat := if nfmt < 2 then 2 else 4

/-- What judging an arrival leaves besides the view: region errors to raise, whether the view admitted it,
and the shed-log entries to write. -/
structure VOut where
  v : QView
  errs : List Nat
  adm : Bool
  logs : List (Nat × Nat)
  deriving DecidableEq, Repr, Inhabited

def VOut.of (v : QView) : VOut := { v := v, errs := [], adm := false, logs := [] }

/-- The first free index of a ring of `n`, from index i on: i itself where all are taken. -/
def ringFree (taken : List Nat) (n i : Nat) : Nat :=
  (((List.range n).map (fun j => (i + j) % n)).find? (fun j => !taken.contains j)).getD i

/-- RD, WR and SPH after entries have come or gone (R79): the slot of the oldest entry, the slot of the next placement, the ring index
of the oldest spill entry; SPL clears with the last one (R72). An entry withdrawn from the midst of a view leaves a slot free that WR
comes to in its turn (DESIGN CHOICE, log entry 56). -/
def QView.reseat (v : QView) (d : Queue) : QView :=
  let w := ringFree (v.ents.map (·.slot)) d.slots v.wr
  { v with
    wr := w
    rd := (match v.ents with | e :: _ => e.slot | [] => w)
    sph := (match v.spill with | r :: _ => r.at_ | [] => v.sph)
    spl := v.spl && !v.spill.isEmpty }

/-- Put an entry into the next slot. -/
def QView.push (v : QView) (d : Queue) (marker : Bool) (nar : Option Nat) (r : QRec) : QView :=
  QView.reseat { v with
    ents := v.ents ++ [{ marker := marker, nar := nar, slot := v.wr, recs := [r] }]
    wr := (v.wr + 1) % d.slots
    occ := v.occ + 1 } d

/-- Put an entry into the spill ring, at the next index (R72). -/
def QView.ringPut (v : QView) (d : Queue) (r : QRec) : QView :=
  let i := ringFree (v.spill.map (·.at_)) d.ringEnts (match v.spill.getLast? with
    | some l => (l.at_ + 1) % d.ringEnts
    | none => v.sph)
  { v with spill := v.spill ++ [{ r with at_ := i }], sph := if v.spill.isEmpty then i else v.sph }

/-- One shed-log entry, or LOGFULL (R76). -/
def VOut.log (o : VOut) (d : Queue) (ord kind : Nat) : VOut :=
  if o.v.lgn ≥ d.llim * 256 || ord > 0xFFFFFF then { o with errs := o.errs ++ [0x09] }
  else { o with v := { o.v with lgn := o.v.lgn + 1, log := o.v.log ++ [(ord, kind)] }, logs := o.logs ++ [(ord, kind)] }

/-- lose(cnt, wt) of R67. -/
def QView.lose (v : QView) (cnt wt : Nat) : QView :=
  { v with
    pgc := satAdd 0xFFFFFF v.pgc cnt
    pgw := satAdd (2 ^ 48 - 1) v.pgw wt
    lost := satAdd (2 ^ 32 - 1) v.lost cnt }

/-- Multiply a weight, saturating with WSAT (R67). -/
def QView.wmul (v : QView) (w n : Nat) : Nat × QView :=
  if w * n > 0xFFFFFF then (0xFFFFFF, { v with wsat := satAdd 0xFFFF v.wsat 1 }) else (w * n, v)

/-- Place a marker while OCC < C + 2 (R65); while spilling it goes to the ring instead, and at a full ring it is not placed even where
OCC < C + 2 (R72; DESIGN CHOICE, log entry 56). MKOVF, whose width no rule gives, saturates at 0xFFFF (DESIGN CHOICE, log entry 56). -/
def VOut.marker (o : VOut) (d : Queue) (r : QRec) (own : Bool) : VOut × Bool :=
  if o.v.spl then
    if o.v.spill.length < d.ringEnts then
      (if own then { o with v := o.v.ringPut d r } else VOut.log { o with v := o.v.ringPut d r } d r.ord 8, true)
    else ({ o with v := { o.v with mkovf := satAdd 0xFFFF o.v.mkovf 1 }, errs := o.errs ++ [0x07] }, false)
  else if o.v.occ < d.c + 2 then ({ o with v := o.v.push d true none r }, true)
  else ({ o with v := { o.v with mkovf := satAdd 0xFFFF o.v.mkovf 1 }, errs := o.errs ++ [0x07] }, false)

/-- Place the pending losses as one GAP, or keep them where no slot is free (R69 step 4). -/
def VOut.gap (o : VOut) (d : Queue) : VOut :=
  if o.v.pgc = 0 then o
  else
    let r : QRec := { toks := [ctlTok d.ch 7 o.v.pgc, weightTok d.ch o.v.pgw], done := true, id := 0, ord := 0 }
    let x := o.marker d r true
    if x.2 then { x.1 with v := { x.1.v with gaps := satAdd 0xFFFF x.1.v.gaps 1, pgc := 0, pgw := 0 } } else x.1

/-! ### Merging (R70) -/

/-- The type a merge value must have: none where the token is mistyped. -/
def mergeTyped (mty : Bool) (t : FTok) : Bool :=
  if mty then tokX t == 0
  else !(tokX t == 0 && t.extractLsb' 0 32 != 0#32 && t.extractLsb' 0 32 != 0x80000000#32)

/-- The token a mistyped one is folded as. -/
def mergeValue (mty : Bool) (t : FTok) : FTok :=
  if mergeTyped mty t then t &&& 0x03FFFFFFFFFF#48 else if mty then 0#48 else Num.xfNaN

/-- Fold one token into its position. -/
def MergePos.fold (p : MergePos) (mop : Nat) (mty : Bool) (w : Nat) (t : FTok) : MergePos :=
  if tokN t then p
  else
    let v := mergeValue mty t
    let x := Num.xfOf v
    let acc : FTok :=
      if mop = 0 then
        let prod := Num.xfRound .rne (Num.mul (if w = 0 then .zero false else .fin false w (-8)) x)
        if p.any then Num.xfRound .rne (Num.add .rne (Num.xfOf p.acc) (Num.xfOf prod)) else prod
      else if !p.any then (if !mty && mop != 3 && x == .nan then Num.xfNaN else v)
      else if mty then
        let a := Num.intOf p.acc
        let b := Num.intOf v
        if mop = 1 then (if a < b then v else p.acc) else (if b < a then v else p.acc)
      else
        let a := Num.xfOf p.acc
        if a = .nan || x = .nan then Num.xfNaN
        else if mop = 1 then (if Num.ltz a x then v else p.acc) else (if Num.ltz x a then v else p.acc)
    { acc := acc, isum := p.isum + (w : Int) * Num.intOf v, wsum := p.wsum + w, last := v, any := true }

/-- Divide an integer by a natural, to nearest with ties to even. -/
def divRne (n : Int) (d : Nat) : Int :=
  let q := n / (d : Int)
  let r := (n % (d : Int)).toNat
  if 2 * r > d || (2 * r == d && q % 2 == 1) then q + 1 else q

/-- The value a position gives when the merge closes. -/
def MergePos.value (p : MergePos) (mop : Nat) (mty : Bool) : FTok :=
  if !p.any then tokNull 0#4
  else if mop = 3 then p.last
  else if mop = 0 then
    if p.wsum = 0 then p.last
    else if mty then Num.intTok (Num.clampInt (-2147483648) 2147483647 (divRne p.isum p.wsum))
    else match Num.xfOf p.acc with
      | .fin s n e => Num.xfRound .rne (Num.divSticky 40 s n p.wsum (e + 8))
      | x => Num.xfRound .rne x
  else p.acc

/-- close_merge() of R67. A merge that closes while no streak is open, by an arrival that completes late, has the pending losses placed
ahead of its record (R69). -/
def VOut.closeMerge (o : VOut) (d : Queue) : VOut :=
  if o.v.mcnt = 0 then o
  else
    let o := if !o.v.stk && decide (o.v.occ < d.c) then o.gap d else o
    let r : QRec :=
      { toks := tokBit (recWeight o.v.mhead o.v.mweight) 33 ::
          o.v.merge.map (fun p => tokOn (p.value d.mop d.mty) (tokCh o.v.mhead)),
        done := true, id := 0, ord := 0 }
    let v := if o.v.occ < d.c then o.v.push d false none r else o.v.lose o.v.mcnt o.v.mweight
    { o with v := { v with mcnt := 0, mweight := 0, merge := [] } }

/-- The fold of a completed record (R67, R70). The CH, SAMP and NAR of the merged record, which no rule gives, are those of the last
folded arrival's REC (DESIGN CHOICE, log entry 56). -/
def VOut.fold (o : VOut) (d : Queue) (f : Folding) : VOut :=
  let data := f.toks.drop 1
  let o := if o.v.mcnt > 0 && o.v.merge.length != data.length then o.closeMerge d else o
  let base : List MergePos := if o.v.mcnt = 0 then data.map (fun _ => default) else o.v.merge
  let bad := (data.filter (fun t => !tokN t && !mergeTyped d.mty t)).length
  let sum := o.v.mweight + f.weight
  let v := { o.v with
    merge := (base.zip data).map (fun x => x.1.fold d.mop d.mty f.weight x.2)
    mcnt := o.v.mcnt + 1
    mweight := min 0xFFFFFF sum
    wsat := if sum > 0xFFFFFF then satAdd 0xFFFF o.v.wsat 1 else o.v.wsat
    badctl := satAdd 0xFFFF o.v.badctl bad
    mhead := f.toks.headD 0#48
    adm := satAdd (2 ^ 32 - 1) o.v.adm 1 }
  let o := { o with v := v }
  if o.v.mcnt ≥ d.pn + 1 then o.closeMerge d else o

/-! ### Narrowing (R71) -/

/-- The format of an NFMT code. -/
def narrowFmt (n : Nat) : FloatFmt :=
  if n = 0 then .fp16 else if n = 1 then .bf16 else if n = 2 then .e4m3 else .e5m2

/-- A data token as NARROW stores it, widened back. -/
def narrowTok (nfmt : Nat) (t : FTok) : FTok :=
  if tokN t then t
  else if tokX t = 0 then
    let lo := t.extractLsb' 0 32
    if lo = 0#32 || lo = 0x80000000#32 then t
    else
      let b : Int := if nfmt < 2 then 32768 else 128
      (t &&& 0xFFFF00000000#48) ||| Num.intTok (Num.clampInt (-b) (b - 1) (Num.intOf t))
  else
    let f := narrowFmt nfmt
    tokOn (Num.xfRound .rne (f.decode (f.encode (nfmt == 2) .rne (Num.xfOf t)).1)) (tokCh t)

/-! ### Streaks and the judgement of a record (R67, R69) -/

/-- The end of a streak, in the order of R69. -/
def VOut.endStreak (o : VOut) (d : Queue) : VOut :=
  let o := o.closeMerge d
  let o := if d.pol = 2 && !d.smode && o.v.scnt > 0 then
      { o with v := o.v.lose o.v.scnt o.v.tgw } else o
  let o := { o with v := { o.v with scnt := 0, tgw := 0, stk := false } }
  o.gap d

/-- What precedes an entry: the end of an open streak, else the pending losses as a GAP (R69). -/
def VOut.before (o : VOut) (d : Queue) : VOut :=
  if o.v.stk then o.endStreak d else o.gap d

/-- Count an admission. -/
def VOut.counted (o : VOut) : VOut :=
  { o with adm := true, v := { o.v with adm := satAdd (2 ^ 32 - 1) o.v.adm 1 } }

/-- Place a record as a plain entry. -/
def VOut.place (o : VOut) (d : Queue) (r : QRec) : VOut :=
  VOut.counted { o with v := o.v.push d false none r }

/-- A sample survivor, placed or lost (R67). -/
def VOut.survivor (o : VOut) (d : Queue) (r : QRec) (w cnt : Nat) (placed : Bool) : VOut :=
  let x := o.v.wmul w cnt
  let o := { o with v := { x.2 with tgw := 0 } }
  if placed then
    let toks := match r.toks with
      | t :: ts => tokBit (recWeight t x.1) 34 :: ts
      | [] => []
    (o.place d { r with toks := toks }).log d r.ord 2
  else VOut.log { o with v := o.v.lose cnt x.1 } d r.ord 7

/-- Evict the oldest record of a view (R67 DROP-OLD, R74): one record of the oldest entry, whose slot is freed with its last record. A
record that arrived before the MARK of the last complete wave has no ordinal any more, and its eviction no log entry (DESIGN CHOICE,
log entry 57). -/
def VOut.evict (o : VOut) (d : Queue) : VOut :=
  match o.v.ents with
  | [] => o
  | e :: es =>
    match e.recs with
    | [] => o
    | r :: rs =>
      let v := { o.v with
        hgc := satAdd 0xFFFFFF o.v.hgc 1
        hgw := satAdd (2 ^ 48 - 1) o.v.hgw (tokArg (r.toks.headD 0#48))
        pos := 0 }
      let v := if rs.isEmpty then QView.reseat { v with ents := es, occ := v.occ - 1 } d
               else { v with ents := { e with recs := rs } :: es }
      if r.aged then { o with v := v } else VOut.log { o with v := v } d r.ord 6

/-- A record to the spill ring, the pending losses ahead of it (R69, R72). The GAP may take the ring's last entry, as one may take a
view's last record slot (R67): the record then finds the ring full (DEDUCED, log entry 56). -/
def VOut.spill (o : VOut) (d : Queue) (r : QRec) (w : Nat) : VOut :=
  let o := { o with v := { o.v with spl := true } }
  let o := if o.v.spill.length < d.ringEnts then o.gap d else o
  if o.v.spill.length < d.ringEnts then VOut.log (VOut.counted { o with v := o.v.ringPut d r }) d r.ord 8
  else VOut.log { o with v := o.v.lose 1 w, errs := o.errs ++ [0x08] } d r.ord 1

/-- Fold an arrival, when it is complete, into the open merge. -/
def VOut.folding (o : VOut) (d : Queue) (r : QRec) (w : Nat) : VOut :=
  VOut.log { o with adm := true, v := { o.v with folding := o.v.folding ++ [{ id := r.id, weight := w, toks := r.toks }] } }
    d r.ord 4

/-- Narrow an arrival into the newest narrow group or a new one (R67); `must` where a log has decided so (R77). -/
def VOut.narrow (o : VOut) (d : Queue) (r : QRec) (w : Nat) (must : Bool) : VOut :=
  let r := { r with toks := match r.toks with
    | t :: ts => tokBit t 32 :: ts
    | [] => [] }
  match o.v.ents.getLast? with
  | some e =>
    if e.nar == some d.nfmt && decide (e.recs.length < narrowCount d.nfmt) then
      VOut.log (VOut.counted { o with v := { o.v with ents := o.v.ents.dropLast ++ [{ e with recs := e.recs ++ [r] }] } }) d r.ord 5
    else if must || decide (o.v.occ < d.c) then VOut.log (VOut.counted { o with v := o.v.push d false (some d.nfmt) r }) d r.ord 5
    else VOut.log { o with v := o.v.lose 1 w } d r.ord 1
  | none =>
    if must || decide (o.v.occ < d.c) then VOut.log (VOut.counted { o with v := o.v.push d false (some d.nfmt) r }) d r.ord 5
    else VOut.log { o with v := o.v.lose 1 w } d r.ord 1

/-- The judgement of R67 by the queue's policy, inside a streak. Under DROP-OLD an oldest entry that is claimed, or partly pulled at a read port, stands like a
marker (R286). -/
def VOut.policy (o : VOut) (d : Queue) (r : QRec) (w : Nat) : VOut :=
  let n := d.pn + 1
  match d.pol with
  | 0 => VOut.log { o with v := o.v.lose 1 w } d r.ord 1
  | 1 =>
    match o.v.ents with
    | e :: _ =>
      if e.marker || decide (0 < o.v.claim) || decide (0 < o.v.pos) then VOut.log { o with v := o.v.lose 1 w } d r.ord 1
      else
        let o := o.evict d
        if o.v.occ < d.c then o.place d r else VOut.log { o with v := o.v.lose 1 w } d r.ord 1
    | [] => VOut.log { o with v := o.v.lose 1 w } d r.ord 1
  | 2 =>
    if d.smode then
      let xs := xorshift32 o.v.xs
      let o := { o with v := { o.v with xs := xs } }
      if xs.toNat / 2 ^ (32 - Nat.log2 n) = 0 then o.survivor d r w n (decide (o.v.occ < d.c)) else o.log d r.ord 3
    else
      let i := o.v.scnt
      let o := { o with v := { o.v with scnt := (i + 1) % n } }
      if i = n - 1 then o.survivor d r w n (decide (o.v.occ < d.c))
      else VOut.log { o with v := { o.v with tgw := satAdd (2 ^ 32 - 1) o.v.tgw w } } d r.ord 3
  | 3 => o.folding d r w
  | 4 => o.narrow d r w false
  | _ => o.spill d r w

/-- The first record judged by the policy opens a streak (R67). -/
def VOut.streak (o : VOut) (d : Queue) : VOut :=
  if o.v.stk || d.pol == 5 then o else { o with v := { o.v with stk := true, scnt := 0, tgw := 0 } }

/-- An arrival with OCC ≥ T: the first opens a streak (R67); SPILL opens spilling instead (R72). -/
def VOut.overload (o : VOut) (d : Queue) (r : QRec) (w : Nat) : VOut := (o.streak d).policy d r w

/-- The decision that a shed log holds for an ordinal: an eviction, where the arrival it names was logged for another too. -/
def logged (l : List (Nat × Nat)) (ord : Nat) : Option Nat :=
  if l.contains (ord, 6) then some 6 else (l.find? (fun x => x.1 == ord)).map (·.2)

/-- Plain admission: what precedes the entry, then its slot, or the policy where the GAP left none (R67). -/
def VOut.plain (o : VOut) (d : Queue) (r : QRec) (w : Nat) : VOut :=
  let o := o.before d
  if o.v.occ < d.c then o.place d r else o.overload d r w

/-- Where SAMPLE stands after it has judged a replayed record: the next place in the group, or the generator's next step (R67, R68). -/
def VOut.sampled (o : VOut) (d : Queue) : VOut :=
  if d.smode then { o with v := { o.v with xs := xorshift32 o.v.xs } }
  else { o with v := { o.v with scnt := (o.v.scnt + 1) % (d.pn + 1) } }

/-- The logged decision of a replayed arrival, whatever the occupancy (R77): a decision of the policy opens a streak as before, so that
the same gaps end it. While the view spills, an arrival admitted plainly follows the others into the ring. A replayed entry that finds
every slot taken is placed all the same, because the view is to deliver the same records (DESIGN CHOICE, log entry 57). -/
def VOut.replay (o : VOut) (d : Queue) (r : QRec) (w : Nat) : VOut :=
  let n := d.pn + 1
  match logged o.v.rlog r.ord with
  | some 1 => let o := o.streak d; VOut.log { o with v := o.v.lose 1 w } d r.ord 1
  | some 2 => ((o.streak d).sampled d).survivor d r w n true
  | some 3 =>
    let o := (o.streak d).sampled d
    VOut.log { o with v := { o.v with tgw := if d.smode then o.v.tgw else satAdd (2 ^ 32 - 1) o.v.tgw w } } d r.ord 3
  | some 4 => (o.streak d).folding d r w
  | some 5 => (o.streak d).narrow d r w true
  | some 6 => VOut.log { o with v := o.v.lose 1 w } d r.ord 6
  | some 7 => ((o.streak d).sampled d).survivor d r w n false
  | some _ => o.spill d r w
  | none => if o.v.spl then o.spill d r w else (o.before d).place d r

/-- The judgement of one arriving record in one view (R67, R72, R77). -/
def QView.judge (v : QView) (d : Queue) (toks : List FTok) (id : Nat) : VOut :=
  let w := tokArg (toks.headD 0#48)
  let r : QRec := { toks := toks, done := false, id := id, ord := v.ord }
  let o := VOut.of { v with ord := v.ord + 1 }
  if r.ord < v.replayTo then o.replay d r w
  else if v.spl then o.spill d r w
  else if v.occ < d.t then o.plain d r w
  else o.overload d r w

/-- A marker reaches a view (R65, R69, R76). With the MARK of the wave in flight, the ordinal of the next arrival is kept: an interval
begins there once the wave is complete. -/
def QView.mark (v : QView) (d : Queue) (toks : List FTok) (wave : Bool) : VOut :=
  let o := (VOut.of { v with ord := v.ord + 1 }).before d
  let o := (o.marker d { toks := toks, done := true, id := 0, ord := v.ord } false).1
  if wave then { o with v := { o.v with ordMark := o.v.ord } } else o

/-! ### The queue as the machine holds it -/

/-- Virtual address of a view's spill ring (R60). -/
def Queue.ringVa (d : Queue) (view : Nat) : Nat := d.sbase.toNat * 0x10000 + view * d.slim * 65536
/-- Virtual address of a view's shed log (R60). -/
def Queue.logVa (d : Queue) (view : Nat) : Nat :=
  d.sbase.toNat * 0x10000 + (d.nv + 1) * d.slim * 65536 + view * d.llim * 1024

/-- The AG path of a queue's memory tile, under the queue's ASID (R72). -/
def Queue.actor (s : State) (core : Nat) (d : Queue) (gated : Bool) : Actor :=
  { core := core, path := .ag, asid := d.asid, gen := genOf s d.asid, rid := if gated then d.rid else 0 }

/-- The image of a ring entry (R72). -/
def spillImage (r : QRec) : List Byte :=
  let marker := !isRec (r.toks.headD 0#48)
  leBytes 8 ((if marker then 2 else 1) * 2 ^ 56 + r.toks.length) ++ (r.toks.map (fun t => leBytes 8 t.toNat)).flatten

/-- Write a completed ring entry's image; a fault on the ring raises its region error and the record is lost. -/
def spillWrite (s : State) (core n view : Nat) (r : QRec) : State :=
  let k := queueKey core n
  let d := s.qu.queues.at k
  let va := d.ringVa view + r.at_ * d.slotBytes
  let x := memWrite s (d.actor s core true) va (spillImage r)
  match x.1 with
  | none => x.2
  | some f =>
    let s := f.raise x.2 d.rid core
    let d := s.qu.queues.at k
    let v := d.views.at view
    let v := if isRec (r.toks.headD 0#48) then v.lose 1 (tokArg (r.toks.headD 0#48)) else v
    let v := QView.reseat { v with spill := v.spill.filter (fun y => y.at_ != r.at_) } d
    { s with qu.queues := s.qu.queues.set k { d with views := d.views.set view v } }

/-- Write shed-log entries to the view's log in memory (R76; not gated, R388), from a place in it on. The entries in use stand one after
another from where the oldest stands, around the end of the log (DESIGN CHOICE, log entry 57). -/
def logWrite (s : State) (core n view at0 : Nat) : List (Nat × Nat) → State
  | [] => s
  | (ord, kind) :: ls =>
    let d := s.qu.queues.at (queueKey core n)
    let x := memWrite s (d.actor s core false) (d.logVa view + 4 * (at0 % (d.llim * 256))) (leBytes 4 (ord * 256 + kind))
    let s := match x.1 with
      | none => x.2
      | some f => f.raise x.2 d.rid core
    logWrite s core n view (at0 + 1) ls

/-! ### Storage (R60) -/

/-- Where byte o of a queue's storage stands: bank BANK + o / 32,768, bank-local address o mod 32,768. -/
def Queue.storageAt (core : Nat) (d : Queue) (o : Nat) : Nat := bankAddr core (d.bank + o / 0x8000) (o % 0x8000)

/-- The 8-byte words of a slot that an entry occupies: a word of its form and count and its tokens, as in a ring entry (R72; DEDUCED,
log entry 56); a narrow group, whose form no rule gives, occupies them all. -/
def QEnt.words (d : Queue) (e : QEnt) : Nat :=
  if e.nar.isSome then d.slotBytes / 8 else 1 + ((e.recs.map (fun r => r.toks.length)).foldl (· + ·) 0)

/-- Word i of slot j of a view. -/
def Queue.slotWord (core : Nat) (d : Queue) (view j i : Nat) : Nat := d.storageAt core ((view * d.slots + j) * d.slotBytes + 8 * i)

/-- The words of a view's entries that have been written since are no longer poisoned (R50). -/
def slotsWritten (s : State) (core : Nat) (d : Queue) (view : Nat) (old new : QView) : State :=
  if s.st.poison.isEmpty then s
  else { s with st.poison := s.st.poison.filter (fun w =>
    !new.ents.any (fun e =>
      let n0 := match old.ents.find? (fun x => x.slot == e.slot) with | some x => x.words d | none => 0
      (List.range (e.words d)).any (fun i => decide (n0 ≤ i) && d.slotWord core view e.slot i == w))) }

/-- The entry that holds the k-th oldest record. -/
def entryAt : Nat → List QEnt → Option QEnt
  | _, [] => none
  | k, e :: es => if k < max 1 e.recs.length then some e else entryAt (k - max 1 e.recs.length) es

/-- A poisoned word of the storage of a view's readable entry k, the head gap counted as one that has no storage (R50, R60). -/
def readPoison (s : State) (core n view k : Nat) : Option Nat :=
  let d := s.qu.queues.at (queueKey core n)
  let v := d.views.at view
  if s.st.poison.isEmpty || (v.hgc != 0 && k == 0) then none
  else match entryAt (if v.hgc = 0 then k else k - 1) v.ents with
  | none => none
  | some e => s.st.poison.find? (fun w => (List.range (e.words d)).any (fun i => d.slotWord core view e.slot i == w))

/-- Put a judged view back: its state, the images of the markers that it spilled, its log entries and its region errors. -/
def viewStore (s : State) (core n view : Nat) (o : VOut) : State :=
  let k := queueKey core n
  let d := s.qu.queues.at k
  let v := d.views.at view
  let at0 := v.logAt + v.lgn
  let s := slotsWritten s core d view v o.v
  let s := { s with qu.queues := s.qu.queues.set k { d with views := d.views.set view o.v } }
  let s := (o.v.spill.drop v.spill.length).foldl (fun s r => if r.done then spillWrite s core n view r else s) s
  let s := logWrite s core n view at0 o.logs
  o.errs.foldl (fun s e => regionErrorAt s d.rid e (tileLoc core (d.bank / 24)) (8 + d.bank / 24) [BitVec.ofNat 64 n, BitVec.ofNat 64 view,
    BitVec.ofNat 64 o.v.mkovf]) s

/-- Apply a function to each view of a queue, in ascending view order (R75); the answer says whether any
view admitted the arrival. -/
def eachView (f : QView → Queue → VOut) (core n : Nat) : List Nat → State → Bool × State
  | [], s => (false, s)
  | v :: vs, s =>
    let d := s.qu.queues.at (queueKey core n)
    let o := f (d.views.at v) d
    let r := eachView f core n vs (viewStore s core n v o)
    (o.adm || r.1, r.2)

/-- The views of a queue. -/
def Queue.viewList (d : Queue) : List Nat := List.range (d.nv + 1)

/-- A record of a view that an arrival is. -/
def entSet (id : Nat) (f : QRec → QRec) (es : List QEnt) : List QEnt :=
  es.map (fun e => { e with recs := e.recs.map (fun r => if r.id == id && id != 0 then f r else r) })

/-- A data token joins the arrival `id` in a view; a narrowed record stores it narrowed. -/
def QView.addTok (v : QView) (d : Queue) (id : Nat) (t : FTok) : QView :=
  let _ := d
  { v with
    ents := v.ents.map (fun e => { e with recs := e.recs.map (fun r =>
      if r.id == id && id != 0 then
        { r with toks := r.toks ++ [match e.nar with | some f => narrowTok f t | none => t] }
      else r) })
    spill := v.spill.map (fun r => if r.id == id && id != 0 then { r with toks := r.toks ++ [t] } else r)
    folding := v.folding.map (fun f => if f.id == id then { f with toks := f.toks ++ [t] } else f) }

/-- Does a view hold the arrival anywhere? -/
def QView.holds (v : QView) (id : Nat) : Bool :=
  v.ents.any (fun e => e.recs.any (fun r => r.id == id)) || v.spill.any (fun r => r.id == id) ||
    v.folding.any (fun f => f.id == id)

/-- Withdraw an overlong arrival from a view (R63). -/
def QView.withdraw (v : QView) (d : Queue) (id w : Nat) : VOut :=
  if !v.holds id then VOut.of v
  else
    let es := (v.ents.map (fun e => { e with recs := e.recs.filter (fun r => r.id != id) })).filter (fun e => !e.recs.isEmpty)
    let gone := v.ents.length - es.length
    VOut.of ((QView.lose { v with
      ents := es
      occ := v.occ - gone
      spill := v.spill.filter (fun r => r.id != id)
      folding := v.folding.filter (fun f => f.id != id)
      ovl := satAdd 0xFFFF v.ovl 1 } 1 w).reseat d)

/-- Complete an arrival in a view: its record can be read, or it folds (R63, R67). -/
def QView.finish (v : QView) (d : Queue) (id : Nat) : VOut :=
  let v' := { v with
    ents := entSet id (fun r => { r with done := true }) v.ents
    spill := v.spill.map (fun r => if r.id == id then { r with done := true } else r) }
  match v.folding.find? (fun f => f.id == id) with
  | some f => (VOut.of { v' with folding := v'.folding.filter (fun g => g.id != id) }).fold d f
  | none => VOut.of v'

/-- Images of the ring entries that an arrival just completed. -/
def spillDone (s : State) (core n id : Nat) : List Nat → State
  | [] => s
  | v :: vs =>
    let d := s.qu.queues.at (queueKey core n)
    let sp := (d.views.at v).spill
    let s := match sp.find? (fun x => x.id == id && id != 0) with
      | some x => spillWrite s core n v x
      | none => s
    spillDone s core n id vs

/-- Change the list of arrivals in progress. -/
def qOpens (s : State) (core n : Nat) (f : List QOpen → List QOpen) : State :=
  let k := queueKey core n
  let d := s.qu.queues.at k
  { s with qu.queues := s.qu.queues.set k { d with opens := f d.opens } }

/-- Count a refused control code or an ill-formed GAP in every view (R64). -/
def qBadctl (s : State) (core n : Nat) : State :=
  let d := s.qu.queues.at (queueKey core n)
  (eachView (fun v _ => VOut.of { v with badctl := satAdd 0xFFFF v.badctl 1 }) core n d.viewList s).2

/-- A queue's share of a wave's snapshot, as its MARK is placed (R77). -/
def queueSnap (s : State) (core n : Nat) : State :=
  let d := s.qu.queues.at (queueKey core n)
  if d.rid = 0 then s
  else regUpd s d.rid (fun r => { r with cur := { r.cur with queues := r.cur.queues.set (queueKey core n) d } })

/-- The fields a qpol word sets (R80, R283); the other fields keep their values. -/
def Queue.withPol (d : Queue) (w : Word) : Queue :=
  { d with
    pol := (w.extractLsb' 60 4).toNat
    smode := w.getLsbD 59
    mop := (w.extractLsb' 56 3).toNat
    mty := w.getLsbD 55
    nfmt := (w.extractLsb' 52 3).toNat
    pn := (w.extractLsb' 44 8).toNat
    seed := w.extractLsb' 0 32 }

/-- A waiting qpol takes effect: open streaks end under the old policy (R80). -/
def qApplyPol (s : State) (core n : Nat) : State :=
  let k := queueKey core n
  let d := s.qu.queues.at k
  match d.pol1 with
  | none => s
  | some w =>
    let s := (eachView (fun v d => if v.stk then (VOut.of v).endStreak d else VOut.of v) core n d.viewList s).2
    let d := s.qu.queues.at k
    { s with qu.queues := s.qu.queues.set k { d.withPol w with pol1 := none } }

/-- Is a token the MARK of the wave that a queue's region has in flight? -/
def waveMark (s : State) (d : Queue) (t : FTok) : Bool :=
  let r := regionOf s d.rid
  d.rid != 0 && r.inFlight && tokC t && tokCode t == 6 && tokArg t == r.waveId % 2 ^ 24

/-- Place a marker in every view, a waiting qpol having taken effect (R64, R65, R75, R80). -/
def qMarker (s : State) (core n : Nat) (toks : List FTok) : State :=
  let s := qApplyPol s core n
  let d := s.qu.queues.at (queueKey core n)
  let w := waveMark s d (toks.headD 0#48)
  let s := (eachView (fun v d => v.mark d toks w) core n d.viewList s).2
  if w then queueSnap s core n else s

/-- The arrival in progress of a source ends: a record is complete; a GAP without its weight token takes the
canonical NaN (R63, R64). -/
def qEnd (s : State) (core n src : Nat) : State :=
  let d := s.qu.queues.at (queueKey core n)
  match d.opens.find? (fun o => o.src == src) with
  | none => s
  | some o =>
    let s := qOpens s core n (fun os => os.filter (fun x => x.src != src))
    if o.gap then qMarker (qBadctl s core n) core n [o.tok, tokOn Num.xfNaN (tokCh o.tok)]
    else if o.dead then s
    else
      let s := (eachView (fun v d => v.finish d o.id) core n d.viewList s).2
      spillDone s core n o.id d.viewList

/-- A REC reaches a queue: the source's arrival in progress ends, and the record is judged in every view (R67,
R75). The answer says whether any view admitted it. -/
def qRecord (s : State) (core n src : Nat) (t : FTok) : Bool × State :=
  let s := qApplyPol (qEnd s core n src) core n
  let id := s.sim.seqNo + 1
  let s := { s with sim.seqNo := id }
  let d := s.qu.queues.at (queueKey core n)
  let r := eachView (fun v d => v.judge d [t] id) core n d.viewList s
  (r.1, qOpens r.2 core n (fun os => os ++
    [{ src := src, id := id, ndata := 0, weight := tokArg t, dead := false, gap := false, tok := t }]))

/-- The implied REC of a data token with no open record (R63). -/
def impliedRec (t : FTok) : FTok := ctlTok (tokCh t) 8 0x100

/-- A data token of an open arrival (R63, R64). -/
def qDataOpen (s : State) (core n : Nat) (o : QOpen) (t : FTok) : State :=
  let d := s.qu.queues.at (queueKey core n)
  if o.gap then
    qMarker (qOpens s core n (fun os => os.filter (fun x => x.src != o.src))) core n [o.tok, t]
  else if o.dead then s
  else if o.ndata = d.len + 1 then
    let s := (eachView (fun v d => v.withdraw d o.id o.weight) core n d.viewList s).2
    qOpens s core n (fun os => os.map (fun x => if x.src == o.src then { x with dead := true } else x))
  else
    let s := (eachView (fun v d => VOut.of (v.addTok d o.id t)) core n d.viewList s).2
    qOpens s core n (fun os => os.map (fun x => if x.src == o.src then { x with ndata := x.ndata + 1 } else x))

/-- A data token reaches a queue (R63); the answer counts the record it opens, where it is admitted. -/
def qData (s : State) (core n src : Nat) (t : FTok) : Bool × State :=
  let d := s.qu.queues.at (queueKey core n)
  match d.opens.find? (fun o => o.src == src) with
  | some o => (false, qDataOpen s core n o t)
  | none =>
    let r := qRecord s core n src (impliedRec t)
    let d := r.2.qu.queues.at (queueKey core n)
    match d.opens.find? (fun o => o.src == src) with
    | some o => (r.1, qDataOpen r.2 core n o t)
    | none => r

/-- A control token that is not a REC reaches a queue (R64): a marker, a GAP that waits for its weight token, or a
code that no queue takes. -/
def qControl (s : State) (core n src : Nat) (t : FTok) : State :=
  let s := qApplyPol (qEnd s core n src) core n
  let d := s.qu.queues.at (queueKey core n)
  let c := tokCode t
  if c = 7 then
    qOpens s core n (fun os => os ++ [{ src := src, id := 0, ndata := 0, weight := 0, dead := false, gap := true, tok := t }])
  else if c = 1 || c = 2 || c = 3 || c = 5 || c = 6 then qMarker s core n [t]
  else regionError (qBadctl s core n) d.rid 0x06 (tileLoc core (d.bank / 24)) [BitVec.ofNat 64 n, 0#64, t.setWidth 64]

/-- The automatic MARK of a queue that control threads produce is placed once its midpoint is reached (R388). -/
def qAuto (s : State) (core n src : Nat) : State :=
  let k := queueKey core n
  let d := s.qu.queues.at k
  match d.autoAt with
  | some m =>
    if src < 8 && decide (m ≤ (d.views.at 0).ord) then
      qMarker { s with qu.queues := s.qu.queues.set k { d with autoAt := none } } core n [ctlTok d.ch 6 0xFFFFFF]
    else s
  | none => s

/-- The channel of the GAPs that a queue places itself is its fabric producer's, which its tokens bear; it is 0 where control
threads produce (R63, R433). -/
def qChannel (s : State) (core n : Nat) (t : FTok) : State :=
  let k := queueKey core n
  let d := s.qu.queues.at k
  if d.prod == .fabric then { s with qu.queues := s.qu.queues.set k { d with ch := tokCh t } } else s

/-- One token reaches the views of a queue whose descriptor is valid; the answer counts admitted records. -/
def qViews (s : State) (core n src : Nat) (t : FTok) : Nat × State :=
  let s := qChannel (qAuto s core n src) core n t
  let d := s.qu.queues.at (queueKey core n)
  if !d.v then (0, s)
  else if !tokC t then let r := qData s core n src t; (if r.1 then 1 else 0, r.2)
  else if tokCode t = 8 then let r := qRecord s core n src t; (if r.1 then 1 else 0, r.2)
  else (0, qControl s core n src t)

/-! ### The debug area (R395) -/

/-- Bytes of a debug area. -/
def dbgSize : Nat := 0x100000

/-- Does the next arrival at a queue go to the debug area: its region's slot is halted, or entries of the queue still stand there,
and the area has room for one? -/
def dbgTakes (s : State) (core n : Nat) : Bool :=
  let g := s.ctl.dbga.at core
  let k := s.rg.slots.at (slotIx core g.slot.toNat)
  let d := s.qu.queues.at (queueKey core n)
  d.v && d.rid != 0 && k.rid == d.rid && (k.halted || g.ents.any (fun e => e.q == n)) && decide (g.used + d.slotBytes ≤ dbgSize)

def dbgUpd (s : State) (core : Nat) (f : List DbgEnt → List DbgEnt) : State :=
  { s with ctl.dbga := s.ctl.dbga.upd core (fun g => { g with ents := f g.ents }) }

/-- An entry is complete: its image is written, in the form of a ring entry (R72). A fault loses the record. -/
def dbgDone (s : State) (core n src : Nat) : State :=
  let g := s.ctl.dbga.at core
  match g.ents.find? (fun e => e.q == n && e.src == src && !e.done) with
  | none => s
  | some e =>
    let d := s.qu.queues.at (queueKey core n)
    let r : QRec := { toks := e.toks, done := true, id := 0, ord := 0 }
    let x := memWrite s (d.actor s core false) (g.area.toNat + e.off) (spillImage r)
    match x.1 with
    | none => dbgUpd x.2 core (fun es => es.map (fun y => if y == e then { y with done := true } else y))
    | some f =>
      let s := f.raise (dbgUpd x.2 core (fun es => es.filter (· != e))) d.rid core
      if isRec (e.toks.headD 0#48) then
        (eachView (fun v _ => VOut.of (v.lose 1 (tokArg (e.toks.headD 0#48)))) core n d.viewList s).2
      else s

/-- A new entry of the area. -/
def dbgNew (s : State) (core n src : Nat) (ts : List FTok) : State :=
  let d := s.qu.queues.at (queueKey core n)
  { s with ctl.dbga := s.ctl.dbga.upd core (fun g => { g with
      used := g.used + d.slotBytes
      ents := g.ents ++ [{ q := n, src := src, toks := ts, done := false, long := false, off := g.used }] }) }

/-- A data token of an entry that is not complete; the weight token of a GAP completes it. -/
def dbgData (s : State) (core n src : Nat) (e : DbgEnt) (t : FTok) : State :=
  let d := s.qu.queues.at (queueKey core n)
  let full := decide (d.len + 2 ≤ e.toks.length)
  let s := dbgUpd s core (fun es => es.map (fun y =>
    if y == e then (if full then { y with long := true } else { y with toks := y.toks ++ [t] }) else y))
  if isRec (e.toks.headD 0#48) then s else dbgDone s core n src

/-- One token reaches a queue; the answer counts admitted records. Where a debugger has halted the queue's region, the debug area
takes it as SPILL's ring would (R395); an arrival that began before goes on in the views. -/
def qToken (s : State) (core n src : Nat) (t : FTok) : Nat × State :=
  let g := s.ctl.dbga.at core
  match g.ents.find? (fun e => e.q == n && e.src == src && !e.done), tokC t with
  | some e, false => (0, dbgData s core n src e t)
  | _, c =>
    let s := dbgDone s core n src
    if !dbgTakes s core n then qViews s core n src t
    else if !c then
      if (s.qu.queues.at (queueKey core n)).opens.any (fun o => o.src == src) then qViews s core n src t
      else
        (1, dbgNew s core n src [impliedRec t, t])
    else
      let s := qEnd s core n src
      let s := dbgNew s core n src [t]
      if tokCode t = 7 then (0, s) else if tokCode t = 8 then (1, s) else (0, dbgDone s core n src)

/-- The tokens of a ring image (R72). -/
def imageToks : List Byte → Nat → List FTok
  | _, 0 => []
  | bs, n + 1 => BitVec.ofNat 48 (leNat (bs.take 8)) :: imageToks (bs.drop 8) n

/-- The oldest ring entry moves into the view's slots while OCC < C; SPL clears when the ring is empty (R72). -/
def spillRefill (s : State) (core n view : Nat) : State :=
  let k := queueKey core n
  let d := s.qu.queues.at k
  let v := d.views.at view
  match v.spill with
  | [] => { s with qu.queues := s.qu.queues.set k { d with views := d.views.set view { v with spl := false } } }
  | r :: rest =>
    if !v.spl || v.occ ≥ d.c || !r.done then s
    else
      let va := d.ringVa view + r.at_ * d.slotBytes
      let x := memRead s (d.actor s core true) va d.slotBytes
      let pop (v : QView) : QView := QView.reseat { v with spill := rest, sph := (r.at_ + 1) % d.ringEnts } d
      match x.1 with
      | .inl f =>
        let s := f.raise x.2 d.rid core
        let v := pop v
        let v := if isRec (r.toks.headD 0#48) then v.lose 1 (tokArg (r.toks.headD 0#48)) else v
        { s with qu.queues := s.qu.queues.set k { d with views := d.views.set view v } }
      | .inr bs =>
        let nt := leNat (bs.take 8) % 65536
        let toks := imageToks (bs.drop 8) nt
        viewStore x.2 core n view (VOut.of ((pop v).push d (!isRec (toks.headD 0#48)) none { r with toks := toks, at_ := 0 }))

/-- The oldest entry of a debug area whose queue can take it: complete, first of its queue, and every view below C. -/
def dbgNext (s : State) (core : Nat) : Option DbgEnt :=
  let g := s.ctl.dbga.at core
  (g.ents.filter (fun e => e.done)).find? (fun e =>
    let d := s.qu.queues.at (queueKey core e.q)
    (g.ents.find? (fun y => y.q == e.q)) == some e &&
      (!d.v || d.viewList.all (fun v => decide ((d.views.at v).occ < d.c))))

/-- An entry returns to the views of its queue, which take it without overload (R395). An entry of a queue that is gone goes too.
An empty area begins again at its start. -/
def dbgReturn (s : State) (core : Nat) (e : DbgEnt) : State :=
  let k := queueKey core e.q
  let g := s.ctl.dbga.at core
  let d := s.qu.queues.at k
  let s := dbgUpd s core (fun es => es.filter (· != e))
  let s := { s with ctl.dbga := s.ctl.dbga.upd core (fun g => if g.ents.isEmpty then { g with used := 0 } else g) }
  if !d.v || slotRid s core g.slot.toNat != d.rid then s
  else
    let x := memRead s (d.actor s core false) (g.area.toNat + e.off) d.slotBytes
    match x.1 with
    | .inl f =>
      let s := f.raise x.2 d.rid core
      if isRec (e.toks.headD 0#48) then
        (eachView (fun v _ => VOut.of (v.lose 1 (tokArg (e.toks.headD 0#48)))) core e.q d.viewList s).2
      else s
    | .inr bs =>
      let ts := imageToks (bs.drop 8) (leNat (bs.take 8) % 65536)
      let ts := if e.long then ts ++ [0#48] else ts
      let s := { x.2 with qu.queues := x.2.qu.queues.set k { d with t := d.c } }
      let s := qEnd (ts.foldl (fun s t => (qViews s core e.q 9 t).2) s) core e.q 9
      { s with qu.queues := s.qu.queues.upd k (fun y => { y with t := d.t }) }

/-- What a completed wave of the queue's region does to its views: log entries older than its MARK go (R76). -/
def Queue.waveDone (d : Queue) : Queue :=
  { d with views := d.views.map (fun x =>
      let v := x.2
      let m := v.ordMark
      let age (r : QRec) : QRec := { r with aged := r.aged || decide (r.ord < m), ord := r.ord - m }
      let log := (v.log.filter (fun e => decide (m ≤ e.1))).map (fun e => (e.1 - m, e.2))
      if m = 0 then x
      else (x.1, { v with
        ord := v.ord - m, ordMark := 0
        log := log, lgn := log.length, logAt := (v.logAt + (v.log.length - log.length)) % max 1 (d.llim * 256)
        rlog := (v.rlog.filter (fun e => decide (m ≤ e.1))).map (fun e => (e.1 - m, e.2)), replayTo := v.replayTo - m
        ents := v.ents.map (fun e => { e with recs := e.recs.map age }), spill := v.spill.map age })) }

/-- Rollback of a view (R77): empty, with the saved generator and counters, replaying the logged decisions up to the highest ordinal
judged before; what an earlier rollback left to be replayed is replayed again. LGN and the log begin anew, and replayed decisions are
logged again (DESIGN CHOICE, log entry 57). -/
def QView.rollback (v saved : QView) : QView :=
  { saved with
    rd := 0, wr := 0, occ := 0, stk := false, spl := false, sph := 0, ents := [], spill := [], merge := [],
    folding := [], pgc := 0, pgw := 0, hgc := 0, hgw := 0, scnt := 0, tgw := 0, mcnt := 0, mweight := 0,
    claim := 0, pos := 0, ord := 0
    log := [], lgn := 0, logAt := v.logAt, ordMark := 0
    rlog := v.log ++ v.rlog.filter (fun e => decide (v.ord ≤ e.1))
    replayTo := max v.replayTo v.ord }

/-! ### Definitions (R59–R61) -/

/-- Header bytes 8 to 15 fail R61, for the SLIM and LLIM of the descriptor. -/
def polBad (w : Word) (slim llim : Nat) : Bool :=
  let pol := (w.extractLsb' 60 4).toNat
  let n := (w.extractLsb' 44 8).toNat + 1
  decide (5 < pol) || w.getLsbD 58 || w.getLsbD 54 || w.extractLsb' 32 12 != 0#12 ||
    (pol == 2 && (n == 1 || (w.getLsbD 59 && n != 2 ^ Nat.log2 n))) ||
    (pol == 3 && (n == 1 || decide (16 < n))) ||
    (pol == 5 && slim == 0) || (pol != 5 && llim == 0)

/-- Bytes of a queue's storage (R60). -/
def Queue.storage (d : Queue) : Nat := (d.nv + 1) * d.slots * d.slotBytes

/-- The descriptor that four header words describe; a T of 0 becomes C − 1, or 1 (R59). -/
def Queue.ofWords (w0 w1 w2 w3 : Word) : Queue :=
  let c := (w0.extractLsb' 20 12).toNat
  let t := (w0.extractLsb' 8 12).toNat
  let d : Queue := { (default : Queue) with
    nv := (w0.extractLsb' 53 2).toNat, bank := (w0.extractLsb' 40 8).toNat, nb := (w0.extractLsb' 35 5).toNat
    c := c, t := if t = 0 then (if c ≤ 1 then 1 else c - 1) else t, len := (w0.extractLsb' 0 8).toNat
    sbase := w2.extractLsb' 16 39, slim := (w3.extractLsb' 48 16).toNat, llim := (w3.extractLsb' 40 8).toNat }
  d.withPol w1

/-- The words of a definition fail R61; ASID and V are the hardware's (R371). -/
def queueBad (s : State) (core n : Nat) (w0 w1 w2 w3 : Word) : Bool :=
  let d := Queue.ofWords w0 w1 w2 w3
  d.c = 0 || decide (4093 < d.c) || decide (d.c < d.t) || w0.extractLsb' 48 5 != 0#5 || w0.extractLsb' 32 3 != 0#3 ||
    w2.extractLsb' 55 9 != 0#9 || w2.extractLsb' 0 16 != 0#16 || w3.extractLsb' 0 40 != 0#40 ||
    polBad w1 d.slim d.llim || d.nb = 0 || decide (24 < d.nb) || decide (192 < d.bank + d.nb) ||
    d.bank / 24 != (d.bank + d.nb - 1) / 24 ||
    (List.range d.nb).any (fun i => (s.st.banks.at (bankKey core (d.bank + i))).mode != .fifo) ||
    decide (d.nb * 0x8000 < d.storage) ||
    s.qu.queues.any (fun x => x.1 / 64 == core && x.1 % 64 != n && x.2.v &&
      decide (x.2.bank * 0x8000 < d.bank * 0x8000 + d.storage) && decide (d.bank * 0x8000 < x.2.bank * 0x8000 + x.2.storage))

/-- An accepted definition: empty views, XS at SEED, or 1 where SEED is 0 (R61). -/
def queueDefine (s : State) (core n : Nat) (d : Queue) (asid : BitVec 8) (rid : Nat) (prod : QProd) (cons : List Nat) : State :=
  let v : QView := { (default : QView) with xs := if d.seed = 0#32 then 1#32 else d.seed }
  let d := { d with asid := asid, v := true, rid := rid, prod := prod, cons := cons
                    views := (List.range (d.nv + 1)).map (fun i => (i, v)), opens := [], pol1 := none }
  { s with qu.queues := s.qu.queues.set (queueKey core n) d }

/-! ### Reading a view (R74, R286) -/

/-- The records of a view that are complete, oldest first, up to the first that is not (R63). -/
def QView.ready (v : QView) : List QRec := ((v.ents.map (·.recs)).flatten).takeWhile (·.done)

/-- The readable entries as tokens: the head gap first (R74). -/
def QView.readable (v : QView) (ch : BitVec 4) : List (List FTok) :=
  (if v.hgc = 0 then [] else [[ctlTok ch 7 v.hgc, weightTok ch v.hgw]]) ++ v.ready.map (·.toks)

/-- The oldest entry leaves the view: the head gap, else one record, whose slot is freed with its last record. -/
def QView.pop (v : QView) (d : Queue) : QView :=
  let v := { v with pos := 0 }
  if v.hgc != 0 then { v with hgc := 0, hgw := 0 }
  else match v.ents with
  | [] => v
  | e :: es =>
    if e.recs.length ≤ 1 then QView.reseat { v with ents := es, occ := v.occ - 1 } d
    else { v with ents := { e with recs := e.recs.drop 1 } :: es }

/-- k entries leave a view; where it spills, a refill follows (R72). -/
def viewPop (s : State) (core n view k : Nat) : State :=
  let key := queueKey core n
  let d := s.qu.queues.at key
  let v := (List.range k).foldl (fun v _ => v.pop d) (d.views.at view)
  let s := { s with qu.queues := s.qu.queues.set key { d with views := d.views.set view v } }
  if v.spl && decide (v.occ < d.c) then
    pushEv s .spillRefill { (default : EvArg) with core := BitVec.ofNat 8 core, unit := BitVec.ofNat 12 n, sub := BitVec.ofNat 16 view }
  else s

/-- A change of a view. -/
def viewUpd (s : State) (core n view : Nat) (f : QView → QView) : State :=
  let key := queueKey core n
  let d := s.qu.queues.at key
  { s with qu.queues := s.qu.queues.set key { d with views := d.views.set view (f (d.views.at view)) } }

/-- qadv at commit (R286): the min(n, CLM) oldest entries leave. -/
def viewAdvance (s : State) (core n view k : Nat) : State :=
  let m := min k ((s.qu.queues.at (queueKey core n)).views.at view).claim
  viewUpd (viewPop s core n view m) core n view (fun v => { v with claim := v.claim - m })

/-! ### Who writes and reads a queue (R62, R284, R404) -/

/-- Is a live mailbox of an episode bound to a queue of a core, as its OQ's producer or its AQ's consumer? -/
def mailboxOn (s : State) (core n : Nat) (oq : Bool) : Bool :=
  s.hth.eps.any (fun e => e.2.v && e.2.pdie.toNat * 64 + e.2.pcore.toNat == core && (if oq then e.2.oq else e.2.aq).toNat == n)

/-- Is a context of a region the producer of a queue? -/
def isProducer (s : State) (core n rid : Nat) : Bool :=
  let d := s.qu.queues.at (queueKey core n)
  d.prod == .threads && d.rid == rid && rid != 0 && !mailboxOn s core n true

/-- Are the control threads of a region the consumer of a view? A view's consumer is the word of R371:
bits [15:14] give its kind (0 fabric, 1 copy template, 2 control threads). -/
def isConsumer (s : State) (core n view rid : Nat) : Bool :=
  let d := s.qu.queues.at (queueKey core n)
  d.cons.getD view 0 / 0x4000 == 2 && d.rid == rid && rid != 0 && !(view == 0 && mailboxOn s core n false)

end Sys2Proof.Machine
end

