-- ==== Sys2Proof/Machine/Accum.lean ====
section
/-! DEFINITION. Residual accumulators: sets and rows (R106–R110), the add port (R111–R113), the temper port
(R114–R117), sticky flags (R118), eviction and reload (R119, R120), and their share of a marker wave (R122). -/

namespace Sys2Proof.Machine

/-- Row pitch P (R108). -/
def rowPitch (n : Nat) : Nat := 64 * ((128 + 8 * n + 63) / 64)
/-- Elements per row. -/
def AccSet.n (d : AccSet) : Nat := d.nm1 + 1
/-- The memory tile that holds a set. -/
def AccSet.tile (d : AccSet) : Nat := d.bank / 24

/-- Statuses of the accumulator operations (R109, R111, R114, R116, R120; values of R311). -/
inductive AccSt
  | ok | live | badacc | badeps | overlap | rowopen | notowner | accrow | badrange | streamopen | badimg
  deriving DecidableEq, Repr, Inhabited

def AccSt.code : AccSt → Nat
  | .ok => 0 | .live => 1 | .badacc => 2 | .badeps => 3 | .overlap => 4 | .rowopen => 5 | .notowner => 6
  | .accrow => 7 | .badrange => 8 | .streamopen => 9 | .badimg => 10

/-- The checks of a definition (R109), in order; `resv` says whether a reserved bit is set. -/
def accDefine (s : State) (core a : Nat) (d : AccSet) (resv : Bool) : AccSt :=
  let old := s.ac.sets.at (setKey core a)
  let banks := (List.range d.nb).map (fun i => d.bank + i)
  let lo := d.bank
  let hi := d.bank + d.nb
  if old.v then .live
  else if resv || d.nb = 0 || d.nb > 24 || d.bank / 24 != (d.bank + d.nb - 1) / 24 || d.bank + d.nb > 192 ||
      banks.any (fun b => (s.st.banks.at (bankKey core b)).mode != .accum) || d.nrow = 0 || d.nm1 ≥ 16384 ||
      d.nrow * rowPitch d.n > d.nb * 32768 then .badacc
  else if (match Num.xfOf (d.eps.setWidth 48) with | .nan => true | .inf _ => true | v => Num.sign v) then .badeps
  else if (List.range 16).any (fun b =>
      let o := s.ac.sets.at (setKey core b)
      b != a && o.v && decide (lo < o.bank + o.nb) && decide (o.bank < hi)) then .overlap
  else .ok

/-- An accepted definition: zeroed open rows, no open scope, cleared counters (R109). Rows read as zero and
OPEN until written; `AccRow.shut` marks the closed ones. -/
def accOpenSet (s : State) (core a : Nat) (d : AccSet) : State :=
  let lo := rowKey core a 0
  { s with
    ac.sets := s.ac.sets.set (setKey core a) { d with v := true, opn := 0, radd := 0, trd := 0, ovfn := 0, nfn := 0, poin := 0, nulln := 0, marked := false }
    ac.rows := s.ac.rows.filter (fun x => !(decide (lo ≤ x.1) && decide (x.1 < lo + 65536))) }

/-- A row exists and is open. -/
def rowOpen (s : State) (core a j : Nat) : Bool :=
  let d := s.ac.sets.at (setKey core a)
  d.v && decide (j < d.nrow) && !(s.ac.rows.at (rowKey core a j)).shut

def accUpd (s : State) (core a : Nat) (f : AccSet → AccSet) : State :=
  { s with ac.sets := s.ac.sets.upd (setKey core a) f }

/-- Saturating counters of 16 and 32 bits. -/
def sat16 (x : BitVec 16) (n : Nat) : BitVec 16 := BitVec.ofNat 16 (min 0xFFFF (x.toNat + n))
def sat32 (x : BitVec 32) (n : Nat) : BitVec 32 := BitVec.ofNat 32 (min 0xFFFFFFFF (x.toNat + n))

/-- A finite value as an integer count of 2^k; every finite XA64 value is such a count for k = −181. -/
def fvUnits (k : Int) : FV → Int
  | .fin s n e => Num.toInt s (Num.scale n (e - k))
  | _ => 0

/-- The new S after an element goes from xo to xn: exact, in units of 2^-384 (R112: S + xn² − xo²). -/
def sqNext (sq : Nat) (xo xn : FV) : Int :=
  let a := fvUnits (-181) xo
  let b := fvUnits (-181) xn
  (sq : Int) + (b * b - a * a) * 2 ^ 22

/-- Apply one element of a row add (R112). The answer also counts null tokens and names a new NF or OVF. S and SX are assigned before
their range is tested; of a sum outside it the field keeps the low bits (DEDUCED, log entry 58). -/
structure AddOut where
  row : AccRow
  nulls : Nat
  nf : Bool
  ovf : Bool
  deriving DecidableEq, Repr, Inhabited

def addElem (o : AddOut) (i : Nat) (t : FTok) : AddOut :=
  if t.getLsbD 42 then { o with nulls := o.nulls + 1 }
  else
    let xo := Num.xaOf (o.row.x.at i)
    let w := Num.xaRound (Num.add .rne xo (Num.xfOf t))
    let xn := Num.xaOf w
    let row := { o.row with x := o.row.x.set i w }
    if row.ovf || row.nf then { o with row := row }
    else
      match xn with
      | .nan => { o with row := { row with nf := true }, nf := true }
      | .inf _ => { o with row := { row with nf := true }, nf := true }
      | _ =>
        let sq := sqNext row.sq.toNat xo xn
        let sx := row.sx.toInt + (fvUnits (-181) xn - fvUnits (-181) xo)
        let row := { row with sq := BitVec.ofInt 640 sq, sx := BitVec.ofInt 320 sx }
        if sq ≥ 2 ^ 640 || sx ≥ 2 ^ 319 || sx < -(2 ^ 319) then { o with row := { row with ovf := true }, ovf := true }
        else { o with row := row }

/-- The elements of a row add in ascending index. -/
def addElems (o : AddOut) (i : Nat) : List FTok → AddOut
  | [] => o
  | t :: ts => addElems (addElem o i t) (i + 1) ts

/-- The EXACT image of a row (R108, R119). -/
def rowImage (d : AccSet) (r : AccRow) : List Byte :=
  let rcw := d.nm1 % 16384 * 2 ^ 16 + (if r.shut then 0 else 8) + (if r.poi then 4 else 0) +
    (if r.nf then 2 else 0) + (if r.ovf then 1 else 0)
  leBytes 80 r.sq.toNat ++ leBytes 40 r.sx.toNat ++ leBytes 8 rcw ++
    ((List.range d.n).map (fun i => leBytes 8 (r.x.at i).toNat)).flatten

/-- The first change of a row after its region's MARK writes its image to the snapshot area (R122). -/
def rowSnap (s : State) (core a j : Nat) : State :=
  let d := s.ac.sets.at (setKey core a)
  let r := s.ac.rows.at (rowKey core a j)
  if d.marked && !r.imaged then
    let s := { s with ac.rows := s.ac.rows.set (rowKey core a j) { r with imaged := true } }
    snapRow s d.rid core a j (rowImage d r)
  else s

/-- Store a row. -/
def rowPut (s : State) (core a j : Nat) (r : AccRow) : State :=
  { s with ac.rows := s.ac.rows.set (rowKey core a j) r }

/-- Location of a set and row in a region error's detail. -/
def rowDetail (a j : Nat) : List Word := [BitVec.ofNat 64 a, BitVec.ofNat 64 j]

/-- A piece of a row add on a row that is not poisoned: its elements from `e0` on (R112). -/
def rowAddPart (s : State) (core a j e0 : Nat) (ts : List FTok) : State :=
  let s := rowSnap s core a j
  let d := s.ac.sets.at (setKey core a)
  let o := addElems { row := s.ac.rows.at (rowKey core a j), nulls := 0, nf := false, ovf := false } e0 ts
  let s := rowPut s core a j o.row
  let s := accUpd s core a (fun d => { d with
    nulln := sat16 d.nulln o.nulls
    nfn := sat16 d.nfn (if o.nf then 1 else 0)
    ovfn := sat16 d.ovfn (if o.ovf then 1 else 0) })
  let s := if o.nf then regionError s d.rid 0x0B (coreLoc core) (rowDetail a j) else s
  if o.ovf then regionError s d.rid 0x0A (coreLoc core) (rowDetail a j) else s

/-- Is a row poisoned (R118)? -/
def rowPoisoned (s : State) (core a j : Nat) : Bool := (s.ac.rows.at (rowKey core a j)).poi

/-- A row add on a poisoned row is discarded whole, with the region error POISON (R118). -/
def rowAddPoison (s : State) (core a j : Nat) : State :=
  regionError s (s.ac.sets.at (setKey core a)).rid 0x02 (coreLoc core) (rowDetail a j)

/-- A row add ends: RADD counts it and its row is released (R112, R113). -/
def rowAddEnd (s : State) (core a j : Nat) : State :=
  let s := accUpd s core a (fun d => { d with radd := sat32 d.radd 1 })
  rowPut s core a j { (s.ac.rows.at (rowKey core a j)) with hold := 0 }

/-- The scope of an add opens (R116). -/
def scopeOpen (s : State) (core a scope : Nat) : State :=
  accUpd s core a (fun d => { d with opn := d.opn ||| (1#16 <<< scope) })

/-- A whole row add of an agent that owns the set (R111, R112): discarded on a row that is not open, or poisoned. -/
def rowAdd (s : State) (core a j e0 scope : Nat) (ts : List FTok) : AccSt × State :=
  if !(s.ac.sets.at (setKey core a)).v then (.accrow, s)
  else
    let s := scopeOpen s core a scope
    if !rowOpen s core a j then (.accrow, s)
    else if rowPoisoned s core a j then (.ok, rowAddPoison s core a j)
    else (.ok, rowAddEnd (rowAddPart s core a j e0 ts) core a j)

/-- Is any row of a set held by a row add other than `me`'s (R113)? -/
def rowHeld (s : State) (core a j me : Nat) : Bool :=
  let h := (s.ac.rows.at (rowKey core a j)).hold
  h != 0 && h != me

/-! ### The temper port (R114) -/

/-- What a temper read computes of a row: the mean, the scale, and whether the row gives NaNs. -/
structure Temper where
  bad : Bool
  r : FTok
  mh : FTok
  deriving DecidableEq, Repr, Inhabited

/-- v as a non-negative rational num / den, and r = 1/√v rounded once (R114). -/
def temperScale (num den : Nat) : FTok :=
  if num = 0 then 0#48 else Num.xfRound .rne (Num.rsqrtSticky 40 num den 0)

/-- The scale and mean of a row for a mode. -/
def temper (d : AccSet) (r : AccRow) (ln : Bool) : Temper :=
  if r.poi || r.nf || r.ovf then { bad := true, r := Num.xfNaN, mh := Num.xfNaN }
  else
    let n := d.n
    -- ε = en / 2^ek
    let ep : Nat × Nat := match Num.xfOf (d.eps.setWidth 48) with
      | .fin _ m e => if 0 ≤ e then (m <<< e.toNat, 1) else (m, 2 ^ (-e).toNat)
      | _ => (0, 1)
    let sq := r.sq.toNat
    if !ln then
      -- S/n + ε = (S·ed + en·n·2^384) / (n·ed·2^384)
      { bad := false, r := temperScale (sq * ep.2 + ep.1 * n * 2 ^ 384) (n * ep.2 * 2 ^ 384), mh := 0#48 }
    else
      let sx := r.sx.toInt
      let mh := Num.xfRound .rne (Num.divSticky 40 (decide (sx < 0)) sx.natAbs n (-181))
      -- (n·S − SX²)/n² + ε, S in 2^-384 and SX² in 2^-362
      let var := ((n * sq : Int) - sx * sx * 2 ^ 22).toNat
      { bad := false, r := temperScale (var * ep.2 + ep.1 * n * n * 2 ^ 384) (n * n * ep.2 * 2 ^ 384), mh := mh }

/-- One delivered element (R114). -/
def temperElem (t : Temper) (r : AccRow) (i : Nat) : FTok :=
  if t.bad then Num.xfNaN
  else Num.xfRound .rne (Num.mul (Num.add .rne (Num.xaOf (r.x.at i)) (Num.neg (Num.xfOf t.mh))) (Num.xfOf t.r))

/-- The tokens of a temper read of L elements from e0, with r and mh behind them under STATS. -/
def temperToks (d : AccSet) (r : AccRow) (ln stats : Bool) (e0 l : Nat) : List FTok :=
  let t := temper d r ln
  (List.range l).map (fun i => temperElem t r (e0 + i)) ++ (if stats then [t.r, t.mh] else [])

/-- Is a read with mask M still waiting for a scope (R117)? -/
def scopesOpen (d : AccSet) (m : BitVec 16) : Bool := (d.opn &&& m) != 0#16

/-- The index of R202 for a wait on the scopes of a mask: the set and the lowest scope that is open. -/
def scopeIdx (d : AccSet) (a : Nat) (m : BitVec 16) : Nat :=
  a * 16 + ((List.range 16).find? (fun i => (d.opn &&& m).getLsbD i)).getD 0

/-- A temper read of one row completes: TRD counts it, and a poisoned row raises POISON. -/
def temperDone (s : State) (core a j : Nat) : State :=
  let d := s.ac.sets.at (setKey core a)
  let s := accUpd s core a (fun d => { d with trd := sat32 d.trd 1 })
  if (s.ac.rows.at (rowKey core a j)).poi then regionError s d.rid 0x02 (coreLoc core) (rowDetail a j) else s

/-- acscope: close a scope at the add port; STREAMOPEN while a stream bearing it is open on the set (R116). A set that
is not defined has no owner (R311: DEDUCED, log entry 22). -/
def scopeClose (s : State) (core a scope : Nat) (asid : BitVec 8) : AccSt × State :=
  let d := s.ac.sets.at (setKey core a)
  if !d.v || d.asid != asid then (.notowner, s)
  else if addStreamOpen s core a scope then (.streamopen, s)
  else (.ok, accUpd s core a (fun d => { d with opn := d.opn &&& ~~~(1#16 <<< scope) }))

/-! ### Eviction and reload (R119, R120) -/

/-- The FP32 code of an element in a COMPACT image. -/
def compactElem (r : AccRow) (i : Nat) : Nat :=
  if r.poi then 0x7FC00000 else
  match Num.xaOf (r.x.at i) with
  | .nan => 0x7FC00000
  | v => (FloatFmt.fp32.encode false .rne v).1

/-- The image an eviction writes. -/
def evictImage (d : AccSet) (r : AccRow) (compact : Bool) : List Byte :=
  if compact then ((List.range d.n).map (fun i => leBytes 4 (compactElem r i))).flatten else rowImage d r

/-- An evicted row that is closed: zeroed, not open (R119), its flags kept (R118). -/
def AccRow.closed (r : AccRow) : AccRow := { r with x := [], sq := 0#640, sx := 0#320, shut := true, hold := 0 }

/-- An element of a COMPACT image: subnormals become signed zeros, NaNs the canonical one (R120). -/
def reloadCompact (c : Nat) : Word :=
  if FloatFmt.fp32.isSub c then Num.xaRound (.zero (c / 2 ^ 31 % 2 == 1))
  else Num.xaRound (FloatFmt.fp32.decode c)

/-- S and SX of elements, exact, in units of 2^-384 and 2^-181, or none where a value is not finite. -/
def rowSums (xs : List Word) : Option (Nat × Int) :=
  xs.foldl (fun o w => match o with
    | none => none
    | some (q, t) => match Num.xaOf w with
      | .nan => none
      | .inf _ => none
      | v => let u := fvUnits (-181) v; some (q + (u * u).toNat * 2 ^ 22, t + u)) (some (0, 0))

/-- The flags that R112 would set as the elements of a COMPACT image come one after another to a zeroed row, with the sums where they
stand then. -/
def reloadSums (xs : List Word) : AccRow :=
  xs.foldl (fun r w =>
    if r.nf || r.ovf then r
    else match Num.xaOf w with
      | .nan => { r with nf := true }
      | .inf _ => { r with nf := true }
      | v =>
        let u := fvUnits (-181) v
        let sq : Int := (r.sq.toNat : Int) + u * u * 2 ^ 22
        let sx := r.sx.toInt + u
        { r with sq := BitVec.ofInt 640 sq, sx := BitVec.ofInt 320 sx, ovf := decide (sq ≥ 2 ^ 640) || decide (sx ≥ 2 ^ 319) || decide (sx < -(2 ^ 319)) })
    default

/-- The row that an image restores, or BADIMG (R120). A COMPACT image's sums are exact; where an element is not finite, and no exact sum
exists, they stand as R112 would leave them (DEDUCED, log entry 58). -/
def reloadRow (d : AccSet) (old : AccRow) (compact : Bool) (img : List Byte) : Option AccRow :=
  let mk (xs : List Word) : SMap Word := (List.range d.n).zip xs
  if compact then
    let xs := (List.range d.n).map (fun i => reloadCompact (leNat ((img.drop (4 * i)).take 4)))
    let r := reloadSums xs
    let row := { old with x := mk xs, shut := false, poi := false, nf := r.nf, ovf := r.ovf, sq := r.sq, sx := r.sx }
    match rowSums xs with
    | none => some row
    | some (q, t) => some { row with sq := BitVec.ofNat 640 q, sx := BitVec.ofInt 320 t }
  else
    let sq := leNat (img.take 80)
    let sx := leNat ((img.drop 80).take 40)
    let rcw := leNat ((img.drop 120).take 8)
    let xs := (List.range d.n).map (fun i => BitVec.ofNat 64 (leNat ((img.drop (128 + 8 * i)).take 8)))
    let flags := rcw % 8
    if rcw / 2 ^ 16 % 16384 != d.nm1 || rcw / 2 ^ 30 != 0 || rcw / 16 % 4096 != 0 then none
    else if flags = 0 && (match rowSums xs with
        | none => true
        | some (q, t) => q != sq || BitVec.ofInt 320 t != BitVec.ofNat 320 sx) then none
    else some { old with
      x := mk xs, shut := false, poi := rcw / 4 % 2 == 1, nf := rcw / 2 % 2 == 1, ovf := rcw % 2 == 1
      sq := BitVec.ofNat 640 sq, sx := BitVec.ofNat 320 sx }

/-! ### Errors in a row's storage (R108, R118) -/

/-- The row of a set whose bytes lie at a bank-local address: byte offset o of the storage lies in bank BANK + o / 32,768 (R108). -/
def rowAt (s : State) (core b loc : Nat) : Option (Nat × Nat) :=
  match (List.range 16).find? (fun a =>
      let d := s.ac.sets.at (setKey core a)
      d.v && decide (d.bank ≤ b) && decide (b < d.bank + d.nb)) with
  | none => none
  | some a =>
    let d := s.ac.sets.at (setKey core a)
    let o := (b - d.bank) * 0x8000 + loc
    let j := o / rowPitch d.n
    if j < d.nrow && o % rowPitch d.n < 128 + 8 * d.n then some (a, j) else none

/-- A double-bit error in a word of an ACCUM bank: the row that holds the word becomes poisoned, and POIN counts it (R107, R118). A
word of no row is reached by nothing (R110). -/
def rowPoison (s : State) (core b loc : Nat) : State :=
  match rowAt s core b loc with
  | none => s
  | some (a, j) =>
    if rowPoisoned s core a j then s
    else
      let s := rowSnap s core a j
      accUpd (rowPut s core a j { (s.ac.rows.at (rowKey core a j)) with poi := true }) core a (fun d => { d with poin := sat16 d.poin 1 })

/-- Size of an image (R119). -/
def imageSize (d : AccSet) (compact : Bool) : Nat := if compact then 4 * d.n else 128 + 8 * d.n

end Sys2Proof.Machine
end

