-- ==== Sys2Proof/Machine/Bank.lean ====
section
/-! DEFINITION. Bank ports and their store queues (R36), coalescing buffers (R153), and bank changes (R40–R43, R158). -/

namespace Sys2Proof.Machine

/-! ### Coalescing buffers (R153) -/

def coalKey (core node : Nat) : Nat := core * 64 + node

/-- A unit goes to its bank port's store queue; a grant of the port follows. -/
def unitFlush (s : State) (core : Nat) (u : CoalUnit) : State :=
  let b := bankOf s core (u.unit * 64)
  let p : PortStore := { bytes := u.bytes.map (fun x => (b.2 + x.1, x.2)), asid := u.asid, rid := u.rid }
  let s := bankUpd s core b.1 (fun k => { k with queue := k.queue ++ [p] })
  pushEv s .bankPortGrant { (default : EvArg) with core := BitVec.ofNat 8 core, unit := BitVec.ofNat 12 b.1 }

/-- Flush the units of one node that a predicate selects, in the order of their allocation. -/
def nodeFlush (s : State) (core node : Nat) (p : CoalUnit → Bool) : State :=
  let us := s.sm.coal.at (coalKey core node)
  let s := { s with sm.coal := s.sm.coal.set (coalKey core node) (us.filter (fun u => !p u)) }
  (us.filter p).foldl (fun s u => unitFlush s core u) s

/-- The same, waiting until they have been performed, with every write that an earlier flush has left at a port of the core. -/
def nodeFlushWait (s : State) (core node : Nat) (p : CoalUnit → Bool) : State := coreDrain (nodeFlush s core node p) core

/-- Flush the units of every node of a core that a predicate selects, and perform them, with every write that an earlier flush has left
at a port of the core (R151). -/
def coreFlush (s : State) (core : Nat) (p : CoalUnit → Bool) : State :=
  coreDrain ((List.range 64).foldl (fun s n => nodeFlush s core n p) s) core

/-- Put the bits of a byte that a mask selects into a unit's bytes, a later write over an earlier one. -/
def unitPut (bs : List (Nat × Byte × Byte)) (i : Nat) (b m : Byte) : List (Nat × Byte × Byte) :=
  let old := (bs.find? (fun x => x.1 == i)).getD (i, 0#8, 0#8)
  bs.filter (fun x => x.1 != i) ++ [(i, maskByte old.2.1 b m, old.2.2 ||| m)]

/-- Bytes into one unit, from an offset in it. -/
def unitPuts (bs : List (Nat × Byte × Byte)) (i : Nat) (m : Byte) : List Byte → List (Nat × Byte × Byte)
  | [] => bs
  | b :: r => unitPuts (unitPut bs i b m) (i + 1) m r

/-- The unit longest unwritten. -/
def oldestUnit (us : List CoalUnit) : Option CoalUnit :=
  us.foldl (fun o u => match o with
    | none => some u
    | some v => if u.used < v.used then some u else some v) none

/-- A write of bytes of one aligned 64-byte unit, or of the bits of them that `m` selects, enters a node's buffer (R153): it merges into a
held unit, or takes a new one, the unit longest unwritten being flushed where eight are held. -/
def coalWrite (s : State) (core node strm : Nat) (asid : BitVec 8) (rid off : Nat) (bs : List Byte) (m : Byte) : State :=
  let k := coalKey core node
  let t := s.dev.gtsc.toNat
  let n := off / 64
  let upd (u : CoalUnit) : CoalUnit := { u with
    bytes := unitPuts u.bytes (off % 64) m bs, used := t
    streams := if u.streams.contains strm then u.streams else u.streams ++ [strm] }
  let us := s.sm.coal.at k
  if us.any (fun u => u.unit == n) then
    { s with sm.coal := s.sm.coal.set k (us.map (fun u => if u.unit == n then upd u else u)) }
  else
    let s := if us.length ≥ 8 then
        (match oldestUnit us with
          | some v => nodeFlush s core node (fun u => u.unit == v.unit)
          | none => s) else s
    let new : CoalUnit := upd { unit := n, bytes := [], used := t, asid := asid, rid := rid, streams := [] }
    { s with sm.coal := s.sm.coal.upd k (fun us => us ++ [new]) }

/-- Does a unit hold a write of a region: of the one that took it, or of a stream whose write merged into it? -/
def unitIn (s : State) (core rid : Nat) (u : CoalUnit) : Bool :=
  u.rid == rid || u.streams.any (fun k => (s.sm.streams.at (core * 256 + k)).rid == rid)

/-- The AG accesses that the streams of a region handed over are performed: their units are flushed (R151, R175). -/
def regionFlush (s : State) (core rid : Nat) : State := coreFlush s core (unitIn s core rid)

/-- Every write on the module that waits in a coalescing unit or at a bank port is performed. -/
def drainWrites (s : State) : State :=
  let s := (s.sm.coal.map (·.1)).foldl (fun s k => nodeFlush s (k / 64) (k % 64) (fun _ => true)) s
  (s.st.banks.map (·.1)).foldl (fun s k => portDrain s (k / 192) (k % 192)) s

/-! ### Bank changes (R40–R42) -/

/-- A bank with the mode and interleave that a change gives it. -/
def changed (s : State) (core first n : Nat) (c : BankChange) (b : Nat) : BankMode × BitVec 2 :=
  if first ≤ b && b < first + n then (c.mode, c.ilv)
  else
    let k := s.st.banks.at (bankKey core b)
    match (k.pend.getLast?).orElse (fun _ => k.change) with
    | some p => (p.mode, p.ilv)
    | none => (k.mode, k.ilv)

/-- Do all members of the aligned group of a bank agree (R39)? -/
def groupOk (s : State) (core first n : Nat) (c : BankChange) (b : Nat) : Bool :=
  let m := changed s core first n c b
  let g := 2 ^ m.2.toNat
  let b0 := b / 24 * 24 + b % 24 / g * g
  m.2 = 0#2 || (List.range g).all (fun i => decide (b0 % 24 + i < 24) && changed s core first n c (b0 + i) == m)

/-- Does the storage of a defined queue stand in a bank (R59)? -/
def queueBank (s : State) (core b : Nat) : Bool :=
  s.qu.queues.any (fun x => x.1 / 64 == core && x.2.v && decide (x.2.bank ≤ b) && decide (b < x.2.bank + x.2.nb))

/-- Is a bank one of a defined accumulator set? Every bank of it counts as holding an open row (R110). -/
def rowBank (s : State) (core b : Nat) : Bool :=
  (List.range 16).any (fun a =>
    let d := s.ac.sets.at (setKey core a)
    d.v && decide (d.bank ≤ b) && decide (b < d.bank + d.nb))

/-- Does a defined tile-table entry of bank space cover a bank? -/
def tileBank (s : State) (core b : Nat) : Bool :=
  (List.range 256).any (fun i =>
    let t := s.st.tiles.at (tileKey core i)
    t.isDef && !t.sp && (rangeBanks s core t.off.toNat t.size).contains b)

/-- Statuses of a bank change (R40), OWNER being R299's. -/
inductive BankSt
  | ok | badmode | group | tilelive | queuelive | acclive | owner
  deriving DecidableEq, Repr, Inhabited

def BankSt.code : BankSt → Nat
  | .ok => 0 | .badmode => 1 | .group => 2 | .tilelive => 3 | .queuelive => 4 | .acclive => 5 | .owner => 6

/-- The checks of R40, in its order. -/
def bankCheck (s : State) (core first n : Nat) (c : BankChange) : BankSt :=
  let bs := (List.range n).map (fun i => first + i)
  let mode (b : Nat) := (s.st.banks.at (bankKey core b)).mode
  if (c.ilv != 0#2 && c.mode != .scratch) || n = 0 || first / 24 != (first + n - 1) / 24 || first + n > 192 then .badmode
  else if (List.range 24).any (fun i => !groupOk s core first n c (first / 24 * 24 + i)) then .group
  else if c.mode != .scratch && bs.any (fun b => mode b == .scratch && tileBank s core b) then .tilelive
  else if c.mode != .fifo && bs.any (fun b => mode b == .fifo && queueBank s core b) then .queuelive
  else if c.mode != .accum && bs.any (fun b => mode b == .accum && rowBank s core b) then .acclive
  else .ok

/-- Does a bank already stand as a change asks? -/
def bankIs (s : State) (core b : Nat) (c : BankChange) : Bool :=
  let k := s.st.banks.at (bankKey core b)
  k.mode == c.mode && k.ilv == c.ilv && k.change.isNone && k.pend.isEmpty

/-- The turn in which a change reaches a bank, or ends there. -/
def bankTurn (i : Instr) (core b : Nat) (s : State) : State :=
  pushFirst s i { (default : EvArg) with core := BitVec.ofNat 8 core, unit := BitVec.ofNat 12 b }

/-- Carry out a change (R40): it waits at every named bank that differs, and reaches each at once, in ascending
order. -/
def bankChange (s : State) (core first n : Nat) (c : BankChange) : BankSt × State :=
  match bankCheck s core first n c with
  | .ok =>
    let bs := ((List.range n).map (fun i => first + i)).filter (fun b => !bankIs s core b c)
    let s := bs.foldl (fun s b => bankUpd s core b (fun k => { k with pend := k.pend ++ [c] })) s
    (.ok, bs.reverse.foldl (fun s b => bankTurn .bankChangeReach core b s) s)
  | st => (st, s)

/-- A change reaches a bank (R41 step 1, R158): the units that cover it are flushed, BUSY becomes 1 and the port
drains under the old mapping. A bank that is still changing keeps the change for later (R42). -/
def bankReach (s : State) (core b : Nat) : State :=
  let k := s.st.banks.at (bankKey core b)
  match k.pend with
  | [] => s
  | c :: r =>
    if k.busy then s
    else
      let s := (List.range 64).foldl (fun s n => nodeFlush s core n (fun u => (bankOf s core (u.unit * 64)).1 == b)) s
      let s := bankUpd s core b (fun k => { k with busy := true, change := some c, pend := r })
      let s := portDrain s core b
      pushEv s .bankChangeComplete { (default : EvArg) with core := BitVec.ofNat 8 core, unit := BitVec.ofNat 12 b }

/-- Leaving CACHE: the dirty sectors of the bank's way are written back and its lines invalidated (R41 step 2). -/
def bankUncache (s : State) (core b : Nat) : State :=
  let hit := s.st.cc.filter (fun x => x.1 / (8 * 128 * 24) == core && x.1 / (128 * 24) % 8 == b / 24 && x.1 % 24 == b % 24)
  let s := hit.foldl (fun s x => ccBack s core (b / 24) (x.1 / 24 % 128) (b % 24)) s
  { s with st.cc := s.st.cc.filter (fun x =>
      !(x.1 / (8 * 128 * 24) == core && x.1 / (128 * 24) % 8 == b / 24 && x.1 % 24 == b % 24)) }

/-- A change ends at a bank (R41 steps 2 to 4): the old mode is left, the bank is cleared unless only ILV changes
within SCRATCH, the new mode is taken, the accesses held at the ports go on, and the next waiting change reaches the bank (R42). -/
def bankFinish (s : State) (core b : Nat) : State :=
  let k := s.st.banks.at (bankKey core b)
  match k.change with
  | none => s
  | some c =>
    let s := if k.mode == .cache then bankUncache s core b else s
    let keep := k.mode == .scratch && c.mode == .scratch
    let s := if keep then s else { s with
      mem := Mem.clear s.mem (bankAddr core b 0) 0x8000
      st.poison := unpoison s.st.poison (bankAddr core b 0) 0x8000 }
    let s := bankUpd s core b (fun k => { k with busy := false, mode := c.mode, ilv := c.ilv, change := none })
    let s := { s with sim.agenda := s.sim.agenda ++ s.sim.parked, sim.parked := [] }
    if k.pend.isEmpty then s else bankTurn .bankChangeReach core b s

end Sys2Proof.Machine
end

