-- ==== Sys2Proof/Machine/Conv.lean ====
section
/-! DEFINITION. The converters at the memory edge (R81–R105): element formats, Microscaling blocks, INT4Q,
stochastic rounding, flush bits and the scale of a butterfly. -/

namespace Sys2Proof.Machine

/-- The fields of a conversion word (R81). -/
structure ConvWord where
  fmt : Nat
  rm : Nat
  sat : Bool
  bfn : Nat
  kind : Bool
  deriving DecidableEq, Repr, Inhabited

def ConvWord.of (w : BitVec 32) : ConvWord :=
  { fmt := (w.extractLsb' 27 5).toNat, rm := (w.extractLsb' 24 3).toNat, sat := w.getLsbD 23,
    bfn := (w.extractLsb' 20 3).toNat, kind := w.getLsbD 19 }

/-- The BADFMT cases of R82 that the word alone decides. -/
def ConvWord.bad (w : BitVec 32) : Bool :=
  let c := ConvWord.of w
  decide (c.fmt ≥ 20) || decide (c.rm > 4) || decide (c.bfn = 7) || w.extractLsb' 0 19 != 0#19 ||
  (c.rm == 4 && !((decide (1 ≤ c.fmt) && decide (c.fmt ≤ 4)) || (decide (13 ≤ c.fmt) && decide (c.fmt ≤ 17)))) ||
  (c.kind && decide (12 ≤ c.fmt) && decide (c.fmt ≤ 17)) ||
  (decide (c.bfn > 0) && ((decide (5 ≤ c.fmt) && decide (c.fmt ≤ 11)) || c.fmt == 18 || c.fmt == 19 || c.kind)) ||
  (decide (c.bfn > 5) && decide (12 ≤ c.fmt) && decide (c.fmt ≤ 18))

/-- What a stream's converter keeps: the flush bits sampled at sopen (R100), the generator (R95), and the
counts (R104, R89). -/
structure ConvState where
  modef : BitVec 6
  xs : BitVec 32
  fmterr : Nat
  satn : Nat
  disp : Nat
  flsh : Nat
  nulln : Nat
  deriving DecidableEq, Repr, Inhabited

namespace Conv

/-- Counters saturate at 0xFFFF (R104). -/
def up (a b : Nat) : Nat := min 0xFFFF (a + b)

/-- The float format of FMT 0-4 and of the block elements 13-17. -/
def ffmt : Nat → Option FloatFmt
  | 0 => some .fp32 | 1 => some .fp16 | 2 => some .bf16 | 3 => some .e4m3 | 4 => some .e5m2
  | 13 => some .e4m3 | 14 => some .e5m2 | 15 => some .e3m2 | 16 => some .e2m3 | 17 => some .e2m1
  | _ => none

/-- Integer formats: width and signedness (R84). -/
def ifmt : Nat → Option (Nat × Bool)
  | 5 => some (32, true) | 6 => some (16, true) | 7 => some (8, true) | 8 => some (8, false)
  | 9 => some (16, false) | 10 => some (32, false) | 11 => some (4, true) | _ => none

/-- Blocks of 32 (R90, R92). -/
def isBlock (f : Nat) : Bool := decide (12 ≤ f) && decide (f ≤ 18)

/-- Element bits (R81). -/
def bits : Nat → Nat
  | 0 => 32 | 1 => 16 | 2 => 16 | 3 => 8 | 4 => 8 | 5 => 32 | 6 => 16 | 7 => 8 | 8 => 8 | 9 => 16 | 10 => 32
  | 11 => 4 | 12 => 4 | 13 => 8 | 14 => 8 | 15 => 6 | 16 => 6 | 17 => 4 | 18 => 8 | _ => 64

/-- Bytes of a block's elements (R90). -/
def blockBytes (f : Nat) : Nat := bits f * 4

/-- Flush bits of the format's class (R98): input and output. -/
def fzi (f : Nat) (m : BitVec 6) : Bool :=
  if f = 0 then m.getLsbD 4 else if f = 1 || f = 2 then m.getLsbD 2 else m.getLsbD 0
def fzo (f : Nat) (m : BitVec 6) : Bool :=
  if f = 0 then m.getLsbD 5 else if f = 1 || f = 2 then m.getLsbD 3 else m.getLsbD 1

/-- The scale c of a butterfly of n stages (R102): K is 1/√2 rounded to XF42. -/
def bflyScale (n : Nat) : FV :=
  if n % 2 = 0 then .fin false 1 (-((n / 2 : Nat) : Int))
  else .fin false (2 ^ 31 + 0x3504F334) (-32 - (((n - 1) / 2 : Nat) : Int))

/-- A value in, times the butterfly's scale, rounded once to XF42 (R86, R102). -/
def inScaled (n : Nat) (v : FV) : FTok :=
  Num.xfRound .rne (if n = 0 then v else Num.mul v (bflyScale n))

/-- A float code as a value, its subnormals flushed under FZI (R99). -/
def floatIn (f : Nat) (ff : FloatFmt) (s : ConvState) (c : Nat) : FV × ConvState :=
  if ff.isSub c && fzi f s.modef then
    (.zero (c / 2 ^ (ff.eb + ff.fb) % 2 == 1), { s with flsh := up s.flsh 1 })
  else (ff.decode c, s)

/-- A value as an integer token: truncated and saturated to INT32; NaN gives 0 (R86). -/
def asInt (v : FV) (s : ConvState) : FTok × ConvState :=
  match v with
  | .nan => (0#48, { s with satn := up s.satn 1 })
  | .inf n => (Num.intTok (if n then -2147483648 else 2147483647), { s with satn := up s.satn 1 })
  | .zero _ => (0#48, s)
  | .fin .. =>
    let i := Num.toInteger .rz v
    let j := Num.clampInt (-2147483648) 2147483647 i
    (Num.intTok j, if i = j then s else { s with satn := up s.satn 1 })

/-- Conversion in of one element that is not in a block (R84, R86). -/
def elemIn (w : ConvWord) (s : ConvState) (c : Nat) : FTok × ConvState :=
  if w.fmt = 19 then (BitVec.ofNat 48 c, s)
  else match ffmt w.fmt with
  | some ff =>
    let r := floatIn w.fmt ff s c
    if w.kind then asInt r.1 r.2 else (inScaled w.bfn r.1, r.2)
  | none => match ifmt w.fmt with
    | some (n, sg) =>
      let i : Int := if sg && c ≥ 2 ^ (n - 1) then (c : Int) - (2 : Int) ^ n else c
      if w.kind then (Num.intTok i, s) else (Num.xfRound .rne (Num.ofInt i 0), s)
    | none => (0#48, s)

/-- The E8M0 scale 2^(c − 127) applied to a value (R90). -/
def scaled (c : Nat) (v : FV) : FV := Num.mul v (.fin false 1 ((c : Int) - 127))

/-- The values of a block of INT4Q slots: none where the block is malformed (R92, R93). -/
def int4qIn : List Nat → Option (List FV)
  | [] => some []
  | [c] => if c = 8 then none else some [Num.ofInt (if c ≥ 8 then (c : Int) - 16 else c) 0]
  | c :: d :: cs =>
    if c = 8 then
      if d = 8 then none
      else
        let v : FV := .fin (decide (d ≥ 8)) (2 + d % 2) (2 + ((d / 2 % 4 : Nat) : Int))
        match int4qIn cs with
        | none => none
        | some vs => some (v :: .zero false :: vs)
    else match int4qIn (d :: cs) with
      | none => none
      | some vs => some (Num.ofInt (if c ≥ 8 then (c : Int) - 16 else c) 0 :: vs)

/-- Convert the elements of a block one after another. Only the n delivered from the first on count in the stream's counts (R86, R99). -/
def blockElems (f : ConvState → Nat → FTok × ConvState) (s : ConvState) (codes : List Nat) (first n : Nat) : List FTok × ConvState :=
  codes.zipIdx.foldl (fun acc c =>
    let r := f acc.2 c.1
    (acc.1 ++ [r.1], if decide (first ≤ c.2) && decide (c.2 < first + n) then r.2 else acc.2)) ([], s)

/-- Conversion in of a block: element codes and the scale code (R90–R93), of which n elements from the first on are delivered. -/
def blockIn (w : ConvWord) (s : ConvState) (codes : List Nat) (sc first n : Nat) : List FTok × ConvState :=
  let nans := codes.map (fun _ => Num.xfNaN)
  if w.fmt = 12 then
    match int4qIn codes with
    | none => (nans, { s with fmterr := up s.fmterr 1 })
    | some vs =>
      if sc = 255 then (nans, s) else (vs.map (fun v => inScaled w.bfn (scaled sc v)), s)
  else if w.fmt = 18 then
    let val (c : Nat) : FV := Num.ofInt (if c ≥ 128 then (c : Int) - 256 else c) (-6)
    if w.kind then
      blockElems (fun s c => if sc = 255 then (0#48, { s with satn := up s.satn 1 }) else asInt (scaled sc (val c)) s) s codes first n
    else if sc = 255 then (nans, s) else (codes.map (fun c => inScaled w.bfn (scaled sc (val c))), s)
  else match ffmt w.fmt with
    | none => (nans, s)
    | some ff =>
      blockElems (fun s c =>
        let r := floatIn w.fmt ff s c
        (if sc = 255 then Num.xfNaN else inScaled w.bfn (scaled sc r.1), r.2)) s codes first n

/-! ### Conversion out -/

/-- The generator steps once for an element out under SR (R95). -/
def stepSR (w : ConvWord) (s : ConvState) : ConvState := if w.rm = 4 then { s with xs := xorshift32 s.xs } else s

/-- Round a value into a float format by RM, with FZO, SAT and the counts (R87, R96, R99); the generator has
stepped. -/
def floatOut (w : ConvWord) (ff : FloatFmt) (s : ConvState) (v : FV) : Nat × ConvState :=
  let flush := match v with
    | .fin _ n e => ff.belowNormal n e && fzo w.fmt s.modef
    | _ => false
  if flush then (ff.signed (Num.sign v) 0, { s with flsh := up s.flsh 1 })
  else
    let r := if w.rm = 4 then ff.encodeSR w.sat (s.xs.extractLsb' 16 16) v else ff.encode w.sat (RMode.ofCode w.rm) v
    (r.1, if r.2 then { s with satn := up s.satn 1 } else s)

/-- The value of a token on a write stream (R87). -/
def outVal (w : ConvWord) (t : FTok) : FV :=
  if w.kind then Num.ofInt (Num.intOf t) 0
  else if w.bfn = 0 then Num.xfOf t else Num.mul (Num.xfOf t) (bflyScale w.bfn)

/-- Conversion out of one element that is not in a block (R87–R89). NULLN, whose width no rule gives, saturates at 0xFFFF (DESIGN CHOICE,
log entry 17). -/
def elemOut (w : ConvWord) (s : ConvState) (t : FTok) : Nat × ConvState :=
  if w.fmt = 19 then ((t &&& 0xFFFFFFFFFFFF#48).toNat, s)
  else
    let s := stepSR w s
    if t.getLsbD 42 then (0, { s with nulln := up s.nulln 1 })
    else match ffmt w.fmt with
    | some ff => floatOut w ff s (outVal w t)
    | none => match ifmt w.fmt with
      | some (n, sg) =>
        let v := outVal w t
        let lo : Int := if sg then -((2 : Int) ^ (n - 1)) else 0
        let hi : Int := if sg then (2 : Int) ^ (n - 1) - 1 else (2 : Int) ^ n - 1
        match v with
        | .nan => (0, { s with satn := up s.satn 1 })
        | .inf b => (((if b then lo else hi) % (2 : Int) ^ n).toNat, { s with satn := up s.satn 1 })
        | _ =>
          let i := Num.toInteger (RMode.ofCode w.rm) v
          let j := Num.clampInt lo hi i
          ((j % (2 : Int) ^ n).toNat, if i = j then s else { s with satn := up s.satn 1 })
      | none => (0, s)

/-- emax of R91. -/
def emax : Nat → Int
  | 13 => 8 | 14 => 15 | 15 => 4 | 16 => 2 | 17 => 2 | _ => 0

/-- floor(log2 amax) of finite values; none where all are zero. -/
def amaxLog (vs : List FV) : Option Int :=
  vs.foldl (fun o v => match v, o with
    | .fin _ n e, none => some (Num.ilog n e)
    | .fin _ n e, some k => some (max k (Num.ilog n e))
    | _, o => o) none

/-- Clamp an exponent to −127..127 (R91, R94). -/
def clampE (e : Int) : Int := Num.clampInt (-127) 127 e

/-- The members of V above 7, by magnitude, with their cells (R92, R94). -/
def outliers : List (Nat × Nat) := [(8, 0), (12, 1), (16, 2), (24, 3), (32, 4), (48, 5), (64, 6), (96, 7)]

/-- The magnitudes a value of a sign may take, ascending (R94): −8 is no member. -/
def members (neg : Bool) : List Nat :=
  [0, 1, 2, 3, 4, 5, 6, 7] ++ (if neg then [] else [8]) ++ [12, 16, 24, 32, 48, 64, 96]

/-- The nearest member of V to a magnitude, a tie going to the smaller; and whether it lay beyond 96 (R94). -/
def nearest (neg : Bool) (n : Nat) (e : Int) : Nat × Bool :=
  -- compare in units of 2^k with k ≤ 0
  let k := min e 0
  let x := n <<< (e - k).toNat
  let unit := 2 ^ (-k).toNat
  let best := (members neg).foldl (fun (b : Nat × Nat) m =>
    let d := if m * unit < x then x - m * unit else m * unit - x
    if d < b.2 then (m, d) else b) (0, x)
  (best.1, decide (96 * unit < x))

/-- Encode the slots of an INT4Q block from scaled values, left to right (R94). An element that an outlier cell displaces counts in DISP
alone, wherever its value lies: no rule says whether one beyond ±96 saturates too (DESIGN CHOICE, log entry 17). -/
def int4qOut (s : ConvState) (i : Nat) : List FV → List Nat × ConvState
  | [] => ([], s)
  | v :: vs =>
    let pick (v : FV) : Bool × Nat × Bool := match v with
      | .fin b n e => let r := nearest b n e; (b, r.1, r.2)
      | _ => (false, 0, false)
    let p := pick v
    let s := if p.2.2 then { s with satn := up s.satn 1 } else s
    let code (b : Bool) (m : Nat) : Nat := if b && m != 0 then 16 - m else m
    if p.2.1 ≤ 7 then
      let r := int4qOut s (i + 1) vs
      (code p.1 p.2.1 :: r.1, r.2)
    else if i ≥ 31 then
      let r := int4qOut { s with satn := up s.satn 1 } (i + 1) vs
      (code p.1 7 :: r.1, r.2)
    else
      let cell := ((outliers.find? (fun x => x.1 == p.2.1)).map (·.2)).getD 0 + (if p.1 then 8 else 0)
      match vs with
      | [] => ([8], s)
      | u :: us =>
        let s := if (pick u).2.1 != 0 then { s with disp := up s.disp 1 } else s
        let r := int4qOut s (i + 2) us
        (8 :: cell :: r.1, r.2)

/-- Conversion out of a block's 32 tokens, nulls and padding counting as 0: the element codes and the scale
code (R91, R94). `present` is how many values the stream holds of it: the scale is taken over those. An infinity that makes the scale code
0xFF counts nothing in SATN (DESIGN CHOICE, log entry 17: R104's row could ask it, R91 counts only its step 4). -/
def blockOut (w : ConvWord) (s : ConvState) (ts : List FTok) (present : Nat) : List Nat × Nat × ConvState :=
  let s := { s with nulln := up s.nulln (ts.filter (fun t => t.getLsbD 42)).length }
  let vals := ts.map (fun t => if t.getLsbD 42 then .zero false else outVal w t)
  let seen := vals.take present
  let steps (s : ConvState) : ConvState := ts.foldl (fun s _ => stepSR w s) s
  if seen.any (fun v => match v with | .nan => true | .inf _ => true | _ => false) then
    (ts.map (fun _ => 0), 255, steps s)
  else match amaxLog seen with
  | none => (ts.map (fun _ => 0), 0, steps s)
  | some k =>
    let e := clampE (if w.fmt = 12 then k - 5 else k - emax w.fmt)
    let us := vals.map (fun v => Num.mul v (.fin false 1 (-e)))
    if w.fmt = 12 then
      let r := int4qOut s 0 us
      (r.1, (e + 127).toNat, r.2)
    else
      let out (s : ConvState) (v : FV) : Nat × ConvState :=
        let s := stepSR w s
        match ffmt w.fmt with
        | some ff => floatOut { w with sat := true } ff s v
        | none =>
          -- MXINT8: multiples of 2^-6, saturated to ±127 × 2^-6
          let i := match v with
            | .fin b n x => Num.toInt b (Num.roundAt (RMode.ofCode w.rm) b n x (-6))
            | _ => 0
          let j := Num.clampInt (-127) 127 i
          ((j % 256).toNat, if i = j then s else { s with satn := up s.satn 1 })
      let r := us.foldl (fun (acc : List Nat × ConvState) v =>
        let o := out acc.2 v
        (acc.1 ++ [o.1], o.2)) ([], s)
      (r.1, (e + 127).toNat, r.2)

/-- Pack element codes of a width from the low end of the byte upward (R85). -/
def packCodes (b : Nat) (cs : List Nat) : Nat :=
  cs.foldr (fun c acc => c % 2 ^ b + acc * 2 ^ b) 0

/-- Unpack n codes. -/
def unpackCodes (b : Nat) : Nat → Nat → List Nat
  | 0, _ => []
  | n + 1, v => v % 2 ^ b :: unpackCodes b n (v / 2 ^ b)

end Conv

end Sys2Proof.Machine
end

