-- ==== Sys2Proof/Machine/Zone.lean ====
section
/-! DEFINITION. Landing zones at the receiving core (R124–R139): definitions, reservation, writes and the arrival
barrier, destination reduction, release, timeout and link failure. -/

namespace Sys2Proof.Machine

def blkUpd (s : State) (core z k : Nat) (f : SlotBlk → SlotBlk) : State :=
  { s with zn.blks := s.zn.blks.upd (slotKey core z k) f }

def slotEnt (s : State) (core z k : Nat) : Tile := s.st.tiles.at (tileKey core (slotTile (zoneOf s core z) k))

/-- Statuses of zanno (R126). -/
inductive ZoneSt
  | ok | live | badzone | badspace
  deriving DecidableEq, Repr, Inhabited

/-- The checks of a definition in the order of R126. -/
def zoneDefCheck (s : State) (core z : Nat) (d : Zone) (resv : Bool) : ZoneSt :=
  let slots := List.range (d.ns1.toNat + 1)
  let sz := d.sz.toNat
  if (zoneOf s core z).v ||
      slots.any (fun k => decide (d.tte.toNat + k ≤ 255) && (s.st.tiles.at (tileKey core (d.tte.toNat + k))).isDef) then .live
  else if sz < 12 || sz > 20 || d.tte.toNat + d.ns1.toNat > 255 || d.off.toNat % 2 ^ sz != 0 || decide (d.rop.toNat ≥ 6) ||
      resv || !d.send.any (·.2) then .badzone
  else if slots.any (fun k =>
      let c := tileDefCheck s core (d.tte.toNat + k) false sz (d.off.toNat + k * 2 ^ sz) d.asid
      c == .badspace || c == .overlap) then .badspace
  else .ok

/-- An accepted definition: the slots' entries, V, and every slot block at its reset value (R126). -/
def zoneDefine (s : State) (core z : Nat) (d : Zone) : State :=
  let s := (List.range (d.ns1.toNat + 1)).foldl (fun s k =>
    tileDefine s core (d.tte.toNat + k) false d.sz.toNat (d.off.toNat + k * 2 ^ d.sz.toNat) d.asid) s
  { s with
    zn.zones := s.zn.zones.set (zoneKey core z) { d with v := true }
    zn.blks := s.zn.blks.filter (fun x => x.1 / 64 != zoneKey core z) }

/-- Undefine a zone: refused with LIVE unless every slot is EMPTY (R126). -/
def zoneUndefine (s : State) (core z : Nat) : ZoneSt × State :=
  let d := zoneOf s core z
  let slots := List.range (d.ns1.toNat + 1)
  if slots.any (fun k => (slotEnt s core z k).st != .empty) then (.live, s)
  else
    let s := slots.foldl (fun s k => tileUndefine s core (slotTile d k)) s
    (.ok, { s with zn.zones := s.zn.zones.upd (zoneKey core z) (fun d => { d with v := false }) })

/-- Is a tile-table entry a slot of a defined zone (R126)? -/
def inZone (s : State) (core i : Nat) : Bool :=
  (List.range 8).any (fun z =>
    let d := zoneOf s core z
    d.v && decide (d.tte.toNat ≤ i) && decide (i ≤ d.tte.toNat + d.ns1.toNat))

/-! ### Reservation (R127–R130) -/

/-- Statuses of zres (R127), by their codes. -/
inductive ResvSt
  | ok | full | quota | notadm | nozone | badh | nopeer | norec | linkLost | badjoin
  deriving DecidableEq, Repr, Inhabited

def ResvSt.code : ResvSt → Nat
  | .ok => 0 | .full => 1 | .quota => 2 | .notadm => 3 | .nozone => 4 | .badh => 5 | .nopeer => 6
  | .norec => 7 | .linkLost => 8 | .badjoin => 9

/-- The reply word of a reservation (R127). -/
def resvWord (st : ResvSt) (gen : BitVec 16) (slot : Nat) : Word :=
  if st = .ok then gen.setWidth 64 <<< 48 ||| (BitVec.ofNat 64 slot <<< 42) ||| BitVec.ofNat 64 st.code
  else BitVec.ofNat 64 st.code

/-- The holder a request makes (R128). -/
def resvHolder (r : ResvReq) : Holder :=
  { node := r.node, die := r.core.toNat / 64, core := r.core.toNat, port := r.inPort, ring := r.ring.toNat }

/-- The bit of PMASK that a request sets: its module port, none for a sender on the module (R125). -/
def portBit (p : Option Nat) : BitVec 24 := match p with
  | some n => 1#24 <<< n
  | none => 0#24

/-- The receiver's decision on a reservation (R127, R128): its status, slot and generation, and the grant. -/
def resvDecide (s : State) (core : Nat) (r : ResvReq) : ResvSt × Nat × BitVec 16 × State :=
  let z := (r.zh.extractLsb' 16 3).toNat
  let d := zoneOf s core z
  let join := r.zh.getLsbD 41
  let js := (r.zh.extractLsb' 42 6).toNat
  let jgen := r.zh.extractLsb' 48 16
  let slots := List.range (d.ns1.toNat + 1)
  let no (st : ResvSt) : ResvSt × Nat × BitVec 16 × State := (st, 0, 0#16, s)
  if !d.v then no .nozone
  else if !d.send.any (fun x => x.2 && (x.1 == r.node || x.1 == 0x3FF#10)) then no .notadm
  else if join then
    let t := slotEnt s core z js
    if js > d.ns1.toNat || t.st != .filling || t.gen != jgen || (blkOf s core z js).hold == 63#6 then no .badjoin
    else
      (.ok, js, t.gen, blkUpd s core z js (fun b => { b with
        hold := b.hold + 1#6, pmask := b.pmask ||| portBit r.inPort, holders := b.holders ++ [(resvHolder r)] }))
  else match slots.find? (fun k => (slotEnt s core z k).st == .empty) with
  | none => no .full
  | some k =>
    let ten := (s.xl.asids.at d.asid.toNat).ten
    if slotsHeld s ten ≥ (s.zn.landQ.at ten.toNat).smax then no .quota
    else
      let s := tileUpd s core (slotTile d k) Tile.fillBegin
      let s := blkUpd s core z k (fun b => { b with
        ca := 0, nseq := 0, hold := 1, pmask := portBit r.inPort, holders := [(resvHolder r)], ended := [], since := s.dev.gtsc })
      (.ok, k, (slotEnt s core z k).gen, s)

/-! ### Phase records and notices (R133, R134) -/

/-- Word 0 of a phase record or notice (R134). -/
def phaseWord0 (kind st : Nat) (node : BitVec 10) (core z k : Nat) (gen : BitVec 16) : Word :=
  BitVec.ofNat 64 (kind * 2 ^ 56 + st * 2 ^ 48 + node.toNat * 2 ^ 38 + core / 64 * 2 ^ 36 + core % 64 * 2 ^ 30 +
    z * 2 ^ 27 + k * 2 ^ 21 + gen.toNat)

/-- Word 1 of a phase record or notice (R134). -/
def phaseWord1 (deliv : BitVec 32) (ca : BitVec 12) : Word :=
  BitVec.ofNat 64 (deliv.toNat * 2 ^ 32 + ca.toNat * 2 ^ 20)

/-- Send the phase notices to the ports of a slot's holders: to a core of this module as a step of its own, to
another node as a message that leaves (R133). -/
def sendNotices (s : State) (w0 w1 : Word) : List Holder → State
  | [] => s
  | h :: hs =>
    let s := if h.port.isNone then
        pushEv s .phaseNoticeArrival { (default : EvArg) with
          core := BitVec.ofNat 8 h.core, unit := BitVec.ofNat 12 h.ring, v := w0, w := w1 }
      else sendOut s { port := h.port.getD 0, node := h.node, load := .notice (BitVec.ofNat 8 h.core) (BitVec.ofNat 6 h.ring) w0 w1 }
    sendNotices s w0 w1 hs

/-- The end of a slot's fill, by completion or failure with status `st`: an armed phase takes PST and its record,
and every holder gets a notice; `lost` is the port whose holders get none (R133, R136, R137). The block's other fields stay
as they stood (R438). -/
def phaseEnd (s : State) (core z k st : Nat) (gen : BitVec 16) (lost : Option Nat) : State :=
  let d := zoneOf s core z
  let b := blkOf s core z k
  let deliv := (slotEnt s core z k).fillb
  let w1 := phaseWord1 deliv b.ca
  let node := ((b.holders.map (·.node)).headD 0#10)
  let s := if b.arm then
      ringPushAs s .inb core b.ring.toNat d.asid d.rid (phaseWord0 0x10 st node core z k gen) w1
    else s
  let s := blkUpd s core z k (fun b => { b with
    arm := false, pstC := if b.arm then BitVec.ofNat 3 (7 - st) else b.pstC, holders := [] })
  sendNotices s (phaseWord0 0x11 st (nodeId s) core z k gen) w1
    (b.holders.filter (fun h => lost.isNone || h.port != lost))

/-- Discard a slot's reorder-store entries (R136). -/
def reorderDrop (s : State) (core z k : Nat) : State :=
  { s with zn.reorder := s.zn.reorder.upd core (fun us => us.filter (fun u => !(u.zone == z && u.slot == k))) }

/-- A fail of a filling slot (R55, R136, R137). -/
def slotFail (s : State) (core z k st : Nat) (lost : Option Nat) : State :=
  let gen := (slotEnt s core z k).gen
  let s := reorderDrop s core z k
  let s := phaseEnd s core z k st gen lost
  tileUpd s core (slotTile (zoneOf s core z) k) Tile.toEmpty

/-- A phase completes as soon as its conditions hold (R133). -/
def slotCheck (s : State) (core z k : Nat) : State :=
  let d := zoneOf s core z
  let b := blkOf s core z k
  let t := slotEnt s core z k
  if t.st == .filling && b.arm && decide (b.a.toNat ≤ b.ca.toNat) &&
      !(s.zn.reorder.at core).any (fun u => u.zone == z && u.slot == k) then
    let st := if b.ca.toNat > b.a.toNat || t.fillb.toNat > b.b.toNat then 1
      else if t.fillb.toNat = b.b.toNat then 0 else 2
    let s := phaseEnd s core z k st t.gen none
    let s := tileUpd s core (slotTile d k) (fun t => { t with st := .ready })
    if st = 1 then regionError s d.rid 0x0D (coreLoc core) [BitVec.ofNat 64 z, BitVec.ofNat 64 k] else s
  else s

/-! ### Destination reduction (R135) -/

/-- The larger or smaller of two FP32 values; a NaN gives the canonical one, −0 < +0. -/
def fp32Pick (mx : Bool) (x y : Nat) : Nat :=
  let a := FloatFmt.fp32.decode x
  let b := FloatFmt.fp32.decode y
  if a = .nan || b = .nan then 0x7FC00000
  else if mx then (if Num.ltz a b then y else x) else (if Num.ltz b a then y else x)

/-- A sum in a float format, rounded by RNE, subnormals kept. -/
def fmtAdd (f : FloatFmt) (x y : Nat) : Nat :=
  (f.encode false .rne (Num.add .rne (f.decode x) (f.decode y))).1

/-- Merge an incoming word with the resident one (R135). -/
def ropMerge (rop : Nat) (x y : BitVec 32) : BitVec 32 :=
  match rop with
  | 1 => BitVec.ofNat 32 (fmtAdd .fp32 x.toNat y.toNat)
  | 2 => BitVec.ofNat 32 (fmtAdd .bf16 (x.toNat % 65536) (y.toNat % 65536) +
      65536 * fmtAdd .bf16 (x.toNat / 65536) (y.toNat / 65536))
  | 3 => x + y
  | 4 => BitVec.ofNat 32 (fp32Pick true x.toNat y.toNat)
  | 5 => BitVec.ofNat 32 (fp32Pick false x.toNat y.toNat)
  | _ => y

/-- Apply one word of contribution q = NSEQ at a slot offset: contribution 0 replaces (R135). -/
def ropWord (s : State) (core z k : Nat) (first : Bool) (o : Nat) (y : BitVec 32) : State :=
  let d := zoneOf s core z
  let t := slotEnt s core z k
  let x := BitVec.ofNat 32 (leNat ((List.range 4).map (fun i => Mem.get s.mem (tileByte s core t (o + i)))))
  let v := if first then y else ropMerge d.rop.toNat x y
  tileUpd (tilePut s core t o (leBytes 4 v.toNat)) core (slotTile d k) (fun t => { t with
    fillb := BitVec.ofNat 32 (min 0xFFFFFFFF (t.fillb.toNat + 4)) })

/-- Apply the valid words of a held unit. -/
def ropUnit (s : State) (core : Nat) (u : RoUnit) : State :=
  (List.range 16).foldl (fun s i =>
    if u.valid.getLsbD i then ropWord s core u.zone u.slot (u.q == 0) (u.unit * 64 + 4 * i) (u.data.extractLsb' (32 * i) 32)
    else s) s

/-- Held words are applied as soon as NSEQ reaches their q (R135). -/
def roApply (s : State) (core z k : Nat) : State :=
  let q := (blkOf s core z k).nseq.toNat
  let mine (u : RoUnit) : Bool := u.zone == z && u.slot == k && u.q == q
  let us := (s.zn.reorder.at core).filter mine
  let s := { s with zn.reorder := s.zn.reorder.upd core (fun us => us.filter (fun u => !mine u)) }
  us.foldl (fun s u => ropUnit s core u) s

/-- NSEQ passes every contribution whose end token has been performed, applying held words (R135). -/
def roAdvance (core z k : Nat) : Nat → State → State
  | 0, s => s
  | fuel + 1, s =>
    let b := blkOf s core z k
    if b.ended.contains b.nseq.toNat then
      roAdvance core z k fuel (roApply (blkUpd s core z k (fun b => { b with nseq := b.nseq + 1#12 })) core z k)
    else s

/-- How a copy's write or end token ended at the receiver (R131, R135, R302). -/
inductive CopySt
  | ok | stale | bounds | reorder | seq | refused
  deriving DecidableEq, Repr, Inhabited

/-- Put words into a held unit, from word i on. -/
def RoUnit.put (u : RoUnit) (i : Nat) : List (BitVec 32) → RoUnit
  | [] => u
  | y :: ys => RoUnit.put { u with
      valid := u.valid ||| (1#16 <<< i)
      data := (u.data &&& ~~~((0xFFFFFFFF#512) <<< (32 * i))) ||| (y.setWidth 512 <<< (32 * i)) } (i + 1) ys

/-- The words of one unit of a contribution that came early, from a slot offset on, wait in the reorder store, or the unit is dropped
where neither the store nor the tenant's RMAX has room (R135). -/
def roHold (s : State) (core z k q o : Nat) (ys : List (BitVec 32)) : CopySt × State :=
  let us := s.zn.reorder.at core
  let unit := o / 64
  let same (u : RoUnit) : Bool := u.zone == z && u.slot == k && u.q == q && u.unit == unit
  let put (u : RoUnit) : RoUnit := u.put (o % 64 / 4) ys
  if us.any same then
    (.ok, { s with zn.reorder := s.zn.reorder.set core (us.map (fun u => if same u then put u else u)) })
  else
    let d := zoneOf s core z
    let ten := (s.xl.asids.at d.asid.toNat).ten
    let held := (us.filter (fun u => (s.xl.asids.at (zoneOf s core u.zone).asid.toNat).ten == ten)).length
    if us.length ≥ 4096 || held ≥ (s.zn.landQ.at ten.toNat).rmax then
      (.reorder, regionError s d.rid 0x0E (coreLoc core) [BitVec.ofNat 64 z, BitVec.ofNat 64 k])
    else (.ok, { s with zn.reorder := s.zn.reorder.set core (us ++ [put { (default : RoUnit) with
        zone := z, slot := k, q := q, unit := unit }]) })

/-- The 32-bit words of a byte list. -/
def words32 : Nat → List Byte → List (BitVec 32)
  | 0, _ => []
  | n + 1, bs => BitVec.ofNat 32 (leNat (bs.take 4)) :: words32 n (bs.drop 4)

/-- Apply consecutive words of contribution NSEQ. -/
def ropApply (s : State) (core z k : Nat) (first : Bool) (o : Nat) (ys : List (BitVec 32)) : State :=
  ys.zipIdx.foldl (fun s y => ropWord s core z k first (o + 4 * y.2) y.1) s

/-- Words of a contribution from a slot offset on, a 64-byte unit at a time. -/
def ropWords (core z k q : Nat) : Nat → Nat → List (BitVec 32) → State → CopySt × State
  | 0, _, _, s => (.ok, s)
  | fuel + 1, o, ys, s =>
    if ys.isEmpty then (.ok, s)
    else
      let n := 16 - o % 64 / 4
      let b := blkOf s core z k
      let r : CopySt × State :=
        if q < b.nseq.toNat then (.seq, s)
        else if q = b.nseq.toNat then (.ok, ropApply s core z k (q == 0) o (ys.take n))
        else roHold s core z k q o (ys.take n)
      let r' := ropWords core z k q fuel (o + 4 * n) (ys.drop n) r.2
      (if r.1 = .ok then r'.1 else r.1, r'.2)

/-- A write aimed at a landing slot, after its inbound window (R131). A contribution is applied by aligned words (R135): the low two bits
of its offset, of which no rule speaks, are dropped (DESIGN CHOICE, log entry 55). -/
def slotWrite (s : State) (w : SlotWrite) : CopySt × State :=
  let core := w.core.toNat
  let z := w.zone.toNat
  let k := w.slot.toNat
  let d := zoneOf s core z
  let t := slotEnt s core z k
  let drop := tileUpd s core (slotTile d k) (fun t => { t with dropw := BitVec.ofNat 8 (min 255 (t.dropw.toNat + 1)) })
  if !d.v || !t.isDef || t.st != .filling || t.gen != w.gen then (.stale, drop)
  else
    let room := t.size - min t.size w.off
    let bs := w.data.take room
    let tooLong := decide (w.data.length > room)
    let r : CopySt × State :=
      if d.rop = 0#3 then
        let x := tileWrite s core (slotTile d k) w.gen w.off bs
        (if x.1 then .ok else .stale, x.2)
      else ropWords core z k w.q.toNat (bs.length / 64 + 2) (w.off / 4 * 4) (words32 (bs.length / 4) bs) s
    let s := slotCheck r.2 core z k
    if tooLong then
      (.bounds, tileUpd s core (slotTile d k) (fun t => { t with dropw := BitVec.ofNat 8 (min 255 (t.dropw.toNat + 1)) }))
    else (r.1, s)

/-- A copy's end token reaches a slot (R131, R135). -/
def slotEnd (s : State) (w : SlotWrite) : CopySt × State :=
  let core := w.core.toNat
  let z := w.zone.toNat
  let k := w.slot.toNat
  let d := zoneOf s core z
  let t := slotEnt s core z k
  let b := blkOf s core z k
  if !d.v || !t.isDef || t.st != .filling || t.gen != w.gen then
    (.stale, tileUpd s core (slotTile d k) (fun t => { t with dropw := BitVec.ofNat 8 (min 255 (t.dropw.toNat + 1)) }))
  else if d.rop != 0#3 && (decide (w.q.toNat < b.nseq.toNat) || b.ended.contains w.q.toNat) then (.seq, s)
  else
    let s := blkUpd s core z k (fun b => { b with
      ca := if b.ca = 4095#12 then b.ca else b.ca + 1#12
      ended := if d.rop = 0#3 then b.ended else b.ended ++ [w.q.toNat] })
    let s := if d.rop = 0#3 then s else roAdvance core z k 4096 s
    (.ok, slotCheck s core z k)

/-! ### Barrier, release and link failure (R132, R136, R137) -/

/-- Statuses of zbar and zrel (R132, R136). -/
inductive ZopSt
  | ok | nozone | badrange | badstate
  deriving DecidableEq, Repr, Inhabited

/-- zbar: arm the barrier of a slot (R132). -/
def zoneBar (s : State) (core z k a b ring : Nat) (resv : Bool) (asid : BitVec 8) : ZopSt × State :=
  let d := zoneOf s core z
  let blk := blkOf s core z k
  let t := slotEnt s core z k
  if !d.v || d.asid != asid then (.nozone, s)
  else if k > d.ns1.toNat || a = 0 || a > 4095 || b = 0 || b > 2 ^ d.sz.toNat || resv then (.badrange, s)
  else if (t.st != .empty && t.st != .filling) || blk.arm then (.badstate, s)
  else
    let s := blkUpd s core z k (fun x => { x with
      arm := true, a := BitVec.ofNat 12 a, b := BitVec.ofNat 21 b, ring := BitVec.ofNat 6 ring })
    (.ok, slotCheck s core z k)

/-- zrel: release a READY slot, or abort a FILLING one (R136). -/
def zoneRel (s : State) (core z k : Nat) (abort resv : Bool) (asid : BitVec 8) : ZopSt × State :=
  let d := zoneOf s core z
  let t := slotEnt s core z k
  if !d.v || d.asid != asid then (.nozone, s)
  else if k > d.ns1.toNat || resv then (.badrange, s)
  else if t.st = .ready && !t.drq then
    (.ok, tileUpd s core (slotTile d k) (fun t => Tile.settle { t with drq := true, rel := true }))
  else if t.st = .filling && abort then (.ok, slotFail s core z k 5 none)
  else (.badstate, s)

/-- The slots of a core's zones that a predicate on their blocks and entries selects. -/
def slotsWhere (s : State) (p : Nat → Zone → SlotBlk → Tile → Bool) : List (Nat × Nat × Nat) :=
  (s.zn.zones.map (fun x =>
    ((List.range (x.2.ns1.toNat + 1)).filter (fun k =>
      x.2.v && p (x.1 / 8) x.2 (blkOf s (x.1 / 8) (x.1 % 8) k) (slotEnt s (x.1 / 8) (x.1 % 8) k))).map
      (fun k => (x.1 / 8, x.1 % 8, k)))).flatten

/-- Does a lost link concern a node: every node, or where one source is lost, that one (R137, R423)? -/
def lostFor (src : Option (BitVec 10)) (node : BitVec 10) : Bool := src.isNone || src == some node

/-- The receiving end of a lost link: every filling slot held through the port fails (R137); of a lost source, every one that it
holds there. -/
def zonesLinkLost (s : State) (port : Nat) (src : Option (BitVec 10)) : State :=
  (slotsWhere s (fun _ _ b t => t.st == .filling && b.pmask.getLsbD port &&
      (src.isNone || b.holders.any (fun h => h.port == some port && lostFor src h.node)))).foldl
    (fun s x => slotFail s x.1 x.2.1 x.2.2 3 (some port)) s

/-- The sending end: every reservation through the port writes a KIND 0x12 record and is removed (R137). -/
def resvLinkLost (s : State) (port : Nat) (src : Option (BitVec 10)) : State :=
  (s.zn.resv.map (fun x => x.2.map (fun r => (x.1, r)))).flatten.foldl (fun s x =>
    if x.2.port == some port && lostFor src (s.xl.peers.at (x.2.zh.extractLsb' 0 7).toNat).node then
      let zh := x.2.zh
      let tgt := (zh.extractLsb' 8 2).toNat * 64 + (zh.extractLsb' 10 6).toNat
      let node := (s.xl.peers.at (zh.extractLsb' 0 7).toNat).node
      let s := ringPush s x.1 x.2.ring (some x.2)
        (phaseWord0 0x12 3 node tgt (zh.extractLsb' 16 3).toNat x.2.slot.toNat x.2.gen) 0#64
      { s with zn.resv := s.zn.resv.upd x.1 (fun rs => rs.filter (fun r => r != x.2)) }
    else s) s

/-- The kill of an ASID: its zones lose V, and holders receive ABORT notices; no record is written (R139). -/
def zonesKill (s : State) (asid : BitVec 8) : State :=
  let hit := slotsWhere s (fun _ d b _ => d.asid == asid && !b.holders.isEmpty)
  let s := hit.foldl (fun s x =>
    let b := blkOf s x.1 x.2.1 x.2.2
    let t := slotEnt s x.1 x.2.1 x.2.2
    let s := blkUpd s x.1 x.2.1 x.2.2 (fun b => { b with holders := [], arm := false })
    sendNotices s (phaseWord0 0x11 5 (nodeId s) x.1 x.2.1 x.2.2 t.gen) (phaseWord1 t.fillb b.ca) b.holders) s
  { s with
    zn.zones := s.zn.zones.map (fun x => if x.2.asid == asid then (x.1, { x.2 with v := false }) else x)
    zn.reorder := s.zn.reorder.map (fun x => (x.1, x.2.filter (fun u => (zoneOf s x.1 u.zone).asid != asid))) }

end Sys2Proof.Machine
end

