-- ==== Sys2Proof/Machine/Regs.lean ====
section
/-! DEFINITION. The device register space (R34) and the notify pages (R193): what each word reads as, and what a write
under ASID 0 does. Writes that begin a step of their own hand on to it. -/

namespace Sys2Proof.Machine

/-! ### Writes that are decided at once -/

/-- Word 0 of an address-space descriptor (R10, R11). -/
def asidWrite (s : State) (i : Nat) (w : Word) : State :=
  let d := s.xl.asids.at i
  if d.v then
    if w.getLsbD 0 then s
    else
      let s := { s with xl.asids := s.xl.asids.set i { d with v := false, clearing := true, since := s.dev.gtsc } }
      pushEv s .asidDisableDrained { (default : EvArg) with asid := BitVec.ofNat 8 i }
  else
    let d := { d with root := w.extractLsb' 16 36, ten := w.extractLsb' 2 6 }
    if w.getLsbD 0 then
      let s := { s with xl.asids := s.xl.asids.set i { d with v := true, clearing := false, gen := d.gen + 1#16 } }
      if i = 0 then s else invalidate s (.asid (BitVec.ofNat 8 i))
    else { s with xl.asids := s.xl.asids.set i d }

/-- Sum of a value over the 64 tenants, one of them replaced. -/
def tenantSum (f : Nat → Nat) (t v : Nat) : Nat :=
  (List.range 64).foldl (fun n i => n + (if i = t then v else f i)) 0

/-- A walker-quota register (R27). -/
def walkQuotaWrite (s : State) (t : Nat) (w : Word) : State :=
  let q := s.xl.walkQ.at t
  let mx := (w.extractLsb' 8 7).toNat
  let mn := (w.extractLsb' 0 7).toNat
  let qe := q.qerr && !w.getLsbD 16
  if tenantSum (fun i => (s.xl.walkQ.at i).min) t mn > 64 || mn > mx || mx = 0 || mx > 64 then
    { s with xl.walkQ := s.xl.walkQ.set t { q with qerr := true } }
  else { s with xl.walkQ := s.xl.walkQ.set t { qerr := qe, maxC := 64 - mx, min := mn } }

/-- A word of a dirty-tracking descriptor (R31, R32). When ON becomes 1, the tenant's entries that grant W are removed, and the writes
translated through them are performed first, as in an invalidation of the tenant (R29). -/
def dirtyWrite (s : State) (t word : Nat) (w : Word) : State :=
  let d := s.xl.dirty.at t
  match word with
  | 0 =>
    let on := w.getLsbD 0 && d.npg != 0#27 && decide (d.npg.toNat ≤ 2 ^ 26)
    let s' := { s with xl.dirty := s.xl.dirty.set t { d with base := w.extractLsb' 16 36, on := on } }
    let mine (a : BitVec 8) : Bool := (s.xl.asids.at a.toNat).ten == BitVec.ofNat 6 t
    if on && !d.on then drainWrites (tlbRemove s' (fun l => l.w && mine l.asid) mine) else s'
  | 1 => { s with xl.dirty := s.xl.dirty.set t { d with vlo := w.extractLsb' 0 39 } }
  | 2 => { s with xl.dirty := s.xl.dirty.set t { d with npg := w.extractLsb' 0 27 } }
  | _ => s

/-- A landing-quota register (R130). An SMAX above 4,096 is no value of the field: it takes a free one. -/
def landQuotaWrite (s : State) (t : Nat) (w : Word) : State :=
  let q := s.zn.landQ.at t
  let sm := (w.extractLsb' 16 13).toNat
  let rm := (w.extractLsb' 0 13).toNat
  if tenantSum (fun i => (s.zn.landQ.at i).rmax) t rm > 4096 then
    { s with zn.landQ := s.zn.landQ.set t { q with qerr := true } }
  else
    let f := freeN s
    let s := if sm > 4096 then f.2 else s
    let sm := if sm > 4096 then f.1 % 4097 else sm
    { s with zn.landQ := s.zn.landQ.set t { qerr := q.qerr && !w.getLsbD 48, smaxC := 4096 - sm, set := true, rmaxV := rm } }

/-- A replay-quota register (R171). -/
def replayQuotaOp (s : State) (t : Nat) (w : Word) : State :=
  let q := s.ctl.replayQ.at t
  let rm := (w.extractLsb' 0 13).toNat
  if tenantSum (fun i => (s.ctl.replayQ.at i).rmax) t rm > 4096 then
    { s with ctl.replayQ := s.ctl.replayQ.set t { q with qerr := true } }
  else { s with ctl.replayQ := s.ctl.replayQ.set t { qerr := q.qerr && !w.getLsbD 16, set := true, rmaxV := rm } }

/-- A scheduling-quota register (R196). -/
def schedQuotaOp (s : State) (t : Nat) (w : Word) : State :=
  let q := s.rg.schedQ.at t
  let aq := (w.extractLsb' 36 12).toNat
  let hm := (w.extractLsb' 16 16).toNat
  let lm := (w.extractLsb' 0 11).toNat
  if tenantSum (fun i => (s.rg.schedQ.at i).aqmax) t aq > 4096 || tenantSum (fun i => (s.rg.schedQ.at i).hmax) t hm > 65536 ||
      tenantSum (fun i => (s.rg.schedQ.at i).lmax) t lm > 1024 || (1 ≤ lm && lm ≤ 7) then
    { s with rg.schedQ := s.rg.schedQ.set t { q with qerr := true } }
  else { s with rg.schedQ := s.rg.schedQ.set t { qerr := q.qerr && !w.getLsbD 48, set := true, aq := aq, hm := hm, lm := lm } }

/-- NODEID (R418). -/
def nodeidOp (s : State) (w : Word) : State :=
  let n := w.extractLsb' 0 10
  if n = 0x3FF#10 then s else { s with dev.nodeC := 0x3FF#10 - n }

/-- Is a context trapped (R190)? -/
def Ctx.trapped (c : Ctx) : Bool := c.st == .wait && c.wcode == 0

/-- A word of a fault window: effective only while the context is trapped; a write to word 1 clears PV (R380). -/
def faultWindowOp (s : State) (core x word : Nat) (w : Word) : State :=
  if !(ctxOf s core x).trapped then s
  else ctxUpd s core x (fun c => match word with
    | 0 => { c with flt0 := w &&& 0xFFFFFFFF00000000#64 }
    | 1 => { c with flt1 := w &&& 0x007FFFFFFFFFFFFF#64, flt0 := c.flt0 &&& ~~~(1#64 <<< 37) }
    | 2 => { c with flt2 := w }
    | _ => { c with flt3 := w })

/-- NCFG and RBASE of a notify page under ASID 0 (R193). -/
def notifyEnableOp (s : State) (die n : Nat) (w : Word) : State :=
  let k := die * 4096 + n
  let p := s.rg.notify.at k
  let asid := w.extractLsb' 56 8
  let logn := w.extractLsb' 48 5
  let ok := w.getLsbD 55 && (s.xl.asids.at asid.toNat).ten == BitVec.ofNat 6 (n / 64) && decide (4 ≤ logn.toNat) && decide (logn.toNat ≤ 16)
  let p' := { p with asid := asid, logn := logn, v := ok }
  { s with rg.notify := s.rg.notify.set k (if ok && !p.v then { p' with head := 0, tail := 0 } else p') }

/-- A doorbell write to TAIL (R194). -/
def doorbellOp (s : State) (die n : Nat) (w : Word) : State :=
  let k := die * 4096 + n
  let p := s.rg.notify.at k
  let t := w.extractLsb' 0 32
  let p' :=
    if !p.v then { p with nst := 1#8 }
    else if t = p.tail then { p with nst := 0#8 }
    else if (t - p.head).toNat < (p.tail - p.head).toNat then { p with nst := 2#8, ovr := true }
    else if (t - p.head).toNat > 2 ^ p.logn.toNat then { p with nst := 3#8, ovr := true }
    else { p with tail := t, nst := 0#8 }
  { s with rg.notify := s.rg.notify.set k p' }

/-- A write of one word of a notify page (R193). -/
def notifyWrite (s : State) (die n o : Nat) (asid : BitVec 8) (w : Word) : State :=
  let k := die * 4096 + n
  if o = 0x00 then
    (if asid = 0#8 then { s with rg.notify := s.rg.notify.upd k (fun p => { p with rbase := w.extractLsb' 6 49 }) } else s)
  else if o = 0x08 then (if asid = 0#8 then notifyEnableOp s die n w else s)
  else if o = 0x18 then doorbellOp s die n w
  else if o = 0x20 then
    (if w.getLsbD 16 then { s with rg.notify := s.rg.notify.upd k (fun p => { p with ovr := false }) } else s)
  else s

/-- The turn of a register write that is a step of its own. -/
def regTurn (i : Instr) (core unit : Nat) (w : Word) (s : State) : State :=
  pushFirst s i { (default : EvArg) with core := BitVec.ofNat 8 core, unit := BitVec.ofNat 12 unit, v := w }

/-- A write of word 0 of a port: its enable and mode changes are steps (R419). -/
def portWriteOp (s : State) (p : Nat) (w : Word) : State :=
  let q := s.lnk.ports.at p
  let arg : EvArg := { (default : EvArg) with port := BitVec.ofNat 5 p, v := w }
  let s := if w.getLsbD 60 && !q.en then pushFirst s .portEnable arg
    else if !w.getLsbD 60 && q.en then pushFirst s .portDisable arg else s
  if w.extractLsb' 61 2 != q.mode then pushFirst s .portModeSet arg else s

/-- The RW fields of an episode word, ignored while V = 1 (R403); V itself begins a step. An NS above 5 is no value of the field:
it takes a free one. -/
def episodeWriteOp (s : State) (hc e word : Nat) (w : Word) : State :=
  let k := hc * 16 + e
  let ep := s.hth.eps.at k
  let put (x : Episode) : State := { s with hth.eps := s.hth.eps.set k x }
  match word with
  | 0 =>
    if ep.v then (if w.getLsbD 63 then s else regTurn .episodeUnbind hc e w s)
    else
      let ns := w.extractLsb' 57 3
      let f := freeN s
      let s := if ns.toNat ≤ 5 then s else f.2
      let ns := if ns.toNat ≤ 5 then ns else BitVec.ofNat 3 (f.1 % 6)
      let s := { s with hth.eps := s.hth.eps.set k { ep with rule := w.getLsbD 60, ns := ns, key := w.extractLsb' 0 16 } }
      if w.getLsbD 63 then regTurn .episodeBind hc e w s else s
  | 1 => if ep.v then s else put { ep with base := w.extractLsb' 16 36 }
  | 2 => if ep.v then s else put { ep with limit := w.extractLsb' 16 36 }
  | 3 => if ep.v then s else put { ep with box := w.extractLsb' 16 39 }
  | 4 => if ep.v then s else put { ep with
      asid := w.extractLsb' 56 8, pdie := w.extractLsb' 54 2, pcore := w.extractLsb' 48 6, aq := w.extractLsb' 40 6, oq := w.extractLsb' 32 6 }
  | _ => s

/-- DBGA (R395): V, SLOT and AREA at once; a change of HALT begins a step. -/
def dbgaWriteOp (s : State) (core : Nat) (w : Word) : State :=
  let d := s.ctl.dbga.at core
  let s := { s with ctl.dbga := s.ctl.dbga.set core { d with v := w.getLsbD 63, slot := w.extractLsb' 55 2, area := w.extractLsb' 0 55 } }
  if w.getLsbD 62 && !d.halt then regTurn .debugHalt core 0 w s
  else if !w.getLsbD 62 && d.halt then regTurn .debugResume core 0 w s else s

/-- A write of an aligned word of the register space under ASID 0. Words that only hardware writes ignore it. -/
def regWrite (s : State) (die off : Nat) (w : Word) : State :=
  if off < 0x1000 then (if off / 8 % 2 = 0 then asidWrite s (off / 16) w else s)
  else if off < 0x10000 then s
  else if off < 0x10400 then
    { s with xl.peers := s.xl.peers.set ((off - 0x10000) / 8) { node := w.extractLsb' 1 10, v := w.getLsbD 0 } }
  else if off < 0x20000 then s
  else if off < 0x22000 then
    let k := (off - 0x20000) / 32
    let d := s.xl.wins.at k
    let d' := match off / 8 % 4 with
      | 0 => { d with src := w.extractLsb' 20 10, asid := w.extractLsb' 12 8, a := w.getLsbD 3, w := w.getLsbD 2, rd := w.getLsbD 1, v := w.getLsbD 0 }
      | 1 => { d with base := w.extractLsb' 16 28 }
      | 2 => { d with limit := w.extractLsb' 16 28 }
      | _ => d
    { s with xl.wins := s.xl.wins.set k d' }
  else if off < 0x30000 then s
  else if off < 0x30200 then walkQuotaWrite s ((off - 0x30000) / 8) w
  else if off < 0x40000 then s
  else if off < 0x40800 then dirtyWrite s ((off - 0x40000) / 32) (off / 8 % 4) w
  else if off < 0x50000 then s
  else if off < 0x60000 then
    let k := (off - 0x50000) / 8
    let i := k % 128
    let v := if i = 0 then w &&& 0x7F7F#64 else if i ≤ 64 then w &&& 0xFFFFFFF03FF#64 else 0#64
    { s with xl.groups := s.xl.groups.set k v }
  else if off < 0x60200 then landQuotaWrite s ((off - 0x60000) / 8) w
  else if off < 0x70000 then s
  else if off < 0x70200 then replayQuotaOp s ((off - 0x70000) / 8) w
  else if off < 0x80000 then s
  else if off < 0x80200 then schedQuotaOp s ((off - 0x80000) / 8) w
  else if off < 0x90000 then s
  else if off < 0x90010 then
    let l := s.ctl.logs.at die
    if off = 0x90000 then
      { s with ctl.logs := s.ctl.logs.set die { l with v := w.getLsbD 63, logn := w.extractLsb' 56 5, base := w.extractLsb' 6 46 } }
    else { s with ctl.logs := s.ctl.logs.set die { l with rd := w.extractLsb' 0 32 } }
  else if off < 0xA0000 then s
  else if off < 0xE0000 then
    let hc := (off - 0xA0000) / 0x1000
    let o := (off - 0xA0000) % 0x1000
    if o < 0x400 then episodeWriteOp s (die * 64 + hc) (o / 64) (o / 8 % 8) w else s
  else if off < 0xE0180 then (if off % 64 < 8 then portWriteOp s (die * 6 + (off - 0xE0000) / 64) w else s)
  else if off = 0xE0400 then nodeidOp s w
  else if off < 0x1000000 then s
  else if off < 0x1400000 then
    let core := die * 64 + (off - 0x1000000) / 0x10000
    let o := off % 0x10000
    if o = 0x2600 then { s with ctl.tsup := s.ctl.tsup.set core (Tsup.of w) }
    else if 0x2700 ≤ o && o < 0x2800 then faultWindowOp s core ((o - 0x2700) / 32) (o / 8 % 4) w
    else if o = 0x2900 then dbgaWriteOp s core w
    else s
  else s

/-- A device write of 4 or 8 bytes. A 4-byte write of a notify page writes the word with its other half as it reads. -/
def deviceWrite (s : State) (pa : Nat) (asid : BitVec 8) (bs : List Byte) : State :=
  match place pa with
  | .regs d o => if asid = 0#8 && bs.length == 8 then regWrite s d (o / 8 * 8) (leWord bs) else s
  | .notify d p o =>
    let b := o / 8 * 8
    let old := leBytes 8 ((s.rg.notify.at (d * 4096 + p)).word b).toNat
    -- a half write of the W1C word must not clear what it does not name
    let old := if b = 0x20 then leBytes 8 0 else old
    let new := old.take (o % 8) ++ bs ++ old.drop (o % 8 + bs.length)
    if b = 0x18 && o % 8 ≠ 0 then s else notifyWrite s d p b asid (leWord new)
  | _ => s

end Sys2Proof.Machine
end

