-- ==== Sys2Proof/Machine/Streams.lean ====
section
/-! DEFINITION. AGU streams (R146–R149, R290–R293): descriptors, ports, addressing, memory chains, ownership (R154–R156),
reads, writes, add and temper streams, seeking and closing. -/

namespace Sys2Proof.Machine

/-! ### Streams and their descriptors (R290) -/

def streamKey (core k : Nat) : Nat := core * 256 + k
def streamOf (s : State) (core k : Nat) : Stream := s.sm.streams.at (streamKey core k)
def streamUpd (s : State) (core k : Nat) (f : Stream → Stream) : State :=
  { s with sm.streams := s.sm.streams.upd (streamKey core k) f }

/-- A word of the descriptor. -/
def Stream.w (t : Stream) (i : Nat) : Word := t.desc.getD i 0#64
def Stream.dir (t : Stream) : Nat := ((t.w 0).extractLsb' 62 2).toNat
def Stream.pat (t : Stream) : Nat := ((t.w 0).extractLsb' 60 2).toNat
def Stream.til (t : Stream) : Bool := (t.w 0).getLsbD 59
def Stream.tile (t : Stream) : Nat := ((t.w 0).extractLsb' 51 8).toNat
def Stream.base (t : Stream) : Nat := ((t.w 1).extractLsb' 0 55).toNat
def Stream.count (t : Stream) : Nat := ((t.w 2).extractLsb' 32 32).toNat
def Stream.convBits (t : Stream) : BitVec 32 := (t.w 2).extractLsb' 0 32
def Stream.cw (t : Stream) : ConvWord := ConvWord.of t.convBits
def Stream.ordWord (t : Stream) : BitVec 16 := (t.w 3).extractLsb' 16 16
def Stream.str0 (t : Stream) : Int := ((t.w 4).extractLsb' 32 32).toInt
def Stream.n0 (t : Stream) : Nat := ((t.w 4).extractLsb' 0 32).toNat
def Stream.str1 (t : Stream) : Int := ((t.w 5).extractLsb' 32 32).toInt
def Stream.mask (t : Stream) : BitVec 16 := (t.w 5).extractLsb' 16 16
def Stream.scb (t : Stream) : Nat := ((t.w 6).extractLsb' 0 55).toNat
def Stream.set (t : Stream) : Nat := ((t.w 7).extractLsb' 60 4).toNat
def Stream.scope (t : Stream) : Nat := ((t.w 7).extractLsb' 56 4).toNat
def Stream.row0 (t : Stream) : Nat := ((t.w 7).extractLsb' 40 16).toNat
def Stream.e0 (t : Stream) : Nat := ((t.w 7).extractLsb' 26 14).toNat
/-- Elements per row, L. -/
def Stream.rowLen (t : Stream) : Nat := ((t.w 7).extractLsb' 12 14).toNat + 1
def Stream.ln (t : Stream) : Bool := (t.w 7).getLsbD 11
def Stream.stats (t : Stream) : Bool := (t.w 7).getLsbD 10

/-- Fields of the ordering word (R147). -/
def Stream.chn (t : Stream) : Nat := (t.ordWord.extractLsb' 12 4).toNat
def Stream.head (t : Stream) : Bool := t.ordWord.getLsbD 11
def Stream.tail (t : Stream) : Bool := t.ordWord.getLsbD 10
def Stream.pred (t : Stream) : Nat := (t.ordWord.extractLsb' 7 3).toNat
def Stream.seq (t : Stream) : Nat := (t.ordWord.extractLsb' 4 3).toNat
def Stream.succ (t : Stream) : Nat := (t.ordWord.extractLsb' 1 3).toNat

/-- The AG path of a stream. -/
def Stream.actor (t : Stream) (core : Nat) : Actor :=
  { core := core, path := .ag, asid := t.asid, gen := t.gen, rid := t.rid, late := t.marked }

/-- The AGU node of a stream: 8k + m (R154, R274). -/
def streamNode (k : Nat) : Nat := k / 4

/-- The counts word (R104). -/
def Stream.counts (t : Stream) : Nat := t.fmterr % 65536 * 2 ^ 48 + t.satn % 65536 * 2 ^ 32 + t.disp % 65536 * 2 ^ 16 + t.flsh % 65536

/-- What the converter keeps, from a stream and back. -/
def Stream.conv (t : Stream) : ConvState :=
  { modef := t.modef, xs := t.xs, fmterr := t.fmterr, satn := t.satn, disp := t.disp, flsh := t.flsh, nulln := t.nulln }
def Stream.withConv (t : Stream) (c : ConvState) : Stream :=
  { t with xs := c.xs, fmterr := c.fmterr, satn := c.satn, disp := c.disp, flsh := c.flsh, nulln := c.nulln }

/-! ### Ports (R317) -/

/-- The element that a stream's port stands at: the facing edge of the compute tile across its side, none where no
compute tile lies there. -/
def portElem (core k : Nat) : Option Nat :=
  let tile := memoryTiles.getD (k / 32) 0
  let m := k / 4 % 8
  let l := 4 * (m % 2) + k % 4
  let row := tile / 4
  let col := tile % 4
  let at_ (r c x y : Nat) : Option Nat := (computeTiles.idxOf? (r * 4 + c)).map (fun o => elemKey core o x y)
  match m / 2 with
  | 0 => if row = 0 then none else at_ (row - 1) col (2 * l) 31
  | 1 => if col = 3 then none else at_ row (col + 1) 0 (4 * l)
  | 2 => if row = 3 then none else at_ (row + 1) col (2 * l) 0
  | _ => if col = 0 then none else at_ row (col - 1) 15 (4 * l)

/-! ### Addresses (R85, R290) -/

/-- Elements of a packing unit and its bytes (R290): one element, two 4-bit ones, or four 6-bit ones. -/
def unitOf (fmt : Nat) : Nat × Nat :=
  if Conv.bits fmt = 4 then (2, 1) else if Conv.bits fmt = 6 then (4, 3) else (1, Conv.bits fmt / 8)

/-- The position of unit m of a PAT 0 or PAT 1 stream, as an integer. -/
def Stream.unitAt (t : Stream) (m : Nat) : Int :=
  if t.pat = 1 then (t.base : Int) + ((m % t.n0 : Nat) : Int) * t.str0 + ((m / t.n0 : Nat) : Int) * t.str1
  else (t.base : Int) + ((m * (unitOf t.cw.fmt).2 : Nat) : Int)

/-- The byte ranges of the access that delivers or writes element k: its unit, or, in a block format, the units of its
block. `off` is the byte offset that an address token gives instead of a position (log entry 17). -/
def Stream.extent (t : Stream) (k : Nat) (tok : Option Word) : List (Word × Nat) :=
  let u := unitOf t.cw.fmt
  let m := if Conv.isBlock t.cw.fmt then k / 32 * 32 / u.1 else k / u.1
  let n := if Conv.isBlock t.cw.fmt then 32 / u.1 else 1
  (List.range n).map (fun i => match tok with
    | some o => (BitVec.ofNat 64 t.base + o + BitVec.ofNat 64 (i * u.2), u.2)
    | none => (BitVec.ofInt 64 (t.unitAt (m + i)), u.2))

/-- Positions of the first and past the last byte of a stream's elements: the corners of its rows (R291). -/
def Stream.span (t : Stream) : Int × Int :=
  let u := unitOf t.cw.fmt
  let n := (t.count + u.1 - 1) / u.1
  let c := if t.pat = 1 then
      let r := (n - 1) / t.n0
      [0, min (t.n0 - 1) (n - 1), r * t.n0, n - 1] ++ (if r = 0 then [] else [r * t.n0 - 1])
    else [0, n - 1]
  let ps := c.map t.unitAt
  (ps.foldl min (t.unitAt 0), ps.foldl max (t.unitAt 0) + (u.2 : Int))

/-! ### Accesses (R26, R43, R155) -/

/-- One range split at 64-byte units. -/
def agSplit : Nat → Word → Nat → List (Word × Nat)
  | 0, _, _ => []
  | fuel + 1, va, n =>
    if n = 0 then []
    else
      let k := min n (64 - va.toNat % 64)
      (va, k) :: agSplit fuel (va + BitVec.ofNat 64 k) (n - k)

/-- A part of an access before its translation: where it lies, its bytes, and whether its address is an offset in the stream's tile-table
entry. -/
abbrev AgRange := Word × Nat × Bool

/-- The scale byte of a block: none where the format has none. It is an access at a virtual address, outside any tile-table entry. -/
def Stream.scaleVa (t : Stream) (k : Nat) : Option Word :=
  if Conv.isBlock t.cw.fmt then some (BitVec.ofNat 64 (t.scb + k / 32)) else none

/-- The parts of the access at element k: its bytes in order, then its block's scale byte. -/
def Stream.ranges (t : Stream) (k : Nat) (tok : Option Word) : List AgRange :=
  ((t.extent k tok).map (fun x => agSplit (x.2 + 1) x.1 x.2)).flatten.map (fun x => (x.1, x.2, t.til)) ++
    (match t.scaleVa k with
      | some va => [(va, 1, false)]
      | none => [])

/-- How far an access is translated: wholly, waiting for a refill at an address, or failed. -/
inductive AgTr
  | done (ps : List AgPart)
  | walk (ps : List AgPart) (va : Word)
  | fail (f : MemFault)
  deriving DecidableEq, Repr, Inhabited

/-- Translate one part by the stream's own entry (R25, R26), or bound it in the stream's tile-table entry (R291); none where a refill is
needed. ASID 0 needs none. -/
def agPart (s : State) (core : Nat) (t : Stream) (acc : Acc) (r : AgRange) : Option (MemFault ⊕ AgPart) :=
  let va := r.1
  let bad (st : XSt) : MemFault := { kind := .xlate, st := st, va := va }
  let give (x : XRes) : MemFault ⊕ AgPart :=
    if x.st != .ok then .inl (bad x.st) else .inr { va := va, pa := localPa s x.pa, mt := x.mt.bits, n := r.2.1 }
  let d := s.xl.asids.at t.asid.toNat
  if r.2.2 then
    let e := s.st.tiles.at (tileKey core t.tile)
    some (if va.toNat + r.2.1 ≤ e.size then .inr { va := va, pa := tilePa core e va.toNat, mt := MType.wb.bits, n := r.2.1 } else .inl (bad .type))
  else if t.asid = 0#8 then some (give (translate s (t.actor core) va acc r.2.1).1)
  else if va.extractLsb' 55 9 != 0#9 then some (.inl (bad .noncanon))
  else if !d.v || d.gen != t.gen then some (.inl (bad .noctx))
  else match t.tlb with
    | some l => if l.gen == d.gen && leafCovers l va then some (give (leafRes s (t.actor core) l acc va r.2.1 (if l.big then 2 else 3))) else none
    | none => none

/-- Translate the parts of an access that are not yet translated, in order. -/
def agParts (s : State) (core : Nat) (t : Stream) (acc : Acc) : List AgRange → List AgPart → AgTr
  | [], ps => .done ps
  | r :: rs, ps => match agPart s core t acc r with
    | none => .walk ps r.1
    | some (.inl f) => .fail f
    | some (.inr p) => agParts s core t acc rs (ps ++ [p])

/-- A stream asks its die's walker for a refill and holds (R26), where the walk queue has an entry for it (R27). -/
def agRefill (s : State) (core k : Nat) (va : Word) (write : Bool) : State :=
  let t := streamOf s core k
  let n := stamp s
  let w : WalkReq := {
    id := n.1, die := core / 64, asid := t.asid, gen := t.gen, va := va, write := write, core := core, strm := k
    granted := false, stale := false }
  if !walkRoom s (core / 64) (tenOf s t.asid) then s
  else streamUpd { n.2 with xl.walks := n.2.xl.walks ++ [w] } core k (fun t => { t with walking := true })

/-- A failed access of a stream: its region error, and no access after it (R26, R43). -/
def agFail (s : State) (core k : Nat) (f : MemFault) : State :=
  let rid := (streamOf s core k).rid
  f.raise (streamUpd s core k (fun t => { t with halted := true })) rid core

/-- Go on translating an access: its parts once all are translated, none while it holds or where it has failed. -/
def agXlate (s : State) (core k : Nat) (write : Bool) (rs : List AgRange) : Option (List AgPart) × State :=
  let t := streamOf s core k
  match agParts s core t (if write then .store else .load) (rs.drop t.parts.length) t.parts with
  | .done ps => (some ps, streamUpd s core k (fun t => { t with parts := ps }))
  | .walk ps va => (none, agRefill (streamUpd s core k (fun t => { t with parts := ps })) core k va write)
  | .fail f => (none, agFail s core k f)

/-- The valid ownership entry of a core whose range holds a bank-window offset (R154). -/
def ownerOf (s : State) (core off : Nat) : Option OwnEnt :=
  ((List.range 16).map (fun i => s.sm.own.at (core * 16 + i))).find? (fun o =>
    o.v && decide (o.base.toNat ≤ off) && decide (off < o.lim.toNat))

/-- Verdicts of R155 and R42 on an access. -/
inductive AgGate
  | go | hold | refuse
  deriving DecidableEq, Repr, Inhabited

/-- May a node access a part now? -/
def partGate (s : State) (core node : Nat) (a : Actor) (write : Bool) (p : AgPart) : AgGate :=
  if accBusy s a (MType.ofBits p.mt) p.pa p.n then .hold
  else match place p.pa with
  | .bank c o =>
    if c != core then .go
    else match ownerOf s core o with
      | none => .go
      | some e =>
        if e.owners.getD e.cur 64 == node then .go
        else if e.owners.contains node then .hold
        else if write then .refuse else .go
  | _ => .go

/-- May a stream make an access now? A hold of any part holds it, and a refusal refuses it. -/
def agGate (s : State) (core k : Nat) (write : Bool) (ps : List AgPart) : AgGate :=
  let gs := ps.map (partGate s core (streamNode k) ((streamOf s core k).actor core) write)
  if gs.contains .hold then .hold else if gs.contains .refuse then .refuse else .go

/-- Does a part lie in a remote window? -/
def AgPart.far (p : AgPart) : Option (Nat × Nat) :=
  match place p.pa with
  | .remote peer o => some (peer, o)
  | _ => none

/-- The reads of an access that leave the module are sent; their replies end its hold (R24; log entry 6). -/
def agFarReads (s : State) (core k : Nat) (ps : List AgPart) : State :=
  let a := { (streamOf s core k).actor core with strm := k + 1 }
  ps.zipIdx.foldl (fun s p => match p.1.far with
    | some (peer, o) => streamUpd (farSend s a peer o p.1.va (.read p.1.n) [] p.2) core k (fun t => { t with farN := t.farN + 1 })
    | none => s) s

/-- Has every remote part of a read been answered? -/
def Stream.farCome (t : Stream) (ps : List AgPart) : Bool :=
  t.farN == 0 && ps.zipIdx.all (fun p => p.1.far.isNone || t.farB.any (fun x => x.1 == p.2))

/-- Read the parts of an access, in order: of a remote one, the bytes that have come. -/
def agRead (a : Actor) (far : SMap (List Byte)) : Nat → List AgPart → State → (MemFault ⊕ List Byte) × State
  | _, [], s => (.inr [], s)
  | i, p :: ps, s =>
    let r := if p.far.isSome then (.inr (far.at i), s) else readAt s a (MType.ofBits p.mt) p.pa p.va p.n
    match r.1 with
    | .inl f => (.inl f, r.2)
    | .inr bs =>
      let q := agRead a far (i + 1) ps r.2
      (match q.1 with
        | .inl f => (.inl f, q.2)
        | .inr cs => (.inr (bs ++ cs), q.2))

/-- Bytes with the bits that a mask selects taken from others. -/
def maskBytes (old vs : List Byte) (m : Byte) : List Byte := (old.zip vs).map (fun x => maskByte x.1 x.2 m)

/-- Write the bytes of a part outside the core's own banks, or the bits of them that `m` selects: the other bits are those that stand there
as the write is performed (R157). -/
def agPut (s : State) (a : Actor) (p : AgPart) (bs : List Byte) (m : Byte) : Option MemFault × State :=
  if m = 0xFF#8 then writeAt s a (MType.ofBits p.mt) p.pa p.va bs
  else
    let r := readAt s a (MType.ofBits p.mt) p.pa p.va p.n
    match r.1 with
    | .inl f => (some f, r.2)
    | .inr old => writeAt r.2 a (MType.ofBits p.mt) p.pa p.va (maskBytes old bs m)

/-- Write the parts of an access: into the node's coalescing buffer where they lie in the core's own banks, and through
to the bank for a member of a chain, whose stores are performed before later members' loads (R148, R153). -/
def agWrite (core k : Nat) (m : Byte) : List AgPart → List Byte → State → Option MemFault × State
  | [], _, s => (none, s)
  | p :: ps, bs, s =>
    let t := streamOf s core k
    let node := streamNode k
    let r : Option MemFault × State :=
      match place p.pa with
      | .bank c o =>
        if c != core then agPut s { t.actor core with strm := k + 1 } p (bs.take p.n) m
        else if !bankScratch s c o then (some { kind := .mode, st := .type, va := p.va }, s)
        else if staleGen s t.asid t.gen then (none, s)
        else
          let s := coalWrite s core node k t.asid t.rid o (bs.take p.n) m
          (none, if t.chn = 0 then s else nodeFlushWait s core node (fun u => u.unit == o / 64))
      | _ => agPut s { t.actor core with strm := k + 1 } p (bs.take p.n) m
    match r.1 with
    | some f => (some f, r.2)
    | none => agWrite core k m ps (bs.drop p.n) r.2

/-- Has a stream writes outside the module that are not acknowledged (R161)? -/
def farWrites (s : State) (core k : Nat) : Bool := s.eng.far.any (fun r => !r.read && r.core == core && r.strm == k + 1)

/-- A reply from outside the module to an engine's request (R24, R161): a read's bytes go to the stream that waits for them; a request that
its target refused, or that read a poisoned word there, is the region error of R24 or R50. -/
def farEnd (s : State) (id st : Nat) (bs : List Byte) : State :=
  match s.eng.far.find? (fun r => r.id == id) with
  | none => s
  | some r =>
    let s := { s with eng.far := s.eng.far.filter (fun x => x.id != id) }
    let f : MemFault := if st = 0x13 then { kind := .poison, st := .ok, va := r.va } else { kind := .xlate, st := .refused, va := r.va }
    if st != 0 && r.strm != 0 && !r.read then agFail s r.core (r.strm - 1) f
    else if r.read && r.strm != 0 then
      if st = 0 then
        streamUpd s r.core (r.strm - 1) (fun t => { t with farN := t.farN - 1, farB := t.farB.set r.part bs })
      else agFail (streamUpd s r.core (r.strm - 1) (fun t => { t with farN := t.farN - 1 })) r.core (r.strm - 1) f
    else if st = 0 then s else f.raise s r.rid r.core

/-! ### Memory chains (R147–R149) -/

/-- The streams of a memory tile of a core. -/
def tileStreams (k : Nat) : List Nat := (List.range 32).map (fun i => k / 32 * 32 + i)

/-- The open streams of a stream's chain. -/
def chainOpen (s : State) (core k : Nat) : List Nat :=
  (tileStreams k).filter (fun j => (streamOf s core j).isOpen && (streamOf s core j).chn == (streamOf s core k).chn)

/-- The members of the chain's present segment. -/
def chainMembers (s : State) (core k : Nat) : List Nat := (chainOpen s core k).filter (fun j => (streamOf s core j).chainOn)

/-- Does a member have no more accesses in the segment: it has delivered EOT, or performs none any more? -/
def Stream.ended (t : Stream) : Bool := t.eot || !t.isOpen || t.halted || decide (t.count ≤ t.pos)

/-- Members from the HEAD along the SUCC links. -/
def chainWalk (ts : List (Nat × Stream)) : Nat → Nat × Stream → List Nat
  | 0, x => [x.1]
  | fuel + 1, x =>
    if x.2.tail then [x.1]
    else match ts.find? (fun y => y.2.seq == x.2.succ) with
      | some y => x.1 :: chainWalk ts fuel y
      | none => [x.1]

/-- The order of members within a round. -/
def chainOrder (ts : List (Nat × Stream)) : List Nat :=
  match ts.find? (fun x => x.2.head) with
  | some h => chainWalk ts ts.length h
  | none => []

/-- Is a chain well formed (R149)? -/
def chainOk (ts : List (Nat × Stream)) : Bool :=
  let o := chainOrder ts
  (ts.filter (fun x => x.2.head)).length == 1 && (ts.filter (fun x => x.2.tail)).length == 1 &&
    ts.all (fun x => x.2.head || ts.any (fun y => y.2.seq == x.2.pred && !y.2.tail && y.2.succ == x.2.seq)) &&
    o.length == ts.length && ts.all (fun x => o.contains x.1)

/-- Change every stream of a list. -/
def streamsUpd (s : State) (core : Nat) (ks : List Nat) (f : Stream → Stream) : State :=
  ks.foldl (fun s k => streamUpd s core k f) s

/-- The first access token of a segment reaches a member: the chain is checked, and each member keeps its place in the order (R149). -/
def chainStart (s : State) (core k : Nat) : State :=
  let ms := chainOpen s core k
  let ts := ms.map (fun j => (j, streamOf s core j))
  let ok := chainOk ts
  let o := chainOrder ts
  let s := ms.foldl (fun s j => streamUpd s core j (fun t => { t with
    chainOn := true, chainBad := !ok, round := 0, rank := (o.idxOf? j).getD 0 })) s
  if ok then s
  else regionError s (streamOf s core k).rid 0x05 (tileLoc core (k / 32))
    [BitVec.ofNat 64 (k / 32), BitVec.ofNat 64 (streamOf s core k).chn]

/-- The chain's verdict on the next access of a stream: now, not yet, or never in this segment. -/
def chainGate (s : State) (core k : Nat) : AgGate :=
  let t := streamOf s core k
  if t.chn = 0 then .go
  else if !t.chainOn then .hold
  else if t.chainBad then .refuse
  else
    let ms := (chainMembers s core k).map (fun j => (j, streamOf s core j))
    if t.eot then .hold
    else if ms.all (fun x => x.1 == k || x.2.ended ||
      (if x.2.rank < t.rank then decide (t.round < x.2.round) else decide (t.round ≤ x.2.round))) then .go else .hold

/-- An access token reaches a member of a chain whose segment has not begun. -/
def chainTouch (s : State) (core k : Nat) : State :=
  if (streamOf s core k).chn = 0 || !(chainMembers s core k).isEmpty then s else chainStart s core k

/-- A segment ends when every member has delivered EOT (R148); rounds count from 0 again. -/
def chainEnd (s : State) (core k : Nat) : State :=
  let ms := chainMembers s core k
  if (streamOf s core k).chn = 0 || !ms.all (fun j => (streamOf s core j).ended) then s
  else streamsUpd s core ms (fun t => { t with chainOn := false, chainBad := false, eot := false, round := 0 })

/-! ### Marks at streams (R97, R386) -/

/-- A stream's share of a wave's snapshot: its state as the MARK passes, with the ownership entries its node owns
(R159, R387). -/
def streamSnap (s : State) (core k : Nat) : State :=
  let t := streamOf s core k
  if t.rid = 0 then s
  else
    let own := (s.sm.own.filter (fun o => o.1 / 16 == core && o.2.v && o.2.owners.getD o.2.cur 64 == streamNode k))
    regUpd s t.rid (fun r => { r with cur := { r.cur with
      streams := r.cur.streams.set (streamKey core k) t, own := own.foldl (fun m o => m.set o.1 o.2) r.cur.own } })

/-- A source places the MARK of a wave before its next element. -/
def streamMark (s : State) (core k m : Nat) : State :=
  let t := streamOf s core k
  let s := if t.cin != t.cout then regionError s t.rid 0x1E (tileLoc core (k / 32)) [] else s
  let s := streamUpd s core k (fun t => { t with port := t.port ++ [ctlTok 0#4 6 m], mark := none, cin := 1, cout := 0 })
  let s := streamSnap s core k
  progress s core t.rid

/-- All add streams of a set that the region has open have seen the MARK (R122). -/
def setMark (s : State) (core rid a : Nat) : State :=
  let ks := (List.range 256).filter (fun k =>
    (streamOf s core k).isOpen && (streamOf s core k).rid == rid && (streamOf s core k).dir == 2 && (streamOf s core k).set == a)
  if ks.all (fun k => (streamOf s core k).marked) then
    let s := accUpd s core a (fun d => { d with marked := true })
    let s := { s with ac.rows := s.ac.rows.map (fun x => if x.1 / 65536 == setKey core a then (x.1, { x.2 with imaged := false }) else x) }
    let d := s.ac.sets.at (setKey core a)
    regUpd s rid (fun r => { r with cur := { r.cur with sets := r.cur.sets.set (setKey core a) d } })
  else s

/-- The MARK reaches a write or add stream, a sink (R386). -/
def sinkMark (s : State) (core k : Nat) : State :=
  let t := streamOf s core k
  let s := if t.cin != t.cout then regionError s t.rid 0x1E (tileLoc core (k / 32)) [] else s
  let s := streamUpd s core k (fun t => { t with marked := true, cin := 0, cout := 0 })
  let s := streamSnap s core k
  let s := if t.dir = 2 then setMark s core t.rid t.set else s
  progress s core t.rid

/-! ### Reads (R86, R90, R439) -/

/-- Tokens of the access at element k, from the bytes of its units and its scale byte. The half of a byte, or the part of a packing unit,
that is delivered is the one of the element's place in the stream, under an address token too (DESIGN CHOICE, log entry 17). -/
def Stream.readToks (t : Stream) (k : Nat) (bs : List Byte) (scale : Nat) : List FTok × Stream :=
  let w := t.cw
  let b := Conv.bits w.fmt
  let c := t.conv
  if Conv.isBlock w.fmt then
    let r := Conv.blockIn w c (Conv.unpackCodes b 32 (leNat bs)) scale (k % 32) (t.count - k)
    ((r.1.drop (k % 32)).take (t.count - k), t.withConv r.2)
  else
    let code := leNat bs / 2 ^ (b * (k % (unitOf w.fmt).1)) % 2 ^ b
    let r := Conv.elemIn w c (if w.fmt = 19 then code % 2 ^ 48 else code)
    ([r.1], t.withConv r.2)

/-- An access ends: nothing of its translation or of its remote reads stays. -/
def Stream.fresh (t : Stream) : Stream := { t with parts := [], farN := 0, farB := [] }

/-- Perform the read of element k, or of what remains of its block, and deliver its tokens to the port. -/
def readAccess (s : State) (core k : Nat) (ix : Nat) (tok : Option Word) : State :=
  let t := streamOf s core k
  let x := agXlate s core k false (t.ranges ix tok)
  match x.1 with
  | none => x.2
  | some ps =>
    let s := x.2
    let t := streamOf s core k
    if agGate s core k false ps == .hold || decide (0 < t.farN) then s
    else if !t.farCome ps then agFarReads s core k ps
    else
      let r := agRead (t.actor core) t.farB 0 ps s
      match r.1 with
      | .inl f => agFail r.2 core k f
      | .inr bs =>
        let n := bs.length - (if (t.scaleVa ix).isSome then 1 else 0)
        let o := (streamOf r.2 core k).readToks ix (bs.take n) (leNat (bs.drop n))
        let m := o.1.length
        let s := streamUpd r.2 core k (fun _ => { o.2.fresh with
          port := o.2.port ++ o.1, pos := o.2.pos + m, done := o.2.done + m, cin := o.2.cin + m, round := o.2.round + 1 })
        progress s core t.rid

/-! ### Writes (R87–R91, R439) -/

/-- Write bytes over the parts of an access, or the bits of them that `m` selects, and count the elements performed. -/
def writeBytes (s : State) (core k : Nat) (ps : List AgPart) (bs : List Byte) (m : Byte) (n : Nat) (st : Stream → Stream) : State :=
  let rid := (streamOf s core k).rid
  let bad := ps.find? (fun p => partGate s core (streamNode k) ((streamOf s core k).actor core) true p == .refuse)
  let ok : Option MemFault × State := match bad with
    | some p => (none, regionError s rid 0x04 (coreLoc core) [p.va])
    | none => agWrite core k m ps bs s
  match ok.1 with
  | some f => agFail ok.2 core k f
  | none =>
    let s := streamUpd ok.2 core k (fun t => st { t.fresh with done := t.done + n, cout := t.cout + n })
    progress s core rid

/-- Does a write stream's gathered block wait to be written: it is full, holds the stream's last element, or was left by a
seek? -/
def Stream.blockFull (t : Stream) : Bool :=
  decide (0 < t.gather.length) && (t.pos != t.gatherIx + t.gather.length || decide (32 ≤ t.gatherIx % 32 + t.gather.length) || decide (t.count ≤ t.gatherIx + t.gather.length))

/-- Write the gathered block: elements it did not receive are 0, and the scale is taken over those it did (R91, R292). -/
def writeBlock (s : State) (core k : Nat) : State :=
  let t := streamOf s core k
  if t.gather.isEmpty then s
  else
    let x := agXlate s core k true (t.ranges t.gatherIx t.addr)
    match x.1 with
    | none => x.2
    | some ps =>
      if agGate x.2 core k true ps == .hold then x.2
      else
        let t := streamOf x.2 core k
        let pre := t.gatherIx % 32
        let n := pre + t.gather.length
        let ts := List.replicate pre 0#48 ++ t.gather ++ List.replicate (32 - n) 0#48
        let o := Conv.blockOut t.cw t.conv ts n
        let bs := leBytes (Conv.blockBytes t.cw.fmt) (Conv.packCodes (Conv.bits t.cw.fmt) o.1) ++ [BitVec.ofNat 8 o.2.1]
        writeBytes (streamUpd x.2 core k (fun t => t.withConv o.2.2)) core k ps bs 0xFF#8 t.gather.length
          (fun t => { t with gather := [], addr := none, round := t.round + 1 })

/-- Write one element that is not in a block; `fin` is what its access leaves in the stream. A 4-bit element takes the half of its byte
that its place in the stream gives, under an address token too (R85; DESIGN CHOICE, log entry 17), and leaves the other half. -/
def writeElem (s : State) (core k : Nat) (ix : Nat) (tok : Option Word) (d : FTok) (fin : Stream → Stream) : State :=
  let t := streamOf s core k
  let x := agXlate s core k true (t.ranges ix tok)
  match x.1 with
  | none => x.2
  | some ps =>
    if agGate x.2 core k true ps == .hold then x.2
    else
      let t := streamOf x.2 core k
      let o := Conv.elemOut t.cw t.conv d
      let s := streamUpd x.2 core k (fun t => t.withConv o.2)
      if Conv.bits t.cw.fmt = 4 then
        writeBytes s core k ps [BitVec.ofNat 8 (o.1 % 16 * 17)] (if ix % 2 = 0 then 0x0F#8 else 0xF0#8) 1 fin
      else writeBytes s core k ps (leBytes (Conv.bits t.cw.fmt / 8) o.1) 0xFF#8 1 fin

/-- The pulled token leaves the port. -/
def inpPop (t : Stream) : Stream := { t with inp := t.inp.drop 1 }

/-- The offset that an address token names (log entry 17). -/
def Stream.offset (t : Stream) (d : FTok) : Word := Config.tokenOffset (d &&& 0x03FFFFFFFFFF#48) (Conv.bits t.cw.fmt)

/-- A data token at a write stream: it is the data of the next element, or of the address that came before it. A gathered token fills its
place in its chain's round as it is taken, the last of its block when the block is written (DESIGN CHOICE, log entry 17). -/
def writeToken (s : State) (core k : Nat) (d : FTok) : State :=
  let t := streamOf s core k
  if t.count ≤ t.pos then streamUpd s core k inpPop
  else if Conv.isBlock t.cw.fmt then
    streamUpd s core k (fun t =>
      let u : Stream := inpPop { t with
        gather := t.gather ++ [d], gatherIx := if t.gather.isEmpty then t.pos else t.gatherIx, pos := t.pos + 1, cin := t.cin + 1 }
      if u.blockFull then u else { u with round := u.round + 1 })
  else writeElem s core k t.pos t.addr d (fun t => inpPop { t with
    pos := t.pos + 1, cin := t.cin + 1, addr := none, round := t.round + 1 })

/-- A control token at a stream's port performs nothing there but to mark the wave and the segment (R148, R386, R439). -/
def portControl (s : State) (core k : Nat) (d : FTok) : State :=
  let t := streamOf s core k
  let s := streamUpd s core k inpPop
  let c := tokCode d
  if c = 6 then (if t.dir = 1 || t.dir = 2 then sinkMark s core k else s)
  else if c = 2 then chainEnd (streamUpd s core k (fun t => { t with eot := t.chainOn })) core k
  else s

/-- A data token at a memory node or write stream whose turn in its chain has come. -/
def dataToken (s : State) (core k : Nat) (d : FTok) : State :=
  let t := streamOf s core k
  let skip (s : State) : State := streamUpd s core k (fun t => inpPop { t with round := t.round + 1 })
  if t.pat = 2 && t.addr.isNone then
    if t.count ≤ t.pos then streamUpd s core k inpPop
    else if tokN d then skip s
    else if t.dir = 0 then
      let before := t.pos
      let s := readAccess s core k t.pos (some (t.offset d))
      if (streamOf s core k).pos = before then s else streamUpd s core k inpPop
    else streamUpd s core k (fun t => inpPop { t with addr := some (t.offset d) })
  else writeToken s core k d

/-- The automatic MARK of a read stream is due before the element at its midpoint (R388). -/
def streamAuto (s : State) (core k : Nat) : State :=
  match (streamOf s core k).autoAt with
  | some m =>
    if m ≤ (streamOf s core k).pos then streamUpd s core k (fun t => { t with mark := some 0xFFFFFF, autoAt := none }) else s
  | none => s

/-- The next access of a stream (R146). HAND tokens, row adds and temper reads are steps of their own. -/
def streamAccess (s : State) (core k : Nat) : State :=
  let s := streamAuto s core k
  let t := streamOf s core k
  if !t.isOpen || t.halted || t.walking then s
  else if t.dir = 1 && t.blockFull then writeBlock s core k
  else match t.mark with
  | some m => if t.port.isEmpty && (t.dir == 0 || t.dir == 3) then streamMark s core k m else s
  | none =>
    if t.dir = 0 && t.pat != 2 then
      if !t.port.isEmpty || t.count ≤ t.pos then s
      else
        let s := chainTouch s core k
        match chainGate s core k with
        | .go => readAccess s core k t.pos none
        | _ => s
    else match t.inp with
    | [] => s
    | d :: _ =>
      if tokC d then
        if tokCode d = 10 || (t.eot && t.chainOn) then s else portControl s core k d
      else if t.dir ≥ 2 || (t.dir = 0 && !t.port.isEmpty) then s
      else
        let s := if t.addr.isNone then chainTouch s core k else s
        match chainGate s core k with
        | .go => dataToken s core k d
        | .refuse => streamUpd s core k inpPop
        | .hold => s

/-! ### Hand-over (R156) -/

/-- Steps 2 and 3 of R156: the current owner node flushes the range's units and waits for them, and CUR advances. -/
def handOver (s : State) (core i : Nat) : State :=
  let o := s.sm.own.at (core * 16 + i)
  let node := o.owners.getD o.cur 0
  let s := nodeFlushWait s core node (fun u => decide (o.base.toNat ≤ u.unit * 64) && decide (u.unit * 64 < o.lim.toNat))
  { s with sm.own := s.sm.own.upd (core * 16 + i) (fun o => { o with cur := (o.cur + 1) % (o.no + 1) }) }

/-- A HAND token at the head of a stream's port, once the accesses before it have been handed over: a block that is full is written first;
one partly gathered is no access yet (DESIGN CHOICE, log entry 17). A memory node that reads passes the token on; at a write or add
stream the fabric ends. -/
def handToken (s : State) (core k : Nat) : State :=
  let t := streamOf s core k
  match t.inp with
  | [] => s
  | d :: _ =>
    if !t.isOpen || !tokC d || tokCode d != 10 then s
    else if t.dir == 1 && t.blockFull && !t.halted then (if t.walking then s else writeBlock s core k)
    else
      let i := tokArg d % 16
      let o := s.sm.own.at (core * 16 + i)
      let s := streamUpd s core k inpPop
      if !o.v || o.owners.getD o.cur 64 != streamNode k || tokArg d / 16 != 0 then
        regionError s t.rid 0x04 (tileLoc core (k / 32)) [d.setWidth 64]
      else
        let s := progress (handOver s core i) core t.rid
        if t.dir = 0 then streamUpd s core k (fun t => { t with port := t.port ++ [d], cin := t.cin + 1 }) else s

/-! ### Accumulator streams (R111–R117) -/

/-- An element of a row add is taken; `drop` says whether what follows of the row add is discarded with it. -/
def addTake (t : Stream) (drop : Bool) : Stream :=
  inpPop { t with
    pos := t.pos + 1, done := t.done + 1, cin := t.cin + 1, cout := t.cout + 1, round := t.round + 1
    drop := drop && decide (t.pos % t.rowLen + 1 < t.rowLen) }

/-- The next element of an add stream's row add (R111–R113), whose turn in a chain has come. A row add on a row that is not open, or that
is or becomes poisoned, is discarded whole: no element that follows is applied, and RADD does not count it (R111, R118). -/
def addElement (s : State) (core k : Nat) (d : FTok) : State :=
  let t := streamOf s core k
  let a := t.set
  let j := t.row0 + t.pos / t.rowLen
  let e := t.pos % t.rowLen
  let row := s.ac.rows.at (rowKey core a j)
  let release_ (s : State) : State := if row.hold = k + 1 then rowPut s core a j { row with hold := 0 } else s
  if t.drop then streamUpd s core k (fun t => addTake t true)
  else if rowHeld s core a j (k + 1) then s
  else if !rowOpen s core a j || (s.ac.sets.at (setKey core a)).asid != t.asid then
    regionError (release_ (streamUpd s core k (fun t => addTake t true))) t.rid 0x0C (tileLoc core (k / 32)) (rowDetail a j)
  else if rowPoisoned s core a j then rowAddPoison (release_ (streamUpd s core k (fun t => addTake t true))) core a j
  else
    let s := rowSnap s core a j
    let s := rowPut s core a j { (s.ac.rows.at (rowKey core a j)) with hold := k + 1 }
    let s := rowAddPart s core a j (t.e0 + e) [d]
    let s := if e + 1 = t.rowLen then rowAddEnd s core a j else s
    progress (streamUpd s core k (fun t => addTake t false)) core t.rid

/-- The next token of an add stream. -/
def addAccess (s : State) (core k : Nat) : State :=
  let t := streamOf s core k
  match t.inp with
  | [] => s
  | d :: _ =>
    if !t.isOpen || t.dir != 2 || t.halted || tokC d then s
    else if t.count ≤ t.pos then streamUpd s core k inpPop
    else
      let s := chainTouch s core k
      match chainGate s core k with
      | .go => addElement s core k d
      | .refuse => streamUpd s core k inpPop
      | .hold => s

/-- The temper read of a stream's next row, whose turn in a chain has come: it waits for the scopes of its mask first (R117). A refused
row delivers nothing and the stream goes on. -/
def temperRow (s : State) (core k : Nat) : State :=
  let t := streamOf s core k
  let a := t.set
  let d := s.ac.sets.at (setKey core a)
  let j := t.row0 + t.pos / t.rowLen
  if d.v && scopesOpen d t.mask then s
  else if !rowOpen s core a j then
    regionError (streamUpd s core k (fun t => { t with pos := t.pos + t.rowLen, round := t.round + 1 })) t.rid 0x0C (tileLoc core (k / 32))
      (rowDetail a j)
  else if rowHeld s core a j 0 then s
  else
    let toks := temperToks d (s.ac.rows.at (rowKey core a j)) t.ln t.stats t.e0 t.rowLen
    let s := streamUpd s core k (fun t => { t with
      port := toks, pos := t.pos + t.rowLen, done := t.done + t.rowLen, cin := t.cin + toks.length, round := t.round + 1 })
    progress (temperDone s core a j) core t.rid

/-- The next temper read of a stream (R114, R117). -/
def temperAccess (s : State) (core k : Nat) : State :=
  let t := streamOf s core k
  if !t.isOpen || t.dir != 3 || t.halted || !t.port.isEmpty || t.mark.isSome || t.count ≤ t.pos then s
  else
    let s := chainTouch s core k
    match chainGate s core k with
    | .go => temperRow s core k
    | _ => s

/-! ### Opening, seeking and closing (R291, R292) -/

/-- The checks of R147 on an ordering word. -/
def chainWordBad (s : State) (core k : Nat) (t : Stream) : Bool :=
  let w := t.ordWord
  (t.chn = 0 && w.extractLsb' 1 11 != 0#11) || w.getLsbD 0 ||
    (t.chn != 0 && (tileStreams k).any (fun j =>
      let o := streamOf s core j
      j != k && o.isOpen && o.chn == t.chn && (o.seq == t.seq || (o.head && t.head) || (o.tail && t.tail))))

/-- The handler words of a resident element. -/
def elemWords (s : State) (e : Nat) : List Word := ((s.fab.elems.at e).act.filter (fun h => h.2.present)).map (fun h => h.2.word)

/-- Has a stream's port a butterfly: ahead of it for a write stream, after it for a read stream (R101, R103)? -/
def portBfly (s : State) (e : Nat) (write : Bool) : Bool :=
  let next (f : Nat) : List Nat :=
    if write then (s.fab.elems.filter (fun x => (handSucc x.1 (elemWords s x.1)).contains f)).map (·.1) else handSucc f (elemWords s f)
  (bflyReach (elemWords s) next 64 [] e).1 != 0

/-- The status that sopen gives a descriptor (R82, R291), for the issuing ASID. -/
def openStatus (s : State) (core k : Nat) (t : Stream) (asid : BitVec 8) : Nat :=
  let old := streamOf s core k
  let w := t.cw
  let a := s.ac.sets.at (setKey core t.set)
  if old.isOpen || old.bound != 0 then 1
  else if (t.w 0).extractLsb' 0 51 != 0#51 || (t.w 1).extractLsb' 55 9 != 0#9 || (t.w 3).extractLsb' 0 16 != 0#16 ||
      (t.w 5).extractLsb' 0 16 != 0#16 || (t.w 6).extractLsb' 55 9 != 0#9 || (t.w 7).extractLsb' 0 10 != 0#10 ||
      t.pat = 3 || t.count = 0 || (t.pat = 1 && t.dir < 2 && t.n0 = 0) || (portElem core k).isNone then 2
  else if chainWordBad s core k t then 3
  else if ConvWord.bad t.convBits || (decide (0 < w.bfn) && (portElem core k).any (fun e => !portBfly s e (t.dir == 1))) then 4
  else if t.base % (max 1 (Conv.bits w.fmt / 8)) != 0 then 5
  else if decide (0 < w.bfn) && t.count % 2 ^ w.bfn != 0 then 6
  else if t.dir < 2 then 0
  else if !a.v || a.asid != asid then 7
  else if t.convBits != 0#32 || decide (a.n < t.e0 + t.rowLen) || t.count % t.rowLen != 0 then 2
  else 0

/-- TILEBOUND of an sopen (R291): the whole extent of PAT 0 and 1, BASE alone otherwise. -/
def openBound (s : State) (core : Nat) (t : Stream) : Bool :=
  let e := s.st.tiles.at (tileKey core t.tile)
  if t.pat = 2 || t.dir ≥ 2 then decide (e.size ≤ t.base)
  else decide (t.span.1 < 0) || decide ((e.size : Int) < t.span.2)

/-- An accepted descriptor opens the stream: MODEF as at block start, XS, cleared counts, its scope opened, and its first
access translated (R26, R95, R100, R104, R116). -/
def streamOpen (s : State) (core k : Nat) (desc : List Word) (c : Ctx) : State :=
  let t : Stream := { (default : Stream) with desc := desc }
  let seed := (t.w 3).extractLsb' 32 32
  let s := streamUpd s core k (fun _ => { t with
    isOpen := true, rid := c.rid, asid := c.asid, gen := c.gen, modef := c.modef, xs := if seed = 0#32 then 1#32 else seed })
  let s := if t.dir = 2 then accUpd s core t.set (fun d => { d with opn := d.opn ||| (1#16 <<< t.scope) }) else s
  if t.dir ≥ 2 || t.pat = 2 || t.til then s
  else
    (agXlate s core k (t.dir == 1) (t.ranges 0 none)).2

/-- The accesses that a stream has taken and not performed are performed as far as they may be: the token at its port and its last block,
which is completed with elements of value 0 where it was partly gathered (R91; DESIGN CHOICE, log entry 17: no rule says so of a
sclose). -/
def streamSettle (s : State) (core k : Nat) : State :=
  let t := streamOf s core k
  let s := if t.dir = 2 then addAccess s core k else if t.dir = 1 then streamAccess s core k else s
  let t := streamOf s core k
  if t.dir = 1 && t.inp.isEmpty && !t.gather.isEmpty && !t.halted && !t.walking then writeBlock s core k else s

/-- Is an access of the stream still to be performed (R152)? A PAT 0 or PAT 1 stream and a temper read stream have COUNT of them. Those
of a stream that tokens address, and of an add stream, are the ones whose tokens have come: R113 lets an sclose find a row add partly
delivered (DEDUCED, log entry 17). A stream that performs no access any more has none. -/
def Stream.unsettled (t : Stream) : Bool :=
  !t.halted && !t.chainBad &&
    (t.walking || !t.gather.isEmpty || decide (0 < t.farN) ||
      (if t.pat = 2 && decide (t.dir < 2) || t.dir = 2 then t.inp.any (fun d => !tokC d) || t.addr.isSome else decide (t.pos < t.count)))

/-- A stream closes: a row add partly delivered ends (R113), its coalescing units are flushed and performed, and its
tile-table reference finishes (R56). -/
def streamShut (s : State) (core k : Nat) : State :=
  let t := streamOf s core k
  let s := if t.dir = 2 && t.pos % t.rowLen != 0 && (s.ac.rows.at (rowKey core t.set (t.row0 + t.pos / t.rowLen))).hold == k + 1 then
      rowAddEnd s core t.set (t.row0 + t.pos / t.rowLen) else s
  let s := nodeFlushWait s core (streamNode k) (fun u => u.streams.contains k)
  let s := if t.til then tileDone s core t.tile else s
  let s := { s with
    xl.walks := s.xl.walks.filter (fun w => !(w.core == core && w.strm == k))
    eng.far := s.eng.far.filter (fun r => !(r.read && r.core == core && r.strm == k + 1)) }
  let s := streamUpd s core k (fun t => { t.fresh with
    isOpen := false, port := [], inp := [], gather := [], addr := none, mark := none, walking := false, tlb := none, drop := false })
  chainEnd s core k

/-- sseek at commit (R292): a partly gathered block is written first, and the next access is element n. -/
def streamSeek (s : State) (core k n : Nat) : State :=
  let t := streamOf s core k
  if !t.isOpen then s
  else
    let s := if t.dir = 1 && !t.halted then writeBlock s core k else s
    streamUpd s core k (fun t => { t.fresh with pos := n })

/-! ### Walks of streams (R26, R27, R30) -/

/-- A free slot goes to a waiting request. -/
def walkGrant (s : State) (die : Nat) : State :=
  match walkNext s die with
  | none => s
  | some w => { s with xl.walks := s.xl.walks.map (fun x => if x.id == w.id then { x with granted := true } else x) }

/-- The oldest granted walk of a die ends: on success its leaf becomes the stream's entry, unless an invalidation came
between, which makes the requester walk again; a failure is the region error of R26. -/
def walkEnd (s : State) (die : Nat) : State :=
  match s.xl.walks.find? (fun w => w.die == die && w.granted) with
  | none => s
  | some w =>
    let s := { s with xl.walks := s.xl.walks.filter (fun x => x.id != w.id) }
    let r := walk s die w.asid w.gen w.va
    let s := streamUpd r.2 w.core w.strm (fun t => { t with walking := false })
    if w.stale then s
    else match r.1.st with
    | .ok =>
      let i := installLeaf s r.1.leaf w.va
      streamUpd i.2 w.core w.strm (fun t => { t with tlb := some i.1 })
    | st => agFail s w.core w.strm { kind := .xlate, st := st, va := w.va }

end Sys2Proof.Machine
end

