-- ==== Sys2Proof/Machine/Loader.lean ====
section
/-! DEFINITION. The loader's checks (R351, R319, R201, R165, R103, R78), writing element records (R319), and what cfgld and
cfgsh do when their load is performed (R295, R296). -/

namespace Sys2Proof.Machine

/-! ### Checks of one element (R351, 0x41 to 0x44) -/

/-- A handler word is legal at an element, in the slot loaded (R220, R222, R317, R348, R349). -/
def handlerLegal (e g : Nat) (w : Word) : Bool :=
  let h := unpackHandler w
  let op := (w.extractLsb' 56 8).toNat
  (decodeHandler w).isSome && handlerOk op h && h.graph.toNat == g &&
    (decide (h.dsel.toNat < 5) || (dselPort e h.dsel.toNat).isSome) &&
    (op != 0x62 || (edgePorts e)[0]? == some .island) &&
    (op != 0x64 || dselPort e h.dsel.toNat == some .coll)

/-- BADELEM. -/
def elemBad (g : Nat) (p : ImgElem) : Bool :=
  p.e0.extractLsb' 48 6 != 0#6 || p.e0.extractLsb' 13 23 != 0#23 || p.e6.extractLsb' 48 13 != 0#13 || p.slot != g ||
    !computeTiles.contains p.tile || p.k.any (fun k => k.extractLsb' 48 16 != 0#16) ||
    p.qs.any (fun q => (q == 4 || q == 7) && (srcPort p.key q).isNone)

/-- The source of an element's queue as the resident slots but g set it (R319): 6 where none does. -/
def srcSet (e : Elem) (g q : Nat) : Nat :=
  ((List.range 4).filterMap (fun j =>
    let n := e.qs.at (4 * j + q)
    if j == g || n == 0 || n == 7 then none else some (n - 1))).headD 6

/-- The source of an element's queue, whichever slot set it. -/
def Elem.src (e : Elem) (q : Nat) : Nat := srcSet e 4 q

/-- CONFLICT (R319), against the tables of other slots. -/
def elemConflict (s : State) (g : Nat) (p : ImgElem) : Bool :=
  let e := s.fab.elems.at p.key
  let other (h : Nat) : Bool := (e.act.at h).present && handlerSlot (e.act.at h) != g
  p.hs.any (fun h => other h.1) ||
    p.ch.any (fun c => (match e.bind c.1 with
      | some h => other h
      | none => false) || !p.hs.any (fun h => h.1 == c.2)) ||
    p.qs.zipIdx.any (fun q => q.1 != 6 && srcSet e g q.2 != 6 && srcSet e g q.2 != q.1) ||
    (match p.init with
      | some t => !p.ch.any (fun c => c.1 == (t.2.extractLsb' 43 4).toNat)
      | none => false)

/-- The source of a queue under an image, or as the resident slots set it. -/
def imgSrc (s : State) (ps : List ImgElem) (e q : Nat) : Nat :=
  match ps.find? (fun p => p.key == e) with
  | some p => if p.qs.getD q 6 != 6 then p.qs.getD q 6 else (s.fab.elems.at e).src q
  | none => (s.fab.elems.at e).src q

/-- The queue of an element whose source is a code. -/
def imgQueue (s : State) (ps : List ImgElem) (e src : Nat) : Option Nat := (List.range 4).find? (fun q => imgSrc s ps e q == src)

/-- NOQUEUE: a direction whose neighbour has no queue of the opposite source, or a DSEL of an own queue whose source
is not the element itself. -/
def elemNoQueue (s : State) (ps : List ImgElem) (p : ImgElem) : Bool :=
  p.hs.any (fun x =>
    let h := unpackHandler x.2
    (List.range 4).any (fun d => outGoes h d && (match neighbour p.key d with
      | some n => (imgQueue s ps n (opposite d)).isNone
      | none => true)) ||
    (decide (1 ≤ h.dsel.toNat) && decide (h.dsel.toNat ≤ 4) && imgSrc s ps p.key (h.dsel.toNat - 1) != 5))

/-- The first failing check of an element. -/
def elemCheck (s : State) (ps : List ImgElem) (g : Nat) (p : ImgElem) : Option Nat :=
  if p.hs.any (fun h => !handlerLegal p.key g h.2) then some 0x41
  else if elemBad g p then some 0x42
  else if elemConflict s g p then some 0x43
  else if elemNoQueue s ps p then some 0x44
  else none

/-- The first element that fails, with its code. -/
def elemsCheck (s : State) (all : List ImgElem) (g : Nat) : List ImgElem → Option (Nat × ImgElem)
  | [] => none
  | p :: ps => match elemCheck s all g p with
    | some c => some (c, p)
    | none => elemsCheck s all g ps

/-! ### Checks of the graph (R351, 0x45 to 0x4A) -/

/-- Where the results of an element's handlers go inside the fabric. -/
def imgSucc (p : ImgElem) : List Nat := handSucc p.key (p.hs.map (·.2))

/-- The keys that a frontier reaches, itself included. -/
def reach (succ : Nat → List Nat) : Nat → List Nat → List Nat → List Nat
  | 0, _, seen => seen
  | _ + 1, [], seen => seen
  | fuel + 1, e :: r, seen =>
    if seen.contains e then reach succ fuel r seen
    else reach succ fuel (succ e ++ r) (e :: seen)

/-- Steps that suffice for a graph of n elements: each element is entered once per channel that reaches it. -/
def reachFuel (n : Nat) : Nat := 8 * 5 * n + n + 1

/-- The element that comes first in the order of reports. -/
def lowest (es : List Nat) : Option Nat :=
  es.foldl (fun o e => match o with
    | none => some e
    | some f => if elemRank e < elemRank f then some e else some f) none

def succOf (ps : List ImgElem) (keep : ImgElem → Bool) (e : Nat) : List Nat :=
  match ps.find? (fun p => p.key == e) with
  | some p => if keep p then imgSucc p else []
  | none => []

/-- NOINIT (R201): an element on a cycle none of whose elements holds an initial token. -/
def noInit (ps : List ImgElem) : Option Nat :=
  let bare := ps.filter (fun p => p.init.isNone)
  lowest ((bare.filter (fun p => (reach (succOf bare (fun _ => true)) (reachFuel ps.length) (imgSucc p) []).contains p.key)).map (·.key))

/-- Does an element take a channel to a clnode whose group has members on other devices (R173)? -/
def collBound (s : State) (p : ImgElem) (ch : Nat) : Bool :=
  p.ch.any (fun c => c.1 == ch && p.hs.any (fun x =>
    x.1 == c.2 && wordOp x.2 == 0x64 && groupCount s ((unpackHandler x.2).param.toNat % 64) != 1))

/-- The narrowest scope that a widen node must have for the channels that a handler sends on: 0 where none leaves its subgraph scope, 2 within
a die, 3 across dies, and 4 for a collective edge (R165, R173). -/
def edgeScope (s : State) (ps : List ImgElem) (p : ImgElem) (w : Word) : Nat :=
  ((handSucc p.key [w]).map (fun n =>
    if (ps.find? (fun q => q.key == n)).any (fun q => collBound s q (unpackHandler w).och.toNat) then 4
    else if elemCore n = elemCore p.key then 0
    else if elemCore n / 64 = elemCore p.key / 64 then 2 else 3)).foldl max 0

/-- NOWIDEN (R165): the element before a core boundary or a collective edge sends over it without a widen handler (log entry 18). -/
def noWiden (s : State) (ps : List ImgElem) : Option Nat :=
  lowest ((ps.filter (fun p => p.hs.any (fun x => wordOp x.2 != 0x58 && edgeScope s ps p x.2 != 0))).map (·.key))

/-- BADWIDEN (R165): a widen handler whose scope is narrower than the smallest that contains both cores. -/
def badWiden (s : State) (ps : List ImgElem) : Option Nat :=
  lowest ((ps.filter (fun p => p.hs.any (fun x =>
    wordOp x.2 == 0x58 && decide ((unpackHandler x.2).param.toNat < edgeScope s ps p x.2)))).map (·.key))

/-- Elements whose results go straight to an element. -/
def imgPred (ps : List ImgElem) (e : Nat) : List Nat := (ps.filter (fun p => (imgSucc p).contains e)).map (·.key)

/-- The handler words of an element under an image. -/
def imgWords (ps : List ImgElem) (e : Nat) : List Word := ((ps.find? (fun p => p.key == e)).map (fun p => p.hs.map (·.2))).getD []

/-- BFLY (R103): an open stream whose BFN differs from the stages at its port, or a stage there that forms no pairs (log entry 18). -/
def bflyBad (s : State) (rid : Nat) (ps : List ImgElem) : Option Nat :=
  lowest ((s.sm.streams.filter (fun x => x.2.isOpen && x.2.rid == rid && decide (x.2.dir < 2))).map (fun x =>
    match portElem (x.1 / 256) (x.1 % 256) with
    | none => []
    | some e =>
      let next := if x.2.dir = 0 then succOf ps (fun _ => true) else imgPred ps
      let r := bflyReach (imgWords ps) next 64 [] e
      (if r.1 = x.2.cw.bfn then [] else [e]) ++ r.2.filter (fun f => (imgWords ps f).any bflyUnpaired))).flatten

/-- QUEUE records of an image, with their cores. -/
def imgQueues (ss : List (Nat × Section)) : List (Nat × ImgRec) :=
  (ss.map (fun x => (x.2.recs.filter (fun r => r.kind == 3)).map (fun r => (x.1, r)))).flatten

/-- Elements that the fabric read ports of a queue feed: those whose queue source is the stream's port. -/
def readFeeds (ps : List ImgElem) (q : Nat × ImgRec) : List Nat :=
  (ps.filter (fun p => q.2.consumers.any (fun c => decide (c < 0x4000) && decide (elemCore p.key = q.1) &&
    p.qs.any (fun n => srcPort p.key n == some (.stream (c % 256)))))).map (·.key)

/-- The queues that a handler of an element writes over an edge port. -/
def writeFeeds (qs : List (Nat × ImgRec)) (p : ImgElem) : List (Nat × ImgRec) :=
  qs.filter (fun q => q.2.aux / 2 ^ 31 = 0 && decide (elemCore p.key = q.1) && p.hs.any (fun x =>
    dselPort p.key (unpackHandler x.2).dsel.toNat == some (.stream (q.2.aux % 256))))

/-- WEIGHT (R78): an operator that counts records or tokens behind a shedding queue. -/
def weightBad (ps : List ImgElem) (qs : List (Nat × ImgRec)) : Option Nat :=
  let succ (e : Nat) : List Nat := match ps.find? (fun p => p.key == e) with
    | some p => imgSucc p ++ ((writeFeeds qs p).map (readFeeds ps)).flatten
    | none => []
  let from_ := ((qs.filter (fun q => ((q.2.body.getD 1 0#64).extractLsb' 60 4).toNat != 5)).map (readFeeds ps)).flatten
  let r := reach succ (reachFuel ps.length * (qs.length + 1)) from_ []
  lowest ((ps.filter (fun p => r.contains p.key && p.hs.any (fun x =>
    let op := (x.2.extractLsb' 56 8).toNat
    (op == 0x42 && x.2.getLsbD 0) || (op == 0x61 && x.2.getLsbD 15)))).map (·.key))

/-- The first failing check of the graph, with its element. WIDENPOS cannot fail: a widen handler that sends over a
boundary lies in the scope it leaves. -/
def graphCheck (s : State) (rid : Nat) (ss : List (Nat × Section)) : Option (Nat × Nat) :=
  let ps := (ss.map (fun x => x.2.elems x.1)).flatten
  ((noInit ps).map (0x45, ·)).orElse fun _ => ((noWiden s ps).map (0x46, ·)).orElse fun _ =>
    ((badWiden s ps).map (0x47, ·)).orElse fun _ => ((bflyBad s rid ps).map (0x49, ·)).orElse fun _ =>
      (weightBad ps (imgQueues ss)).map (0x4A, ·)

/-! ### Writing elements (R319) -/

/-- An element takes a record into its active tables, for a slot. -/
def Elem.load (e : Elem) (g : Nat) (p : ImgElem) : Elem :=
  { e with
    act := p.hs.foldl (fun a h => a.set h.1 { (default : Handler) with present := true, word := h.2 }) e.act
    chm := p.ch.foldl (fun a c => a.set c.1 (c.2 + 1)) e.chm
    k := p.k.zipIdx.foldl (fun a k => a.set k.2 (k.1.setWidth 48)) e.k
    qs := p.qs.zipIdx.foldl (fun a q => a.set (4 * g + q.2) (q.1 + 1)) e.qs
    itok := e.itok.set g p.init
    blocked := e.blocked &&& ~~~(1#4 <<< g) }

/-- An element takes a record into its shadow tables, and SHV is set (R203). -/
def Elem.shadow (e : Elem) (g : Nat) (p : ImgElem) : Elem :=
  { e with
    shad := p.hs.foldl (fun a h => a.set h.1 h.2) []
    shadCh := p.ch.foldl (fun a c => a.set c.1 (c.2 + 1)) []
    shadK := p.k.zipIdx.foldl (fun a k => a.set k.2 (k.1.setWidth 48)) []
    shadQs := p.qs.zipIdx.foldl (fun a q => a.set q.2 (q.1 + 1)) []
    shv := true, shvSlot := g }

def elemUpd (s : State) (e : Nat) (f : Elem → Elem) : State := { s with fab.elems := s.fab.elems.upd e f }

/-- Write the element records of a section. -/
def elemsLoad (s : State) (g : Nat) (sh : Bool) (ps : List ImgElem) : State :=
  ps.foldl (fun s p => elemUpd s p.key (fun e => if sh then e.shadow g p else e.load g p)) s

/-! ### Objects (R295 step 3) -/

/-- A template from its words (R301). -/
def Template.ofWords (b : List Word) (asid : BitVec 8) (rid : Nat) : Template :=
  let w0 := b.getD 0 0#64
  let w3 := b.getD 3 0#64
  let w5 := b.getD 5 0#64
  { (default : Template) with
    asid := asid, v := true, rid := rid, trigq := w0.extractLsb' 48 6, tq := w0.getLsbD 47, ring := w0.extractLsb' 41 6
    srck := w0.extractLsb' 39 2, dstk := w0.extractLsb' 37 2, stile := w0.extractLsb' 29 8, dtile := w0.extractLsb' 21 8
    rel := w0.getLsbD 20, lim := w0.extractLsb' 0 16, src := (b.getD 1 0#64).extractLsb' 0 55
    dst := (b.getD 2 0#64).extractLsb' 0 55, len := w3.extractLsb' 32 32, seq := w3.extractLsb' 20 12, zh := b.getD 4 0#64
    sstep := w5.extractLsb' 32 32, dstep := w5.extractLsb' 0 32 }

/-- The refusals of a template (R301). -/
def templateBad (s : State) (core t : Nat) (d : Template) : Bool :=
  let q := s.qu.queues.at (queueKey core d.trigq.toNat)
  decide (1 < d.srck.toNat) || d.dstk == 3#2 || (d.rel && (d.lim != 1#16 || d.srck == 0#2)) ||
    (d.tq && (!q.v || q.cons.getD 0 0 != 0x4000 + t))

/-- A zone from its words (R124), and whether a reserved bit is set. -/
def Zone.ofWords (b : List Word) (asid : BitVec 8) (rid : Nat) : Zone × Bool :=
  let w0 := b.getD 0 0#64
  let w1 := b.getD 1 0#64
  let ss := (List.range 4).map (fun i => b.getD (2 + i) 0#64)
  let z : Zone := { (default : Zone) with
    asid := asid, rid := rid, rop := w0.extractLsb' 52 3, tte := w0.extractLsb' 44 8, ns1 := w0.extractLsb' 38 6
    sz := w0.extractLsb' 33 5, off := w0.extractLsb' 0 26, tmo := w1.extractLsb' 48 16
    send := ss.map (fun w => (w.extractLsb' 1 10, w.getLsbD 0)) }
  (z, w0.extractLsb' 26 7 != 0#7 || w1.extractLsb' 0 48 != 0#48 || ss.any (fun w => w.extractLsb' 11 53 != 0#53) ||
    b.getD 6 0#64 != 0#64 || b.getD 7 0#64 != 0#64)

/-- An accumulator set from words 0 and 1 (R107), and whether a reserved bit is set. -/
def AccSet.ofWords (w0 w1 : Word) (asid : BitVec 8) (rid : Nat) : AccSet × Bool :=
  ({ (default : AccSet) with
      asid := asid, rid := rid, bank := (w0.extractLsb' 40 8).toNat, nb := (w0.extractLsb' 35 5).toNat
      nm1 := (w0.extractLsb' 16 14).toNat, nrow := (w0.extractLsb' 0 16).toNat, eps := w1.extractLsb' 0 42 },
    w0.extractLsb' 48 7 != 0#7 || w0.extractLsb' 30 5 != 0#5 || w1.extractLsb' 42 22 != 0#22)

/-- An ownership entry from its words (R154). -/
def OwnEnt.ofWords (w0 w1 : Word) (asid : BitVec 8) : OwnEnt :=
  { asid := asid, v := true, no := (w0.extractLsb' 50 2).toNat, cur := (w0.extractLsb' 48 2).toNat
    owners := [(w0.extractLsb' 24 6).toNat, (w0.extractLsb' 30 6).toNat, (w0.extractLsb' 36 6).toNat, (w0.extractLsb' 42 6).toNat]
    lim := w1.extractLsb' 32 26, base := w1.extractLsb' 0 26 }

/-- No node stands twice. -/
def noRepeat : List Nat → Bool
  | [] => true
  | a :: r => !r.contains a && noRepeat r

/-- The refusals of an ownership entry (R154); offsets that are not multiples of 64 are no range of it. -/
def ownBad (s : State) (core i : Nat) (o : OwnEnt) : Bool :=
  decide (o.lim ≤ o.base) || decide (0x600000 < o.lim.toNat) || o.base.toNat % 64 != 0 || o.lim.toNat % 64 != 0 ||
    !noRepeat (o.owners.take (o.no + 1)) || decide (o.no < o.cur) ||
    (List.range 16).any (fun j =>
      let p := s.sm.own.at (core * 16 + j)
      j != i && p.v && decide (p.base < o.lim) && decide (o.base < p.lim))

/-- A fabric producer or consumer binds its stream's port to the queue (R372). -/
def streamBind (s : State) (core k q rid : Nat) : State :=
  streamUpd s core k (fun n => { n with bound := q + 1, rid := rid })

/-- Define one object of a section: the status of R295, 0 where it is defined. -/
def objectLoad (s : State) (core rid : Nat) (asid : BitVec 8) (r : ImgRec) : Nat × State :=
  let w (i : Nat) : Word := r.body.getD i 0#64
  match r.kind with
  | 3 =>
    if (s.qu.queues.at (queueKey core r.index)).v ||
        queueBad s core r.index ((w 0) &&& 0x007FFFFFFFFFFFFF#64) (w 1) (w 2) (w 3) then (3, s)
    else
      let threads := r.aux / 2 ^ 31 = 1
      let strm := r.aux % 256
      let d := { Queue.ofWords (w 0) (w 1) (w 2) (w 3) with pstrm := strm }
      let s := queueDefine s core r.index d asid rid (if threads then .threads else .fabric) r.consumers
      let s := if threads then s else streamBind s core strm r.index rid
      (0, r.consumers.foldl (fun s c => if c < 0x4000 then streamBind s core (c % 256) r.index rid else s) s)
  | 4 =>
    let log := (w 0).extractLsb' 48 5
    if (s.eng.rings.at (ringKey core r.index)).v || decide (log.toNat < 4) || decide (16 < log.toNat) then (9, s)
    else
      let n : Ring := { (default : Ring) with asid := asid, v := true, log := log, base := (w 1).extractLsb' 4 51, rid := rid }
      (0, { s with eng.rings := s.eng.rings.set (ringKey core r.index) n })
  | 5 =>
    let t := Template.ofWords r.body asid rid
    let k := core * 32 + r.index
    if (s.eng.tmpls.at k).v || templateBad s core r.index t then (9, s)
    else (0, { s with eng.tmpls := s.eng.tmpls.set k t })
  | 6 =>
    let z := Zone.ofWords ((w 0 &&& 0x007FFFFFFFFFFFFF#64) :: r.body.drop 1) asid rid
    if zoneDefCheck s core r.index z.1 z.2 == .ok then (0, zoneDefine s core r.index z.1) else (5, s)
  | 7 =>
    let a := AccSet.ofWords (w 0 &&& 0x007FFFFFFFFFFFFF#64) (w 1) asid rid
    if accDefine s core r.index a.1 a.2 == .ok then (0, accOpenSet s core r.index a.1) else (4, s)
  | 8 =>
    let o := OwnEnt.ofWords (w 0) (w 1) asid
    if ownBad s core r.index o then (7, s) else (0, { s with sm.own := s.sm.own.set (core * 16 + r.index) o })
  | 9 =>
    let e : SchedEnt := {
      arg := w 0, v := (w 1).getLsbD 63, next := (w 1).extractLsb' 8 6, rep := (w 1).extractLsb' 0 8 }
    (0, { s with rg.sched := s.rg.sched.set (core * 64 + r.index) e })
  | _ => (0, s)

/-- Define the objects of a section in order; the first refusal stops. -/
def objectsLoad (core rid : Nat) (asid : BitVec 8) : List ImgRec → State → Nat × State
  | [], s => (0, s)
  | r :: rs, s =>
    let x := objectLoad s core rid asid r
    if x.1 = 0 then objectsLoad core rid asid rs x.2 else x

/-- The schedule range of a section overlaps that of another resident region (R199). -/
def schedTaken (s : State) (core g : Nat) (t : Section) : Bool :=
  (List.range 4).any (fun j =>
    let x := s.rg.slots.at (slotIx core j)
    j != g && x.rid != 0 && t.scnt != 0 && x.scnt != 0 && decide (t.sfirst < x.sfirst + x.scnt) && decide (x.sfirst < t.sfirst + t.scnt))

/-- The slot claims its bank allotment and schedule range, and the region's contexts on the core start at its first
entry (R199, R299). -/
def schedClaim (s : State) (core g rid : Nat) (t : Section) : State :=
  let s := { s with
    rg.slots := s.rg.slots.upd (slotIx core g) (fun x => { x with sfirst := t.sfirst, scnt := t.scnt })
    rg.sched := s.rg.sched.filter (fun x => !(x.1 / 64 == core && decide (t.sfirst ≤ x.1 % 64) && decide (x.1 % 64 < t.sfirst + t.scnt))) }
  { s with ctl.ctxs := s.ctl.ctxs.map (fun x => if x.1 / 8 == core && x.2.rid == rid then
      (x.1, { x.2 with schBase := t.sfirst, schLen := t.scnt, cursor := t.sfirst, count := 0 }) else x) }

/-! ### Banks (R295 step 1) -/

/-- A run of neighbouring banks of one tile with equal settings: first bank, count, setting. -/
abbrev BankRun := Nat × Nat × BankChange

/-- The bank records of a section as changes: maximal runs of neighbouring banks of one tile with equal settings are
one change, so that the members of an interleave group change in one step (DEDUCED, log entry 18). -/
def bankRuns : List ImgRec → List BankRun
  | [] => []
  | r :: rs =>
    let w := r.body.headD 0#64
    let mode : BankMode := match (w.extractLsb' 0 2).toNat with
      | 0 => .cache | 1 => .scratch | 2 => .fifo | _ => .accum
    let c : BankChange := { mode := mode, ilv := w.extractLsb' 4 2 }
    match bankRuns rs with
    | (f, n, d) :: more =>
      if f = r.index + 1 && f / 24 = r.index / 24 && d == c then (r.index, n + 1, c) :: more
      else (r.index, 1, c) :: (f, n, d) :: more
    | [] => [(r.index, 1, c)]

/-- A change is carried through at each bank that it changes. -/
def bankForce (s : State) (core : Nat) (c : BankChange) (bs : List Nat) : State :=
  bs.foldl (fun s b => bankFinish (bankReach (bankUpd s core b (fun k => { k with pend := k.pend ++ [c] })) core b) core b) s

/-- Carry out the runs in order; the first that is refused stops the load. -/
def bankRunsApply (core : Nat) : List BankRun → State → Bool × State
  | [], s => (true, s)
  | (f, n, c) :: rs, s =>
    if bankCheck s core f n c != .ok then (false, s)
    else
      let bs := ((List.range n).map (fun i => f + i)).filter (fun b => !bankIs s core b c)
      bankRunsApply core rs (bankForce s core c bs)

/-- Is a bank that a section names still changing (R42)? -/
def banksChanging (s : State) (core : Nat) (t : Section) : Bool :=
  t.recs.any (fun r => r.kind == 1 &&
    (let k := s.st.banks.at (bankKey core r.index)
     k.busy || k.change.isSome || !k.pend.isEmpty))

/-! ### The launch fails (R183, R295, R351) -/

/-- RST := FAILED with ERR and LOC; gated copies are dropped, and the region's slots and objects are freed (R184). -/
def launchFail (s : State) (rid err : Nat) (loc : Word) : State :=
  let r := regionOf s rid
  if rid = 0 || rstEnded r.rst then s
  else
    let s := regUpd s rid (fun r => { r with err := err, loc := loc.setWidth 21, want := false, inFlight := false })
    setRst (regionClear (gatedDrop s rid) rid) rid 5

/-- How a load ends: a block fault, or a status with its location and, where it fails the launch, its ERR. -/
inductive LoadEnd
  | fault (f : MemFault)
  | busy
  | status (st : Nat) (err : Nat) (loc : Word)
  deriving DecidableEq, Repr, Inhabited

/-- Read and check a section with its region image (R373). -/
def imageSection (s : State) (a : Actor) (va : Nat) : (MemFault ⊕ Option (Section × Nat × ImageHdr)) × State :=
  let r := sectionRead s a va
  match r.1 with
  | .inl f => (.inl f, r.2)
  | .inr none => (.inr none, r.2)
  | .inr (some (t, off)) =>
    if off = 0 || off % 64 != 0 || decide (va < off) then (.inr none, r.2)
    else
      let h := imageRead r.2 a (va - off)
      match h.1 with
      | .inl f => (.inl f, h.2)
      | .inr none => (.inr none, h.2)
      | .inr (some i) =>
        if decide (i.w ≤ t.dx) || decide (i.h ≤ t.dy) || (i.ents.getD (t.dy * i.w + t.dx) (0, 0#64)).1 != off then (.inr none, h.2)
        else (.inr (some (t, va - off, i)), h.2)

/-- Is this the region's first load (R351)? -/
def firstLoad (s : State) (rid : Nat) : Bool :=
  (regionOf s rid).cores.all (fun c => !(s.rg.slots.at (slotIx c (regionOf s rid).slot)).loaded)

/-- The load of a checked section: banks, elements, objects (R295). -/
def sectionLoad (s : State) (a : Actor) (core g rid : Nat) (asid : BitVec 8) (t : Section) (iva : Nat) (h : ImageHdr) : LoadEnd × State :=
  let r := regionOf s rid
  let first := firstLoad s rid
  let s := objectsClear (slotUnconf s core g) rid (· == core)
  let s := { s with rg.slots := s.rg.slots.upd (slotIx core g) (fun x => { x with allot := t.allot }) }
  let b := bankRunsApply core (bankRuns (t.recs.filter (fun r => r.kind == 1))) s
  if !b.1 then (.status 2 0x32 (coreLoc core), b.2)
  else
    let me := (core - r.origin) / 8 * h.w + (core - r.origin) % 8
    let all := imageElems a r.origin iva h me t (List.range (h.w * h.h)) b.2
    let ps := t.elems core
    let img := (all.1.map (fun x => x.2.elems x.1)).flatten
    match elemsCheck all.2 img g ps with
    | some (c, p) =>
      let s := if c < 0x43 then elemUpd all.2 p.key (fun e => { e with blocked := e.blocked ||| (1#4 <<< g) }) else all.2
      (.status 8 c (elemLoc core (p.key % 4096)), s)
    | none =>
      match if first then graphCheck all.2 rid all.1 else none with
      | some (c, e) => (.status 8 c (keyLoc e), all.2)
      | none =>
        let s := elemsLoad all.2 g false ps
        if schedTaken s core g t then (.status 6 0x36 (coreLoc core), s)
        else
          let s := schedClaim s core g rid t
          let o := objectsLoad core rid asid (t.recs.filter (fun r => 2 < r.kind)) s
          if o.1 != 0 then (.status o.1 (0x30 + o.1) (coreLoc core), o.2)
          else
            let s := { o.2 with rg.slots := o.2.rg.slots.upd (slotIx core g) (fun x => { x with loaded := true }) }
            (.status 0 0 0#64, s)

/-- cfgld's load for the context's region (R295). -/
def configLoad (s : State) (a : Actor) (core g rid : Nat) (asid : BitVec 8) (va : Nat) : LoadEnd × State :=
  let r := imageSection s a va
  match r.1 with
  | .inl f => (.fault f, r.2)
  | .inr none => (.status 9 0x39 (coreLoc core), r.2)
  | .inr (some (t, iva, h)) =>
    if banksChanging r.2 core t then (.busy, r.2)
    else sectionLoad r.2 a core g rid asid t iva h

/-- cfgsh's load: the shadow tables from the section's element records alone (R296), under the rules of R319 against
the other slots' active tables. -/
def shadowLoad (s : State) (a : Actor) (core g : Nat) (va : Nat) : LoadEnd × State :=
  let r := imageSection s a va
  match r.1 with
  | .inl f => (.fault f, r.2)
  | .inr none => (.status 9 0 (coreLoc core), r.2)
  | .inr (some (t, _, _)) =>
    let ps := t.elems core
    match elemsCheck r.2 ps g ps with
    | some (c, p) =>
      let s := if c < 0x43 then elemUpd r.2 p.key (fun e => { e with blocked := e.blocked ||| (1#4 <<< g) }) else r.2
      (.status 8 0 (elemLoc core (p.key % 4096)), s)
    | none => (.status 0 0 0#64, elemsLoad r.2 g true ps)

end Sys2Proof.Machine
end

