-- ==== Sys2Proof/Machine/Operands.lean ====
section
/-! DEFINITION. The operands of control-thread instructions: the inputs of a block's frame, when an instruction
fires or is predicated off (R209, R210), and the targets its tokens go to (R208, R211, R213, R225). -/

namespace Sys2Proof.Machine

/-! ### Values -/

/-- A bit as a 64-bit value. -/
def bit64 (b : Bool) : Word := if b then 1#64 else 0#64

/-- sx(v, w) of R226. -/
def sx (v : Word) (w : Nat) : Word := (v.setWidth w).signExtend 64
/-- zx(v, w) of R226. -/
def zx (v : Word) (w : Nat) : Word := (v.setWidth w).setWidth 64

/-! ### Inputs -/

/-- What an instruction finds at its inputs: tokens still missing, predicated off, or its operands; an input it does
not use gives a zero. -/
inductive Ready
  | wait
  | off
  | on (l r : Tok)
  deriving DecidableEq, Repr, Inhabited

/-- The token at an input: 0 left, 1 right, 2 predicate. -/
def Frame.input (f : Frame) (ix i : Nat) : Option Tok := f.opnd.at (4 * ix + i)

/-- What the predicate input says: none while it waits. A null predicate, or one whose bit 0 does not match PR, is
off (R209). -/
def Frame.pred (f : Frame) (ix : Nat) (p : BitVec 2) : Option Bool :=
  if p = 0#2 then some true
  else match f.input ix 2 with
    | none => none
    | some none => some false
    | some (some v) => some (v.getLsbD 0 == (p == 1#2))

/-- A used input's token; an input that is not used is there, with value 0. -/
def Frame.used (f : Frame) (ix i : Nat) (use : Bool) : Option Tok :=
  if use then f.input ix i else some (some 0#64)

/-- When an instruction fires (R209). The predicate alone predicates it off (R145, R250). -/
def Frame.ready (f : Frame) (ix : Nat) (p : BitVec 2) (left right : Bool) : Ready :=
  match f.pred ix p with
  | none => .wait
  | some false => .off
  | some true =>
    match f.used ix 0 left, f.used ix 1 right with
    | some l, some r => .on l r
    | _, _ => .wait

/-- When sel fires: with the token at either input, of two the one that arrived first (R250). -/
def Frame.readyEither (f : Frame) (ix : Nat) (p : BitVec 2) : Ready :=
  match f.pred ix p with
  | none => .wait
  | some false => .off
  | some true =>
    match f.input ix 0, f.input ix 1 with
    | some l, some r => if f.rightFirst.getLsbD ix then .on r none else .on l none
    | some l, none => .on l none
    | none, some r => .on r none
    | none, none => .wait

/-! ### Faults of the dataflow (R211) -/

/-- A fault of class EXEC at an instruction. -/
def dataFlt (code ix : Nat) : Flt := { cls := 3, code := code, xst := 0, idx := ix, addr := 0#64 }

/-- Registers a fills of the block has loaded (R264). -/
def Frame.filled (f : Frame) (n : Nat) : Bool :=
  f.commits.any (fun c => match c.2 with
    | .fill k _ => k == n
    | _ => false)

/-- Send one token to a target (R213): an instruction input takes one token (BADOPND), the hold writes number at
most NW, and a register takes one value (BADHOLD). -/
def Frame.put (f : Frame) (ix pos : Nat) (t : BitVec 9) (v : Tok) : Except Flt Frame :=
  let n := tgtNum t
  if tgtClass t < 3 then
    let key := 4 * n + tgtClass t
    if (f.opnd.at key).isSome then .error (dataFlt 0x16 n)
    else
      let first := tgtClass t == 1 && (f.input n 0).isNone
      .ok { f with opnd := f.opnd.set key (some v), rightFirst := if first then f.rightFirst ||| (1#64 <<< n) else f.rightFirst }
  else if n < 32 then
    if Hdr.nw f.hdr ≤ f.holds.length || f.filled n ||
        (v.isSome && f.holds.any (fun h => h.1 == n && h.2.isSome)) then .error (dataFlt 0x17 ix)
    else .ok { f with holds := f.holds ++ [(n, v)] }
  else if n = 32 then .ok f
  else .ok { f with qwrites := f.qwrites ++ [(ix, pos, n - 64, v)] }

/-- Targets with their positions and one token for all of them. -/
def outsOf (ts : List (BitVec 9)) (v : Tok) : List (Nat × BitVec 9 × Tok) := ts.zipIdx.map (fun x => (x.2, x.1, v))

/-- The null writes of an instruction that is predicated off: its hold and queue targets (R210). -/
def offOuts (ts : List (BitVec 9)) : List (Nat × BitVec 9 × Tok) :=
  (outsOf ts none).filter (fun x => tgtHeld x.2.1)

/-- Has an LSID completed (R145)? -/
def Frame.lsidDone (f : Frame) (l : Nat) : Bool := f.lsids.getLsbD l

/-- Have all LSIDs below one completed? -/
def Frame.lsidsBelow (f : Frame) (l : Nat) : Bool := (List.range l).all (fun k => f.lsidDone k)

/-- The lowest LSID below NM that has not completed. -/
def Frame.lowestLsid (f : Frame) : Option Nat := (List.range (Hdr.nm f.hdr)).find? (fun k => !f.lsidDone k)

/-- The instruction at an index, none where the word does not decode. -/
def Frame.instr (f : Frame) (ix : Nat) : Option Instr :=
  match f.words[ix]? with
  | none => none
  | some w => match decodeWord w with
    | .ok i => some i
    | .error _ => none

/-- Readiness by an instruction's form. -/
def Frame.readyOf (f : Frame) (ix : Nat) (i : Instr) : Ready :=
  match i, i.form with
  | .sel p _ _, _ => f.readyEither ix p
  | _, some m => f.ready ix m.pr m.left m.right
  | _, none => .wait

/-- Has an instruction fired or issued? -/
def Frame.gone (f : Frame) (ix : Nat) : Bool := f.fired.getLsbD ix || f.issued.getLsbD ix

/-- Every LSID has completed: the commands of the block may be performed (R280). -/
def Frame.memDone (f : Frame) : Bool := f.lowestLsid.isNone

/-- Is a command of lower index, issued or able to fire, not performed yet (R280)? -/
def Frame.commandBelow (f : Frame) (ix : Nat) : Bool :=
  (List.range ix).any (fun j => !f.fired.getLsbD j &&
    (match f.instr j with
      | some i => (match i.form with
        | some m => m.rank == 3 && (f.issued.getLsbD j || f.readyOf j i != .wait)
        | none => false)
      | none => false))

/-- Does a null among the operands make an instruction perform nothing? acadd's right operand may be null (R311). -/
def nullOff (i : Instr) (m : Form) (l r : Tok) : Bool :=
  match i with
  | .acadd .. => l.isNone
  | _ => l.isNone || (m.right && r.isNone)

/-- May an instruction take its turn: its inputs have come, and a memory token's or command's place has come
(R142, R280)? A token that only completes null needs no place. -/
def Frame.canFire (f : Frame) (ix : Nat) : Bool :=
  !f.gone ix &&
    (match f.instr ix with
      | none => false
      | some i => (match i.form with
        | none => false
        | some m => (match f.readyOf ix i with
          | .wait => false
          | .off => true
          | .on l r =>
            nullOff i m l r ||
              (match m.rank, m.lsid with
                | 1, some k => f.lsidsBelow k.toNat
                | 3, _ => f.memDone && !f.commandBelow ix
                | _, _ => true))))

/-- The rank of the instruction at an index. -/
def Frame.rankAt (f : Frame) (ix : Nat) : Nat :=
  match f.instr ix with
  | some i => (match i.form with
    | some m => m.rank
    | none => 0)
  | none => 0

/-- The instruction whose turn it is: of those that may fire, lowest rank first, then lowest index. -/
def Frame.next (f : Frame) : Option Nat :=
  let c := (List.range f.words.length).filter f.canFire
  (List.range 4).findSome? (fun r => c.find? (fun ix => f.rankAt ix == r))

/-- The target fields of the instruction at an index. -/
def targetsAt (f : Frame) (ix : Nat) : List (BitVec 9) :=
  match f.instr ix with
  | some i => (match i.form with
    | some m => m.targets
    | none => [])
  | none => []

/-- Has everything arrived that the block's completion needs (R208)? -/
def Frame.complete (f : Frame) : Bool :=
  f.memDone && f.holds.length == Hdr.nw f.hdr && f.exit.isSome && f.issued == 0#64

end Sys2Proof.Machine
end

