-- ==== Sys2Proof/Machine/Flags.lean ====
section
/-! DEFINITION. The machine has no flags: tests give predicate tokens (R241–R243), and statuses are result tokens or
words of a fixed layout (R256, R284, R294). -/

namespace Sys2Proof.Machine

/-! ### Tests (R241–R243) -/

def testEq (a b : Word) : Word := bit64 (a == b)
def testNe (a b : Word) : Word := bit64 (a != b)
/-- signed(a) < signed(b). -/
def testLt (a b : Word) : Word := bit64 (a.slt b)
/-- signed(a) ≤ signed(b). -/
def testLe (a b : Word) : Word := bit64 (a.sle b)
/-- unsigned(a) < unsigned(b). -/
def testLtn (a b : Word) : Word := bit64 (a.ult b)
/-- unsigned(a) ≤ unsigned(b). -/
def testLen (a b : Word) : Word := bit64 (a.ule b)
def predAnd (a b : Word) : Word := bit64 (a.getLsbD 0 && b.getLsbD 0)
def predOr (a b : Word) : Word := bit64 (a.getLsbD 0 || b.getLsbD 0)
def predNot (a : Word) : Word := bit64 (!a.getLsbD 0)

/-! ### Status words -/

/-- A status in [63:56] above a value in [55:0] (R284, R294). -/
def stVal (st v : Nat) : Word := BitVec.ofNat 64 (st * 2 ^ 56 + v % 2 ^ 56)

/-- A status alone, as a G-format form delivers it (R283). -/
def stTok (st : Nat) : Word := BitVec.ofNat 64 st

/-- ASTAT (R256): status, kind of access, and tag. -/
def astatWord (st knd tag : Nat) : Word := BitVec.ofNat 64 (st * 2 ^ 56 + knd * 2 ^ 52 + tag)

/-- FLTREC word 0 (R377). -/
def fltWord0 (f : Flt) (exit : Nat) (prog : Option Nat) : Word :=
  BitVec.ofNat 64 (f.cls * 2 ^ 60 + f.xst % 16 * 2 ^ 56 + f.code * 2 ^ 48 + f.idx % 128 * 2 ^ 41 + exit % 8 * 2 ^ 38 +
    (match prog with
      | some p => 2 ^ 37 + p % 32 * 2 ^ 32
      | none => 0))

end Sys2Proof.Machine
end

