-- ==== Sys2Proof/Machine/Ops.lean ====
section
/-! DEFINITION. The shared operations of control-thread instructions: acting on the current context's frame,
completing an instruction, taking an exception and returning from one (R376–R381), abandoning and holding a block
(R191, R281), and the accesses of memory tokens (R254–R257, R144). -/

namespace Sys2Proof.Machine

/-! ### The current context -/

def frameOf (s : State) (core x : Nat) : Frame := s.ctl.frames.at (frameKey core (ctxOf s core x).frm)
def frameUpd (s : State) (core x : Nat) (f : Frame → Frame) : State :=
  { s with ctl.frames := s.ctl.frames.upd (frameKey core (ctxOf s core x).frm) f }

/-- The CT path of a context. -/
def ctxActor (core : Nat) (c : Ctx) : Actor :=
  { core := core, path := .ct, asid := c.asid, gen := c.gen, rid := c.rid }

/-- Run a form on the frame of the context whose instruction is current; anything else leaves the state. -/
def withCt (s : State) (k : Nat → Nat → Nat → Frame → State) : State :=
  match s.sim.cur with
  | .ct core x ix =>
    let c := ctxOf s core x
    let f := frameOf s core x
    if (c.st == .run || c.st == .held) && f.own == x + 1 && f.loaded && !f.gone ix then k core x ix f else s
  | _ => s

/-! ### Exceptions (R376–R381) -/

/-- Set a context's event flag, as sev gives (R278); a context that waits for it is looked at next. -/
def eventTo (s : State) (core x : Nat) : State :=
  let s := ctxUpd s core x (fun c => { c with evf := true })
  pushEv s .waitRelease { (default : EvArg) with core := BitVec.ofNat 8 core, ctx := BitVec.ofNat 3 x }

/-- Every SHV that a slot set on a core is cleared (R296). -/
def shadowDrop (s : State) (core g : Nat) : State :=
  { s with fab.elems := s.fab.elems.map (fun x =>
      if x.1 / 4096 == core && x.2.shv && x.2.shvSlot == g then (x.1, { x.2 with shv := false }) else x) }

/-- What a block leaves behind when it is abandoned: uses that its stts hold are released (R260), and the configuration
that a completed cfgld or cfgsh loaded goes again (R295, R296). -/
def blockUndo (s : State) (core x : Nat) (f : Frame) : State :=
  f.commits.foldl (fun s c => match c.2 with
    | .stt k => tileDone s core k
    | .cfg g sh =>
      if sh then shadowDrop s core g
      else
        let rid := (ctxOf s core x).rid
        let s := objectsClear (slotUnconf s core g) rid (· == core)
        { s with rg.slots := s.rg.slots.upd (slotIx core g) (fun y => { y with loaded := false }) }
    | _ => s) s

/-- Taking an exception that traps a context (R377, R379), in one step: FLTREC is written, BLK naming the block at
which the context resumes; ST becomes WAIT with WCODE 0 and WIDX = CODE; the frame is released; an event record of
KIND 1 is written; and the supervisor of TSUP receives an event, or a context of ASID 1–255 without one takes a
context fault in its region's fault domain. -/
def takeTrap (s : State) (core x : Nat) (f : Flt) (blk : BitVec 55) (prog : Option Nat) : State :=
  let c := ctxOf s core x
  let s := blockUndo s core x (frameOf s core x)
  let s := ctxUpd (frameDrop s core x) core x (fun c => { c with
    flt0 := fltWord0 f c.exitIx prog, flt1 := blk.setWidth 64, flt2 := f.addr, flt3 := s.dev.gtsc
    st := .wait, wcode := 0, widx := f.code, blk := blk, resume := none })
  let s := pendDrop s core x
  let n := ctxOf s core x
  let r := regionOf s c.rid
  let fd := if c.rid = 0 then 0#12 else r.fd
  let s := eventRecord s 1 f.code c.asid fd core x c.rcba
    [n.flt0, n.flt1, n.flt2, coreLoc core, if c.rid = 0 then 0#64 else BitVec.ofNat 64 r.waveId]
  let t := s.ctl.tsup.at core
  if t.v then eventTo (ccClean s core) (t.die.toNat * 64 + t.core.toNat) t.ctx.toNat
  else if c.asid != 0#8 && c.rid != 0 then contextFault s c.rid f.code core
  else s

/-- The return from an exception (R381): a context that is trapped becomes READY at BLK; a spills or fills resumes
at PROG where PV = 1 and BLK is unchanged. A context that is not trapped, or an operand with bits [63:3] set, gives an
event record of KIND 9 and nothing else. -/
def returnTrap (s : State) (core me : Nat) (l : Word) : State :=
  let x := (l.extractLsb' 0 3).toNat
  let c := ctxOf s core x
  if l.extractLsb' 3 61 != 0#61 || !c.trapped then
    let m := ctxOf s core me
    eventRecord s 9 0 m.asid (if m.rid = 0 then 0#12 else (regionOf s m.rid).fd) core me m.rcba []
  else
    let blk := c.flt1.setWidth 55
    let cls := (c.flt0.extractLsb' 60 4).toNat
    let t := stamp s
    ctxUpd t.2 core x (fun c => { c with
      st := .ready, wcode := 0, widx := 0, since := t.1
      resume := if cls ≤ 3 && c.flt0.getLsbD 37 && blk == c.blk then some (c.flt0.extractLsb' 32 5).toNat else none
      blk := blk })

/-- Does a context wait for the reply of a request that has left the module (R256)? -/
def farWait (s : State) (core x : Nat) : Bool :=
  s.ctl.pend.any (fun w => w.core == core && w.ctx == x && w.kind == .remote)

/-- Has the block performed an irrevocable access, or does it wait for the reply of one (R144, R256)? Then it cannot be abandoned, and a
fault waits for its boundary. -/
def mustCommit (s : State) (core x : Nat) : Bool := (frameOf s core x).irrev || farWait s core x

/-- A fault of an instruction (R211, R254): taken at the block boundary, or, where the block must commit, at the next one, naming the
following block (R144). -/
def ctFault (s : State) (core x : Nat) (f : Flt) (prog : Option Nat := none) : State :=
  if mustCommit s core x then
    frameUpd s core x (fun fr => { fr with defer := match fr.defer with
      | some g => some g
      | none => some f })
  else takeTrap s core x f (ctxOf s core x).blk prog

/-! ### Holding and abandoning a block (R191, R202, R281) -/

/-- The current instruction is held: the context is HELD, with the wait code and index of what it waits for. -/
def ctHold (s : State) (core x wcode widx : Nat) : State :=
  let s := if (ctxOf s core x).st == .held then s else frameUpd s core x (fun f => { f with heldFor := s.dev.gtsc.toNat })
  ctxUpd s core x (fun c => { c with st := .held, wcode := wcode, widx := widx })

/-- The block is abandoned and gives up its frame; it re-executes whole later. -/
def ctAbandon (s : State) (core x : Nat) (st : CtxSt) (wcode widx : Nat) : State :=
  let s := blockUndo s core x (frameOf s core x)
  let t := stamp (frameDrop s core x)
  ctxUpd t.2 core x (fun c => { c with st := st, wcode := wcode, widx := widx, since := t.1 })

/-- An instruction that waits finds its condition false (R281): `park` says whether it may wait without a frame. -/
def ctWait (s : State) (core x : Nat) (park : Option CtxSt) (wcode widx : Nat) (arg : Word) (argIx : Nat) : State :=
  match park with
  | some st =>
    if mustCommit s core x then ctHold s core x wcode widx
    else ctAbandon (ctxUpd s core x (fun c => { c with park := arg, parkIx := argIx })) core x st wcode widx
  | none => ctHold s core x wcode widx

/-! ### Completing an instruction -/

/-- Send tokens to their targets in order; the first fault ends the block, or is kept for the boundary. -/
def ctSend (core x ix : Nat) : List (Nat × BitVec 9 × Tok) → State → State
  | [], s => s
  | (pos, t, v) :: r, s =>
    match (frameOf s core x).put ix pos t v with
    | .ok f => ctSend core x ix r (frameUpd s core x (fun _ => f))
    | .error e =>
      let on := mustCommit s core x
      let s := ctFault s core x e
      if on then ctSend core x ix r s else s

/-- An instruction has fired: it fires once, and its context runs on. -/
def ctFired (s : State) (core x ix : Nat) : State :=
  let s := frameUpd s core x (fun f => { f with
    fired := f.fired ||| (1#64 <<< ix), issued := f.issued &&& ~~~(1#64 <<< ix) })
  ctxUpd s core x (fun c => { c with st := .run, wcode := 0, widx := 0 })

/-- Mark an LSID complete. -/
def ctLsid (s : State) (core x l : Nat) : State :=
  frameUpd s core x (fun f => { f with lsids := f.lsids ||| (1#32 <<< l) })

/-- An instruction completes: its LSID, once (BADLSID otherwise, R145), then its tokens. -/
def ctDone (s : State) (core x ix : Nat) (l : Option Nat) (outs : List (Nat × BitVec 9 × Tok)) : State :=
  let s := ctFired s core x ix
  match l with
  | none => ctSend core x ix outs s
  | some k =>
    if (frameOf s core x).lsidDone k then
      let on := mustCommit s core x
      let s := ctFault s core x (dataFlt 7 ix)
      if on then ctSend core x ix outs s else s
    else ctSend core x ix outs (ctLsid s core x k)

/-- An instruction is predicated off (R210). -/
def ctOff (s : State) (core x ix : Nat) (l : Option Nat) (ts : List (BitVec 9)) : State :=
  ctDone s core x ix l (offOuts ts)

/-- A form that acts on its operands alone: null operands give null results (R227). -/
def ctPure (s : State) (p : BitVec 2) (left right : Bool) (ts : List (BitVec 9)) (g : Word → Word → Word) : State :=
  withCt s fun core x ix f =>
    match f.ready ix p left right with
    | .wait => s
    | .off => ctOff s core x ix none ts
    | .on (some a) (some b) => ctDone s core x ix none (outsOf ts (some (g a b)))
    | .on _ _ => ctDone s core x ix none (outsOf ts none)

/-- A form that reads state at firing, or leaves an effect for the commit: `k` answers the tokens of its targets
and the state; a null operand performs nothing and gives nulls. -/
def ctForm (s : State) (p : BitVec 2) (left right : Bool) (ts : List (BitVec 9))
    (k : Nat → Nat → Nat → Word → Word → State) : State :=
  withCt s fun core x ix f =>
    match f.ready ix p left right with
    | .wait => s
    | .off => ctOff s core x ix none ts
    | .on (some a) (some b) => k core x ix a b
    | .on _ _ => ctDone s core x ix none (outsOf ts none)

/-- Leave an effect for the commit of the block. -/
def atCommit (s : State) (core x ix : Nat) (e : AtCommit) : State :=
  frameUpd s core x (fun f => { f with commits := f.commits ++ [(ix, e)] })

/-- A memory token (R253, R254 step 1): it takes its turn when every lower LSID has completed (R142). -/
def ctMem (s : State) (p : BitVec 2) (left right : Bool) (l : BitVec 5) (ts : List (BitVec 9))
    (k : Nat → Nat → Nat → Word → Word → State) : State :=
  withCt s fun core x ix f =>
    match f.ready ix p left right with
    | .wait => s
    | .off => ctOff s core x ix (some l.toNat) ts
    | .on (some a) (some b) =>
      if !f.lsidsBelow l.toNat then s
      else if f.lsidDone l.toNat then ctFault (ctFired s core x ix) core x (dataFlt 7 ix)
      else k core x ix a b
    | .on _ _ => ctDone s core x ix (some l.toNat) (outsOf ts none)

/-- The block has performed an irrevocable access (R144). -/
def setIrrev (s : State) (core x : Nat) : State := frameUpd s core x (fun f => { f with irrev := true })

/-- A command (R280): performed once, after every memory token of its block and every command of lower index that
can fire. `priv` says whether it needs ASID 0 (R282). -/
def ctCommand (s : State) (p : BitVec 2) (left right priv : Bool) (ts : List (BitVec 9))
    (k : Nat → Nat → Nat → Word → Word → State) : State :=
  withCt s fun core x ix f =>
    match f.ready ix p left right with
    | .wait => s
    | .off => ctOff s core x ix none ts
    | .on (some a) (some b) =>
      if priv && (ctxOf s core x).asid != 0#8 then ctFault (ctFired s core x ix) core x (dataFlt 0x1B ix)
      else if !f.memDone || f.commandBelow ix then s
      else k core x ix a b
    | .on _ _ => ctDone s core x ix none (outsOf ts none)

/-- A command has been performed: the block can no longer be abandoned, and the result tokens go out. -/
def ctPerformed (s : State) (core x ix : Nat) (outs : List (Nat × BitVec 9 × Tok)) : State :=
  ctDone (setIrrev s core x) core x ix none outs

/-- A memory token faults. In a block that must commit its LSID completes with null tokens, and the fault waits for the boundary
(R144). -/
def ctMemFault (s : State) (core x ix l : Nat) (ts : List (BitVec 9)) (f : Flt) (prog : Option Nat := none) : State :=
  if mustCommit s core x then ctDone (ctFault s core x f) core x ix (some l) (outsOf ts none)
  else ctFault s core x f prog

/-! ### Accesses of memory tokens (R254, R255) -/

/-- What steps 2 and 3 of R254 check for a form: nothing, an access, a tile reference, a doorbell write (R279), or the hold
registers of a range (R264). -/
inductive MCheck
  | none
  | access (va : Word) (acc : Acc) (n : Nat)
  | tile (k : Nat) (o : Word)
  | bell (va : Word) (n : Nat)
  | range (va : Word) (acc : Acc) (first last : Nat)
  deriving DecidableEq, Repr, Inhabited

/-- The result of the checks: the fault, or the physical address and memory type. `wait` says that the access is held, for a walk
slot (R27) or a bank that changes its mode (R42). -/
structure MRes where
  flt : Option Flt
  wait : Bool
  pa : Nat
  mt : MType
  deriving DecidableEq, Repr, Inhabited

def xlateFlt (st ix : Nat) (va : Word) : Flt := { cls := 3, code := 0x10, xst := st, idx := ix, addr := va }

/-- A fault that reports an address. -/
def addrFlt (code ix : Nat) (va : Word) : Flt := { cls := 3, code := code, xst := 0, idx := ix, addr := va }

def MRes.fault (f : Flt) : MRes := { flt := some f, wait := false, pa := 0, mt := .wb }
def MRes.held : MRes := { flt := none, wait := true, pa := 0, mt := .wb }
def MRes.at_ (pa : Nat) (mt : MType) : MRes := { flt := none, wait := false, pa := pa, mt := mt }

/-- Check 8 of a form whose memory R255 restricts further than check 8 of R22 does: TYPE, ahead of check 9. -/
def XRes.refuse (x : XRes) (bad : XRes → Bool) : XRes :=
  if (x.st == .ok || x.st == .nopeer) && bad x then { x with st := .type } else x

/-- Steps 2 and 3 of R254 for an access of n bytes: alignment, translation, the hold of a bank that changes (R42), and R43's refusal
of a bank that is not in SCRATCH, which reports TYPE (R378). `bad` is what R255 refuses besides. -/
def ctTranslateBut (bad : XRes → Bool) (s : State) (core : Nat) (c : Ctx) (ix : Nat) (va : Word) (acc : Acc) (n : Nat) : MRes × State :=
  if va.toNat % n != 0 then (.fault (addrFlt 0x12 ix va), s)
  else if walkWait s (ctxActor core c) va then (.held, s)
  else
    let t := translate s (ctxActor core c) va acc n
    let x := t.1.refuse bad
    if x.st != .ok then (.fault (xlateFlt x.st.code ix va), t.2)
    else
      let pa := if acc == .ldred then x.pa else localPa t.2 x.pa
      if accBusy t.2 (ctxActor core c) x.mt pa n then (.held, t.2)
      else match place pa with
      | .bank k o =>
        if bankScratch t.2 k o then (.at_ pa x.mt, t.2) else (.fault (xlateFlt 7 ix va), t.2)
      | _ => (.at_ pa x.mt, t.2)

/-- Steps 2 and 3 of R254 for an access that R255 restricts no further. -/
def ctTranslate (s : State) (core : Nat) (c : Ctx) (ix : Nat) (va : Word) (acc : Acc) (n : Nat) : MRes × State :=
  ctTranslateBut (fun _ => false) s core c ix va acc n

def replPlace (pa : Nat) : Bool :=
  match place pa with
  | .repl _ _ => true
  | _ => false

def farPlace (pa : Nat) : Bool :=
  match place pa with
  | .remote _ _ => true
  | _ => false

/-- One register of a spills or fills: any DEV page, replicated or remote address is refused with TYPE (R255). -/
def rangeTranslate (s : State) (core : Nat) (c : Ctx) (ix : Nat) (va : Word) (acc : Acc) : MRes × State :=
  ctTranslateBut (fun x => x.mt == .dev || replPlace x.pa || farPlace x.pa) s core c ix va acc 8

/-- A doorbell write: any page but DEV, and the replicated window, is refused with TYPE (R255). -/
def bellTranslate (s : State) (core : Nat) (c : Ctx) (ix : Nat) (va : Word) (n : Nat) : MRes × State :=
  ctTranslateBut (fun x => x.mt != .dev || replPlace x.pa) s core c ix va .store n

/-- The tile checks of R260: TILEREF, then TILEBOUND. A context of a dead generation has no context for any access (R13). -/
def tileCheck (s : State) (core : Nat) (c : Ctx) (ix k : Nat) (o : Word) : Option Flt :=
  let t := s.st.tiles.at (tileKey core k)
  if staleGen s c.asid c.gen then some (xlateFlt XSt.noctx.code ix o)
  else if t.badRef c.asid then some (addrFlt 0x14 ix o)
  else if o.toNat % 8 != 0 || t.size < o.toNat + 8 then some (addrFlt 0x15 ix o)
  else none

/-- The first register a spills or fills moves: FIRST, or PROG when its block resumes (R265). -/
def rangeStart (c : Ctx) (first : Nat) : Nat := c.resume.getD first

/-- The checks of n registers of a range. -/
def rangeCheck (core : Nat) (c : Ctx) (ix : Nat) (acc : Acc) : Nat → Word → State → MRes × State
  | 0, _, s => (.at_ 0 .wb, s)
  | n + 1, va, s =>
    let r := rangeTranslate s core c ix va acc
    if r.1.wait || r.1.flt.isSome then r else rangeCheck core c ix acc n (va + 8#64) r.2

def mcheckRun (s : State) (core : Nat) (c : Ctx) (ix : Nat) (m : MCheck) : MRes × State :=
  match m with
  | .none => (.at_ 0 .wb, s)
  | .access va acc n => ctTranslate s core c ix va acc n
  | .tile k o => (match tileCheck s core c ix k o with
    | some e => .fault e
    | none => .at_ 0 .wb, s)
  | .bell va n => bellTranslate s core c ix va n
  | .range va acc a b =>
    let k := rangeStart c a
    rangeCheck core c ix acc (b + 1 - k) (va + BitVec.ofNat 64 (8 * (k - a))) s

/-- The address of a load or store with an offset of w-byte units (R258, R262). -/
def offAddr (l : Word) (imm : Word) (w : Nat) : Word := l + imm * BitVec.ofNat 64 w

/-- A retry of a remote atomic (R270). -/
def isRetry (l : Word) : Bool := l.extractLsb' 60 4 == 0xF#4 && l.extractLsb' 24 36 == 0#36

/-- Width of an atomic (R268). -/
def atomicWidth (op : Nat) : Nat := if op = 1 ∨ op = 10 then 4 else 8

/-- The check an atomic makes: none for a retry. -/
def atomicCheck (op : Nat) (l : Word) : MCheck := if isRetry l then .none else .access l .atomic (atomicWidth op)

/-- What a memory token's operands name, for the checks that an irrevocable access asks of the tokens above it
(R144). A form that names no memory checks nothing. -/
def Instr.mcheck (i : Instr) (l r : Word) : MCheck :=
  match i with
  | .ldb _ _ k _ => .access (offAddr l (k.signExtend 64) 1) .load 1
  | .ldbs _ _ k _ => .access (offAddr l (k.signExtend 64) 1) .load 1
  | .ldh _ _ k _ => .access (offAddr l (k.signExtend 64) 2) .load 2
  | .ldhs _ _ k _ => .access (offAddr l (k.signExtend 64) 2) .load 2
  | .ldw _ _ k _ => .access (offAddr l (k.signExtend 64) 4) .load 4
  | .ldws _ _ k _ => .access (offAddr l (k.signExtend 64) 4) .load 4
  | .ldd _ _ k _ => .access (offAddr l (k.signExtend 64) 8) .load 8
  | .lda _ _ _ _ => .access l .load 8
  | .ldred _ _ _ _ => .access l .ldred (if r = 0#64 then 8 else 4)
  | .ldt _ _ k _ => .tile k.toNat l
  | .stb _ _ k => .access (offAddr l (k.signExtend 64) 1) .store 1
  | .sth _ _ k => .access (offAddr l (k.signExtend 64) 2) .store 2
  | .stw _ _ k => .access (offAddr l (k.signExtend 64) 4) .store 4
  | .std _ _ k => .access (offAddr l (k.signExtend 64) 8) .store 8
  | .stl _ _ _ k => .access (offAddr l (k.signExtend 64) 8) .store 8
  | .stt _ _ k => .tile k.toNat l
  | .aadd .. => atomicCheck 0 l
  | .aaddf .. => atomicCheck 1 l
  | .amin .. => atomicCheck 2 l
  | .amax .. => atomicCheck 3 l
  | .aminn .. => atomicCheck 4 l
  | .amaxn .. => atomicCheck 5 l
  | .aand .. => atomicCheck 6 l
  | .aor .. => atomicCheck 7 l
  | .axor .. => atomicCheck 8 l
  | .aswp .. => atomicCheck 9 l
  | .acas .. => atomicCheck 10 l
  | .ainc .. => atomicCheck 11 l
  | .nwrite _ _ z => .bell l (if z = 0#1 then 4 else 8)
  | .spills _ _ b a => .range l .store a.toNat b.toNat
  | .fills _ _ b a => .range l .load a.toNat b.toNat
  | .sopen .. => .access l .load 64
  | _ => .none

/-! ### Instructions that wait for a completion of their own (R281) -/

/-- An instruction has issued and waits for its completion; its context is HELD. -/
def pendIssue (s : State) (core x ix : Nat) (kind : PendKind) (wcode widx : Nat) (a b va : Word) : State :=
  let w : PendOp := {
    core := core, ctx := x, ix := ix, kind := kind, a := a, b := b, c := 0#64, time := s.dev.gtsc, va := va, port := 0
    tag := 0#24, req := none }
  let s := { s with ctl.pend := s.ctl.pend ++ [w] }
  let s := frameUpd s core x (fun f => { f with issued := f.issued ||| (1#64 <<< ix) })
  ctHold s core x wcode widx

/-- The operation of a kind that a context waits for. -/
def pendOf (s : State) (core x : Nat) (p : PendKind → Bool) : Option PendOp :=
  s.ctl.pend.find? (fun w => w.core == core && w.ctx == x && p w.kind)

/-- A pending operation leaves the list, and its instruction is no longer issued. -/
def pendEnd (s : State) (w : PendOp) : State :=
  let s := { s with ctl.pend := s.ctl.pend.erase w }
  frameUpd s w.core w.ctx (fun f => { f with issued := f.issued &&& ~~~(1#64 <<< w.ix) })

/-! ### Irrevocable accesses (R144) -/

/-- What the memory tokens of higher LSID allow: wait for one whose operands have not come, take the fault of one
whose check fails, or go on. -/
inductive Higher
  | wait
  | flt (f : Flt)
  | ok
  deriving DecidableEq, Repr, Inhabited

/-- The check of one instruction of the block against the LSID of an irrevocable access. `all` says whether a token whose operands
have not come is waited for. -/
def higherOne (all : Bool) (core : Nat) (c : Ctx) (f : Frame) (l : Nat) (acc : Higher × State) (ix : Nat) : Higher × State :=
  match acc.1 with
  | .ok =>
    (match f.instr ix with
      | none => acc
      | some i => match i.form with
        | none => acc
        | some m => match m.rank, m.lsid with
          | 1, some k =>
            if k.toNat ≤ l || f.lsidDone k.toNat then acc
            else (match f.readyOf ix i with
              | .wait => if all then (.wait, acc.2) else acc
              | .on (some a) (some b) =>
                let r := mcheckRun acc.2 core c ix (Instr.mcheck i a b)
                (match r.1.flt with
                  | some e => (.flt e, r.2)
                  | none => if r.1.wait then (.wait, r.2) else (.ok, r.2))
              | _ => acc)
          | _, _ => acc)
  | _ => acc

def higherOk (s : State) (core x : Nat) (l : Nat) (all : Bool := true) : Higher × State :=
  let f := frameOf s core x
  (List.range f.words.length).foldl (higherOne all core (ctxOf s core x) f l) (.ok, s)

/-- Perform what cannot be abandoned afterwards at its LSID, when the memory tokens above it allow that. Where the block must commit already,
a token above that cannot pass takes its own fault later. -/
def ctHigher (all : Bool) (s : State) (core x l : Nat) (k : State → State) : State :=
  let h := higherOk s core x l all
  match h.1 with
  | .wait => ctHold h.2 core x 9 l
  | .flt f => if mustCommit h.2 core x then k h.2 else ctFault h.2 core x f
  | .ok => k h.2

/-- Perform an irrevocable access at its LSID when R144 allows it; `k` marks it performed. -/
def ctIrrev (s : State) (core x l : Nat) (k : State → State) : State := ctHigher true s core x l k

/-! ### Stores of the block (R142, R143) -/

/-- The core-cache sectors of a core that hold an address are written back and invalidated (R163, R269). -/
def homeSync (s : State) (core pa : Nat) : State :=
  if place pa != .dram then s
  else (ccWays s core (ccSlice pa)).foldl (fun s b =>
    let k := ccKey core (ccSlice pa) (ccSet pa) b
    if (s.st.cc.at k).tag.toNat == pa / 2 ^ 18 && ((s.st.cc.at k).sector pa).v then
      let s := ccBack s core (ccSlice pa) (ccSet pa) b
      { s with st.cc := s.st.cc.upd k (fun l => l.setSector pa { l.sector pa with v := false, d := false }) }
    else s) s

/-- Read at the home point (R161, R163). -/
def homeRead (s : State) (a : Actor) (mt : MType) (pa n : Nat) : PRes × State :=
  let s := homeSync s a.core pa
  performRead s { a with path := .inb } mt pa n

/-- Write at the home point. -/
def homeWrite (s : State) (a : Actor) (mt : MType) (pa : Nat) (bs : List Byte) : PRes × State :=
  let s := homeSync s a.core pa
  performWrite s { a with path := .inb } mt pa bs

/-- Write to a place that a CT store reaches: a device target, or memory. -/
def placeWrite (s : State) (a : Actor) (mt : MType) (pa : Nat) (bs : List Byte) (home : Bool) : State :=
  match place pa with
  | .regs _ _ => deviceWrite s pa a.asid bs
  | .notify _ _ _ => deviceWrite s pa a.asid bs
  | _ => if home then (homeWrite s a mt pa bs).2 else (performWrite s a mt pa bs).2

/-- Perform one pending store: a release store of scope .d or wider cleans the core cache first and is performed at
the home point (R162). -/
def storePerform (core : Nat) (c : Ctx) (s : State) (p : PendStore) : State :=
  let a := ctxActor core c
  match p.rel with
  | some sc => placeWrite (release s core sc) a (MType.ofBits p.mt) p.pa p.bytes (decide (2 ≤ sc))
  | none => placeWrite s a (MType.ofBits p.mt) p.pa p.bytes false

/-- The block's stores of LSID below a bound, in ascending LSID, are performed (R142, R143). -/
def storesBelow (s : State) (core x l : Nat) : State :=
  let f := frameOf s core x
  let s := frameUpd s core x (fun f => { f with stores := f.stores.filter (fun p => l ≤ p.lsid) })
  ((List.range l).map (fun k => f.stores.filter (fun p => p.lsid == k))).flatten.foldl
    (storePerform core (ctxOf s core x)) s

/-- Has the block stores that wait below an LSID? -/
def Frame.storesWait (f : Frame) (l : Nat) : Bool := f.stores.any (fun p => decide (p.lsid < l))

/-- Must a store that waits be held, because a bank it goes to changes its mode (R42)? -/
def storeHeld (s : State) (core : Nat) (c : Ctx) (p : PendStore) : Bool :=
  accBusy s (ctxActor core c) (MType.ofBits p.mt) p.pa p.bytes.length

/-- Has the bank of a store that waits left SCRATCH since the check (R43)? -/
def storeShut (s : State) (p : PendStore) : Bool :=
  match place p.pa with
  | .bank k o => !p.tile && !bankScratch s k o
  | _ => false

/-- Before the stores of a block below an LSID are performed: they are held for a bank that changes, and a store whose bank admits
it no longer meets its check again, which refuses it with TYPE (R42, R43). -/
def storesReady (s : State) (core x l : Nat) (k : State → State) : State :=
  let ps := (frameOf s core x).stores.filter (fun p => decide (p.lsid < l))
  match ps.find? (storeHeld s core (ctxOf s core x)) with
  | some p => ctHold s core x 9 p.lsid
  | none => if ps.any (storeShut s) then frameUpd s core x (·.unpass (storeShut s)) else k s

/-- Before an access that must come after the stores of its block below it: those stores are performed first, after which the block
cannot be abandoned (log entry 14). -/
def storesFirst (s : State) (core x l : Nat) : State :=
  if (frameOf s core x).storesWait l then storesBelow (setIrrev s core x) core x l else s

/-- What a load of a block reads at a place: the device, the home point or memory. -/
def loadAt (core : Nat) (c : Ctx) (mt : MType) (pa n : Nat) (home : Bool) (s : State) : PRes × State :=
  match place pa with
  | .regs _ _ => (.ok (deviceRead s pa n), s)
  | .notify _ _ _ => (.ok (deviceRead s pa n), s)
  | _ => if home then homeRead s (ctxActor core c) mt pa n else performRead s (ctxActor core c) mt pa n

/-- Perform a load of a block: its value is what the place would hold had the stores of its block below it been performed (R142);
none where a word of it is poisoned. -/
def ctRead (s : State) (core x l : Nat) (mt : MType) (pa n : Nat) (home : Bool) : Option (List Byte) × State :=
  let c := ctxOf s core x
  let r := loadAt core c mt pa n home s
  let v := if (frameOf s core x).storesWait l then (loadAt core c mt pa n home (storesBelow s core x l)).1 else r.1
  match v with
  | .ok bs => (some bs, r.2)
  | _ => (none, r.2)

/-! ### Remote requests (R167, R256) -/

/-- A context issues a request that leaves the module; it is HELD until the reply or 500 µs (R256). -/
def remoteIssue (s : State) (core x ix p : Nat) (l knd : Nat) (va : Word) (load : Payload) (tag : BitVec 24)
    (req : Option RemoteAtomic) : State :=
  let node := (s.xl.peers.at p).node
  let q := portTo s node
  let s := sendOut q.2 { port := q.1, node := node, load := load }
  let w : PendOp := {
    core := core, ctx := x, ix := ix, kind := .remote, a := BitVec.ofNat 64 l, b := BitVec.ofNat 64 knd, c := node.setWidth 64
    time := s.dev.gtsc, va := va, port := q.1, tag := tag, req := req }
  let s := { s with ctl.pend := s.ctl.pend ++ [w] }
  let s := frameUpd s core x (fun f => { f with issued := f.issued ||| (1#64 <<< ix) })
  ctHold s core x 18 0

end Sys2Proof.Machine
end

