-- ==== Sys2Proof/Machine/Compute.lean ====
section
/-! DEFINITION. Control-thread instructions of chapter 11: compute, tests and flow (R227–R252). -/

namespace Sys2Proof.Machine

/-- What a meaning answers. -/
abbrev Out := Host.Outcome State Fault Refusal

/-! ### Arithmetic (R231–R238) -/

/-- Bits [127:64] of the signed product. -/
def mulHigh (a b : Word) : Word := BitVec.ofInt 64 (a.toInt * b.toInt / 2 ^ 64)
/-- Bits [127:64] of the unsigned product. -/
def mulHighN (a b : Word) : Word := BitVec.ofNat 64 (a.toNat * b.toNat / 2 ^ 64)
/-- The signed sum saturated to 64 bits. -/
def addSat (a b : Word) : Word := BitVec.ofInt 64 (Num.clampInt (-2 ^ 63) (2 ^ 63 - 1) (a.toInt + b.toInt))

/-- divs of R232. -/
def divSigned (a b : Word) : Word :=
  if b = 0#64 then BitVec.allOnes 64
  else if a.toInt = -2 ^ 63 ∧ b.toInt = -1 then a
  else BitVec.ofInt 64 (a.toInt.tdiv b.toInt)
/-- rems of R232. -/
def remSigned (a b : Word) : Word :=
  if b = 0#64 then a
  else if a.toInt = -2 ^ 63 ∧ b.toInt = -1 then 0#64
  else BitVec.ofInt 64 (a.toInt - a.toInt.tdiv b.toInt * b.toInt)
/-- divn of R232. -/
def divNat (a b : Word) : Word := if b = 0#64 then BitVec.allOnes 64 else BitVec.ofNat 64 (a.toNat / b.toNat)
/-- remn of R232. -/
def remNat (a b : Word) : Word := if b = 0#64 then a else BitVec.ofNat 64 (a.toNat % b.toNat)

/-- The shift count b[5:0] (R234). -/
def shiftCount (b : Word) : Nat := b.toNat % 64

/-- Zero bits above the highest one; 64 for 0 (R235). -/
def leadingZeros (a : Word) : Word :=
  BitVec.ofNat 64 (((List.range 64).find? (fun k => a.getLsbD (63 - k))).getD 64)
/-- Zero bits below the lowest one; 64 for 0 (R235). -/
def trailingZeros (a : Word) : Word := BitVec.ofNat 64 (((List.range 64).find? (fun k => a.getLsbD k)).getD 64)
/-- Number of one bits (R235). -/
def onesCount (a : Word) : Word := BitVec.ofNat 64 ((List.range 64).countP (fun k => a.getLsbD k))

/-- The field of w bits at position q, zero-extended (R238). -/
def bitsTake (a : Word) (q w : Nat) : Word := zx (a >>> q) w
/-- a with its field of w bits at position q replaced by the low bits of b (R238). -/
def bitsPut (a b : Word) (q w : Nat) : Word :=
  let m := (BitVec.ofNat 64 (2 ^ w - 1)) <<< q
  (a &&& ~~~m) ||| ((b <<< q) &&& m)

/-! ### Meanings: register, immediate and constant forms, tests (R231–R243) -/

/-- ADD: the sum modulo 2^64 (R231). -/
def execAdd (p : BitVec 2) (t : BitVec 9) (u : BitVec 9) (s : State) : Out :=
  .next (ctPure s p true true [t, u] fun a b => a + b)
/-- SUB: the difference modulo 2^64 (R231). -/
def execSub (p : BitVec 2) (t : BitVec 9) (u : BitVec 9) (s : State) : Out :=
  .next (ctPure s p true true [t, u] fun a b => a - b)
/-- MUL: the low half of the product (R231). -/
def execMul (p : BitVec 2) (t : BitVec 9) (u : BitVec 9) (s : State) : Out :=
  .next (ctPure s p true true [t, u] fun a b => a * b)
/-- MULH: the high half of the signed product (R231). -/
def execMulh (p : BitVec 2) (t : BitVec 9) (u : BitVec 9) (s : State) : Out :=
  .next (ctPure s p true true [t, u] fun a b => mulHigh a b)
/-- MULHN: the high half of the unsigned product (R231). -/
def execMulhn (p : BitVec 2) (t : BitVec 9) (u : BitVec 9) (s : State) : Out :=
  .next (ctPure s p true true [t, u] fun a b => mulHighN a b)
/-- ADDS: the signed sum saturated to 64 bits (R231). -/
def execAdds (p : BitVec 2) (t : BitVec 9) (u : BitVec 9) (s : State) : Out :=
  .next (ctPure s p true true [t, u] fun a b => addSat a b)
/-- MIN: the signed minimum (R231). -/
def execMin (p : BitVec 2) (t : BitVec 9) (u : BitVec 9) (s : State) : Out :=
  .next (ctPure s p true true [t, u] fun a b => if a.sle b then a else b)
/-- MAX: the signed maximum (R231). -/
def execMax (p : BitVec 2) (t : BitVec 9) (u : BitVec 9) (s : State) : Out :=
  .next (ctPure s p true true [t, u] fun a b => if b.sle a then a else b)
/-- MINN: the unsigned minimum (R231). -/
def execMinn (p : BitVec 2) (t : BitVec 9) (u : BitVec 9) (s : State) : Out :=
  .next (ctPure s p true true [t, u] fun a b => if a.ule b then a else b)
/-- MAXN: the unsigned maximum (R231). -/
def execMaxn (p : BitVec 2) (t : BitVec 9) (u : BitVec 9) (s : State) : Out :=
  .next (ctPure s p true true [t, u] fun a b => if b.ule a then a else b)
/-- DIVS: the signed quotient toward zero (R232). -/
def execDivs (p : BitVec 2) (t : BitVec 9) (u : BitVec 9) (s : State) : Out :=
  .next (ctPure s p true true [t, u] fun a b => divSigned a b)
/-- DIVN: the unsigned quotient (R232). -/
def execDivn (p : BitVec 2) (t : BitVec 9) (u : BitVec 9) (s : State) : Out :=
  .next (ctPure s p true true [t, u] fun a b => divNat a b)
/-- REMS: the signed remainder (R232). -/
def execRems (p : BitVec 2) (t : BitVec 9) (u : BitVec 9) (s : State) : Out :=
  .next (ctPure s p true true [t, u] fun a b => remSigned a b)
/-- REMN: the unsigned remainder (R232). -/
def execRemn (p : BitVec 2) (t : BitVec 9) (u : BitVec 9) (s : State) : Out :=
  .next (ctPure s p true true [t, u] fun a b => remNat a b)
/-- AND (R233). -/
def execAnd (p : BitVec 2) (t : BitVec 9) (u : BitVec 9) (s : State) : Out :=
  .next (ctPure s p true true [t, u] fun a b => a &&& b)
/-- OR (R233). -/
def execOr (p : BitVec 2) (t : BitVec 9) (u : BitVec 9) (s : State) : Out :=
  .next (ctPure s p true true [t, u] fun a b => a ||| b)
/-- XOR (R233). -/
def execXor (p : BitVec 2) (t : BitVec 9) (u : BitVec 9) (s : State) : Out :=
  .next (ctPure s p true true [t, u] fun a b => a ^^^ b)
/-- ANDN: a AND NOT b (R233). -/
def execAndn (p : BitVec 2) (t : BitVec 9) (u : BitVec 9) (s : State) : Out :=
  .next (ctPure s p true true [t, u] fun a b => a &&& ~~~b)
/-- SHL by b[5:0] (R234). -/
def execShl (p : BitVec 2) (t : BitVec 9) (u : BitVec 9) (s : State) : Out :=
  .next (ctPure s p true true [t, u] fun a b => a <<< shiftCount b)
/-- SHR: logical, by b[5:0] (R234). -/
def execShr (p : BitVec 2) (t : BitVec 9) (u : BitVec 9) (s : State) : Out :=
  .next (ctPure s p true true [t, u] fun a b => a >>> shiftCount b)
/-- SHA: arithmetic, by b[5:0] (R234). -/
def execSha (p : BitVec 2) (t : BitVec 9) (u : BitVec 9) (s : State) : Out :=
  .next (ctPure s p true true [t, u] fun a b => a.sshiftRight (shiftCount b))
/-- ROL by b[5:0] (R234). -/
def execRol (p : BitVec 2) (t : BitVec 9) (u : BitVec 9) (s : State) : Out :=
  .next (ctPure s p true true [t, u] fun a b => a.rotateLeft (shiftCount b))
/-- CLZ (R235). -/
def execClz (p : BitVec 2) (t : BitVec 9) (u : BitVec 9) (s : State) : Out :=
  .next (ctPure s p true false [t, u] fun a _ => leadingZeros a)
/-- CTZ (R235). -/
def execCtz (p : BitVec 2) (t : BitVec 9) (u : BitVec 9) (s : State) : Out :=
  .next (ctPure s p true false [t, u] fun a _ => trailingZeros a)
/-- POPC (R235). -/
def execPopc (p : BitVec 2) (t : BitVec 9) (u : BitVec 9) (s : State) : Out :=
  .next (ctPure s p true false [t, u] fun a _ => onesCount a)
/-- MOV: the left operand to two targets (R235). -/
def execMov (p : BitVec 2) (t : BitVec 9) (u : BitVec 9) (s : State) : Out :=
  .next (ctPure s p true false [t, u] fun a _ => a)
/-- SEXT of the low 8, 16 or 32 bits (R236). -/
def execSext (p : BitVec 2) (w : BitVec 2) (t : BitVec 9) (u : BitVec 9) (s : State) : Out :=
  .next (ctPure s p true false [t, u] fun a _ => sx a (8 * 2 ^ w.toNat))
/-- ZEXT of the low 8, 16 or 32 bits (R236). -/
def execZext (p : BitVec 2) (w : BitVec 2) (t : BitVec 9) (u : BitVec 9) (s : State) : Out :=
  .next (ctPure s p true false [t, u] fun a _ => zx a (8 * 2 ^ w.toNat))
/-- ADDI (R237). -/
def execAddi (p : BitVec 2) (i : BitVec 14) (t : BitVec 9) (s : State) : Out :=
  .next (ctPure s p true false [t] fun a _ => a + i.signExtend 64)
/-- MULI (R237). -/
def execMuli (p : BitVec 2) (i : BitVec 14) (t : BitVec 9) (s : State) : Out :=
  .next (ctPure s p true false [t] fun a _ => a * i.signExtend 64)
/-- ANDI (R237). -/
def execAndi (p : BitVec 2) (i : BitVec 14) (t : BitVec 9) (s : State) : Out :=
  .next (ctPure s p true false [t] fun a _ => a &&& i.signExtend 64)
/-- ORI: the immediate zero-extended (R237). -/
def execOri (p : BitVec 2) (i : BitVec 14) (t : BitVec 9) (s : State) : Out :=
  .next (ctPure s p true false [t] fun a _ => a ||| i.setWidth 64)
/-- XORI: the immediate zero-extended (R237). -/
def execXori (p : BitVec 2) (i : BitVec 14) (t : BitVec 9) (s : State) : Out :=
  .next (ctPure s p true false [t] fun a _ => a ^^^ i.setWidth 64)
/-- SHLI (R237). -/
def execShli (p : BitVec 2) (n : BitVec 6) (t : BitVec 9) (s : State) : Out :=
  .next (ctPure s p true false [t] fun a _ => a <<< n.toNat)
/-- SHRI (R237). -/
def execShri (p : BitVec 2) (n : BitVec 6) (t : BitVec 9) (s : State) : Out :=
  .next (ctPure s p true false [t] fun a _ => a >>> n.toNat)
/-- SHAI (R237). -/
def execShai (p : BitVec 2) (n : BitVec 6) (t : BitVec 9) (s : State) : Out :=
  .next (ctPure s p true false [t] fun a _ => a.sshiftRight n.toNat)
/-- BFX: the field of width w + 1 at position q (R238). -/
def execBfx (p : BitVec 2) (q : BitVec 6) (w : BitVec 6) (t : BitVec 9) (s : State) : Out :=
  .next (ctPure s p true false [t] fun a _ => bitsTake a q.toNat (w.toNat + 1))
/-- BFI: the low bits of b as a field of a (R238). -/
def execBfi (p : BitVec 2) (q : BitVec 6) (w : BitVec 6) (t : BitVec 9) (s : State) : Out :=
  .next (ctPure s p true true [t] fun a b => bitsPut a b q.toNat (w.toNat + 1))
/-- MOVC: a sign-extended constant, at block start (R239). -/
def execMovc (c : BitVec 16) (t : BitVec 9) (s : State) : Out :=
  .next (ctPure s 0#2 false false [t] fun _ _ => c.signExtend 64)
/-- MOVH: the operand shifted 16 bits left, with a constant below (R239). -/
def execMovh (c : BitVec 16) (t : BitVec 9) (s : State) : Out :=
  .next (ctPure s 0#2 true false [t] fun a _ => (a <<< 16) ||| c.setWidth 64)
/-- TEQ (R241). -/
def execTeq (p : BitVec 2) (t : BitVec 9) (u : BitVec 9) (s : State) : Out :=
  .next (ctPure s p true true [t, u] fun a b => testEq a b)
/-- TNE (R241). -/
def execTne (p : BitVec 2) (t : BitVec 9) (u : BitVec 9) (s : State) : Out :=
  .next (ctPure s p true true [t, u] fun a b => testNe a b)
/-- TLT (R241). -/
def execTlt (p : BitVec 2) (t : BitVec 9) (u : BitVec 9) (s : State) : Out :=
  .next (ctPure s p true true [t, u] fun a b => testLt a b)
/-- TLE (R241). -/
def execTle (p : BitVec 2) (t : BitVec 9) (u : BitVec 9) (s : State) : Out :=
  .next (ctPure s p true true [t, u] fun a b => testLe a b)
/-- TLTN (R241). -/
def execTltn (p : BitVec 2) (t : BitVec 9) (u : BitVec 9) (s : State) : Out :=
  .next (ctPure s p true true [t, u] fun a b => testLtn a b)
/-- TLEN (R241). -/
def execTlen (p : BitVec 2) (t : BitVec 9) (u : BitVec 9) (s : State) : Out :=
  .next (ctPure s p true true [t, u] fun a b => testLen a b)
/-- TEQI (R242). -/
def execTeqi (p : BitVec 2) (i : BitVec 14) (t : BitVec 9) (s : State) : Out :=
  .next (ctPure s p true false [t] fun a _ => testEq a (i.signExtend 64))
/-- TLTI (R242). -/
def execTlti (p : BitVec 2) (i : BitVec 14) (t : BitVec 9) (s : State) : Out :=
  .next (ctPure s p true false [t] fun a _ => testLt a (i.signExtend 64))
/-- TLTNI: the immediate zero-extended (R242). -/
def execTltni (p : BitVec 2) (i : BitVec 14) (t : BitVec 9) (s : State) : Out :=
  .next (ctPure s p true false [t] fun a _ => testLtn a (i.setWidth 64))
/-- PAND: bit 0 of both operands (R243). -/
def execPand (p : BitVec 2) (t : BitVec 9) (u : BitVec 9) (s : State) : Out :=
  .next (ctPure s p true true [t, u] fun a b => predAnd a b)
/-- POR: bit 0 of both operands (R243). -/
def execPor (p : BitVec 2) (t : BitVec 9) (u : BitVec 9) (s : State) : Out :=
  .next (ctPure s p true true [t, u] fun a b => predOr a b)
/-- PNOT: bit 0 inverted (R243). -/
def execPnot (p : BitVec 2) (t : BitVec 9) (u : BitVec 9) (s : State) : Out :=
  .next (ctPure s p true false [t, u] fun a _ => predNot a)

/-- RDH: a hold register as it stood when the block began (R240). -/
def execRdh (p : BitVec 2) (h : BitVec 5) (t : BitVec 9) (u : BitVec 9) (s : State) : Out :=
  .next (ctForm s p false false [t, u] fun core x ix _ _ =>
    ctDone s core x ix none (outsOf [t, u] (some ((ctxOf s core x).h.at h.toNat))))

/-! ### Meanings: exits (R244–R249) -/

/-- An exit arrives: a second one is the fault BADEXIT (R211). The target of ret is known at commit (R247). -/
def ctExit (s : State) (core x ix : Nat) (tgt : Word) : State :=
  let s := ctFired s core x ix
  if (frameOf s core x).exit.isSome then ctFault s core x (dataFlt 0x18 ix)
  else frameUpd s core x (fun f => { f with exit := some (ix, tgt) })

/-- The address that a relative exit names (R245). -/
def relTarget (s : State) (core x : Nat) (o : BitVec 20) : Word :=
  (ctxOf s core x).blk.setWidth 64 + o.signExtend 64 * 4#64

/-- BR: exit to a relative block (R245). -/
def execBr (p : BitVec 2) (_e : BitVec 3) (o : BitVec 20) (s : State) : Out :=
  .next (ctForm s p false false [] fun core x ix _ _ => ctExit s core x ix (relTarget s core x o))
/-- CALL: a relative exit that pushes the return address at commit (R245, R247). -/
def execCall (p : BitVec 2) (_e : BitVec 3) (o : BitVec 20) (s : State) : Out :=
  .next (ctForm s p false false [] fun core x ix _ _ => ctExit s core x ix (relTarget s core x o))
/-- BRT: exit to the left operand; a null target is no exit (R246). -/
def execBrt (p : BitVec 2) (_e : BitVec 3) (s : State) : Out :=
  .next (ctForm s p true false [] fun core x ix a _ => ctExit s core x ix a)
/-- CALLT: exit to the left operand, pushing the return address at commit (R246, R247). -/
def execCallt (p : BitVec 2) (_e : BitVec 3) (s : State) : Out :=
  .next (ctForm s p true false [] fun core x ix a _ => ctExit s core x ix a)
/-- RET: exit to the link-stack entry that the commit pops (R247, R248). -/
def execRet (p : BitVec 2) (_e : BitVec 3) (s : State) : Out :=
  .next (ctForm s p false false [] fun core x ix _ _ => ctExit s core x ix 0#64)

/-! ### Meanings: joining paths (R250–R252) -/

/-- SEL: forwards whichever of its inputs came, the first to come where both did (R250; log entry 59). -/
def execSel (p : BitVec 2) (t : BitVec 9) (u : BitVec 9) (s : State) : Out :=
  .next (withCt s fun core x ix f =>
    match f.readyEither ix p with
    | .wait => s
    | .off => ctOff s core x ix none [t, u]
    | .on v _ => ctDone s core x ix none (outsOf [t, u] v))
/-- NULLW: null writes to its targets (R251). -/
def execNullw (p : BitVec 2) (t : BitVec 9) (u : BitVec 9) (s : State) : Out :=
  .next (ctForm s p false false [t, u] fun core x ix _ _ => ctDone s core x ix none (outsOf [t, u] none))
/-- NULLS: completes an LSID as a null token (R252). -/
def execNulls (p : BitVec 2) (t : BitVec 9) (l : BitVec 5) (s : State) : Out :=
  .next (ctForm s p false false [t] fun core x ix _ _ => ctDone s core x ix (some l.toNat) (outsOf [t] none))

end Sys2Proof.Machine
end

