-- ==== Sys2Proof/Machine/CtMem.lean ====
section
/-! DEFINITION. Control-thread instructions of chapter 12 that reach memory: loads, stores, tile accesses, spills and
fills, replicated loads, atomics, and the replies of remote accesses (R253–R270, R279). -/

namespace Sys2Proof.Machine

/-! ### Access kinds of ASTAT (R256) and reply statuses -/

/-- A reply's statuses: 0 OK, 10 REFUSED (R24), 0x13 POISON (R378), and those of R170. -/
def replyFault (st : Nat) : Bool := st == 10 || st == 0x13

/-- The effect that a remote access leaves in ASTAT at commit (R256). -/
def astatAt (s : State) (core x ix l st knd tag : Nat) : State :=
  atCommit s core x ix (.astat l (astatWord st knd tag))

/-! ### Loads (R258, R259) -/

/-- Complete a load that is performed on this module; one of a DEV page is irrevocable (R144). -/
def ctLoadHere (s : State) (core x ix l : Nat) (t : BitVec 9) (va : Word) (mt : MType) (pa n : Nat) (home : Bool)
    (ext : Word → Word) : State :=
  let r := ctRead s core x l mt pa n home
  match r.1 with
  | some bs =>
    let s := if home then ccInval r.2 core else r.2
    let s := if mt == .dev then setIrrev s core x else s
    ctDone s core x ix (some l) [(0, t, some (ext (leWord bs)))]
  | none => ctMemFault r.2 core x ix l [t] (addrFlt 0x13 ix va)

/-- A load of n bytes (R254–R258): remote and DEV loads are irrevocable (R144, R256). -/
def ctLoad (s : State) (p : BitVec 2) (l : BitVec 5) (t : BitVec 9) (n : Nat) (home : Bool) (addr : Word → Word)
    (ext : Word → Word) : State :=
  ctMem s p true false l [t] fun core x ix a _ =>
    let va := addr a
    let r := ctTranslate s core (ctxOf s core x) ix va .load n
    match r.1.flt with
    | some e => ctMemFault r.2 core x ix l.toNat [t] e
    | none =>
      if r.1.wait then ctHold r.2 core x 9 l.toNat
      else match place r.1.pa with
      | .remote q o => ctIrrev r.2 core x l.toNat (fun s =>
          remoteIssue s core x ix q l.toNat 1 va (.inbound (nodeId s) (.read n) (BitVec.ofNat 44 o) []) 0#24 none)
      | _ =>
        if r.1.mt == .dev then ctIrrev r.2 core x l.toNat (fun s =>
          ctLoadHere s core x ix l.toNat t va r.1.mt r.1.pa n home ext)
        else ctLoadHere r.2 core x ix l.toNat t va r.1.mt r.1.pa n home ext

/-- The result a load instruction makes of the bytes loaded (R258). -/
def Instr.loadExt (i : Instr) (v : Word) : Word :=
  match i with
  | .ldbs .. => sx v 8
  | .ldhs .. => sx v 16
  | .ldws .. => sx v 32
  | _ => v

/-- LDB: a byte, zero-extended (R258). -/
def execLdb (p : BitVec 2) (l : BitVec 5) (i : BitVec 9) (t : BitVec 9) (s : State) : Out :=
  .next (ctLoad s p l t 1 false (offAddr · (i.signExtend 64) 1) (zx · 8))
/-- LDBS: a byte, sign-extended (R258). -/
def execLdbs (p : BitVec 2) (l : BitVec 5) (i : BitVec 9) (t : BitVec 9) (s : State) : Out :=
  .next (ctLoad s p l t 1 false (offAddr · (i.signExtend 64) 1) (sx · 8))
/-- LDH: 2 bytes, zero-extended (R258). -/
def execLdh (p : BitVec 2) (l : BitVec 5) (i : BitVec 9) (t : BitVec 9) (s : State) : Out :=
  .next (ctLoad s p l t 2 false (offAddr · (i.signExtend 64) 2) (zx · 16))
/-- LDHS: 2 bytes, sign-extended (R258). -/
def execLdhs (p : BitVec 2) (l : BitVec 5) (i : BitVec 9) (t : BitVec 9) (s : State) : Out :=
  .next (ctLoad s p l t 2 false (offAddr · (i.signExtend 64) 2) (sx · 16))
/-- LDW: 4 bytes, zero-extended (R258). -/
def execLdw (p : BitVec 2) (l : BitVec 5) (i : BitVec 9) (t : BitVec 9) (s : State) : Out :=
  .next (ctLoad s p l t 4 false (offAddr · (i.signExtend 64) 4) (zx · 32))
/-- LDWS: 4 bytes, sign-extended (R258). -/
def execLdws (p : BitVec 2) (l : BitVec 5) (i : BitVec 9) (t : BitVec 9) (s : State) : Out :=
  .next (ctLoad s p l t 4 false (offAddr · (i.signExtend 64) 4) (sx · 32))
/-- LDD: 8 bytes (R258). -/
def execLdd (p : BitVec 2) (l : BitVec 5) (i : BitVec 9) (t : BitVec 9) (s : State) : Out :=
  .next (ctLoad s p l t 8 false (offAddr · (i.signExtend 64) 8) id)
/-- LDA: an acquire load of 8 bytes; at scope .d or wider it is performed at the home point and the core cache is
invalidated (R163, R259). -/
def execLda (p : BitVec 2) (l : BitVec 5) (c : BitVec 3) (t : BitVec 9) (s : State) : Out :=
  .next (ctLoad s p l t 8 (decide (2 ≤ c.toNat)) id id)

/-- LDT: 8 bytes of a READY tile-table entry's range (R56, R260). -/
def execLdt (p : BitVec 2) (l : BitVec 5) (k : BitVec 8) (t : BitVec 9) (s : State) : Out :=
  .next (ctMem s p true false l [t] fun core x ix o _ =>
    match tileCheck s core (ctxOf s core x) ix k.toNat o with
    | some e => ctMemFault s core x ix l.toNat [t] e
    | none =>
      let e := s.st.tiles.at (tileKey core k.toNat)
      if !e.canIssue then ctHold s core x 5 k.toNat
      else if tileBusy s core e o.toNat 8 then ctHold s core x 9 l.toNat
      else
        let s := tileUse s core k.toNat
        let r := ctRead s core x l.toNat .wb (tilePa core e o.toNat) 8 false
        let s := tileDone r.2 core k.toNat
        match r.1 with
        | some bs => ctDone s core x ix (some l.toNat) [(0, t, some (leWord bs))]
        | none => ctMemFault s core x ix l.toNat [t] (addrFlt 0x13 ix o))

/-- PRF: fills the sector of a WB address of local DRAM into the core cache, or into the home L2 where the slice has
no way; any other address or failed translation does nothing, and it never faults (R23, R261). -/
def execPrf (p : BitVec 2) (l : BitVec 5) (i : BitVec 9) (s : State) : Out :=
  .next (ctMem s p true false l [] fun core x ix a _ =>
    let act := ctxActor core (ctxOf s core x)
    let va := offAddr a (i.signExtend 64) 128
    if walkWait s act va then ctHold s core x 9 l.toNat
    else
      let r := translate s act va .load 1
      if r.1.st == .ok && r.1.mt == .wb && place r.1.pa == .dram then
        if accBusy r.2 act .wb r.1.pa 1 then ctHold r.2 core x 9 l.toNat
        else ctDone (ccRead r.2 act (r.1.pa / 128 * 128) 128).2 core x ix (some l.toNat) []
      else ctDone r.2 core x ix (some l.toNat) [])

/-! ### Stores (R262, R263) -/

/-- A store passes translation and waits for the commit (R143). -/
def ctPend (s : State) (core x ix l : Nat) (st : PendStore) : State :=
  ctDone (frameUpd s core x (fun f => { f with stores := f.stores ++ [st] })) core x ix (some l) []

/-- A store of n bytes; `rel` is the scope of a release store. A store to the remote window is an irrevocable access
whose reply the block waits for (R256); a release to it has scope .f (R167). -/
def ctStore (s : State) (p : BitVec 2) (l : BitVec 5) (n : Nat) (rel : Option Nat) (addr : Word → Word) : State :=
  ctMem s p true true l [] fun core x ix a b =>
    let va := addr a
    let bs := leBytes n b.toNat
    let r := ctTranslate s core (ctxOf s core x) ix va .store n
    match r.1.flt with
    | some e => ctMemFault r.2 core x ix l.toNat [] e
    | none =>
      if r.1.wait then ctHold r.2 core x 9 l.toNat
      else match place r.1.pa with
      | .remote q o => ctIrrev r.2 core x l.toNat (fun s =>
          let go (s : State) : State :=
            remoteIssue s core x ix q l.toNat 2 va (.inbound (nodeId s) .write (BitVec.ofNat 44 o) bs) 0#24 none
          match rel with
          | some _ => storesReady s core x l.toNat (fun s => go (release (storesFirst s core x l.toNat) core 4))
          | none => go s)
      | _ => ctPend r.2 core x ix l.toNat
          { ix := ix, lsid := l.toNat, va := va, pa := r.1.pa, mt := r.1.mt.bits, bytes := bs, rel := rel }

/-- STB: a byte (R262). -/
def execStb (p : BitVec 2) (l : BitVec 5) (i : BitVec 18) (s : State) : Out :=
  .next (ctStore s p l 1 none (offAddr · (i.signExtend 64) 1))
/-- STH: 2 bytes (R262). -/
def execSth (p : BitVec 2) (l : BitVec 5) (i : BitVec 18) (s : State) : Out :=
  .next (ctStore s p l 2 none (offAddr · (i.signExtend 64) 2))
/-- STW: 4 bytes (R262). -/
def execStw (p : BitVec 2) (l : BitVec 5) (i : BitVec 18) (s : State) : Out :=
  .next (ctStore s p l 4 none (offAddr · (i.signExtend 64) 4))
/-- STD: 8 bytes (R262). -/
def execStd (p : BitVec 2) (l : BitVec 5) (i : BitVec 18) (s : State) : Out :=
  .next (ctStore s p l 8 none (offAddr · (i.signExtend 64) 8))
/-- STL: a release store of 8 bytes, performed at commit in its LSID position (R162, R263). -/
def execStl (p : BitVec 2) (l : BitVec 5) (c : BitVec 3) (i : BitVec 15) (s : State) : Out :=
  .next (ctStore s p l 8 (some c.toNat) (offAddr · (i.signExtend 64) 8))

/-- STT: 8 bytes into a READY tile-table entry's range at commit; its use ends after the store (R260). -/
def execStt (p : BitVec 2) (l : BitVec 5) (k : BitVec 8) (s : State) : Out :=
  .next (ctMem s p true true l [] fun core x ix o b =>
    match tileCheck s core (ctxOf s core x) ix k.toNat o with
    | some e => ctMemFault s core x ix l.toNat [] e
    | none =>
      let e := s.st.tiles.at (tileKey core k.toNat)
      if !e.canIssue then ctHold s core x 5 k.toNat
      else if tileBusy s core e o.toNat 8 then ctHold s core x 9 l.toNat
      else
        let s := atCommit (tileUse s core k.toNat) core x ix (.stt k.toNat)
        ctPend s core x ix l.toNat
          { ix := ix, lsid := l.toNat, va := o, pa := tilePa core e o.toNat, mt := 0#2, bytes := leBytes 8 b.toNat, rel := none
            tile := true })

/-! ### Spills and fills (R264, R265) -/

/-- How the registers of a range went: all of them, up to one that is held, or up to one that faults. -/
inductive RangeEnd
  | done
  | held
  | flt (k : Nat) (f : Flt)
  deriving DecidableEq, Repr, Inhabited

/-- The stores of a spills of registers k on, `n` of them; a fault gives its register (R264). -/
def spillRun (core : Nat) (c : Ctx) (ix l : Nat) : Nat → Nat → Word → State → List PendStore × RangeEnd × State
  | 0, _, _, s => ([], .done, s)
  | n + 1, k, va, s =>
    let r := rangeTranslate s core c ix va .store
    match r.1.flt with
    | some e => ([], .flt k e, r.2)
    | none =>
      if r.1.wait then ([], .held, r.2)
      else
        let q := spillRun core c ix l n (k + 1) (va + 8#64) r.2
        ({ ix := ix, lsid := l, va := va, pa := r.1.pa, mt := r.1.mt.bits, bytes := leBytes 8 (c.h.at k).toNat, rel := none } :: q.1,
          q.2.1, q.2.2)

/-- The values of a fills of registers k on. -/
def fillRun (core x : Nat) (c : Ctx) (ix l : Nat) : Nat → Nat → Word → State → List (Nat × Word) × RangeEnd × State
  | 0, _, _, s => ([], .done, s)
  | n + 1, k, va, s =>
    let r := rangeTranslate s core c ix va .load
    match r.1.flt with
    | some e => ([], .flt k e, r.2)
    | none =>
      if r.1.wait then ([], .held, r.2)
      else
        let v := ctRead r.2 core x l r.1.mt r.1.pa 8 false
        match v.1 with
        | none => ([], .flt k (addrFlt 0x13 ix va), v.2)
        | some bs =>
          let q := fillRun core x c ix l n (k + 1) (va + 8#64) v.2
          ((k, leWord bs) :: q.1, q.2.1, q.2.2)

/-- SPILLS: stores a range of hold registers at commit. A fault at a register after the first performs the stores
before it and records the register (R264, R265). -/
def execSpills (p : BitVec 2) (l : BitVec 5) (b : BitVec 5) (a : BitVec 5) (s : State) : Out :=
  .next (ctMem s p true false l [] fun core x ix v _ =>
    let c := ctxOf s core x
    if v.toNat % 8 != 0 then ctMemFault s core x ix l.toNat [] (addrFlt 0x12 ix v) (some (rangeStart c a.toNat))
    else
      let k0 := rangeStart c a.toNat
      let r := spillRun core c ix l.toNat (b.toNat + 1 - k0) k0 (v + BitVec.ofNat 64 (8 * (k0 - a.toNat))) s
      match r.2.1 with
      | .held => ctHold r.2.2 core x 9 l.toNat
      | .flt k e => ctMemFault (r.1.foldl (storePerform core c) r.2.2) core x ix l.toNat [] e (some k)
      | .done => ctDone (frameUpd r.2.2 core x (fun f => { f with stores := f.stores ++ r.1 })) core x ix (some l.toNat) [])

/-- FILLS: loads a range of hold registers, written at commit. Any other hold write of the block to one of them is
the fault BADHOLD; a fault at a register after the first writes the registers before it (R264, R265). -/
def execFills (p : BitVec 2) (l : BitVec 5) (b : BitVec 5) (a : BitVec 5) (s : State) : Out :=
  .next (ctMem s p true false l [] fun core x ix v _ =>
    let c := ctxOf s core x
    let f := frameOf s core x
    if f.holds.any (fun h => decide (a.toNat ≤ h.1) && decide (h.1 ≤ b.toNat)) then
      ctMemFault s core x ix l.toNat [] (dataFlt 0x17 ix)
    else if v.toNat % 8 != 0 then ctMemFault s core x ix l.toNat [] (addrFlt 0x12 ix v) (some (rangeStart c a.toNat))
    else
      let k0 := rangeStart c a.toNat
      let r := fillRun core x c ix l.toNat (b.toNat + 1 - k0) k0 (v + BitVec.ofNat 64 (8 * (k0 - a.toNat))) s
      match r.2.1 with
      | .held => ctHold r.2.2 core x 9 l.toNat
      | .flt k e =>
        let s := ctxUpd r.2.2 core x (fun c => { c with h := r.1.foldl (fun h y => h.set y.1 y.2) c.h })
        ctMemFault s core x ix l.toNat [] e (some k)
      | .done =>
        let s := r.1.foldl (fun s y => atCommit s core x ix (.fill y.1 y.2)) r.2.2
        ctDone s core x ix (some l.toNat) [])

/-! ### Replicated loads (R266) -/

/-- The sum of ldred: INT64 modulo 2^64, or FP32 in replica-index order by RNE. -/
def ldredSum (fp : Bool) : List Word → Word
  | [] => 0#64
  | v :: vs =>
    if fp then BitVec.ofNat 64 (vs.foldl (fun acc w => fmtAdd .fp32 acc (w.toNat % 2 ^ 32))
      (FloatFmt.fp32.encode false .rne (FloatFmt.fp32.decode (v.toNat % 2 ^ 32))).1)
    else vs.foldl (· + ·) v

/-- The replicas of a group that stand on this module. -/
def replicaHere (s : State) (g i : Nat) : Bool := i == groupLocal s g || groupNode s g i == nodeId s

/-- Every replica's value in index order: those on this module read at their home point, the others as the replies
brought them; none where a local one is poisoned, with its index. -/
def replicaRead (core : Nat) (c : Ctx) (g o n : Nat) (mt : MType) :
    List Nat → List Word → State → (Nat ⊕ List Word) × State
  | [], _, s => (.inr [], s)
  | i :: is, far, s =>
    if replicaHere s g i then
      let r := homeRead s { ctxActor core c with rid := 0 } mt (groupBase s g i + o) n
      match r.1 with
      | .ok bs =>
        let q := replicaRead core c g o n mt is far r.2
        (q.1.map id (leWord bs :: ·), q.2)
      | _ => (.inl i, r.2)
    else
      let q := replicaRead core c g o n mt is (far.drop 1) s
      (q.1.map id (far.headD 0#64 :: ·), q.2)

/-- The fault REPLICA: the replica's index and status (R266, R377). -/
def replicaFlt (ix i st : Nat) : Flt := { cls := 3, code := 0x1C, xst := st, idx := ix, addr := BitVec.ofNat 64 i }

/-- What a replicated load holds while its replies are out: the address, memory type and kind. -/
def ldredWord (pa : Nat) (mt : MType) (fp : Bool) : Word :=
  BitVec.ofNat 64 (pa * 8 + mt.bits.toNat * 2 + (if fp then 1 else 0))

/-- Complete a replicated load with the values of its remote replicas; those of this module see the stores of its block below it
(R142). It is an acquire (R163, R266). The status that REPLICA reports of a poisoned replica is no code of R24: it is a free value
(log entry 3). -/
def ldredDone (s : State) (core x ix l : Nat) (t : BitVec 9) (c : Nat) (w : Word) (far : List Word) : State :=
  let cx := ctxOf s core x
  let fp := w.getLsbD 0
  let pa := w.toNat / 8
  let rd (s : State) : (Nat ⊕ List Word) × State :=
    match place pa with
    | .repl g o => replicaRead core cx g o (if fp then 4 else 8) (MType.ofBits (w.extractLsb' 1 2)) (List.range (groupCount s g)) far s
    | _ => (.inr [], s)
  let r := rd s
  match (rd (storesBelow s core x l)).1 with
  | .inl i => let f := freeN r.2; ctMemFault f.2 core x ix l [t] (replicaFlt ix i (f.1 % 16))
  | .inr vs =>
    let s := acquire (setIrrev r.2 core x) core c
    ctDone s core x ix (some l) [(0, t, some (ldredSum fp vs))]

/-- LDRED: the sum of one location over the replicas of a group (R168, R266). Replicas on other nodes are read by
requests whose replies complete it. -/
def execLdred (p : BitVec 2) (l : BitVec 5) (c : BitVec 3) (t : BitVec 9) (s : State) : Out :=
  .next (ctMem s p true true l [t] fun core x ix a b =>
    if b.extractLsb' 1 63 != 0#63 then ctMemFault s core x ix l.toNat [t] (addrFlt 0x1D ix a)
    else
      let n := if b = 0#64 then 8 else 4
      let r := ctTranslate s core (ctxOf s core x) ix a .ldred n
      match r.1.flt with
      | some e => ctMemFault r.2 core x ix l.toNat [t] e
      | none =>
        if r.1.wait then ctHold r.2 core x 9 l.toNat
        else match place r.1.pa with
        | .repl g o =>
          let far := (List.range (groupCount s g)).filter (fun i => !replicaHere s g i)
          let held := ldredWord r.1.pa r.1.mt (b != 0#64)
          ctIrrev r.2 core x l.toNat (fun s =>
            match far with
            | [] => ldredDone s core x ix l.toNat t c.toNat held []
            | _ =>
              let s := far.foldl (fun s i =>
                let node := groupNode s g i
                let q := portTo s node
                let addr := BitVec.ofNat 44 (groupBase s g i + o)
                sendOut q.2 { port := q.1, node := node, load := .inbound (nodeId s) (.read n) addr [] }) s
              let w : PendOp := {
                core := core, ctx := x, ix := ix, kind := .remote, a := l.setWidth 64, b := 6#64, c := held
                time := s.dev.gtsc, va := a, port := 24, tag := 0#24, req := none }
              let s := { s with ctl.pend := s.ctl.pend ++ [w] }
              ctHold (frameUpd s core x (fun f => { f with issued := f.issued ||| (1#64 <<< ix) })) core x 18 0)
        | _ => ctMemFault r.2 core x ix l.toNat [t] (xlateFlt 7 ix a))

/-! ### Atomics (R267–R270) -/

/-- The new value of an atomic (R268). -/
def atomicNew (op : Nat) (a b : Word) : Word :=
  match op with
  | 0 => a + b
  | 1 => BitVec.ofNat 64 (fmtAdd .fp32 (a.toNat % 2 ^ 32) (b.toNat % 2 ^ 32))
  | 2 => if a.sle b then a else b
  | 3 => if b.sle a then a else b
  | 4 => if a.ule b then a else b
  | 5 => if b.ule a then a else b
  | 6 => a &&& b
  | 7 => a ||| b
  | 8 => a ^^^ b
  | 9 => b
  | 10 => if a = zx b 32 then b >>> 32 else a
  | _ => if b.ule a then 0#64 else a + 1#64

/-- One indivisible read-modify-write at the performing point of R269: the old value, none where a word is
poisoned. -/
def atomicPerform (s : State) (a : Actor) (mt : MType) (pa op : Nat) (v : Word) : Option Word × State :=
  let n := atomicWidth op
  let r := homeRead s a mt pa n
  match r.1 with
  | .ok bs =>
    let old := leWord bs
    (some old, (homeWrite r.2 a mt pa (leBytes n (atomicNew op old v).toNat)).2)
  | _ => (none, r.2)

/-- Issue time and tag of a remote atomic: the core's counter steps by 1 for each (R270). -/
def nextTag (s : State) (core : Nat) : BitVec 24 × State :=
  let t := s.ctl.tags.at core
  (t, { s with ctl.tags := s.ctl.tags.set core (t + 1#24) })

/-- The lifetime of a replay entry and of a request, in ns (R169). -/
def replayLife : Nat := 1000000
/-- The limit of a reply, in ns (R170). -/
def replyLimit : Nat := 500000

/-- The entry of the core's indeterminate table for a tag under an ASID (R170). -/
def indetFind (s : State) (core : Nat) (asid : BitVec 8) (tag : BitVec 24) : Option Indet :=
  (s.ctl.indet.at core).find? (fun e => e.tag == tag && e.asid == asid)
def indetDrop (s : State) (core : Nat) (asid : BitVec 8) (tag : BitVec 24) : State :=
  { s with ctl.indet := s.ctl.indet.upd core (fun es => es.filter (fun e => !(e.tag == tag && e.asid == asid))) }

/-- A retry (R170, R270): EXPIRED where the tag is absent or 1 ms has passed since the issue, else the request goes
out again. -/
def ctRetry (s : State) (core x ix l : Nat) (t : BitVec 9) (tag : BitVec 24) : State :=
  let c := ctxOf s core x
  match indetFind s core c.asid tag with
  | none =>
    let s := astatAt (setIrrev s core x) core x ix l 18 4 tag.toNat
    ctDone s core x ix (some l) [(0, t, none)]
  | some e =>
    if replayLife ≤ (s.dev.gtsc - e.time).toNat then
      let s := astatAt (indetDrop (setIrrev s core x) core c.asid tag) core x ix l 18 4 tag.toNat
      ctDone s core x ix (some l) [(0, t, none)]
    else
      let req := { e.req with retry := true, sctx := BitVec.ofNat 3 x }
      let q := portTo s e.node
      let s := sendOut q.2 { port := q.1, node := e.node, load := .remoteAtomic req }
      let w : PendOp := {
        core := core, ctx := x, ix := ix, kind := .remote, a := BitVec.ofNat 64 l, b := 4#64, c := e.node.setWidth 64
        time := s.dev.gtsc, va := 0#64, port := q.1, tag := tag, req := some req }
      let s := { s with ctl.pend := s.ctl.pend ++ [w] }
      ctHold (frameUpd s core x (fun f => { f with issued := f.issued ||| (1#64 <<< ix) })) core x 18 0

/-- An atomic that leaves the module (R167, R270): a release of scope .f, then the request with its tag. It counts as performed when
its reply says so (R256). -/
def ctAtomicRemote (s : State) (core x ix l p o op : Nat) (va v : Word) : State :=
  storesReady s core x l fun s =>
  let c := ctxOf s core x
  let s := release (storesFirst s core x l) core 4
  let t := nextTag s core
  let s := t.2
  let req : RemoteAtomic := {
    src := nodeId s, score := BitVec.ofNat 8 core, sctx := BitVec.ofNat 3 x, asid := c.asid, tag := t.1, time := s.dev.gtsc
    retry := false, addr := BitVec.ofNat 44 o, op := BitVec.ofNat 5 op, v := v }
  remoteIssue s core x ix p l 3 va (.remoteAtomic req) t.1 (some req)

/-- An atomic performed on this module: a release and an acquire of its scope around one read-modify-write (R267). Where the word is
poisoned after the stores of its block below it, nothing is performed. -/
def ctAtomicHere (s : State) (core x ix l : Nat) (t : BitVec 9) (sc op : Nat) (va v : Word) (mt : MType) (pa : Nat) : State :=
  storesReady s core x l fun s =>
  let a := ctxActor core (ctxOf s core x)
  let s1 := release (storesFirst (setIrrev s core x) core x l) core sc
  match (homeRead s1 a mt pa (atomicWidth op)).1 with
  | .ok _ =>
    let r := atomicPerform s1 a mt pa op v
    ctDone (acquire r.2 core sc) core x ix (some l) [(0, t, r.1)]
  | _ => ctMemFault s core x ix l [t] (addrFlt 0x13 ix va)

/-- The atomics (R267): checked, then performed irrevocably in LSID order. -/
def ctAtomic (s : State) (p : BitVec 2) (l : BitVec 5) (sc : BitVec 3) (t : BitVec 9) (op : Nat) : State :=
  ctMem s p true true l [t] fun core x ix a b =>
    if isRetry a then ctIrrev s core x l.toNat (fun s => ctRetry s core x ix l.toNat t (a.extractLsb' 0 24))
    else
      let r := ctTranslate s core (ctxOf s core x) ix a .atomic (atomicWidth op)
      match r.1.flt with
      | some e => ctMemFault r.2 core x ix l.toNat [t] e
      | none =>
        if r.1.wait then ctHold r.2 core x 9 l.toNat
        else match place r.1.pa with
        | .remote q o => ctIrrev r.2 core x l.toNat (fun s => ctAtomicRemote s core x ix l.toNat q o op a b)
        | _ => ctIrrev r.2 core x l.toNat (fun s => ctAtomicHere s core x ix l.toNat t sc.toNat op a b r.1.mt r.1.pa)

/-- AADD (R268). -/
def execAadd (p : BitVec 2) (l : BitVec 5) (c : BitVec 3) (t : BitVec 9) (s : State) : Out := .next (ctAtomic s p l c t 0)
/-- AADDF: FP32 (R268). -/
def execAaddf (p : BitVec 2) (l : BitVec 5) (c : BitVec 3) (t : BitVec 9) (s : State) : Out := .next (ctAtomic s p l c t 1)
/-- AMIN (R268). -/
def execAmin (p : BitVec 2) (l : BitVec 5) (c : BitVec 3) (t : BitVec 9) (s : State) : Out := .next (ctAtomic s p l c t 2)
/-- AMAX (R268). -/
def execAmax (p : BitVec 2) (l : BitVec 5) (c : BitVec 3) (t : BitVec 9) (s : State) : Out := .next (ctAtomic s p l c t 3)
/-- AMINN (R268). -/
def execAminn (p : BitVec 2) (l : BitVec 5) (c : BitVec 3) (t : BitVec 9) (s : State) : Out := .next (ctAtomic s p l c t 4)
/-- AMAXN (R268). -/
def execAmaxn (p : BitVec 2) (l : BitVec 5) (c : BitVec 3) (t : BitVec 9) (s : State) : Out := .next (ctAtomic s p l c t 5)
/-- AAND (R268). -/
def execAand (p : BitVec 2) (l : BitVec 5) (c : BitVec 3) (t : BitVec 9) (s : State) : Out := .next (ctAtomic s p l c t 6)
/-- AOR (R268). -/
def execAor (p : BitVec 2) (l : BitVec 5) (c : BitVec 3) (t : BitVec 9) (s : State) : Out := .next (ctAtomic s p l c t 7)
/-- AXOR (R268). -/
def execAxor (p : BitVec 2) (l : BitVec 5) (c : BitVec 3) (t : BitVec 9) (s : State) : Out := .next (ctAtomic s p l c t 8)
/-- ASWP (R268). -/
def execAswp (p : BitVec 2) (l : BitVec 5) (c : BitVec 3) (t : BitVec 9) (s : State) : Out := .next (ctAtomic s p l c t 9)
/-- ACAS: 32 bits (R268). -/
def execAcas (p : BitVec 2) (l : BitVec 5) (c : BitVec 3) (t : BitVec 9) (s : State) : Out := .next (ctAtomic s p l c t 10)
/-- AINC (R268). -/
def execAinc (p : BitVec 2) (l : BitVec 5) (c : BitVec 3) (t : BitVec 9) (s : State) : Out := .next (ctAtomic s p l c t 11)

/-! ### Notify writes (R279) -/

/-- NWRITE: a release of scope .f, then a store of 4 or 8 bytes to a DEV page, performed once (R279). -/
def execNwrite (p : BitVec 2) (l : BitVec 5) (z : BitVec 1) (s : State) : Out :=
  .next (ctMem s p true true l [] fun core x ix a b =>
    let n := if z = 1#1 then 8 else 4
    let c := ctxOf s core x
    let r := bellTranslate s core c ix a n
    match r.1.flt with
    | some e => ctMemFault r.2 core x ix l.toNat [] e
    | none =>
      if r.1.wait then ctHold r.2 core x 9 l.toNat
      else
        ctIrrev r.2 core x l.toNat (fun s => storesReady s core x l.toNat fun s =>
          let s := release (storesFirst s core x l.toNat) core 4
          match place r.1.pa with
          | .remote q o =>
            let load := Payload.inbound (nodeId s) .write (BitVec.ofNat 44 o) (leBytes n b.toNat)
            remoteIssue s core x ix q l.toNat 5 a load 0#24 none
          | _ =>
            let s := placeWrite (setIrrev s core x) (ctxActor core c) .dev r.1.pa (leBytes n b.toNat) false
            ctDone s core x ix (some l.toNat) []))

end Sys2Proof.Machine
end

