-- ==== Sys2Proof/Machine/Matrix.lean ====
section
/-! DEFINITION. Matrix tasks (R304, R305, R330, R441): element formats, the passes of a row, running and completing a
tile task, and mxtask. Collectives (R306). -/

namespace Sys2Proof.Machine

/-! ### Elements (R304) -/

/-- The storage format of a TYPE: BF16, E4M3, E5M2, INT8, INT4, INT4Q. -/
def mxFmt (typ : Nat) : Nat := [2, 3, 4, 7, 11, 12].getD typ 2

/-- Bits of an element. -/
def mxBits (typ : Nat) : Nat := Conv.bits (mxFmt typ)

/-- Bytes of the 128 elements of one K-pass. -/
def passBytes (typ : Nat) : Nat := 16 * mxBits typ

/-- The value of one element code. -/
def mxVal (typ c : Nat) : FV :=
  match Conv.ffmt (mxFmt typ) with
  | some f => f.decode c
  | none =>
    let n := mxBits typ
    Num.ofInt (if 2 ^ (n - 1) ≤ c then (c : Int) - 2 ^ n else c) 0

/-- The values of a K-pass from its bytes; `scales` are the E8M0 codes of its four blocks, for INT4Q alone (R92, R93). -/
def mxPass (typ : Nat) (bs : List Byte) (scales : List Nat) : List FV :=
  let cs := Conv.unpackCodes (mxBits typ) 128 (leNat bs)
  if typ = 5 then
    ((List.range 4).map (fun b =>
      let codes := (cs.drop (32 * b)).take 32
      let sc := scales.getD b 127
      match Conv.int4qIn codes with
      | some vs => if sc = 255 then codes.map (fun _ => FV.nan) else vs.map (Conv.scaled sc)
      | none => codes.map (fun _ => FV.nan))).flatten
  else cs.map (mxVal typ)

/-- The exact sum of the products of a pass. -/
def passSum : List FV → List FV → FV
  | a :: as, b :: bs => (as.zip bs).foldl (fun t x => Num.add .rne t (Num.mul x.1 x.2)) (Num.mul a b)
  | _, _ => .zero false

/-- A cell adds the pass total to its node with one rounding (R304, R330). -/
def nodeAdd (node : BitVec 80) (t : FV) : BitVec 80 := Num.xeRound (Num.add .rne (Num.xeOf node) t)

/-- The result in OUTF under RNE with SAT = 0 (R87, R88). -/
def mxOut (outf : Nat) (v : FV) : Nat :=
  match Conv.ffmt outf with
  | some f => (f.encode false .rne v).1
  | none => match v with
    | .nan => 0
    | .inf n => if n then 0x80000000 else 0x7FFFFFFF
    | _ => (Num.clampInt (-2147483648) 2147483647 (Num.toInteger .rne v) % 2 ^ 32).toNat

/-- The value of an element of C in OUTF. -/
def mxIn (outf c : Nat) : FV :=
  match Conv.ffmt outf with
  | some f => f.decode c
  | none => Num.ofInt (if 0x80000000 ≤ c then (c : Int) - 0x100000000 else c) 0

/-! ### The B operand (R51, R52, R304) -/

/-- Does B at BOFF in an entry lie so that column j's data stand in slice j (R51, R52)? -/
def inSlices (e : Tile) (boff : Nat) : Bool := (e.off.toNat + boff) % 8192 == 0

/-- The anvil bytes of pass p of column j, at BOFF in an entry. Where they stand in another slice, column j cannot use them: what it reads
is free (R52; log entry 61). -/
def bPass (s : State) (a : Actor) (e : Tile) (boff typ p j : Nat) : (MemFault ⊕ List Byte) × State :=
  let n := passBytes typ / 64
  if !inSlices e boff then (let r := freeBytes (passBytes typ) s; (.inr r.1, r.2))
  else (List.range n).foldl (fun acc i =>
    match acc.1 with
    | .inl _ => acc
    | .inr bs =>
      let o := boff + (p * n + i) * 8192 + 64 * j
      let r := readAt acc.2 a .wb (tilePa a.core e o) (BitVec.ofNat 64 o) 64
      match r.1 with
      | .inl f => (.inl f, r.2)
      | .inr cs => (.inr (bs ++ cs), r.2)) (.inr [], s)

/-- The scales of pass p of column j, for a K of `kp` passes. -/
def bScales (s : State) (a : Actor) (e : Tile) (boff kp p j : Nat) : (MemFault ⊕ List Byte) × State :=
  let o := boff + kp * 8192 + 64 * j + 4 * p
  readAt s a .wb (tilePa a.core e o) (BitVec.ofNat 64 o) 4

/-! ### A tile task -/

/-- The fields of a record (R304). -/
def MxTask.w (t : MxTask) (i : Nat) : Word := t.words.getD i 0#64
def MxTask.typ (t : MxTask) : Nat := ((t.w 0).extractLsb' 61 3).toNat
def MxTask.outf (t : MxTask) : Nat := ((t.w 0).extractLsb' 57 4).toNat
def MxTask.acc (t : MxTask) : Bool := (t.w 0).getLsbD 56
def MxTask.rows (t : MxTask) : Nat := ((t.w 0).extractLsb' 26 16).toNat + 1
def MxTask.passes (t : MxTask) : Nat := ((t.w 0).extractLsb' 13 13).toNat + 1
def MxTask.ent (t : MxTask) : Nat := ((t.w 2).extractLsb' 56 8).toNat
def MxTask.boff (t : MxTask) : Nat := ((t.w 2).extractLsb' 0 26).toNat
def MxTask.aVa (t : MxTask) (r : Nat) : Nat := ((t.w 1).extractLsb' 0 55).toNat + r * ((t.w 4).extractLsb' 32 32).toNat
def MxTask.cVa (t : MxTask) (r : Nat) : Nat := ((t.w 3).extractLsb' 0 55).toNat + r * ((t.w 4).extractLsb' 0 32).toNat
def MxTask.dep (t : MxTask) : Nat := ((t.w 5).extractLsb' 0 55).toNat
def MxTask.fin (t : MxTask) : Nat := ((t.w 6).extractLsb' 0 55).toNat
/-- Bytes of one row of C. -/
def MxTask.cRow (t : MxTask) : Nat := 16 * Conv.bits t.outf
/-- The MX path of a task on a core. -/
def MxTask.actor (t : MxTask) (core : Nat) : Actor := { core := core, path := .mx, asid := t.asid, gen := t.gen, rid := 0 }

/-- Do a record's fields fail its checks? -/
def MxTask.badRecord (t : MxTask) : Bool :=
  decide (5 < t.typ) || !([0, 1, 2, 5].contains t.outf) || (t.w 0).extractLsb' 0 13 != 0#13 ||
    (t.w 2).extractLsb' 26 30 != 0#30 || t.boff % 8192 != 0

/-- Does B leave its entry or lie in other slices than its columns', or is the entry no anvil range (R52, R304)? -/
def MxTask.badEntry (t : MxTask) (e : Tile) : Bool :=
  let units := t.passes * (passBytes t.typ / 64) + (if t.typ = 5 then 1 else 0)
  !e.sp || !inSlices e t.boff || decide (e.size < t.boff + units * 8192)

/-- One K-pass: the nodes of a row's 128 columns after it. -/
def passNodes (t : MxTask) (core : Nat) (e : Tile) (row scs : List Byte) (nodes : List (BitVec 80)) (s : State) :
    (MemFault ⊕ List (BitVec 80)) × State :=
  let a := t.actor core
  let av := mxPass t.typ row (((scs.drop (4 * t.pass)).take 4).map BitVec.toNat)
  (List.range 128).foldl (fun acc j =>
    match acc.1 with
    | .inl _ => acc
    | .inr out =>
      let b := bPass acc.2 a e t.boff t.typ t.pass j
      let c := if t.typ = 5 then bScales b.2 a e t.boff t.passes t.pass j else (.inr [], b.2)
      match b.1, c.1 with
      | .inr bs, .inr cs =>
        let v := passSum av (mxPass t.typ bs (cs.map BitVec.toNat))
        (.inr (out ++ [nodeAdd (nodes.getD j 0#80) v]), c.2)
      | .inl f, _ => (.inl f, c.2)
      | _, .inl f => (.inl f, c.2)) ((.inr [], s) : (MemFault ⊕ List (BitVec 80)) × State)

/-- The status of a task that a fault ends (R305). -/
def MemFault.taskSt (f : MemFault) : Nat := match f.kind with
  | .poison => 9
  | _ => 8

/-- Stall mc counted by all stacks (R430). -/
def stallsSum (s : State) : Nat := (List.range 8).foldl (fun n k => n + (s.dev.hbm.at k).stalln.toNat) 0

/-- A task after a pass: the next pass of its row, or the row's bytes of C and the next row. -/
def MxTask.passed (t : MxTask) (scs : List Byte) (nodes : List (BitVec 80)) : MxTask :=
  if t.pass + 1 < t.passes then { t with pass := t.pass + 1, nodes := nodes, scales := scs }
  else
    let w := Conv.bits t.outf
    let c := leBytes t.cRow (Conv.packCodes w (nodes.map (fun v => mxOut t.outf (Num.xeOf v))))
    { t with row := t.row + 1, pass := 0, nodes := [], scales := [], out := t.out ++ [c] }

/-- The next K-pass of a task (R304): under ACC the row of C before its first pass, INT4Q scales with their row, and the pass's bytes of
A just before it, all on the MX path. A fault fixes the task's status. Each stall of a read of A is counted (R441). -/
def taskPass (t : MxTask) (core : Nat) (s : State) : MxTask × State :=
  let a := t.actor core
  let w := Conv.bits t.outf
  let k := 128 * t.passes
  let n := passBytes t.typ
  let z := if t.acc && t.pass == 0 then memRead s a (t.cVa t.row) t.cRow else (.inr [], s)
  let y := if t.typ == 5 && t.pass == 0 then memRead z.2 a (t.aVa 0 + t.rows * ((t.w 4).extractLsb' 32 32).toNat + t.row * (k / 32)) (k / 32)
    else (.inr t.scales, z.2)
  let x := memRead y.2 a (t.aVa t.row + t.pass * n) n
  let t := { t with late := t.late + (stallsSum x.2 - stallsSum z.2) }
  match z.1, y.1, x.1 with
  | .inl f, _, _ => ({ t with st := f.taskSt }, x.2)
  | _, .inl f, _ => ({ t with st := f.taskSt }, x.2)
  | _, _, .inl f => ({ t with st := f.taskSt }, x.2)
  | .inr old, .inr scs, .inr row =>
    let init := (Conv.unpackCodes w 128 (leNat old)).map (fun c => if t.acc then Num.xeRound (mxIn t.outf c) else 0#80)
    let r := passNodes t core (x.2.st.tiles.at (tileKey core t.ent)) row scs (if t.pass = 0 then init else t.nodes) x.2
    match r.1 with
    | .inl f => ({ t with st := f.taskSt }, r.2)
    | .inr nodes => (t.passed scs nodes, r.2)

/-- Does a range take stores, chunk by chunk? A task that cannot write all of C writes none of it (R305). -/
def probeStore (a : Actor) : Nat → Word → Nat → State → Option MemFault × State
  | 0, _, _, s => (none, s)
  | fuel + 1, va, n, s =>
    if n = 0 then (none, s)
    else
      let k := chunkLen va n
      let x := translate s a va .store k
      if x.1.st != .ok then (some { kind := .xlate, st := x.1.st, va := va }, x.2)
      else match place (localPa x.2 x.1.pa) with
        | .bank c o =>
          if bankScratch x.2 c o then probeStore a fuel (va + BitVec.ofNat 64 k) (n - k) x.2
          else (some { kind := .mode, st := .type, va := va }, x.2)
        | _ => probeStore a fuel (va + BitVec.ofNat 64 k) (n - k) x.2

/-- The status of a task's checks, 0 where it passes them (R305). -/
def MxTask.checked (t : MxTask) (e : Tile) : Nat :=
  if t.badRecord then 11 else if e.badRef t.asid then 12 else if t.badEntry e then 11 else 0

/-- C is written, row by row, of a task whose passes are done: its status. -/
def taskWrite (t : MxTask) (core : Nat) (s : State) : Nat × State :=
  let a := t.actor core
  let rows := t.out.zipIdx
  let p := rows.foldl (fun (acc : Option MemFault × State) r =>
    match acc.1 with
    | some _ => acc
    | none => probeStore a (t.cRow / 128 + 2) (BitVec.ofNat 64 (t.cVa r.2)) t.cRow acc.2) (none, s)
  match p.1 with
  | some f => (f.taskSt, p.2)
  | none => (0, rows.foldl (fun s r => (memWrite s a (t.cVa r.2) r.1).2) p.2)

/-- The time of one K-pass in quarters of an mc (R441): the island's, or that of reading its bytes of A. -/
def passTime (s : State) (core : Nat) (t : MxTask) : Nat :=
  let x := translate s (t.actor core) (BitVec.ofNat 64 (t.aVa 0)) .load 1
  let bank := match place x.1.pa with
    | .bank c _ => c == core
    | _ => false
  let isl := if t.typ = 0 then 4 else if t.typ ≤ 3 then 2 else 1
  max isl (4 * passBytes t.typ / (if bank then 512 else 128))

/-- The mc of a task without stalls (R441): 32 to claim, the passes, 64 to release. -/
def taskMc (s : State) (core : Nat) (t : MxTask) : Nat := 96 + (t.rows * t.passes * passTime s core t + 3) / 4

/-- Has a task a pass to do: its checks pass, nothing has failed, and a row is left? -/
def passLeft (s : State) (core : Nat) (t : MxTask) : Bool :=
  t.checked (s.st.tiles.at (tileKey core t.ent)) == 0 && t.st == 0 && decide (t.row < t.rows)

/-- Is the time of the next pass come (R441)? Times are in quarters of an mc of 1.25 ns. -/
def passDue (s : State) (core : Nat) (t : MxTask) : Bool :=
  decide (5 * (128 + (t.row * t.passes + t.pass) * passTime s core t + 4 * t.late) ≤ 16 * (s.dev.gtsc - t.start).toNat)

/-- Has the whole time of a task passed, its stalls included? -/
def taskDue (s : State) (core : Nat) (t : MxTask) : Bool :=
  decide (5 * (taskMc s core t + t.late) ≤ 4 * (s.dev.gtsc - t.start).toNat)

/-! ### Islands -/

def islandOf (s : State) (core : Nat) : Island := s.eng.islands.at core
def islandUpd (s : State) (core : Nat) (f : Island → Island) : State :=
  { s with eng.islands := s.eng.islands.upd core f }

/-- A task starts on a free island: one that the Arbiter placed takes its use of a good entry, which mxtask has taken for any other
(R56, R304). -/
def taskBegin (s : State) (core : Nat) (t : MxTask) : State :=
  let use := !t.used && !(s.st.tiles.at (tileKey core t.ent)).badRef t.asid
  let s := if use then tileUse s core t.ent else s
  let t := { t with start := s.dev.gtsc, used := t.used || use }
  islandUpd s core (fun i => { i with task := some t })

/-- Does a dependence counter read 0 (R197)? One that cannot be read does not. -/
def depReady (s : State) (a : Actor) (va : Nat) : Bool × State :=
  if va = 0 then (true, s)
  else
    let r := memWords s a va 1
    (match r.1 with
      | .inr [w] => w == 0#64
      | _ => false, r.2)

/-- The oldest waiting task of LOCAL = 1 starts once its counter reads 0 (R305). -/
def islandNext (s : State) (core : Nat) : State :=
  let i := islandOf s core
  match i.task, i.wait with
  | none, t :: ts =>
    let d := depReady s (t.actor core) t.dep
    if d.1 then
      taskBegin (islandUpd d.2 core (fun i => { i with wait := ts })) core t
    else d.2
  | _, _ => s

/-- FIN is decremented by 1 as an atomic at its home L2 (R305). -/
def finDecrement (s : State) (core : Nat) (t : MxTask) : State :=
  if t.fin = 0 then s
  else
    let va := BitVec.ofNat 64 t.fin
    let x := translate s (t.actor core) va .atomic 8
    if x.1.st != .ok then x.2
    else match place x.1.pa with
    | .remote p o =>
      let node := (x.2.xl.peers.at p).node
      let q := portTo x.2 node
      sendOut q.2 { port := q.1, node := node, asid := t.asid, load := .inbound (nodeId x.2) (.atomic 0#5 3#2) (BitVec.ofNat 44 o) (leBytes 8 (2 ^ 64 - 1)) }
    | _ => (atomicPerform x.2 (t.actor core) x.1.mt x.1.pa 0 (-1#64)).2

/-- A task does its next pass. -/
def taskStep (s : State) (core : Nat) (t : MxTask) : State :=
  let r := taskPass t core s
  progress (islandUpd r.2 core (fun i => { i with task := some r.1 })) core t.rid

/-- A task ends: C is visible, FIN is decremented, the record is written, in this order; the Arbiter re-reads counters at
once (R197, R305). -/
def taskEnd (s : State) (core : Nat) (t : MxTask) : State :=
  let e := s.st.tiles.at (tileKey core t.ent)
  let mc := taskMc s core t + t.late
  let r : Nat × State :=
    if t.checked e != 0 then (t.checked e, s) else if t.st != 0 then (t.st, s) else taskWrite t core s
  let s := if t.used then tileDone r.2 core t.ent else r.2
  let s := finDecrement s core t
  let w0 := BitVec.ofNat 64 (2 * 2 ^ 56 + r.1 * 2 ^ 48 + core * 2 ^ 40 + mc % 2 ^ 40)
  let dst := ((t.w 0).extractLsb' 48 2).toNat * 64 + ((t.w 0).extractLsb' 42 6).toNat
  let s := ringPushAs (progress s core t.rid) .mx dst ((t.w 0).extractLsb' 50 6).toNat t.asid t.rid w0 (t.w 7)
  let s := pushEv s .arbiterCounterPoll { (default : EvArg) with die := BitVec.ofNat 2 (core / 64) }
  islandNext (islandUpd s core (fun i => { i with task := none })) core

/-- MATRIX_TASK_COMPLETE: the island of a core does the next pass of its task once its time has come, and ends the task once the
whole time of R441 has passed; without a task it looks at those that wait (R304, R305, R441). -/
def execMatrixTaskComplete (s : State) : Out :=
  let core := s.sim.arg.core.toNat
  .next (match (islandOf s core).task with
    | none => islandNext s core
    | some t =>
      if passLeft s core t then (if passDue s core t then taskStep s core t else s)
      else if taskDue s core t then taskEnd s core t
      else s)

/-! ### mxtask (R305) -/

/-- Entries of a tenant in a die's Arbiter queue, regions and tile tasks together (R196). -/
def arbHeld (s : State) (die : Nat) (ten : BitVec 6) : Nat :=
  ((s.rg.arb.at die).filter (fun e => (s.xl.asids.at e.asid.toNat).ten == ten)).length

/-- An entry of a tile task for the Arbiter, its record already read. A task is of its submitter's effective PRI. -/
def tileEntry (s : State) (ws : List Word) (asid : BitVec 8) (pri owner rid : Nat) : ArbEnt × State :=
  let t := stamp s
  let dep := (ws.getD 5 0#64) &&& 0x7FFFFFFFFFFFFF#64
  ({ tile := true, rid := rid, words := ws, asid := asid, pri := pri, stamp := t.1, dep := dep, ready := dep == 0#64
     owner := owner }, t.2)

/-- An entry joins a die's Arbiter queue. -/
def arbAdd (s : State) (die : Nat) (e : ArbEnt) : State :=
  { s with rg.arb := s.rg.arb.upd die (fun es => es ++ [e]) }

/-- MXTASK: the record is read whole on the MX path, then queued with the Arbiter or on the issuing core's island (R305). A task of the
issuing core names an entry there: a bad one is a TILEREF fault, and mxtask is held until a good one can be used (R56). BADARG, FULL and XLATE are judged
in this order (DESIGN CHOICE, log entry 62). -/
def execMxtask (p : BitVec 2) (t : BitVec 9) (u : BitVec 9) (s : State) : Out :=
  .next (ctCommand s p true true false [t, u] fun core x ix l r =>
    let c := ctxOf s core x
    let die := core / 64
    let loc := r.getLsbD 0
    let out (st : Nat) (s : State) : State := ctPerformed s core x ix (outsOf [t, u] (some (stTok st)))
    if l.toNat % 64 != 0 || r.extractLsb' 1 63 != 0#63 then out 2 s
    else if !loc && decide ((s.rg.schedQ.at c.ten.toNat).aqmax ≤ arbHeld s die c.ten) then out 1 s
    else
      let a : Actor := { core := core, path := .mx, asid := c.asid, gen := c.gen, rid := 0 }
      let m := memWords s a l.toNat 8
      match m.1 with
      | .inl _ => out 3 m.2
      | .inr ws =>
        let owner := ctxKey core x + 1
        if m.2.sim.stall then ctHold s core x 19 0
        else if loc then
          let k : MxTask := { words := ws, asid := c.asid, gen := c.gen, start := 0#64, owner := owner, used := true, rid := c.rid }
          let e := m.2.st.tiles.at (tileKey core k.ent)
          if e.badRef c.asid then ctFault (ctFired m.2 core x ix) core x (addrFlt 0x14 ix l)
          else if !e.canIssue then ctHold m.2 core x 5 k.ent
          else out 0 (islandNext (islandUpd (tileUse m.2 core k.ent) core (fun i => { i with wait := i.wait ++ [k] })) core)
        else
          let pri := if c.rid = 0 then 0 else (regionOf s c.rid).pri
          let e := tileEntry m.2 ws c.asid pri owner c.rid
          out 0 (arbAdd e.2 die e.1))

/-! ### Collectives (R306) -/

def CollRun.w (r : CollRun) (i : Nat) : Word := r.desc.getD i 0#64
def CollRun.opc (r : CollRun) : Nat := ((r.w 0).extractLsb' 60 4).toNat
def CollRun.grp (r : CollRun) : Nat := ((r.w 0).extractLsb' 54 6).toNat
def CollRun.root (r : CollRun) : Nat := ((r.w 0).extractLsb' 42 6).toNat
def CollRun.buf (r : CollRun) : Nat := ((r.w 1).extractLsb' 0 55).toNat
def CollRun.len (r : CollRun) : Nat := ((r.w 2).extractLsb' 32 32).toNat

/-- A descriptor that breaks its table; this is judged before membership, and its address is not (DESIGN CHOICE, log entry 62). -/
def CollRun.bad (r : CollRun) : Bool :=
  decide (4 < r.opc) || (r.w 0).extractLsb' 0 42 != 0#42 || r.w 3 != 0#64 || r.buf % 64 != 0 || r.len % 64 != 0

/-- COLL: issues a collective with its descriptor, which it reads as a load of the CT path (R280); NOTMEMBER where the module is no member of the group (R306). -/
def execColl (p : BitVec 2) (t : BitVec 9) (u : BitVec 9) (s : State) : Out :=
  .next (ctCommand s p true false false [t, u] fun core x ix l _ =>
    let c := ctxOf s core x
    let out (st : Nat) (s : State) : State := ctPerformed s core x ix (outsOf [t, u] (some (stTok st)))
    let m := memWords s (ctxActor core c) l.toNat 4
    if m.2.sim.stall then ctHold s core x 19 0
    else match m.1 with
    | .inl f => ctFault (ctFired m.2 core x ix) core x (match f.kind with
        | .poison => addrFlt 0x13 ix f.va
        | _ => xlateFlt f.st.code ix f.va)
    | .inr ws =>
      let r : CollRun := { id := 0, core := core, asid := c.asid, gen := c.gen, rid := c.rid, desc := ws, ctx := x + 1 }
      if r.bad then out 2 m.2
      else if groupLocal s r.grp = 0x7F || groupCount s r.grp = 0 then out 1 m.2
      else
        let id := stamp m.2
        let s := { id.2 with eng.colls := id.2.eng.colls ++ [{ r with id := id.1 }] }
        let s := if groupCount s r.grp = 1 then
            pushEv s .collectiveComplete { (default : EvArg) with core := BitVec.ofNat 8 core, n := id.1 }
          else s
        out 0 s)

/-- The combination of one 4-byte word over the members in replica-index order (R135, R306). -/
def collWord (opc root : Nat) (vs : List (BitVec 32)) : BitVec 32 :=
  if opc = 4 then vs.getD root 0#32
  else match vs with
    | [] => 0#32
    | v :: rest => rest.foldl (ropMerge (opc + 1)) v

/-- The buffers combined, four bytes at a time, up to a length. -/
def collBytes (opc root : Nat) (bufs : List (List Byte)) (n : Nat) : List Byte :=
  ((List.range (n / 4)).map (fun i =>
    let vs := bufs.map (fun b => BitVec.ofNat 32 (leNat ((b.drop (4 * i)).take 4)))
    leBytes 4 (collWord opc root vs).toNat)).flatten

/-- A collective ends, a broadcast from an index that is no member's with free bytes (log entry 26): the combined words are written to BUF, all of them, or under LINK_LOST as many as a free choice says,
and the record is written (R306). -/
def collEnd (s : State) (r : CollRun) (far : List Byte) (lost : Bool) : State :=
  let s := { s with eng.colls := s.eng.colls.filter (fun c => c.id != r.id) }
  let a : Actor := { core := r.core, path := .cl, asid := r.asid, gen := r.gen, rid := 0 }
  let w0 := BitVec.ofNat 64 (3 * 2 ^ 56 + (if lost then 6 else 0) * 2 ^ 48)
  let w1 := BitVec.ofNat 64 (r.len * 2 ^ 32)
  let rec1 (s : State) : State := ringPushAs (progress s r.core r.rid) .cl r.core ((r.w 0).extractLsb' 48 6).toNat r.asid r.rid w0 w1
  let m := memRead s a r.buf r.len
  match m.1 with
  | .inl f => rec1 (f.raise m.2 r.rid r.core)
  | .inr own =>
    let me := groupLocal s r.grp
    let bufs := (List.range (groupCount s r.grp)).map (fun i =>
      if i = me then own else (far.drop ((if i < me then i else i - 1) * r.len)).take r.len)
    let none_ := decide (r.opc = 4) && decide (groupCount s r.grp ≤ r.root)
    let c := if none_ then freeBytes r.len m.2 else (collBytes r.opc r.root bufs r.len, m.2)
    let out := c.1
    let k := freeN c.2
    let s := if lost then k.2 else c.2
    let out := if lost then out.take (k.1 % (r.len / 4 + 1) * 4) else out
    let w := memWrite s a r.buf out
    match w.1 with
    | some f => rec1 (f.raise w.2 r.rid r.core)
    | none => rec1 w.2

/-- COLLECTIVE_COMPLETE: collective `n` of a core ends with the other members' buffers, which `data` holds in
replica-index order, or with LINK_LOST where `flag` is set (R306). -/
def execCollectiveComplete (s : State) : Out :=
  let a := s.sim.arg
  match s.eng.colls.find? (fun c => c.core == a.core.toNat && c.id == a.n) with
  | none => .next s
  | some r =>
    if a.flag || a.data.length == (groupCount s r.grp - 1) * r.len then .next (collEnd s r a.data a.flag) else .next s

end Sys2Proof.Machine
end

