-- ==== Sys2Proof/Machine/Admit.lean ====
section
/-! DEFINITION. Admission: RCB chains (R182), notify pages and task records (R193–R195), launch pools (R200), task heaps
(R198), launch and the heap instructions (R308–R310). -/

namespace Sys2Proof.Machine

/-! ### RCB chains (R181, R182) -/

/-- Words of an RCB; none where its address is not aligned, its read fails, or a reserved bit is set. -/
def rcbRead (s : State) (a : Actor) (va : Nat) : Option (List Word) × State :=
  if va % 128 != 0 then (none, s)
  else
    let r := memWords s a va 16
    match r.1 with
    | .inl _ => (none, r.2)
    | .inr ws =>
      let w (i : Nat) : Word := ws.getD i 0#64
      let resv := (w 0).extractLsb' 0 44 != 0#44 || (w 1).extractLsb' 55 9 != 0#9 || (w 2).extractLsb' 32 32 != 0#32 ||
        (w 3).extractLsb' 55 9 != 0#9 || (w 4).extractLsb' 55 9 != 0#9 || (w 5).extractLsb' 55 9 != 0#9 ||
        (w 6).extractLsb' 21 11 != 0#11 || (ws.drop 8).any (· != 0#64)
      (if resv then none else some ws, r.2)

/-- KIND and PARENT of an RCB. -/
def rcbKind (ws : List Word) : Nat := ((ws.getD 0 0#64).extractLsb' 62 2).toNat
def rcbParent (ws : List Word) : Nat := ((ws.getD 1 0#64).extractLsb' 0 55).toNat

/-- The chain from a region's RCB: region, job where there is one, tenant (R182). -/
def chainRead (s : State) (a : Actor) (va : Nat) : Option (List (List Word)) × State :=
  let r := rcbRead s a va
  match r.1 with
  | none => (none, r.2)
  | some r0 =>
    if rcbKind r0 != 2 then (none, r.2)
    else
      let p := rcbRead r.2 a (rcbParent r0)
      match p.1 with
      | none => (none, p.2)
      | some p0 =>
        if rcbKind p0 = 0 then (some [r0, p0], p.2)
        else if rcbKind p0 != 1 then (none, p.2)
        else
          let t := rcbRead p.2 a (rcbParent p0)
          match t.1 with
          | none => (none, t.2)
          | some t0 => (if rcbKind t0 = 0 then some [r0, p0, t0] else none, t.2)

/-- The word 0 of the nearest RCB of a chain whose override bit is 1. -/
def nearest (chain : List (List Word)) (bit : Nat) : List Word :=
  (chain.find? (fun w => (w.getD 0 0#64).getLsbD bit)).getD []

/-- A region as its RCB chain resolves it, or none for BADRCB (R182). -/
def rcbResolve (s : State) (a : Actor) (va : Nat) (die depth : Nat) : Option Region × State :=
  let c := chainRead s a va
  match c.1 with
  | none => (none, c.2)
  | some chain =>
    let w (i : Nat) : Word := (chain.headD []).getD i 0#64
    let top := (chain.getLastD []).getD 0 0#64
    let segb := ((nearest chain 59).getD 2 0#64).extractLsb' 0 32
    if top.extractLsb' 59 3 != 7#3 || decide (segb.toNat < 4096) then (none, c.2)
    else
      let t := stamp c.2
      let r : Region := { (default : Region) with
        rcba := BitVec.ofNat 55 va, asid := a.asid, gen := genOf s a.asid, ten := (s.xl.asids.at a.asid.toNat).ten, die := die
        pri := (((nearest chain 60).getD 0 0#64).extractLsb' 56 3).toNat
        fd := ((nearest chain 61).getD 0 0#64).extractLsb' 44 12, segb := segb, image := (w 3).extractLsb' 0 55
        snapVa := (w 4).extractLsb' 0 55, doneVa := (w 5).extractLsb' 0 55, arg := w 7, origin := die * 64, depth := depth
        stamp := t.1 }
      (some r, t.2)

/-- The actor of admission's reads on a die: acquires at the home points under an ASID. -/
def admitActor (s : State) (die : Nat) (asid : BitVec 8) : Actor :=
  { core := die * 64, path := .inb, asid := asid, gen := genOf s asid, rid := 0 }

/-- A region joins the Arbiter queue of its die as ADMITTED (R183, R195, R197). -/
def regionAdmit (s : State) (r : Region) : State :=
  let rid := s.rg.nextRid + 1
  let s := { s with rg.nextRid := rid, rg.regions := s.rg.regions.set (rid - 1) r }
  let e : ArbEnt := {
    tile := false, rid := rid, words := [], asid := r.asid, pri := r.pri, stamp := r.stamp, dep := 0#64, ready := true, owner := 0 }
  setRst (arbAdd s r.die e) rid 0

/-- Has a tenant its AQMAX entries in a die's Arbiter queue (R196)? -/
def arbFull (s : State) (die : Nat) (ten : BitVec 6) : Bool := decide ((s.rg.schedQ.at ten.toNat).aqmax ≤ arbHeld s die ten)

/-! ### Task heaps (R198) -/

def heapKey (die : Nat) (ten : BitVec 6) : Nat := die * 64 + ten.toNat

/-- Insert an entry; false at HMAX. -/
def heapPut (s : State) (die : Nat) (ten : BitVec 6) (key val : Word) : Bool × State :=
  let k := heapKey die ten
  if (s.rg.schedQ.at ten.toNat).hmax ≤ (s.rg.heaps.at k).length then (false, s)
  else (true, { s with rg.heaps := s.rg.heaps.upd k (fun es => es ++ [{ key := key, val := val, skips := 0 }]) })

/-- Put a key into an ascending list. -/
def keyInsert (k : Nat) : List Nat → List Nat
  | [] => [k]
  | x :: xs => if k ≤ x then k :: x :: xs else x :: keyInsert k xs

/-- The 16th-smallest key of a heap, none where fewer entries are present. -/
def heapBound (es : List HeapEnt) : Option Nat :=
  let ks := es.foldr (fun e ks => keyInsert e.key.toNat ks) []
  ks[15]?

/-- The entries among which the next tdeq must choose, so that each is returned by one of the next 16 tdeqs (R198): where n of them have
stayed among the sixteen smallest for at least 16 − n tdeqs, those, for the smallest such n; else all. -/
def heapDue (c : List HeapEnt) : List HeapEnt :=
  ((List.range 16).findSome? (fun n =>
    let d := c.filter (fun e => decide (15 ≤ e.skips + n))
    if n + 1 ≤ d.length then some d else none)).getD c

/-- Remove an entry a tdeq may return: a free choice among those whose key is no larger than the 16th smallest, within what R198's bound
of 16 tdeqs leaves. -/
def heapTake (s : State) (die : Nat) (ten : BitVec 6) : Option HeapEnt × State :=
  let k := heapKey die ten
  let es := s.rg.heaps.at k
  let low (e : HeapEnt) : Bool := match heapBound es with
    | some b => decide (e.key.toNat ≤ b)
    | none => true
  let c := heapDue (es.filter low)
  let f := freeN s
  let pick := (c.drop (f.1 % max 1 c.length)).head?
  match pick with
  | none => (none, s)
  | some e =>
    let rest := (es.erase e).map (fun x => if low x then { x with skips := x.skips + 1 } else { x with skips := 0 })
    (some e, { f.2 with rg.heaps := f.2.rg.heaps.set k rest })

/-! ### Launch pools (R200) -/

/-- Slots of a kind that a tenant's regions on a die hold; a reserved one counts at its depth alone. -/
def poolUsed (s : State) (die : Nat) (ten : BitVec 6) (kind depth : Nat) : Nat :=
  (s.rg.regions.filter (fun x => x.2.die == die && x.2.ten == ten && x.2.pool == kind && !rstEnded x.2.rst &&
    (kind == 1 || x.2.depth == depth))).length

/-- Slots of a kind held for parked contexts other than one. -/
def poolHeld (s : State) (die : Nat) (ten : BitVec 6) (kind depth me : Nat) : Nat :=
  (s.rg.poolHold.filter (fun h => h.1 == heapKey die ten && h.2.1 == kind && h.2.2 != me &&
    (kind == 1 || (s.ctl.ctxs.at h.2.2).depth + 1 == depth))).length

/-- Slots of every kind and depth that a tenant's regions on a die hold, or that are held for parked contexts other than one. -/
def poolTotal (s : State) (die : Nat) (ten : BitVec 6) (me : Nat) : Nat :=
  (s.rg.regions.filter (fun x => x.2.die == die && x.2.ten == ten && x.2.pool != 0 && !rstEnded x.2.rst)).length +
    (s.rg.poolHold.filter (fun h => h.1 == heapKey die ten && h.2.2 != me)).length

/-- The kind of slot that a launch of a depth would take now: a free shared one, else the reserved one of its depth; 0 for
none, and while the tenant's use stands at LMAX or above it (R196). -/
def poolFree (s : State) (die : Nat) (ten : BitVec 6) (depth me : Nat) : Nat :=
  let l := (s.rg.schedQ.at ten.toNat).lmax
  if l < 8 || decide (l ≤ poolTotal s die ten me) then 0
  else if poolUsed s die ten 1 depth + poolHeld s die ten 1 depth me < l - 8 then 1
  else if poolUsed s die ten 2 depth + poolHeld s die ten 2 depth me < 1 then 2
  else 0

/-- A context's hold on a freed slot ends when its block has re-executed. -/
def poolDrop (s : State) (core x : Nat) : State :=
  { s with rg.poolHold := s.rg.poolHold.filter (fun h => h.2.2 != ctxKey core x) }

/-- The parked context whose turn is next for its tenant and depth (R200): the one that parked first. -/
def poolFirst (s : State) (core x : Nat) : Bool :=
  let c := ctxOf s core x
  s.ctl.ctxs.all (fun y => y.1 == ctxKey core x || y.2.st != .parked || y.1 / 8 / 64 != core / 64 || y.2.ten != c.ten ||
    y.2.depth != c.depth || decide (c.since < y.2.since))

/-! ### launch (R309) -/

/-- The statuses of a launch before its slot: 2 DEPTH, 3 BADRCB, 4 QFULL, and the region admitted under 0. The chain is read at the home
points after the release, each read an acquire of scope .m (R182, R178). -/
def launchCheck (s : State) (core : Nat) (c : Ctx) (l : Word) : Nat × Option Region × State :=
  let die := core / 64
  if c.depth = 7 then (2, none, s)
  else
    let r := rcbResolve (acquire (release s core 3) core 3) { ctxActor core c with path := .inb, rid := 0 } l.toNat die (c.depth + 1)
    match r.1 with
    | none => (3, none, r.2)
    | some q =>
      if l.extractLsb' 55 9 != 0#9 || q.ten != c.ten then (3, none, r.2)
      else if arbFull r.2 die c.ten then (4, none, r.2)
      else (0, some q, r.2)

/-- The launch forms: a release of scope .m on the CT path, then the child's admission (R178, R309). Under `park` a FULL
pool is waited for (R281). -/
def ctLaunch (s : State) (p : BitVec 2) (t u : BitVec 9) (park : Bool) : State :=
  ctCommand s p true false false [t, u] fun core x ix l _ =>
    let c := ctxOf s core x
    let out (st : Nat) (s : State) : State := ctPerformed s core x ix (outsOf [t, u] (some (stTok st)))
    let r := launchCheck s core c l
    if r.2.2.sim.stall then ctHold s core x 19 0
    else match r.2.1 with
    | none => out r.1 r.2.2
    | some q =>
      let kind := poolFree s (core / 64) c.ten q.depth (ctxKey core x)
      if kind = 0 then
        (if park then ctWait r.2.2 core x (some .parked) 10 0 l 0 else out 1 r.2.2)
      else
        storesReady r.2.2 core x 32 (fun s =>
          out 0 (poolDrop (regionAdmit (release (storesFirst s core x 32) core 3) { q with pool := kind }) core x))

/-- LAUNCH (R309). -/
def execLaunch (p : BitVec 2) (t : BitVec 9) (u : BitVec 9) (s : State) : Out := .next (ctLaunch s p t u false)
/-- LAUNCH_PARK: waits for a slot where none is free (R200, R281, R309). -/
def execLaunchPark (p : BitVec 2) (t : BitVec 9) (u : BitVec 9) (s : State) : Out := .next (ctLaunch s p t u true)

/-! ### The heap and the schedule table (R199, R310) -/

/-- TENQ: 0 OK or 1 FULL (R310). -/
def execTenq (p : BitVec 2) (t : BitVec 9) (u : BitVec 9) (s : State) : Out :=
  .next (ctCommand s p true true false [t, u] fun core x ix l r =>
    let h := heapPut s (core / 64) (ctxOf s core x).ten l r
    ctPerformed h.2 core x ix (outsOf [t, u] (some (stTok (if h.1 then 0 else 1)))))

/-- The tdeq forms: value to T0, key to T1; null tokens from an empty heap, or with `park` a wait (R281, R310). -/
def ctTdeq (s : State) (p : BitVec 2) (t u : BitVec 9) (park : Bool) : State :=
  ctCommand s p false false false [t, u] fun core x ix _ _ =>
    let h := heapTake s (core / 64) (ctxOf s core x).ten
    match h.1 with
    | some e => ctPerformed h.2 core x ix [(0, t, some e.val), (1, u, some e.key)]
    | none =>
      if park then ctWait s core x (some .wait) 11 1 0#64 0
      else ctPerformed s core x ix (outsOf [t, u] none)

/-- TDEQ (R310). -/
def execTdeq (p : BitVec 2) (t : BitVec 9) (u : BitVec 9) (s : State) : Out := .next (ctTdeq s p t u false)
/-- TDEQ_PARK: waits for an entry (R281, R310). -/
def execTdeqPark (p : BitVec 2) (t : BitVec 9) (u : BitVec 9) (s : State) : Out := .next (ctTdeq s p t u true)

/-- The schedule entry at a context's cursor; a context with no claimed range reads none. -/
def schedAt (s : State) (core : Nat) (c : Ctx) : SchedEnt :=
  if c.schLen = 0 then default else s.rg.sched.at (core * 64 + c.cursor)

/-- SCHNEXT: the value of R199 as cursor and count stood at block start, or END; they advance at commit (R310). -/
def execSchnext (p : BitVec 2) (t : BitVec 9) (u : BitVec 9) (s : State) : Out :=
  .next (ctForm s p false false [t, u] fun core x ix _ _ =>
    let e := schedAt s core (ctxOf s core x)
    if e.v then ctDone (atCommit s core x ix .schnext) core x ix none [(0, t, some e.arg), (1, u, some (stTok 0))]
    else ctDone s core x ix none [(0, t, none), (1, u, some (stTok 1))])

/-- schnext at commit: the count, and past REP the cursor, advance (R199). -/
def schedStep (s : State) (core x : Nat) : State :=
  let e := schedAt s core (ctxOf s core x)
  ctxUpd s core x (fun c =>
    if e.rep.toNat < c.count + 1 then { c with cursor := e.next.toNat, count := 0 } else { c with count := c.count + 1 })

/-! ### Notify pages (R193–R195) -/

def pageKey (die n : Nat) : Nat := die * 4096 + n

/-- DOORBELL_WRITE: TAIL of notify page `unit` of a die is written with `v` (R194). -/
def execDoorbellWrite (s : State) : Out := .next (doorbellOp s s.sim.arg.die.toNat s.sim.arg.unit.toNat s.sim.arg.v)

/-- The record that a page admits next: its address and words; none where nothing waits. -/
def recordNext (s : State) (die n : Nat) : Option (Nat × (MemFault ⊕ List Word)) × State :=
  let p := s.rg.notify.at (pageKey die n)
  if !p.v || p.head = p.tail then (none, s)
  else
    let va := p.rbase.toNat * 64 + 64 * (p.head.toNat % 2 ^ p.logn.toNat)
    let r := memWords s (admitActor s die p.asid) va 8
    (some (va, r.1), r.2)

/-- A record is done with: its status is stored to word 7, a release of scope .m, and HEAD passes it (R195). -/
def recordDone (s : State) (die n va st code : Nat) : State :=
  let p := s.rg.notify.at (pageKey die n)
  let bytes : List Byte := if st = 4 then [BitVec.ofNat 8 st, BitVec.ofNat 8 code] else [BitVec.ofNat 8 st]
  let s := (memWrite s (admitActor s die p.asid) (va + 56) bytes).2
  { s with rg.notify := s.rg.notify.upd (pageKey die n) (fun p => { p with head := p.head + 1#32 }) }

/-- A record that cannot be read has no word 7 to store to: HEAD passes it (R194). -/
def recordSkip (s : State) (die n : Nat) : State :=
  { s with rg.notify := s.rg.notify.upd (pageKey die n) (fun p => { p with head := p.head + 1#32 }) }

/-- The KIND of a record, 0 for one that is skipped with BADREC: an unknown KIND or a reserved bit (R195). -/
def recordKind (ws : List Word) : Nat :=
  let w := ws.getD 0 0#64
  let k := (w.extractLsb' 56 8).toNat
  let used : Word := if k = 3 then 3#64 else if k = 4 then 0x7FF#64 else 0#64
  if 1 ≤ k && k ≤ 4 && (w.setWidth 56).setWidth 64 &&& ~~~used == 0#64 then k else 0

/-- Admit the next record of a page if it is of a kind: `k` performs it and answers its status and code, or nothing where it
must wait (R195). A record of no kind is skipped by whichever step meets it. -/
def recordAdmit (s : State) (kind : Nat) (k : Nat → Nat → List Word → State → Option (Nat × Nat) × State) : State :=
  let die := s.sim.arg.die.toNat
  let n := s.sim.arg.unit.toNat
  let r := recordNext s die n
  match r.1 with
  | none => s
  | some (_, .inl _) => recordSkip r.2 die n
  | some (va, .inr ws) =>
    if recordKind ws = 0 then recordDone r.2 die n va 1 0
    else if recordKind ws != kind then s
    else
      let q := k die n ws r.2
      match q.1 with
      | none => s
      | some (st, code) => recordDone q.2 die n va st code

/-- ADMIT_REGION: a REGION record is admitted at depth 0, refused with BADRCB, or throttled (R182, R195). -/
def execAdmitRegion (s : State) : Out :=
  .next (recordAdmit s 1 fun die n ws s =>
    let a := admitActor s die (s.rg.notify.at (pageKey die n)).asid
    if arbFull s die (s.xl.asids.at a.asid.toNat).ten then (none, s)
    else
      let va := ws.getD 1 0#64
      let r := rcbResolve s a va.toNat die 0
      match r.1 with
      | none => (some (2, 0), r.2)
      | some q => if va.extractLsb' 55 9 = 0#9 then (some (0, 0), regionAdmit r.2 q) else (some (2, 0), r.2))

/-- ADMIT_TILE: the tile-task record that a TILE record names is read, on the MX path, and queued (R195, R305). -/
def execAdmitTile (s : State) : Out :=
  .next (recordAdmit s 2 fun die n ws s =>
    let a := admitActor s die (s.rg.notify.at (pageKey die n)).asid
    let va := (ws.getD 1 0#64).toNat
    if arbFull s die (s.xl.asids.at a.asid.toNat).ten then (none, s)
    else if va % 64 != 0 then (some (1, 0), s)
    else
      let m := memWords s { a with path := .mx } va 8
      match m.1 with
      | .inl f => (some (4, f.st.code), m.2)
      | .inr t =>
        let e := tileEntry m.2 t a.asid 0 0 0
        (some (0, 0), arbAdd e.2 die e.1))

/-- ADMIT_HEAP: a HEAP record is inserted in its tenant's heap on the die it names, or answers FULL (R195, R198). -/
def execAdmitHeap (s : State) : Out :=
  .next (recordAdmit s 3 fun die n ws s =>
    let ten := (s.xl.asids.at (s.rg.notify.at (pageKey die n)).asid.toNat).ten
    let h := heapPut s ((ws.getD 0 0#64).extractLsb' 0 2).toNat ten (ws.getD 1 0#64) (ws.getD 2 0#64)
    (some (if h.1 then 0 else 3, 0), h.2))

/-- ADMIT_EVENT: an EVENT record sets a context's event flag as sev gives: a context of another tenant ignores it (R195,
R278). -/
def execAdmitEvent (s : State) : Out :=
  .next (recordAdmit s 4 fun die n ws s =>
    let w := ws.getD 0 0#64
    let core := (w.extractLsb' 0 8).toNat
    let x := (w.extractLsb' 8 3).toNat
    let ten := (s.xl.asids.at (s.rg.notify.at (pageKey die n)).asid.toNat).ten
    let c := ctxOf s core x
    (some (0, 0), if c.st != .free && c.ten == ten then eventTo s core x else s))

end Sys2Proof.Machine
end

