-- ==== Sys2Proof/Machine/CtQueue.lean ====
section
/-! DEFINITION. Control-thread instructions on queues and completion rings (R284–R289). -/

namespace Sys2Proof.Machine

/-! ### Statuses (R284) -/

/-- The status of a producer form before its operands: 0, NOQ or NOTOWNER. -/
def producerSt (s : State) (core x n : Nat) : Nat :=
  let d := s.qu.queues.at (queueKey core n)
  let c := ctxOf s core x
  if !d.v then 1 else if d.asid != c.asid || !isProducer s core n c.rid then 2 else 0

/-- The status of a consumer form before its operands. qstat asks no consumer (R79, R404: DEDUCED, log entry 16). -/
def consumerSt (s : State) (core x n view : Nat) (stat : Bool) : Nat :=
  let d := s.qu.queues.at (queueKey core n)
  let c := ctxOf s core x
  if !d.v then 1 else if d.asid != c.asid then 2 else if d.nv < view then 5
  else if !stat && !isConsumer s core n view c.rid then 6 else 0

/-- A command of the producer group: `bad` names an ill-formed operand, `k` performs it and gives its value. -/
def ctProducer (s : State) (p : BitVec 2) (t : BitVec 9) (n : BitVec 6) (bad : Word → Bool)
    (k : Nat → Nat → Word → State → Nat × State) : State :=
  ctCommand s p true false false [t] fun core x ix a _ =>
    let st := producerSt s core x n.toNat
    let st := if st = 0 && bad a then 4 else st
    if st != 0 then ctPerformed s core x ix [(0, t, some (stVal st 0))]
    else
      let r := k core x a s
      ctPerformed r.2 core x ix [(0, t, some (stVal 0 r.1))]

/-- A consumer form that reads at firing: `bad` names an ill-formed operand, `k` gives its value and the state. -/
def ctConsumer (s : State) (p : BitVec 2) (t : BitVec 9) (v : BitVec 2) (n : BitVec 6) (stat : Bool)
    (bad : Queue → Word → Bool) (k : Nat → Nat → Nat → Word → Word × State) : State :=
  ctForm s p true false [t] fun core x ix a _ =>
    let st := consumerSt s core x n.toNat v.toNat stat
    let st := if st = 0 && bad (s.qu.queues.at (queueKey core n.toNat)) a then 4 else st
    if st != 0 then ctDone s core x ix none [(0, t, some (stVal st 0))]
    else
      let r := k core x ix a
      ctDone r.2 core x ix none [(0, t, some r.1)]

/-! ### Producers (R285) -/

/-- QRSV: ends the open write and presents a REC to every view. -/
def execQrsv (p : BitVec 2) (n : BitVec 6) (t : BitVec 9) (s : State) : Out :=
  .next (ctProducer s p t n (fun a => a.extractLsb' 24 40 != 0#40) fun core x a s =>
    let d := s.qu.queues.at (queueKey core n.toNat)
    let r := qRecord s core n.toNat x (ctlTok d.ch 8 a.toNat)
    (if r.1 then 1 else 0, progress r.2 core d.rid))

/-- QGAP: ends the open write and places a GAP marker of a count and a weight. -/
def execQgap (p : BitVec 2) (n : BitVec 6) (t : BitVec 9) (s : State) : Out :=
  .next (ctProducer s p t n (fun a => a.extractLsb' 40 24 == 0#24) fun core x a s =>
    let d := s.qu.queues.at (queueKey core n.toNat)
    let s := qApplyPol (qEnd s core n.toNat x) core n.toNat
    let toks := [ctlTok d.ch 7 (a.extractLsb' 40 24).toNat, weightTok d.ch (a.extractLsb' 0 40).toNat]
    (0, progress (qMarker s core n.toNat toks) core d.rid))

/-- QMARK: ends the open write and places a MARK marker. -/
def execQmark (p : BitVec 2) (n : BitVec 6) (t : BitVec 9) (s : State) : Out :=
  .next (ctProducer s p t n (fun a => a.extractLsb' 24 40 != 0#40) fun core x a s =>
    let d := s.qu.queues.at (queueKey core n.toNat)
    let s := qApplyPol (qEnd s core n.toNat x) core n.toNat
    (0, progress (qMarker s core n.toNat [ctlTok d.ch 6 a.toNat]) core d.rid))

/-- Data tokens that the block's own target fields write to a queue. -/
def blockWrites (f : Frame) (n : Nat) : Nat :=
  ((List.range f.words.length).map (fun ix => ((targetsAt f ix).filter (fun t => t.toNat == 0x1C0 + n)).length)).sum

/-- Does the block hold a qrsv of a queue, which begins a new record? -/
def blockReserves (f : Frame) (n : Nat) : Bool :=
  (List.range f.words.length).any (fun ix => match f.instr ix with
    | some (.qrsv _ q _) => q.toNat == n
    | _ => false)

/-- QPUSH: the context's write ends at commit; its count is that of the record at block start together with the
block's own writes (R285; the writes are its target fields: DEDUCED, log entry 16). -/
def execQpush (p : BitVec 2) (n : BitVec 6) (t : BitVec 9) (s : State) : Out :=
  .next (ctForm s p false false [t] fun core x ix _ _ =>
    let st := producerSt s core x n.toNat
    if st != 0 then ctDone s core x ix none [(0, t, some (stVal st 0))]
    else
      let f := frameOf s core x
      let old := match ((s.qu.queues.at (queueKey core n.toNat)).opens.find? (fun o => o.src == x)) with
        | some o => if blockReserves f n.toNat || o.gap then 0 else o.ndata
        | none => 0
      ctDone (atCommit s core x ix (.qpush n.toNat)) core x ix none [(0, t, some (stVal 0 (old + blockWrites f n.toNat)))])

/-! ### Consumers (R286) -/

/-- Largest count of qwait and qpadv: C + 2, or f × C + 2 under NARROW. -/
def countMax (d : Queue) : Nat := (if d.pol = 4 then narrowCount d.nfmt else 1) * d.c + 2

/-- Readable entries of a view. -/
def readableOf (s : State) (core n view : Nat) : List (List FTok) :=
  let d := s.qu.queues.at (queueKey core n)
  (d.views.at view).readable d.ch

/-- QWAIT: waits until n entries are readable, then claims them. -/
def execQwait (p : BitVec 2) (v : BitVec 2) (n : BitVec 6) (t : BitVec 9) (s : State) : Out :=
  .next (ctForm s p true false [t] fun core x ix a _ =>
    let d := s.qu.queues.at (queueKey core n.toNat)
    let st := consumerSt s core x n.toNat v.toNat false
    let st := if st = 0 && (a = 0#64 || decide (countMax d < a.toNat)) then 4 else st
    if st != 0 then ctDone s core x ix none [(0, t, some (stVal st 0))]
    else
      let r := (readableOf s core n.toNat v.toNat).length
      if r < a.toNat then ctWait s core x (some .wait) 3 n.toNat a v.toNat
      else
        let s := viewUpd s core n.toNat v.toNat (fun w => { w with claim := max w.claim a.toNat })
        ctDone s core x ix none [(0, t, some (stVal 0 r))])

/-- QPADV: claims up to n readable entries, never waiting. -/
def execQpadv (p : BitVec 2) (v : BitVec 2) (n : BitVec 6) (t : BitVec 9) (s : State) : Out :=
  .next (ctConsumer s p t v n false (fun d a => a = 0#64 || decide (countMax d < a.toNat)) fun core _ _ a =>
    let r := (readableOf s core n.toNat v.toNat).length
    let w := (s.qu.queues.at (queueKey core n.toNat)).views.at v.toNat
    let c := max w.claim (min a.toNat r)
    (stVal 0 c, viewUpd s core n.toNat v.toNat (fun w => { w with claim := c })))

/-- QADV: at commit the claimed entries leave; the value is min(n, CLM) at firing. -/
def execQadv (p : BitVec 2) (v : BitVec 2) (n : BitVec 6) (t : BitVec 9) (s : State) : Out :=
  .next (ctConsumer s p t v n false (fun _ a => a = 0#64) fun core x ix a =>
    let w := (s.qu.queues.at (queueKey core n.toNat)).views.at v.toNat
    (stVal 0 (min a.toNat w.claim), atCommit s core x ix (.qadv n.toNat v.toNat a.toNat)))

/-- A word that qstat reads: the view block, the header, CLM. -/
def qstatWord (d : Queue) (w : QView) (k : Nat) : Word :=
  if k < 8 then w.word k else if k < 12 then d.word (k - 8) else BitVec.ofNat 64 w.claim

/-- QSTAT: bits [55:0] of one word under status OK (R284). Bits [63:56] of a word that has them are not returned (DESIGN CHOICE,
log entry 16). -/
def execQstat (p : BitVec 2) (v : BitVec 2) (n : BitVec 6) (t : BitVec 9) (s : State) : Out :=
  .next (ctConsumer s p t v n true (fun _ a => decide (12 < a.toNat)) fun core _ _ a =>
    let d := s.qu.queues.at (queueKey core n.toNat)
    (stVal 0 (qstatWord d (d.views.at v.toNat) a.toNat).toNat, s))

/-- The token qpop reads: token t of claimed entry e, with the entry's token count less one in [56:48]. -/
def qpopTok (s : State) (core n view : Nat) (a : Word) : Tok :=
  let e := (a.extractLsb' 0 12).toNat
  let k := (a.extractLsb' 12 9).toNat
  let w := (s.qu.queues.at (queueKey core n)).views.at view
  if a.extractLsb' 21 43 != 0#43 || decide (w.claim ≤ e) then none
  else match (readableOf s core n view)[e]? with
  | none => none
  | some toks => match toks[k]? with
    | none => none
    | some t => some (BitVec.ofNat 64 (t.toNat + (toks.length - 1) % 512 * 2 ^ 48))

/-- QPOP: reads one token of a claimed entry; a view that the context does not consume reads as null. A poisoned word of the entry is
the fault POISON (R50). -/
def execQpop (p : BitVec 2) (v : BitVec 2) (n : BitVec 6) (t : BitVec 9) (s : State) : Out :=
  .next (ctForm s p true false [t] fun core x ix a _ =>
    let r := if consumerSt s core x n.toNat v.toNat false != 0 then none else qpopTok s core n.toNat v.toNat a
    match if r.isSome then readPoison s core n.toNat v.toNat (a.extractLsb' 0 12).toNat else none with
    | some w => ctFault s core x (addrFlt 0x13 ix (BitVec.ofNat 64 w))
    | none => ctDone s core x ix none [(0, t, r)])

/-- QPOL: a new policy word, from the queue's next arrival on (R80, R287). -/
def execQpol (p : BitVec 2) (n : BitVec 6) (t : BitVec 9) (s : State) : Out :=
  .next (ctCommand s p true false false [t] fun core x ix a _ =>
    let k := queueKey core n.toNat
    let d := s.qu.queues.at k
    let st := if !d.v then 1 else if d.asid != (ctxOf s core x).asid then 2 else if polBad a d.slim d.llim then 3 else 0
    let s := if st = 0 then { s with qu.queues := s.qu.queues.set k { d with pol1 := some a } } else s
    ctPerformed s core x ix [(0, t, some (stVal st 0))])

/-! ### Completion rings (R289) -/

/-- Entries of a ring that are written and not released. -/
def Ring.avail (r : Ring) : Nat := (r.wr - r.rd).toNat

/-- A ring form acts on a ring of its ASID with a count from 1 to its size. -/
def ringOk (s : State) (core x n : Nat) (a : Word) : Bool :=
  let r := s.eng.rings.at (ringKey core n)
  r.v && r.asid == (ctxOf s core x).asid && a != 0#64 && decide (a.toNat ≤ 2 ^ r.log.toNat)

/-- RWAIT: waits for n entries, then answers RD; an acquire of scope .m. -/
def execRwait (p : BitVec 2) (n : BitVec 6) (t : BitVec 9) (s : State) : Out :=
  .next (ctForm s p true false [t] fun core x ix a _ =>
    let r := s.eng.rings.at (ringKey core n.toNat)
    if !ringOk s core x n.toNat a then ctDone s core x ix none [(0, t, none)]
    else if r.avail < a.toNat then ctWait s core x (some .wait) 4 n.toNat a 0
    else ctDone (acquire s core 3) core x ix none [(0, t, some (r.rd.setWidth 64))])

/-- RREL: frees entries at commit; 0 at firing. -/
def execRrel (p : BitVec 2) (n : BitVec 6) (t : BitVec 9) (s : State) : Out :=
  .next (ctForm s p true false [t] fun core x ix a _ =>
    if !ringOk s core x n.toNat a then ctDone s core x ix none [(0, t, none)]
    else ctDone (atCommit s core x ix (.rrel n.toNat a.toNat)) core x ix none [(0, t, some 0#64)])

/-! ### What a waiting context waits for (R281) -/

/-- Has the condition of a context in WAIT come to hold? An object that is gone releases it, so that its block runs
again. A context that a wfe or an idle parked waits for its event flag; tdeq.park for an entry of its heap. -/
def waitHolds (s : State) (core x : Nat) : Bool :=
  let c := ctxOf s core x
  match c.wcode with
  | 3 => let d := s.qu.queues.at (queueKey core c.widx)
         !d.v || decide (c.park.toNat ≤ (readableOf s core c.widx c.parkIx).length)
  | 4 => let r := s.eng.rings.at (ringKey core c.widx)
         !r.v || decide (c.park.toNat ≤ r.avail)
  | 11 => if c.widx = 1 then !(s.rg.heaps.at (core / 64 * 64 + c.ten.toNat)).isEmpty else c.evf
  | _ => false

end Sys2Proof.Machine
end

