-- ==== Sys2Proof/Machine/Inbound.lean ====
section
/-! DEFINITION. Requests that arrive from outside the module: inbound windows (R18), reads, writes and atomics at their
home points (R43, R161, R425), and remote atomics with their replay caches (R169, R171). -/

namespace Sys2Proof.Machine

/-! ### Inbound windows (R18) -/

/-- The lowest-numbered window that admits a request of a source to n bytes at an address. -/
def winFor (s : State) (src : BitVec 10) (need : InWin → Bool) (addr n : Nat) : Option InWin :=
  ((List.range 256).find? (fun i =>
    let w := s.xl.wins.at i
    w.v && (w.src == src || w.src == 0x3FF#10) && decide (w.base.toNat * 0x10000 ≤ addr) &&
      decide (addr + n ≤ w.limit.toNat * 0x10000) && need w)).map s.xl.wins.at

/-- An inbound request's actor: at home points, stamped with the window's ASID and its present generation. No core stands
behind it. -/
def InWin.actor (s : State) (w : InWin) : Actor :=
  { core := 256, path := .inb, asid := w.asid, gen := genOf s w.asid, rid := 0 }

/-- Is an address one that an inbound access may be performed at: memory, a bank in SCRATCH (R43), a notify page, or under
ASID 0 the register space (R425)? -/
def inPlace (s : State) (asid : BitVec 8) (pa n : Nat) (dev : Bool) : Bool :=
  match place pa with
  | .dram => true
  | .anvil _ _ => true
  | .bank c o => bankScratch s c o
  | .notify _ _ _ => dev && (n == 4 || n == 8) && pa % n == 0
  | .regs _ _ => dev && asid == 0#8 && n == 8 && pa % 8 == 0
  | _ => false

/-- The sectors of a range: their addresses and lengths. -/
def chunksOf : Nat → Nat → Nat → List (Nat × Nat)
  | 0, _, _ => []
  | fuel + 1, pa, n =>
    if n = 0 then []
    else
      let k := min n (128 - pa % 128)
      (pa, k) :: chunksOf fuel (pa + k) (n - k)

def chunksIn (pa n : Nat) : List (Nat × Nat) := chunksOf (n / 128 + 2) pa n

/-- Does an inbound request meet a bank that changes its mode (R42)? -/
def inBusy (s : State) (pa n : Nat) : Bool :=
  (chunksIn pa n).any (fun c => accBusy s { core := 256, path := .inb, asid := 0#8, gen := 0#16, rid := 0 } .wb c.1 c.2)

/-- An admitted write; false where a bank's mode refuses it, and then nothing is written. -/
def inWrite (s : State) (w : InWin) (pa : Nat) (bs : List Byte) : Bool × State :=
  let cs := chunksIn pa bs.length
  if !cs.all (fun c => inPlace s w.asid c.1 c.2 (cs.length == 1)) then (false, s)
  else (true, cs.foldl (fun s c =>
    let piece := (bs.drop (c.1 - pa)).take c.2
    match place c.1 with
    | .regs _ _ => deviceWrite s c.1 w.asid piece
    | .notify _ _ _ => deviceWrite s c.1 w.asid piece
    | _ => (performWrite s (w.actor s) .wb c.1 piece).2) s)

/-- An admitted read: its status, 0 OK, 10 REFUSED, 0x13 POISON, and its bytes. -/
def inRead (s : State) (w : InWin) (pa n : Nat) : Nat × List Byte × State :=
  let cs := chunksIn pa n
  if !cs.all (fun c => inPlace s w.asid c.1 c.2 (cs.length == 1)) then (10, [], s)
  else cs.foldl (fun acc c =>
    match place c.1 with
    | .regs _ _ => (acc.1, acc.2.1 ++ deviceRead acc.2.2 c.1 c.2, acc.2.2)
    | .notify _ _ _ => (acc.1, acc.2.1 ++ deviceRead acc.2.2 c.1 c.2, acc.2.2)
    | _ =>
      let r := performRead acc.2.2 (w.actor s) .wb c.1 c.2
      match r.1 with
      | .ok bs => (acc.1, acc.2.1 ++ bs, r.2)
      | _ => (0x13, acc.2.1, r.2)) (0, [], s)

/-- An atomic at an address of this module: its status and old value. Alignment, memory and operation are those of R268 and
R269. -/
def inAtomic (s : State) (w : InWin) (pa op : Nat) (v : Word) : Nat × Word × State :=
  let n := atomicWidth op
  if 11 < op || pa % n != 0 || !inPlace s w.asid pa n false then (10, 0#64, s)
  else
    let r := atomicPerform s (w.actor s) .wb pa op v
    match r.1 with
    | some old => (0, old, r.2)
    | none => (0x13, 0#64, r.2)

/-- Send a reply to a requester. -/
def replySend (s : State) (port : Nat) (node : BitVec 10) (core : BitVec 8) (ctx : BitVec 3) (st : Nat) (v : Word)
    (bs : List Byte) : State :=
  sendOut s { port := port, node := node, load := .reply core ctx (BitVec.ofNat 8 st) v bs }

/-- INBOUND_REQUEST: the request in `load`, which came through `port`, is admitted by a window and performed, or answered
with REFUSED; `core` and `ctx` say whom the reply goes to at the source (R18, R43, R167). -/
def execInboundRequest (s : State) : Out :=
  let a := s.sim.arg
  match a.load with
  | .inbound src kind addr data =>
    let pa := addr.toNat
    let say (st : Nat) (v : Word) (bs : List Byte) (s : State) : Out := .next (replySend s a.port.toNat src a.core a.ctx st v bs)
    (match kind with
    | .read n =>
      (match winFor s src (·.rd) pa n with
      | none => say 10 0#64 [] s
      | some w =>
        if inBusy s pa n then .next (parkEv s .inboundRequest) else
        let r := inRead s w pa n
        say r.1 (leWord (r.2.1.take 8)) r.2.1 r.2.2)
    | .write =>
      (match winFor s src (·.w) pa data.length with
      | none => say 10 0#64 [] s
      | some w =>
        if inBusy s pa data.length then .next (parkEv s .inboundRequest) else
        let r := inWrite s w pa data
        say (if r.1 then 0 else 10) 0#64 [] r.2)
    | .atomic op _ =>
      (match winFor s src (·.a) pa (atomicWidth op.toNat) with
      | none => say 10 0#64 [] s
      | some w =>
        if inBusy s pa 8 then .next (parkEv s .inboundRequest) else
        let r := inAtomic s w pa op.toNat (leWord (data.take 8))
        say r.1 r.2.1 [] r.2.2))
  | _ => .next s

/-! ### Remote atomics (R169) -/

/-- Has a replay entry outlived its 1 ms? -/
def ReplayEnt.dead (e : ReplayEnt) (now : Word) : Bool := decide (replayLife ≤ (now - e.time).toNat)

/-- Entries whose lifetime has ended leave a port's cache. -/
def replayExpire (s : State) (port : Nat) : State :=
  { s with ctl.replay := s.ctl.replay.upd port (fun es => es.filter (fun e => !e.dead s.dev.gtsc)) }

/-- REMOTE_ATOMIC_ARRIVAL: the atomic in `load` is decided once, on arrival at `port`: dropped when too old, refused by the
windows, answered from the replay cache, turned away by the quota, or performed (R18, R169). -/
def execRemoteAtomicArrival (s : State) : Out :=
  let a := s.sim.arg
  let p := a.port.toNat
  match a.load with
  | .remoteAtomic ra =>
    let say (st : Nat) (v : Word) (s : State) : Out := .next (replySend s p ra.src ra.score ra.sctx st v [])
    if replayLife ≤ (s.dev.gtsc - ra.time).toNat then .next s
    else
      let s := replayExpire s p
      let es := s.ctl.replay.at p
      let ten := (s.xl.asids.at ra.asid.toNat).ten
      (match winFor s ra.src (·.a) ra.addr.toNat (atomicWidth ra.op.toNat) with
      | none => say 10 0#64 s
      | some w =>
        match es.find? (fun e => e.src == ra.src && e.asid == ra.asid && e.tag == ra.tag) with
        | some e =>
          if e.op == ra.op && e.addr == ra.addr && e.v == ra.v then say 17 e.result s else say 20 0#64 s
        | none =>
          if (s.ctl.replayQ.at ten.toNat).rmax ≤ (es.filter (fun e => (s.xl.asids.at e.asid.toNat).ten == ten)).length then
            say 19 0#64 s
          else if inBusy s ra.addr.toNat 8 then .next (parkEv s .remoteAtomicArrival)
          else
            let r := inAtomic s w ra.addr.toNat ra.op.toNat ra.v
            if r.1 != 0 then say r.1 0#64 r.2.2
            else
              let e : ReplayEnt := {
                src := ra.src, asid := ra.asid, tag := ra.tag, op := ra.op, addr := ra.addr, v := ra.v, result := r.2.1
                time := s.dev.gtsc }
              let s := { r.2.2 with ctl.replay := r.2.2.ctl.replay.upd p (fun es => es ++ [e]) }
              say 0 r.2.1 s)
  | _ => .next s

/-- REPLAY_ENTRY_EXPIRY: the entries of `port` that have lived 1 ms end (R169). -/
def execReplayEntryExpiry (s : State) : Out := .next (replayExpire s s.sim.arg.port.toNat)

/-- REPLAY_QUOTA_WRITE: tenant `unit`'s replay quota is written with `v` (R171). -/
def execReplayQuotaWrite (s : State) : Out := .next (replayQuotaOp s (s.sim.arg.unit.toNat % 64) s.sim.arg.v)

/-! ### Register writes -/

/-- REGISTER_WRITE: the device write of `n` bytes of `w` at physical address `v` under `asid` (R12, R193, R425). -/
def execRegisterWrite (s : State) : Out :=
  let a := s.sim.arg
  .next (deviceWrite s a.v.toNat a.asid ((leBytes 8 a.w.toNat).take a.n))

/-- ASID_ENABLE: a descriptor write of `v` that sets V of ASID `asid` (R11). -/
def execAsidEnable (s : State) : Out :=
  let d := s.xl.asids.at s.sim.arg.asid.toNat
  .next (if !d.v && s.sim.arg.v.getLsbD 0 then asidWrite s s.sim.arg.asid.toNat s.sim.arg.v else s)

/-- ASID_DISABLE: a descriptor write of `v` that clears V of ASID `asid` (R11). -/
def execAsidDisable (s : State) : Out :=
  let d := s.xl.asids.at s.sim.arg.asid.toNat
  .next (if d.v && !s.sim.arg.v.getLsbD 0 then asidWrite s s.sim.arg.asid.toNat s.sim.arg.v else s)

/-- WALKER_QUOTA_WRITE: tenant `unit`'s walker quota is written with `v` (R27). -/
def execWalkerQuotaWrite (s : State) : Out := .next (walkQuotaWrite s (s.sim.arg.unit.toNat % 64) s.sim.arg.v)

/-- DIRTY_TRACKING_WRITE: word `sub` of tenant `unit`'s dirty-tracking descriptor is written with `v` (R31, R32). -/
def execDirtyTrackingWrite (s : State) : Out :=
  .next (dirtyWrite s (s.sim.arg.unit.toNat % 64) (s.sim.arg.sub.toNat % 4) s.sim.arg.v)

/-- LANDING_QUOTA_WRITE: tenant `unit`'s landing quota is written with `v` (R130). -/
def execLandingQuotaWrite (s : State) : Out := .next (landQuotaWrite s (s.sim.arg.unit.toNat % 64) s.sim.arg.v)

/-- SCHED_QUOTA_WRITE: tenant `unit`'s scheduling quota is written with `v` (R196). -/
def execSchedQuotaWrite (s : State) : Out := .next (schedQuotaOp s (s.sim.arg.unit.toNat % 64) s.sim.arg.v)

/-- NODEID_WRITE: NODEID is written with `v` (R418). -/
def execNodeidWrite (s : State) : Out := .next (nodeidOp s s.sim.arg.v)

/-- FAULT_WINDOW_WRITE: word `sub` of the fault window of a context is written with `v` (R380). -/
def execFaultWindowWrite (s : State) : Out :=
  .next (faultWindowOp s s.sim.arg.core.toNat s.sim.arg.ctx.toNat (s.sim.arg.sub.toNat % 4) s.sim.arg.v)

/-- NOTIFY_PAGE_ENABLE: NCFG of notify page `unit` of a die is written with `v` under ASID 0 (R193). -/
def execNotifyPageEnable (s : State) : Out :=
  .next (if s.sim.arg.asid = 0#8 then notifyEnableOp s s.sim.arg.die.toNat s.sim.arg.unit.toNat s.sim.arg.v else s)

end Sys2Proof.Machine
end

