-- ==== Sys2Proof/Machine/Box.lean ====
section
/-! DEFINITION. Episodes and their step mailboxes (R403–R411, R415, R416): windows, boxes, placing observations, and how an
episode ends. -/

namespace Sys2Proof.Machine

/-! ### The episode table (R403) -/

def epUpd (s : State) (k : Nat) (f : Episode → Episode) : State := { s with hth.eps := s.hth.eps.upd k f }

/-- EPI of an entry (R403): KGEN × 2^16 + 1,024 d + 16 hc + e, the key being 1,024 d + 16 hc + e. -/
def epi (k : Nat) (e : Episode) : BitVec 32 := BitVec.ofNat 32 (e.kgen.toNat * 2 ^ 16 + k)

/-- Slots of a box. -/
def Episode.slots (e : Episode) : Nat := 2 ^ e.ns.toNat
/-- The policy core. -/
def Episode.core (e : Episode) : Nat := e.pdie.toNat * 64 + e.pcore.toNat

/-! ### Memory of an episode (R402, R405, R406) -/

/-- Does [a, a + n) lie in the window (R405)? -/
def Episode.inWindow (e : Episode) (a n : Nat) : Bool :=
  decide (e.base.toNat ≤ e.limit.toNat) && decide (a + n ≤ (e.limit.toNat - e.base.toNat) * 2 ^ 16)

/-- The EN path of a hearth core, on physical addresses. -/
def enActor (s : State) (hc : Nat) : Actor := { core := hc, path := .en, asid := 0#8, gen := genOf s 0#8, rid := 0 }

/-- Read n bytes at a physical address, in pieces of one 128-byte sector (R402). Poisoned bytes read as free values. -/
def enRead (hc : Nat) : Nat → Nat → Nat → State → List Byte × State
  | 0, _, _, s => ([], s)
  | fuel + 1, pa, n, s =>
    if n = 0 then ([], s)
    else
      let m := min n (128 - pa % 128)
      let r := performRead s (enActor s hc) .wb pa m
      let b := match r.1 with
        | .ok bs => (bs, r.2)
        | _ => freeBytes m r.2
      let q := enRead hc fuel (pa + m) (n - m) b.2
      (b.1 ++ q.1, q.2)

/-- Write bytes at a physical address. -/
def enWrite (hc : Nat) : Nat → Nat → List Byte → State → State
  | 0, _, _, s => s
  | fuel + 1, pa, bs, s =>
    if bs.isEmpty then s
    else
      let m := min bs.length (128 - pa % 128)
      enWrite hc fuel (pa + m) (bs.drop m) (performWrite s (enActor s hc) .wb pa (bs.take m)).2

/-- Read and write at an offset of the window. -/
def winRead (s : State) (k : Nat) (e : Episode) (a n : Nat) : List Byte × State :=
  enRead (k / 16) (n / 128 + 2) (e.base.toNat * 2 ^ 16 + a) n s
def winWrite (s : State) (k : Nat) (e : Episode) (a : Nat) (bs : List Byte) : State :=
  enWrite (k / 16) (bs.length / 128 + 2) (e.base.toNat * 2 ^ 16 + a) bs s

/-- The mailbox's accesses of the box area: virtual addresses under ASID, on the EN path (R408). -/
def Episode.actor (s : State) (k : Nat) (e : Episode) : Actor :=
  { core := k / 16, path := .en, asid := e.asid, gen := genOf s e.asid, rid := 0 }

/-- Address of an action or observation slot (R406). -/
def Episode.slotVa (e : Episode) (obs : Bool) (i : Nat) : Nat := e.box.toNat * 2 ^ 16 + 8192 * (if obs then e.slots + i else i)

/-! ### Messages (R406–R408) -/

/-- The 64-byte header of a message. -/
def msgHeader (seq epi ptag : BitVec 32) (kind len : Nat) (time : Word) (hi lo : BitVec 32) : List Byte :=
  ([seq ++ epi, BitVec.ofNat 64 (ptag.toNat * 2 ^ 32 + kind * 2 ^ 24 + len), time, hi ++ lo, 0#64, 0#64, 0#64, 0#64].map
    (fun w => leBytes 8 w.toNat)).flatten

/-- The mailbox places a record of integers into a queue: weight 1.0, then its data tokens. -/
def boxRecord (s : State) (core n : Nat) (ds : List (BitVec 32)) : State :=
  let d := s.qu.queues.at (queueKey core n)
  let s := (qToken s core n 10 (ctlTok d.ch 8 0x100)).2
  let s := ds.foldl (fun s w => (qToken s core n 10 (tokOn (w.setWidth 48) d.ch)).2) s
  progress (qEnd (dbgDone s core n 10) core n 10) core d.rid

/-- Place an observation (R408): its payload and header in the lowest free slot where LEN > 0, then its record in OQ. OSEQ
advances, and the budget stops (R413). `id` is the EPI it bears. -/
def obsPlace (s : State) (k : Nat) (id : BitVec 32) (kind : Nat) (val : BitVec 32) (pay : List Byte) : State :=
  let e := s.hth.eps.at k
  let len := pay.length
  let slot := if len = 0 then none else (List.range e.slots).find? (fun i => !e.busy.any (fun b => b.1 == i))
  let s := match slot with
    | none => s
    | some i => (memWrite s (e.actor s k) (e.slotVa true i)
        (msgHeader e.oseq id e.ptag kind len s.dev.gtsc e.dseq val ++ pay)).2
  let s := epUpd s k (fun e => { e with
    oseq := e.oseq + 1#32, ivl := false, flag := 0#40
    busy := match slot with
      | some i => e.busy ++ [(i, e.oseq)]
      | none => e.busy })
  boxRecord s e.core e.oq.toNat [e.oseq, id, e.ptag, BitVec.ofNat 32 (kind * 2 ^ 24 + len), e.dseq, val,
    match slot with
    | some i => BitVec.ofNat 32 i
    | none => 0xFFFFFFFF#32]

/-! ### How an episode ends (R404, R410, R411, R416) -/

/-- The end of a tag change under TRUNCATE (R410): the TRUNCATED message waits for ply.recv, a TRUNCATED observation is placed.
Its VAL, which no rule gives, is a free value. -/
def epTruncate (s : State) (k : Nat) (seq ptag : BitVec 32) : State :=
  let f := freeN s
  let s := epUpd f.2 k (fun e => { e with trunc := some (seq, ptag, s.dev.gtsc) })
  epUpd (obsPlace s k (epi k (s.hth.eps.at k)) 5 (BitVec.ofNat 32 f.1) []) k (fun e => { e with st := .dead })

/-- A rollback of a region has emptied its queues: every LIVE episode whose OQ it owns ends as a tag change under TRUNCATE does. No
action caused it: its message bears the next action's number and the stored tag (R411; DEDUCED, log entry 37). -/
def episodesTruncate (s : State) (rid : Nat) : State :=
  (s.hth.eps.filter (fun x => x.2.v && x.2.st == .live && (s.qu.queues.at (queueKey x.2.core x.2.oq.toNat)).rid == rid)).foldl
    (fun s x => epTruncate s x.1 x.2.aseq x.2.ptag) s

/-- V is cleared: KGEN advances, the budget stops, the entry is FREE (R404). -/
def epUnbind (s : State) (k : Nat) : State :=
  epUpd s k (fun e => { e with
    v := false, st := .free, kgen := e.kgen + 1#16, flag := 0#40, ivl := false, acts := [], trunc := none })

/-- The kill of a policy ASID clears V of every entry that names it (R411). -/
def episodesKill (s : State) (asid : BitVec 8) : State :=
  (s.hth.eps.filter (fun x => x.2.v && x.2.asid == asid)).foldl (fun s x => epUnbind s x.1) s

end Sys2Proof.Machine
end

