-- ==== Sys2Proof/Machine/Wave.lean ====
section
/-! DEFINITION. The life of a region on its cores: rgo (R297, R315), marker waves and the commit gate (R386–R388), the end of
its work (R297), and rollback (R389). -/

namespace Sys2Proof.Machine

/-! ### Elements of a slot -/

/-- Does an element hold a handler of a slot? -/
def Elem.has (e : Elem) (g : Nat) : Bool := e.act.any (fun h => h.2.present && handlerSlot h.2 == g)

/-- The keys of a core's elements that hold handlers of a slot. -/
def slotElems (s : State) (core g : Nat) : List Nat :=
  (s.fab.elems.filter (fun x => x.1 / 4096 == core && x.2.has g)).map (·.1)

/-- A handler as it stands when its slot starts (R315). -/
def Handler.fresh (h : Handler) : Handler := { (default : Handler) with present := h.present, word := h.word, rwt := 0x100#24 }

/-- An element as rgo enables it: st0 and st1 integer 0, every RWT of the slot 1.0, every PH 0, and the initial token in
its queue (R315). -/
def Elem.start (e : Elem) (g at_ : Nat) : Elem :=
  let e : Elem := { e with
    st0 := 0#48, st1 := 0#48, enabled := e.enabled ||| (1#4 <<< g)
    act := e.act.map (fun h => if h.2.present && handlerSlot h.2 == g then (h.1, h.2.fresh) else h) }
  match e.itok.at g with
  | some (q, t) =>
    let n : QTok := { tok := t, at_ := at_ }
    { e with inq := e.inq.upd q (fun l => l ++ [n]) }
  | none => e

/-- An element without tokens of a slot, its segment and BLOCKED bit of that slot cleared (R325). -/
def Elem.still (e : Elem) (g : Nat) : Elem :=
  { e with
    inq := e.inq.map (fun q => (q.1, q.2.filter (fun t => e.tokSlot t.tok != some g && e.tokSlot t.tok != none)))
    res := if e.resSlot == g then none else e.res
    pend := if e.resSlot == g then [] else e.pend
    emit := if e.resSlot == g then [] else e.emit
    seg := if e.seg == some g then none else e.seg
    blocked := e.blocked &&& ~~~(1#4 <<< g) }

/-- What a MARK records of an element (R325). -/
def Elem.snap (e : Elem) : ElemSnap :=
  { st0 := e.st0, st1 := e.st1, rwt := (List.range 8).map (fun h => (e.act.at h).rwt), ph := (List.range 8).map (fun h => (e.act.at h).ph) }

/-- An element returns to a snapshot for a slot. -/
def Elem.restore (e : Elem) (g : Nat) (n : ElemSnap) : Elem :=
  { e with
    st0 := n.st0, st1 := n.st1
    act := e.act.map (fun h => if h.2.present && handlerSlot h.2 == g then
      (h.1, { h.2.fresh with rwt := n.rwt.getD h.1 0x100#24, ph := n.ph.getD h.1 0#8 }) else h) }

/-- The snapshot of an element as the MARK passes (R325). -/
def elemSnap (s : State) (rid e : Nat) : State :=
  if rid = 0 then s
  else regUpd s rid (fun r => { r with cur := { r.cur with elems := r.cur.elems.set e (s.fab.elems.at e).snap } })

/-! ### Objects of a region on a core -/

def ridQueues (s : State) (rid : Nat) (on : Nat → Bool) : SMap Queue :=
  s.qu.queues.filter (fun x => x.2.v && x.2.rid == rid && on (x.1 / 64))
def ridSets (s : State) (rid : Nat) (on : Nat → Bool) : SMap AccSet :=
  s.ac.sets.filter (fun x => x.2.v && x.2.rid == rid && on (x.1 / 16))
def ridRows (s : State) (rid : Nat) (on : Nat → Bool) : SMap AccRow :=
  s.ac.rows.filter (fun x => (s.ac.sets.at (x.1 / 65536)).v && (s.ac.sets.at (x.1 / 65536)).rid == rid && on (x.1 / 65536 / 16))
def ridOwn (s : State) (rid : Nat) (on : Nat → Bool) : SMap OwnEnt :=
  s.sm.own.filter (fun x => x.2.v && x.2.asid == (regionOf s rid).asid && on (x.1 / 16))
def ridStreams (s : State) (rid : Nat) (on : Nat → Bool) : SMap Stream :=
  s.sm.streams.filter (fun x => x.2.isOpen && x.2.rid == rid && on (x.1 / 256))

/-- Put every entry of a map into another. -/
def mapPuts {α : Type} (m n : SMap α) : SMap α := n.foldl (fun m x => m.set x.1 x.2) m

/-! ### rgo (R297) -/

/-- rgo on a core: the slot's elements are enabled with their initial tokens, the segment count starts, and the state to
which a rollback without a complete wave returns is kept (R389). RST becomes RUNNING with the last core that runs a
control thread. -/
def regionGo (s : State) (core g rid : Nat) : State :=
  let t := stamp s
  let s := t.2
  let s := (slotElems s core g).foldl (fun s e => elemUpd s e (fun x => x.start g t.1)) s
  let s := { s with rg.slots := s.rg.slots.upd (slotIx core g) (fun x => { x with
    live := true, segN := 0, prog := s.dev.gtsc, prog2 := s.dev.gtsc }) }
  let on (c : Nat) : Bool := c == core
  let s := regUpd s rid (fun r => { r with
    goCores := r.goCores ++ [core]
    base := { r.base with
      taken := true
      queues := mapPuts r.base.queues (ridQueues s rid on), sets := mapPuts r.base.sets (ridSets s rid on)
      rows := mapPuts r.base.rows (ridRows s rid on), own := mapPuts r.base.own (ridOwn s rid on) } })
  let r := regionOf s rid
  if r.rst == 1 && r.members.all (fun c => r.goCores.contains c) then setRst s rid 2 else s

/-! ### Starting a wave (R386) -/

/-- Is a context at a block boundary? A context held in rdrain stands at the boundary before its block, so that the
final wave of that rdrain can complete (DEDUCED, log entry 19). -/
def atBoundary (s : State) (core x : Nat) : Bool :=
  let c := ctxOf s core x
  !(c.st == .run || c.st == .held) || s.ctl.pend.any (fun p => p.core == core && p.ctx == x && p.kind == .rdrain)

/-- The snapshot of a context. -/
def ctxSnap (s : State) (core x : Nat) : State :=
  let c := ctxOf s core x
  if c.rid = 0 then s
  else regUpd s c.rid (fun r => { r with cur := { r.cur with ctxs := r.cur.ctxs.set (ctxKey core x) c } })

/-- At a block boundary, a context whose region's wave has no snapshot of it yet gives one. -/
def ctxBoundary (s : State) (core x : Nat) : State :=
  let c := ctxOf s core x
  let r := regionOf s c.rid
  if c.rid != 0 && r.inFlight && !r.cur.ctxs.any (fun y => y.1 == ctxKey core x) then ctxSnap s core x else s

/-- The sources of a region on a core place the MARK: its open read streams before their next element, and the queues
that its control threads produce, mailbox queues apart. -/
def sourcesMark (rid id : Nat) (s : State) (core : Nat) : State :=
  let s := { s with sm.streams := s.sm.streams.map (fun x =>
    if x.1 / 256 == core && x.2.isOpen && x.2.rid == rid && (x.2.dir == 0 || x.2.dir == 3) then (x.1, { x.2 with mark := some id }) else x) }
  (ridQueues s rid (· == core)).foldl (fun s q =>
    if q.2.prod == .threads && !mailboxOn s core (q.1 % 64) true then qMarker s core (q.1 % 64) [ctlTok q.2.ch 6 id] else s) s

/-- Start the bookkeeping of a wave: sets without an open add stream have seen the MARK, and contexts at a block boundary
give their snapshots; `me` is the issuing context, whose snapshot comes with its block's commit. -/
def waveOpen (s : State) (rid id : Nat) (me : Option Nat) : State :=
  let r := regionOf s rid
  let on (c : Nat) : Bool := r.cores.contains c
  let s := regUpd s rid (fun r => { r with
    inFlight := true, waveId := id, cur := { (default : Snap) with taken := true, id := id, own := ridOwn s rid on } })
  let s := (ridSets s rid on).foldl (fun s a => setMark s (a.1 / 16) rid (a.1 % 16)) s
  (ctxsWhere s (fun c => c.rid == rid)).foldl (fun s x =>
    if some (ctxKey x.1 x.2) != me && atBoundary s x.1 x.2 then ctxSnap s x.1 x.2 else s) s

/-- A marker wave starts at the sources of some cores. -/
def waveStart (s : State) (rid id : Nat) (cores : List Nat) (me : Option Nat) : State :=
  cores.foldl (sourcesMark rid id) (waveOpen s rid id me)

/-! ### Completion (R386–R388) -/

def isMark (id : Nat) (t : FTok) : Bool := tokC t && tokCode t == 6 && tokArg t == id

/-- No MARK of the wave stands before a sink on a core. A view that control threads or a template read is a sink. -/
def coreClear (s : State) (rid id core : Nat) : Bool :=
  let g := (regionOf s rid).slot
  (s.fab.elems.filter (fun x => x.1 / 4096 == core)).all (fun x =>
    x.2.inq.all (fun q => q.2.all (fun t => !(isMark id t.tok && x.2.tokSlot t.tok == some g))) &&
      !(x.2.resSlot == g && x.2.res.any (isMark id))) &&
  !((s.eng.islands.at core).outRid == rid && (s.eng.islands.at core).outq.any (isMark id)) &&
  (ridStreams s rid (· == core)).all (fun x =>
    x.2.mark != some id && (id != 0xFFFFFF || x.2.autoAt.isNone) && !x.2.port.any (isMark id) && !x.2.inp.any (isMark id)) &&
  (ridQueues s rid (· == core)).all (fun x =>
    (id != 0xFFFFFF || x.2.autoAt.isNone) && x.2.viewList.all (fun v => decide (0x4000 ≤ x.2.cons.getD v 0) ||
      (let w := x.2.views.at v
       !w.ents.any (fun e => e.recs.any (fun r => r.toks.any (isMark id))) && !w.spill.any (fun r => r.toks.any (isMark id)))))

/-- The wave in flight of a region may complete. -/
def waveClear (s : State) (rid : Nat) : Bool :=
  let r := regionOf s rid
  r.inFlight && !r.want && !r.faulted && r.cores.all (coreClear s rid r.waveId) &&
    (ctxsWhere s (fun c => c.rid == rid)).all (fun x => r.cur.ctxs.any (fun y => y.1 == ctxKey x.1 x.2))

/-- The gate opens: gated copies of the wave and of earlier ones replace their committed bytes at the home L2, oldest
first, as a release of scope .f (R388). -/
def gateOpen (s : State) (rid : Nat) : State :=
  let w := (regionOf s rid).wave
  let (out, keep) := s.st.gated.partition (fun g => g.rid == rid && decide (g.wave ≤ w))
  out.reverse.foldl (fun s g => dramCommit s { hwActor 0 with asid := g.asid } g.pa [g.byte] false) { s with st.gated := keep }

/-- The bytes of an element's snapshot: st0 and st1 in 8 bytes each, then RWT and PH of each handler in 4 (R387). -/
def ElemSnap.bytes (n : ElemSnap) : List Byte :=
  leBytes 8 n.st0.toNat ++ leBytes 8 n.st1.toNat ++
    ((List.range 8).map (fun h => leBytes 4 ((n.rwt.getD h 0#24).toNat + (n.ph.getD h 0#8).toNat * 2 ^ 24))).flatten

/-- The parts of a core's snapshot block whose layout R387 gives: elements, queue views, ownership entries and sets (log
entry 13). -/
def snapBytes (n : Snap) (core : Nat) : List (Nat × List Byte) :=
  (n.elems.filter (fun x => x.1 / 4096 == core)).map (fun x => (48 * (x.1 % 4096), x.2.bytes)) ++
  ((n.queues.filter (fun x => x.1 / 64 == core)).map (fun x => x.2.viewList.map (fun v =>
    (0x35000 + 64 * (4 * (x.1 % 64) + v), ((List.range 8).map (fun i => leBytes 8 ((x.2.views.at v).word i).toNat)).flatten)))).flatten ++
  (n.own.filter (fun x => x.1 / 16 == core)).map (fun x =>
    (0x39000 + 64 * (x.1 % 16), leBytes 8 (x.2.word 0).toNat ++ leBytes 8 (x.2.word 1).toNat)) ++
  (n.sets.filter (fun x => x.1 / 16 == core)).map (fun x =>
    (0x39400 + 64 * (x.1 % 16), ((List.range 8).map (fun i => leBytes 8 (x.2.word i).toNat)).flatten))

/-- The parts of a core's block for which R387 gives a size and contents and no layout: those of contexts and of streams. Their bytes
are free values (log entry 13). -/
def snapOpen (n : Snap) (core : Nat) : List (Nat × Nat) :=
  (n.ctxs.filter (fun x => x.1 / 8 == core)).map (fun x => (0x30000 + 512 * (x.1 % 8), 512)) ++
  (n.streams.filter (fun x => x.1 / 256 == core)).map (fun x => (0x31000 + 64 * (x.1 % 256), 64))

/-- Write a snapshot's image into a part of the snapshot area, up to the first fault, which it answers with its core. -/
def snapWrite (s : State) (rid part : Nat) (n : Snap) : Option (MemFault × Nat) × State :=
  let r := regionOf s rid
  let put (c : Nat) (q : Option (MemFault × Nat) × State) (x : Nat × List Byte) : Option (MemFault × Nat) × State :=
    if q.1.isSome then q
    else
      let w := memWrite q.2 r.actor (r.snapBlock part c + x.1) x.2
      (w.1.map (fun f => (f, c)), w.2)
  r.cores.foldl (fun q c =>
    let q := (snapBytes n c).foldl (put c) q
    (snapOpen n c).foldl (fun q x =>
      let b := freeBytes x.2 q.2
      put c (q.1, b.2) (x.1, b.1)) q) (none, s)

/-- A marker wave completes: its snapshots stand in its half, HV flips, the gate opens, and log entries older than its
MARK go. Where a snapshot cannot be written, the region error of that access stands instead (R24, R386). -/
def waveDone (s : State) (rid : Nat) : State :=
  let r := regionOf s rid
  let half := r.half
  let w := snapWrite s rid half r.cur
  let s := w.2
  let h := memWrite s r.actor r.snapVa.toNat (leBytes 8 half ++ leBytes 8 r.waveId ++ leBytes 8 s.dev.gtsc.toNat)
  match w.1.orElse (fun _ => h.1.map (fun f => (f, r.cores.headD 0))) with
  | some f => f.1.raise s rid f.2
  | none =>
  let s := gateOpen h.2 rid
  let s := regUpd s rid (fun r => { r with
    hvC := half + 1, last := r.cur, cur := default, lastId := r.waveId, inFlight := false, wave := r.wave + 1, rollbacks := 0 })
  { s with
    sm.streams := s.sm.streams.map (fun x => if x.2.rid == rid then (x.1, { x.2 with marked := false }) else x)
    qu.queues := s.qu.queues.map (fun x => if x.2.v && x.2.rid == rid then (x.1, x.2.waveDone) else x) }

/-! ### The end of a region's work (R297) -/

/-- Is the work of a region on a core over but for its streams and its final wave? -/
def coreQuiet (s : State) (rid core : Nat) : Bool :=
  let g := (regionOf s rid).slot
  (slotElems s core g).all (fun e =>
    let x := s.fab.elems.at e
    x.seg != some g && x.inq.all (fun q => q.2.all (fun t => x.tokSlot t.tok != some g)) && ((x.res.isNone && x.emit.isEmpty) || x.resSlot != g)) &&
  !((s.eng.islands.at core).outRid == rid && !(s.eng.islands.at core).outq.isEmpty) &&
  !s.eng.copies.any (fun c => c.core == core && c.t.rid == rid) && !s.eng.colls.any (fun c => c.core == core && c.rid == rid) &&
  (List.range 8).all (fun x => (ctxOf s core x).rid != rid ||
    (let own := core * 8 + x + 1
     !s.eng.islands.any (fun i => (i.2.task.any (fun t => t.owner == own)) || i.2.wait.any (fun t => t.owner == own)) &&
       !s.rg.arb.any (fun d => d.2.any (fun e => e.tile && e.owner == own))))

/-- Is the work of a region on a core over but for its final wave? -/
def coreIdle (s : State) (rid core : Nat) : Bool := coreQuiet s rid core && (ridStreams s rid (· == core)).isEmpty

/-- Has a stream nothing left to perform at rdrain: a read stream as at its sclose, a write stream once what it has taken is performed? -/
def drainSettled (s : State) (core k : Nat) : Bool :=
  let t := streamOf s core k
  if t.dir = 0 || t.dir = 3 then !t.unsettled
  else
    (t.halted || t.chainBad || !(t.walking || !t.gather.isEmpty || decide (0 < t.farN) || t.inp.any (fun d => !tokC d) || t.addr.isSome)) &&
      !farWrites s core k

/-- The drain closes the streams left open on a core, each once its accesses are performed, after everything else there has ended (R291). -/
def drainStreams (s : State) (rid core : Nat) : State :=
  if !coreQuiet s rid core then s
  else (ridStreams s rid (· == core)).foldl (fun s x =>
    let s := streamSettle s core (x.1 % 256)
    if drainSettled s core (x.1 % 256) then streamShut s core (x.1 % 256) else s) s

/-- A region reaches DONE: its gate is open, its objects and slots go, and DONE is stored (R183, R184). -/
def regionDone (s : State) (rid : Nat) : State := setRst (regionClear (gateOpen s rid) rid) rid 4

/-! ### Rollback (R389) -/

/-- A context resumes as a snapshot holds it, at the block after its snapshot block. -/
def ctxRestore (s : State) (key : Nat) (c : Ctx) : State :=
  let core := key / 8
  let x := key % 8
  let n := ctxOf s core x
  if n.rid == c.rid || n.st == .free then
    let t := stamp (pendDrop (frameDrop s core x) core x)
    let st : CtxSt := if c.st == .wait || c.st == .parked then c.st else .ready
    ctxUpd t.2 core x (fun _ => { c with st := st, wcode := if st == .ready then 0 else c.wcode, since := t.1 })
  else s

/-- A part of the snapshot area that a rollback cannot read: a word is poisoned, or a page fails translation, which is a region error
during the rollback (R24, R384). -/
def rangeUnread (s : State) (r : Region) (va : Nat) : Bool :=
  (List.range 16).any (fun i =>
    let x := (translate s r.actor (BitVec.ofNat 64 (va + i * 0x10000)) .load 8).1
    x.st != .ok || s.st.poison.any (fun p => decide (x.pa ≤ p) && decide (p < x.pa + 0x10000)))

/-- The elements, streams, queues, ownership entries and accumulators of a region return to a snapshot. -/
def objectsRestore (s : State) (rid : Nat) (n : Snap) (first : Bool) : State :=
  let r := regionOf s rid
  let on (c : Nat) : Bool := r.cores.contains c
  let t := stamp s
  let s := t.2
  let s := r.cores.foldl (fun s c => (slotElems s c r.slot).foldl (fun s e => elemUpd s e (fun x =>
    let x := x.still r.slot
    if first then (if r.goCores.contains c then x.start r.slot t.1 else x)
    else match n.elems.find? (fun y => y.1 == e) with
      | some y => x.restore r.slot y.2
      | none => { (x.start r.slot t.1) with inq := x.inq })) s) s
  let s := (ridStreams s rid on).foldl (fun s x =>
    if n.streams.any (fun y => y.1 == x.1) then s
    else streamUpd s (x.1 / 256) (x.1 % 256) (fun _ => default)) s
  let back (t : Stream) : Stream := { t.fresh with
    port := [], inp := [], mark := none, autoAt := none, marked := false, halted := false
    walking := false, cin := 0, cout := 0 }
  let again (k : Nat) (d : Queue) : Queue :=
    let old := n.queues.at k
    { d with opens := [], autoAt := none, views := d.views.map (fun v => (v.1, v.2.rollback (old.views.at v.1))) }
  let s : State := { s with
    sm.streams := mapPuts s.sm.streams (n.streams.map (fun x => (x.1, back x.2)))
    sm.own := mapPuts s.sm.own (n.own.filter (fun x => (s.sm.own.at x.1).v && (s.sm.own.at x.1).asid == x.2.asid))
    eng.far := s.eng.far.filter (fun f => !(f.rid == rid && f.read && on f.core))
    xl.walks := s.xl.walks.filter (fun w => !(on w.core && (streamOf s w.core w.strm).rid == rid))
    qu.queues := s.qu.queues.map (fun x => if x.2.v && x.2.rid == rid then (x.1, again x.1 x.2) else x)
    ac.sets := mapPuts s.ac.sets (n.sets.filter (fun x => (s.ac.sets.at x.1).v && (s.ac.sets.at x.1).rid == rid)) }
  let free := n.rows.map (fun x => (x.1, { x.2 with hold := 0 }))
  if first then
    let rows := s.ac.rows.filter (fun x => !((s.ac.sets.at (x.1 / 65536)).v && (s.ac.sets.at (x.1 / 65536)).rid == rid))
    { s with ac.rows := mapPuts rows free }
  else { s with ac.rows := mapPuts s.ac.rows free }

/-- The automatic wave after a GATEFULL rollback: each source places its MARK at the midpoint between its snapshot
position and the position it had reached (R388). -/
def autoWave (s : State) (rid : Nat) (streams : SMap Stream) (queues : SMap Queue) : State :=
  let s := waveOpen s rid 0xFFFFFF none
  { s with
    sm.streams := s.sm.streams.map (fun x =>
      if x.2.isOpen && x.2.rid == rid && (x.2.dir == 0 || x.2.dir == 3) then
        (x.1, { x.2 with autoAt := some ((x.2.pos + (streams.at x.1).pos) / 2) })
      else x)
    qu.queues := s.qu.queues.map (fun x =>
      if x.2.v && x.2.rid == rid && x.2.prod == .threads then
        (x.1, { x.2 with autoAt := some (((queues.at x.1).views.at 0).ord / 2) })
      else x) }

/-- Did some source of a region advance since its snapshot? -/
def sourceMoved (s : State) (rid : Nat) (n : Snap) : Bool :=
  (ridStreams s rid (fun _ => true)).any (fun x => (x.2.dir == 0 || x.2.dir == 3) && decide ((n.streams.at x.1).pos < x.2.pos)) ||
  (ridQueues s rid (fun _ => true)).any (fun x => x.2.prod == .threads && decide (0 < (x.2.views.at 0).ord))

/-- Rollback of a region to its last complete wave, or to its start at rgo; `code` is the error that asks for it, 0 for
rroll, 0x100 for a segment that reached its budget (R393). It begins once every context of the region stands at a block boundary or is held, and the engine operations
already issued have ended (step 1 of R389), and no slot of it is halted (R395). -/
def regionRollback (s : State) (rid code : Nat) : State :=
  let r := regionOf s rid
  if rid = 0 || !r.want || r.faulted || rstEnded r.rst || r.cores.any (fun c => (s.rg.slots.at (slotIx c r.slot)).halted) ||
      (ctxsWhere s (fun c => c.rid == rid && c.st == .run)).length != 0 ||
      s.eng.copies.any (fun c => c.t.rid == rid && !c.sent) then s
  else
    let first := r.hvC == 0
    let n := if first then r.base else r.last
    if n.full || (!first && r.cores.any (fun c => rangeUnread s r (r.snapBlock (r.hvC - 1) c))) then contextFault s rid (code % 256) r.origin
    else
      let moved := sourceMoved s rid n
      let streams := ridStreams s rid (fun _ => true)
      let queues := ridQueues s rid (fun _ => true)
      let s := (ctxsWhere s (fun c => c.rid == rid && c.st == .held)).foldl (fun s x =>
        pendDrop (ctAbandon s x.1 x.2 .ready 0 0) x.1 x.2) s
      let s := r.cores.foldl (fun s c => feedsEnd (regionFlush s c rid) rid c) s
      let s := objectsRestore (gatedDrop s rid) rid n first
      let s := n.ctxs.foldl (fun s c => ctxRestore s c.1 c.2) s
      let s := regUpd s rid (fun r => { r with
        rbk := r.rbk + 1, want := false, inFlight := false, cur := default, autoMark := false
        rollbacks := if code = 0x100 || (code = 0x1F && moved) then r.rollbacks else r.rollbacks + 1
        drainCores := [], drained := [] })
      let s := { s with rg.slots := s.rg.slots.map (fun x => if x.2.rid == rid then
        (x.1, { x.2 with segN := 0, prog := s.dev.gtsc, prog2 := s.dev.gtsc }) else x) }
      let s := rcbStore s rid
      let s := eventRecord s 3 (code % 256) r.asid r.fd r.origin 0 r.rcba [0#64, 0#64, 0#64, r.loc.setWidth 64, BitVec.ofNat 64 r.lastId]
      let s := episodesTruncate s rid
      if r.autoMark then autoWave s rid streams queues else s

end Sys2Proof.Machine
end

