-- ==== Sys2Proof/Machine/Kill.lean ====
section
/-! DEFINITION. The kill of an ASID (R394, R179), the acknowledged clear of V (R11), and the completion of an
invalidation (R29). -/

namespace Sys2Proof.Machine

/-- How long a drain waits for a link: 500 µs (R11, R179). -/
def drainNs : Nat := 500000

/-- Is the drain of an ASID's accesses on the links, which began at a time, over (R179)? It waits, up to its bound, until every flit
of the ASID that a port keeps is acknowledged, and every request of its engines is answered. -/
def linksDrained (s : State) (asid : BitVec 8) (since : Word) : Bool :=
  !(s.lnk.ports.any (fun x => x.2.kept.any (fun h => h.asid == asid)) || s.eng.far.any (fun r => r.asid == asid) ||
    s.eng.copies.any (fun c => c.port.isSome && c.t.asid == asid)) || decide (drainNs ≤ (s.dev.gtsc - since).toNat)

/-- Step 1 of a kill: GEN increments; every context of the ASID stops, its block abandoned; writes that wait under the
old generation are dropped (R179, R394). -/
def killBegin (s : State) (asid : BitVec 8) : State :=
  let d := s.xl.asids.at asid.toNat
  let s := { s with xl.asids := s.xl.asids.set asid.toNat { d with gen := d.gen + 1#16 } }
  let s := (ctxsWhere s (fun c => c.asid == asid)).foldl (fun s x =>
    ctxUpd (ctxFree (blockUndo s x.1 x.2 (frameOf s x.1 x.2)) x.1 x.2) x.1 x.2 (fun c => { c with evf := false })) s
  { s with
    sm.coal := s.sm.coal.map (fun x => (x.1, x.2.filter (fun u => u.asid != asid)))
    st.banks := s.st.banks.map (fun x => (x.1, { x.2 with queue := x.2.queue.filter (fun p => p.asid != asid) })) }

/-- Objects of a killed ASID are cleared (R46, R58, R62, R123, R139, R288, R394, R411). A flit of it that a port still keeps for replay
goes out empty (R179). -/
def killObjects (s : State) (asid : BitVec 8) : State :=
  let s := episodesKill (tilesKill (zonesKill s asid) asid) asid
  let rows (k : Nat) : Bool := (s.ac.sets.at (k / 65536)).asid == asid
  { s with
    qu.queues := s.qu.queues.map (fun x => if x.2.asid == asid then (x.1, { x.2 with v := false }) else x)
    ac.rows := s.ac.rows.map (fun x => if rows x.1 then (x.1, { x.2 with shut := true }) else x)
    ac.sets := s.ac.sets.map (fun x => if x.2.asid == asid then (x.1, { x.2 with v := false }) else x)
    eng.rings := s.eng.rings.map (fun x => if x.2.asid == asid then (x.1, { x.2 with v := false }) else x)
    eng.tmpls := s.eng.tmpls.map (fun x => if x.2.asid == asid then (x.1, { x.2 with v := false, arm := false, held := 0 }) else x)
    eng.copies := s.eng.copies.filter (fun c => c.t.asid != asid)
    eng.far := s.eng.far.filter (fun r => r.asid != asid)
    lnk.ports := s.lnk.ports.map (fun x => (x.1, { x.2 with kept := x.2.kept.map (fun h => if h.asid == asid then { h with load := .none } else h) }))
    eng.colls := s.eng.colls.filter (fun c => c.asid != asid)
    eng.islands := s.eng.islands.map (fun x => (x.1, { x.2 with
      task := match x.2.task with
        | some t => if t.asid == asid then none else some t
        | none => none
      wait := x.2.wait.filter (fun t => t.asid != asid) }))
    sm.own := s.sm.own.map (fun x => if x.2.asid == asid then (x.1, { x.2 with v := false }) else x)
    sm.streams := s.sm.streams.map (fun x => if x.2.asid == asid then (x.1, default) else x)
    xl.wins := s.xl.wins.map (fun x => if x.2.asid == asid then (x.1, { x.2 with v := false }) else x)
    xl.walks := s.xl.walks.filter (fun r => r.asid != asid)
    st.cc := s.st.cc.map (fun x => if x.2.asid == asid then (x.1, { x.2 with lo.v := false, hi.v := false }) else x)
    st.gated := s.st.gated.filter (fun g => g.asid != asid)
    ctl.indet := s.ctl.indet.map (fun x => (x.1, x.2.filter (fun e => e.asid != asid)))
    rg.arb := s.rg.arb.map (fun x => (x.1, x.2.filter (fun e => !(e.tile && e.asid == asid)))) }

/-- The regions of a killed ASID reach KILLED. Word 6 and the DONE word are stored under the new generation, the
device's own writes (DEDUCED, log entry 23). -/
def killRegions (s : State) (asid : BitVec 8) : State :=
  ((s.rg.regions.filter (fun x => x.2.asid == asid && !rstEnded x.2.rst)).map (fun x => x.1 + 1)).foldl (fun s rid =>
    let s := regUpd s rid (fun r => { r with want := false, inFlight := false, gen := genOf s asid })
    setRst (regionKill s rid) rid 7) s

/-- Steps 4 and 5 of a kill. -/
def killEnd (s : State) (core x : Nat) (asid : BitVec 8) : State :=
  let s := killObjects s asid
  let s := killRegions s asid
  eventRecord s 6 0 asid 0#12 core x 0#55 []

/-- A command that was issued answers its status. -/
def pendAnswer (s : State) (w : PendOp) (v : Word) : State :=
  ctPerformed (pendEnd s w) w.core w.ctx w.ix (outsOf (targetsAt (frameOf s w.core w.ctx) w.ix) (some v))

/-- KILL_DRAIN_COMPLETE: every drain of the kill that a context waits for has been acknowledged (R394). -/
def execKillDrainComplete (s : State) : Out :=
  let core := s.sim.arg.core.toNat
  let x := s.sim.arg.ctx.toNat
  match pendOf s core x (· == .kill) with
  | none => .next s
  | some w =>
    if !linksDrained s (w.a.setWidth 8) w.time then .next s
    else .next (pendAnswer (killEnd s core x (w.a.setWidth 8)) w 0#64)

/-- The invalidation that inval's operands name. -/
def invKind (l r : Word) : InvKind :=
  match (l.extractLsb' 0 2).toNat with
  | 0 => .page (l.extractLsb' 8 8) (r.setWidth 39)
  | 1 => .asid (l.extractLsb' 8 8)
  | 2 => .tenant (l.extractLsb' 16 6)
  | _ => .all

/-- INVALIDATION_COMPLETE: every access that was translated through a removed entry is performed, here and at receiving ports, and
the inval that waits returns (R29). -/
def execInvalidationComplete (s : State) : Out :=
  let core := s.sim.arg.core.toNat
  let x := s.sim.arg.ctx.toNat
  match pendOf s core x (· == .inval) with
  | none => .next s
  | some w => .next (if farOut s ((invKind w.a w.va).asids s) then s else pendAnswer (drainWrites s) w 0#64)

/-- Does a store translated under an ASID wait for the commit of its block? -/
def storesUnder (s : State) (asid : BitVec 8) : Bool :=
  s.ctl.frames.any (fun x => x.2.own != 0 && x.2.stores.any (fun p => !p.tile) &&
    (s.ctl.ctxs.at (x.1 / 4 * 8 + (x.2.own - 1))).asid == asid)

/-- ASID_DISABLE_DRAINED: the write that cleared V of ASID `asid` is acknowledged, once every access translated before
it has been performed, on the links after 500 µs at the latest (R11). -/
def execAsidDisableDrained (s : State) : Out :=
  let i := s.sim.arg.asid.toNat
  let d := s.xl.asids.at i
  if !d.clearing || storesUnder s s.sim.arg.asid then .next s
  else if farOut s (· == s.sim.arg.asid) && !linksDrained s s.sim.arg.asid d.since then .next s
  else
    let s := drainWrites s
    .next { s with xl.asids := s.xl.asids.set i { d with clearing := false } }

end Sys2Proof.Machine
end

