-- ==== Sys2Proof/Machine/CtSystem.lean ====
section
/-! DEFINITION. Control-thread system instructions (R313, R314): traps, system registers, time, contexts, invalidation,
kill and the dirty-page snapshot. -/

namespace Sys2Proof.Machine

/-- A privileged form that is no command: under another ASID than 0 it faults PRIV (R282). -/
def ctPriv (s : State) (p : BitVec 2) (left right : Bool) (ts : List (BitVec 9))
    (k : Nat → Nat → Nat → Word → Word → State) : State :=
  ctForm s p left right ts fun core x ix a b =>
    if (ctxOf s core x).asid != 0#8 then ctFault (ctFired s core x ix) core x (dataFlt 0x1B ix) else k core x ix a b

/-- TRAP: a software trap of class TRAP at commit, with L as its code. -/
def execTrap (p : BitVec 2) (s : State) : Out :=
  .next (ctForm s p true false [] fun core x ix a _ => ctDone (atCommit s core x ix (.trap 4 a)) core x ix none [])

/-- SYSC: as trap, class SYSC. -/
def execSysc (p : BitVec 2) (s : State) : Out :=
  .next (ctForm s p true false [] fun core x ix a _ => ctDone (atCommit s core x ix (.trap 5 a)) core x ix none [])

/-- ERET: at commit, resumes a trapped context (R381). -/
def execEret (p : BitVec 2) (s : State) : Out :=
  .next (ctPriv s p true false [] fun core x ix a _ => ctDone (atCommit s core x ix (.eret a)) core x ix none [])

/-- HALT: at commit, the context becomes FREE. -/
def execHalt (p : BitVec 2) (s : State) : Out :=
  .next (ctForm s p false false [] fun core x ix _ _ => ctDone (atCommit s core x ix .halt) core x ix none [])

/-- BRK: at commit, halts the region for an attached debugger; without one, a trap of class BRK. -/
def execBrk (p : BitVec 2) (s : State) : Out :=
  .next (ctForm s p false false [] fun core x ix _ _ => ctDone (atCommit s core x ix .brk) core x ix none [])

/-- CTXID as a word (R13). -/
def Ctx.ctxid (c : Ctx) : Word := BitVec.ofNat 64 (c.gen.toNat * 2 ^ 16 + c.ten.toNat * 2 ^ 8 + c.asid.toNat)

/-- The value of a system register (R313). -/
def sysRead (s : State) (core x n : Nat) : Word :=
  let c := ctxOf s core x
  match n with
  | 0 => s.dev.gtsc
  | 1 => c.ctxid
  | 2 => c.modef.setWidth 64
  | 3 => c.astat
  | 4 => (s.dev.talw.at core).setWidth 64
  | _ => c.flt (n - 8)

/-- A system register is written, its reserved bits ignored (R98, R256, R377); PV is written as it comes (DESIGN CHOICE, log entry 62). -/
def sysWrite (s : State) (core x n : Nat) (v : Word) : State :=
  ctxUpd s core x (fun c => match n with
    | 2 => { c with modef := v.setWidth 6 }
    | 3 => { c with astat := v &&& 0xFFF0000000FFFFFF#64 }
    | 8 => { c with flt0 := v &&& 0xFFFFFFFF00000000#64 }
    | 9 => { c with flt1 := v &&& 0x007FFFFFFFFFFFFF#64 }
    | 10 => { c with flt2 := v }
    | 11 => { c with flt3 := v }
    | _ => c)

/-- RDSR: reads a system register at firing. -/
def execRdsr (p : BitVec 2) (t : BitVec 9) (r : BitVec 8) (s : State) : Out :=
  .next (ctForm s p false false [t] fun core x ix _ _ => ctDone s core x ix none [(0, t, some (sysRead s core x r.toNat))])

/-- WRSR: writes a system register at commit. -/
def execWrsr (p : BitVec 2) (t : BitVec 9) (r : BitVec 8) (s : State) : Out :=
  .next (ctForm s p true false [t] fun core x ix a _ =>
    ctDone (atCommit s core x ix (.wrsr r.toNat a)) core x ix none [(0, t, some 0#64)])

/-- RDTIME: GTSC at firing. -/
def execRdtime (p : BitVec 2) (t : BitVec 9) (u : BitVec 9) (s : State) : Out :=
  .next (ctForm s p false false [t, u] fun core x ix _ _ => ctDone s core x ix none (outsOf [t, u] (some s.dev.gtsc)))

/-- IDLE: at commit, waits for the event flag or for L mc. -/
def execIdle (p : BitVec 2) (t : BitVec 9) (u : BitVec 9) (s : State) : Out :=
  .next (ctPriv s p true false [t, u] fun core x ix a _ =>
    ctDone (atCommit s core x ix (.idle a)) core x ix none (outsOf [t, u] (some 0#64)))

/-- A context without a region starts: READY at the block that `r` names (R314). -/
def ctxSet (s : State) (core x : Nat) (asid : BitVec 8) (r : Word) : State :=
  let d := s.xl.asids.at asid.toNat
  let t := stamp s
  ctxUpd t.2 core x (fun c => { c with
    st := .ready, gen := d.gen, ten := d.ten, asid := asid, h := [], modef := 0#6, link := [], evf := false
    blk := r.setWidth 55, blkHi := r.extractLsb' 55 9, exitIx := 0, depth := 0, rcba := 0#55, rid := 0
    wcode := 0, widx := 0, resume := none, since := t.1 })

/-- SETCTX: sets a FREE context of the core from a descriptor and starts it. -/
def execSetctx (p : BitVec 2) (t : BitVec 9) (u : BitVec 9) (s : State) : Out :=
  .next (ctCommand s p true true true [t, u] fun core x ix l r =>
    let asid := l.extractLsb' 0 8
    let y := (l.extractLsb' 8 3).toNat
    let fin (v : Tok) (s : State) : State := ctPerformed s core x ix (outsOf [t, u] v)
    if l.extractLsb' 11 53 != 0#53 then fin none s
    else if (ctxOf s core y).st != .free then fin (some 1#64) s
    else if asid = 0#8 || !(s.xl.asids.at asid.toNat).v then fin (some 2#64) s
    else fin (some 0#64) (ctxSet s core y asid r))

/-- INVAL: removes translation entries and holds the context until the invalidation is complete (R29). The virtual page
is its number VA[54:16] (DEDUCED, log entry 23). -/
def execInval (p : BitVec 2) (t : BitVec 9) (u : BitVec 9) (s : State) : Out :=
  .next (ctCommand s p true true true [t, u] fun core x ix l r =>
    let page := l.extractLsb' 0 2 == 0#2
    if l.extractLsb' 2 6 != 0#6 || l.extractLsb' 22 42 != 0#42 || (page && r.extractLsb' 39 25 != 0#25) then
      ctPerformed s core x ix (outsOf [t, u] none)
    else
      let s := pendIssue (setIrrev (invalidate s (invKind l r)) core x) core x ix .inval 0 0 l 0#64 r
      pushEv s .invalidationComplete { (default : EvArg) with core := BitVec.ofNat 8 core, ctx := BitVec.ofNat 3 x })

/-- KILL: begins the kill of an ASID and holds the context until every drain is acknowledged (R394). -/
def execKill (p : BitVec 2) (t : BitVec 9) (u : BitVec 9) (s : State) : Out :=
  .next (ctCommand s p true false true [t, u] fun core x ix l _ =>
    let fin (v : Tok) (s : State) : State := ctPerformed s core x ix (outsOf [t, u] v)
    if l.extractLsb' 8 56 != 0#56 then fin none s
    else if l = 0#64 || !(s.xl.asids.at l.toNat).v then fin (some 1#64) s
    else
      let s := pendIssue (setIrrev (killBegin s (l.setWidth 8)) core x) core x ix .kill 0 0 l 0#64 0#64
      pushEv s .killDrainComplete { (default : EvArg) with core := BitVec.ofNat 8 core, ctx := BitVec.ofNat 3 x })

/-- One word of a tenant's dirty bitmap is returned and cleared, and every entry that grants W for its pages is removed
(R33). A word that cannot be read has no stated value. -/
def dirtySnap (s : State) (ten w : Nat) : Word × State :=
  let d := s.xl.dirty.at ten
  let pa := d.base.toNat * 0x10000 + 8 * w
  let a := hwActor 0
  let lo := d.vlo.toNat + 64 * w
  let r := performRead s a .wb pa 8
  let v : Word × State := match r.1 with
    | .ok bs => (leWord bs, r.2)
    | _ => free r.2
  let s := (performWrite v.2 a .wb pa (leBytes 8 0)).2
  let hit (l : Tlb) : Bool :=
    l.w && (s.xl.asids.at l.asid.toNat).ten == BitVec.ofNat 6 ten &&
      (if l.big then decide (lo / 8192 ≤ l.vpn.toNat / 8192) && decide (l.vpn.toNat / 8192 ≤ (lo + 63) / 8192)
       else decide (lo ≤ l.vpn.toNat) && decide (l.vpn.toNat < lo + 64))
  (v.1, drainWrites (tlbRemove s hit (fun b => (s.xl.asids.at b.toNat).ten == BitVec.ofNat 6 ten)))

/-- DSNAP: a word of a tenant's dirty bitmap (R33). It is held until no access of the tenant that has left the module is unanswered,
so that every write through a removed entry has been performed when it completes. -/
def execDsnap (p : BitVec 2) (t : BitVec 9) (u : BitVec 9) (s : State) : Out :=
  .next (ctCommand s p true true true [t, u] fun core x ix l r =>
    let d := s.xl.dirty.at l.toNat
    if l.extractLsb' 6 58 != 0#58 || !d.on || decide (d.npg.toNat ≤ r.toNat * 64) then ctPerformed s core x ix (outsOf [t, u] none)
    else if farOut s (fun b => (s.xl.asids.at b.toNat).ten == l.setWidth 6) then ctHold s core x 0 0
    else
      let y := dirtySnap s l.toNat r.toNat
      ctPerformed y.2 core x ix (outsOf [t, u] (some y.1)))

end Sys2Proof.Machine
end

