-- ==== Sys2Proof/Machine/Block.lean ====
section
/-! DEFINITION. Blocks of control threads: frames (R190, R191), fetch and block-load checks (R205, R207), commit (R208), and
the release of contexts that wait (R278, R281). -/

namespace Sys2Proof.Machine

/-! ### Frames (R191) -/

/-- Effective PRI of a context: its region's, or 0 without a region. -/
def ctxPri (s : State) (c : Ctx) : Nat := if c.rid = 0 then 0 else (regionOf s c.rid).pri

/-- Does a context's region keep it at its block boundary: a rollback, a context fault, a pre-emption or a debugger halt? The end of
the region does not: its contexts go on until they halt (R192). -/
def ctxBarred (s : State) (core : Nat) (c : Ctx) : Bool :=
  c.rid != 0 &&
    (let r := regionOf s c.rid
     let g := s.rg.slots.at (slotIx core r.slot)
     r.want || r.faulted || (g.rid == c.rid && (g.halted || g.preempt)))

/-- The contexts of a core that are READY. -/
def readyCtxs (s : State) (core : Nat) : List Nat :=
  (List.range 8).filter (fun x => (ctxOf s core x).st == .ready && !ctxBarred s core (ctxOf s core x))

/-- Does one READY context go before another (R191)? -/
def ctxBefore (s : State) (core x y : Nat) : Bool :=
  let a := ctxOf s core x
  let b := ctxOf s core y
  let p := ctxPri s a
  let q := ctxPri s b
  decide (q < p) || (p == q && (decide (a.since < b.since) || (a.since == b.since && decide (x < y))))

/-- The READY context that a frame goes to. -/
def readyFirst (s : State) (core : Nat) : Option Nat :=
  (readyCtxs s core).foldl (fun o x => match o with
    | none => some x
    | some y => if ctxBefore s core x y then some x else some y) none

/-- The lowest free frame of a core. -/
def frameFree (s : State) (core : Nat) : Option Nat :=
  (List.range 4).find? (fun f => (s.ctl.frames.at (frameKey core f)).own == 0)

/-- A frame that waits for its context's next block. -/
def Frame.empty (x : Nat) : Frame := { (default : Frame) with own := x + 1 }

/-- FRAME_ALLOCATE: a free frame of a core goes to a READY context (R191). -/
def execFrameAllocate (s : State) : Out :=
  let core := s.sim.arg.core.toNat
  match frameFree s core, readyFirst s core with
  | some f, some x =>
    let s := { s with ctl.frames := s.ctl.frames.set (frameKey core f) (Frame.empty x) }
    .next (ctxUpd s core x (fun c => { c with st := .run, frm := f, wcode := 0, widx := 0 }))
  | _, _ => .next s

/-- 256 mc (R191), in ns. -/
def surrenderNs : Nat := 320

/-- May a HELD block give up its frame (R191)? A block that holds for the completion of an instruction stays (R281). -/
def maySurrender (s : State) (core x : Nat) : Bool :=
  let c := ctxOf s core x
  let f := frameOf s core x
  c.st == .held && f.own == x + 1 && decide (f.heldFor + surrenderNs ≤ s.dev.gtsc.toNat) && !(readyCtxs s core).isEmpty &&
    !mustCommit s core x && c.resume.isNone && Hdr.kind f.hdr != 2 && c.wcode != 7 &&
    !s.ctl.pend.any (fun p => p.core == core && p.ctx == x)

/-- FRAME_SURRENDER: a HELD block is abandoned, and its context is READY (R191). -/
def execFrameSurrender (s : State) : Out :=
  let core := s.sim.arg.core.toNat
  let x := s.sim.arg.ctx.toNat
  .next (if maySurrender s core x then ctAbandon s core x .ready 0 0 else s)

/-- The context leaves its frame and is READY, with its next block to come. -/
def ctxYield (s : State) (core x : Nat) : State :=
  let t := stamp (frameDrop s core x)
  ctxUpd t.2 core x (fun c => { c with st := .ready, wcode := 0, widx := 0, since := t.1 })

/-! ### Fetch (R205, R207, R249) -/

/-- A fetch fault. -/
def fetchFlt (code xst ix : Nat) (va : Word) : Flt := { cls := 1, code := code, xst := xst, idx := ix, addr := va }

/-- Read the bytes of a word of a block, or the fault of check 1; a poisoned word is a POISON fault (R50). -/
def fetchBytes (s : State) (core x ix : Nat) (blk va : Word) (n : Nat) : Except Flt (List Byte) × State :=
  let r := readRange (ctxActor core (ctxOf s core x)) .fetch (n / 128 + 2) va n s
  match r.1 with
  | .inr bs => (.ok bs, r.2)
  | .inl f => match f.kind with
    | .poison => (.error (addrFlt 0x13 ix blk), r.2)
    | _ => (.error (fetchFlt 0x10 f.st.code (if f.va == blk then 64 else ((f.va - blk).toNat / 4) - 1) blk), r.2)

/-- 4-byte words of a byte list. -/
def halfWords : Nat → List Byte → List (BitVec 32)
  | 0, _ => []
  | n + 1, bs => BitVec.ofNat 32 (leNat (bs.take 4)) :: halfWords n (bs.drop 4)

/-- Fetch and check a block: its header and words, or the fault that keeps it from starting. -/
def blockRead (s : State) (core x : Nat) (blk : Word) : Except Flt (BitVec 32 × List (BitVec 32)) × State :=
  if blk.toNat % 4 != 0 then (.error (fetchFlt 0x11 0 64 blk), s)
  else
    let h := fetchBytes s core x 64 blk blk 4
    match h.1 with
    | .error f => (.error f, h.2)
    | .ok hb =>
      let hdr := BitVec.ofNat 32 (leNat hb)
      let n := Hdr.ni hdr + 1
      let w := fetchBytes h.2 core x 0 blk (blk + 4#64) (4 * n)
      match w.1 with
      | .error f => (.error f, w.2)
      | .ok wb =>
        let ws := halfWords n wb
        match blockCheck hdr ws with
        | none => (.ok (hdr, ws), w.2)
        | some (cause, ix) =>
          let cls := if cause == .csum then 1 else 2
          (.error { cls := cls, code := cause.code, xst := 0, idx := ix, addr := blk }, w.2)

/-- The address that named a context's block, all 64 bits of it. -/
def Ctx.blkAddr (c : Ctx) : Word := c.blkHi ++ c.blk

/-- BLOCK_FETCH: a context's block is fetched and checked before it starts; a failure traps the context (R205, R207). The block begins
with an acquire of scope .m where the context owes one (R178, R278). A context that must stop at the boundary gives up its frame
instead. -/
def execBlockFetch (s : State) : Out :=
  let core := s.sim.arg.core.toNat
  let x := s.sim.arg.ctx.toNat
  let c := ctxOf s core x
  let f := frameOf s core x
  if c.st != .run || f.own != x + 1 || f.loaded then .next s
  else if ctxBarred s core c then .next (ctxYield s core x)
  else
    let s := if c.acq then ctxUpd (acquire s core 3) core x (fun c => { c with acq := false }) else s
    let r := blockRead s core x c.blkAddr
    match r.1 with
    | .error e => .next (takeTrap r.2 core x e c.blk none)
    | .ok (hdr, ws) =>
      .next { r.2 with ctl.frames := r.2.ctl.frames.set (frameKey core c.frm) { Frame.empty x with loaded := true, hdr := hdr, words := ws } }

/-! ### Waiting contexts (R200, R278, R281, R314) -/

/-- A context becomes READY. -/
def ctxReady (s : State) (core x : Nat) : State :=
  let t := stamp s
  ctxUpd t.2 core x (fun c => { c with st := .ready, wcode := 0, widx := 0, deadline := 0#64, since := t.1 })

/-- WAIT_RELEASE: a context whose condition holds becomes READY: a wfe or idle takes its event and its next block begins
with an acquire of scope .m; a parked launch holds the slot that came free for it. -/
def execWaitRelease (s : State) : Out :=
  let core := s.sim.arg.core.toNat
  let x := s.sim.arg.ctx.toNat
  let c := ctxOf s core x
  if c.st == .wait && c.wcode != 0 then
    if !waitHolds s core x then .next s
    else if c.wcode = 11 && c.widx = 0 then
      .next (ctxReady (ctxUpd s core x (fun c => { c with evf := false, acq := true })) core x)
    else .next (ctxReady s core x)
  else if c.st == .parked then
    let kind := poolFree s (core / 64) c.ten (c.depth + 1) (ctxKey core x)
    if kind = 0 || !poolFirst s core x then .next s
    else .next (ctxReady { s with rg.poolHold := s.rg.poolHold ++ [(heapKey (core / 64) c.ten, kind, ctxKey core x)] } core x)
  else .next s

/-- IDLE_TIMEOUT: the L mc of an idle have passed (R314). -/
def execIdleTimeout (s : State) : Out :=
  let core := s.sim.arg.core.toNat
  let x := s.sim.arg.ctx.toNat
  let c := ctxOf s core x
  if c.st == .wait && c.wcode = 11 && c.deadline != 0#64 && decide (c.deadline.toNat ≤ s.dev.gtsc.toNat) then
    .next (ctxReady s core x)
  else .next s

/-! ### Commit (R208) -/

/-- What an exit does to the link stack. -/
inductive ExitKind
  | plain
  | push
  | pop
  deriving DecidableEq, Repr, Inhabited

def Frame.exitKind (f : Frame) (ix : Nat) : ExitKind :=
  match f.instr ix with
  | some (.call ..) => .push
  | some (.callt ..) => .push
  | some (.ret ..) => .pop
  | _ => .plain

/-- Index of the exit that the instruction at an index names. -/
def Frame.exitIndex (f : Frame) (ix : Nat) : Nat :=
  match f.instr ix with
  | some i => (match i.form with
    | some m => (match m.exit with
      | some e => e.toNat
      | none => 0)
    | none => 0)
  | none => 0

/-- The next block and link stack that an exit gives, or its link fault (R247). -/
structure NextBlk where
  addr : Word
  link : List (BitVec 55)
  flt : Option Flt
  deriving DecidableEq, Repr, Inhabited

def exitOutcome (c : Ctx) (f : Frame) (ix : Nat) (tgt : Word) : NextBlk :=
  match f.exitKind ix with
  | .plain => { addr := tgt, link := c.link, flt := none }
  | .push =>
    if 32 ≤ c.link.length then { addr := tgt, link := c.link, flt := some (dataFlt 0x19 ix) }
    else { addr := tgt, link := (c.blkAddr + BitVec.ofNat 64 (4 * (Hdr.ni f.hdr + 2))).setWidth 55 :: c.link, flt := none }
  | .pop => match c.link with
    | [] => { addr := 0#64, link := [], flt := some (dataFlt 0x1A ix) }
    | a :: r => { addr := a.setWidth 64, link := r, flt := none }

/-- The fabric token that a queue-handle write sends: C only on a code of R223 (R225). -/
def queueTok (v : Word) : FTok :=
  let t : FTok := v.setWidth 48
  if tokC t && !(decide (1 ≤ tokCode t) && decide (tokCode t ≤ 10)) then t &&& 0x7FFFFFFFFFFF#48 else t

/-- One queue-handle write: a context that is not the queue's producer writes nothing (R62, R225). -/
def queueWrite (core x : Nat) (s : State) (n : Nat) (v : Word) : State :=
  let d := s.qu.queues.at (queueKey core n)
  let c := ctxOf s core x
  if d.v && d.asid == c.asid && isProducer s core n c.rid then progress (qToken s core n x (queueTok v)).2 core d.rid else s

/-- The queue-handle writes of a block: ascending instruction index, T0 before T1. -/
def queueWrites (core x : Nat) (ws : List (Nat × Nat × Nat × Tok)) (s : State) : State :=
  ((List.range 64).map (fun ix => (List.range 2).map (fun pos => ws.filter (fun w => w.1 == ix && w.2.1 == pos)))).flatten.flatten.foldl
    (fun s w => match w.2.2.2 with
      | some v => queueWrite core x s w.2.2.1 v
      | none => s) s

/-- Hold writes that carry a value, then what a fills has loaded (R208, R264). -/
def holdWrites (f : Frame) (h : SMap Word) : SMap Word :=
  let h := f.holds.foldl (fun h w => match w.2 with
    | some v => h.set w.1 v
    | none => h) h
  f.commits.foldl (fun h e => match e.2 with
    | .fill r v => h.set r v
    | _ => h) h

/-- The value of ASTAT that the accesses of a block leave: the one of the highest LSID (R256). -/
def astatOf (f : Frame) (old : Word) : Word :=
  (f.commits.foldl (fun (o : Nat × Word) e => match e.2 with
    | .astat l v => if o.1 ≤ l + 1 then (l + 1, v) else o
    | _ => o) (0, old)).2

/-- The effects of a block in ascending instruction index. -/
def commitOrder (f : Frame) : List (Nat × AtCommit) :=
  ((List.range 64).map (fun ix => f.commits.filter (fun e => e.1 == ix))).flatten

/-- An effect at commit that leaves the context's own state alone. -/
def commitEffect (core x : Nat) (s : State) (e : AtCommit) : State :=
  match e with
  | .stt k => tileDone s core k
  | .sev tc tx => eventTo (release s core 3) tc tx
  | .eret l => returnTrap s core x l
  | .wrsr n v => sysWrite s core x n v
  | .qpush n => qEnd s core n x
  | .qadv n view k => viewAdvance s core n view k
  | .rrel i n =>
    { s with eng.rings := s.eng.rings.upd (ringKey core i) (fun r => { r with rd := r.rd + BitVec.ofNat 32 (min n r.avail) }) }
  | .sseek k n => streamSeek s core k n
  | .shand o => handOver s core o
  | .schnext => schedStep s core x
  | _ => s

/-- The context waits for its event flag without a frame (R278, R314). -/
def ctxSleep (s : State) (core x : Nat) (deadline : Word) : State :=
  ctxUpd (frameDrop s core x) core x (fun c => { c with st := .wait, wcode := 11, widx := 0, deadline := deadline })

/-- GTSC after a count of mc, or its last value where that lies beyond. -/
def mcLater (s : State) (l : Word) : Word := BitVec.ofNat 64 (min (2 ^ 64 - 1) (s.dev.gtsc.toNat + (l.toNat * 5 + 3) / 4))

/-- Does a debugger attached to a core's slot take a context's brk (R395)? -/
def brkAttached (s : State) (core : Nat) (c : Ctx) : Bool :=
  let d := s.ctl.dbga.at core
  d.v && c.rid != 0 && d.slot.toNat == (regionOf s c.rid).slot && slotRid s core d.slot.toNat == c.rid

/-- An effect at commit that changes the context's state. The first of a block that stops the context is the last. -/
def commitControl (core x : Nat) (s : State) (e : Nat × AtCommit) : State :=
  let c := ctxOf s core x
  if c.st != .run then s
  else match e.2 with
  | .trap cls l => takeTrap s core x { cls := cls, code := 0, xst := 0, idx := e.1, addr := l } c.blk none
  | .brk =>
    if brkAttached s core c then
      regTurn .debugHalt core 0 ((s.ctl.dbga.at core).word ||| (1#64 <<< 62)) (ctxYield s core x)
    else takeTrap s core x { cls := 6, code := 0, xst := 0, idx := e.1, addr := 0#64 } c.blk none
  | .halt => ctxFree s core x
  | .yield => if (readyCtxs s core).isEmpty then s else ctxYield s core x
  | .wfe => if c.evf then ctxUpd s core x (fun c => { c with evf := false, acq := true }) else ctxSleep s core x 0#64
  | .idle l =>
    if c.evf then ctxUpd s core x (fun c => { c with evf := false, acq := true })
    else if l = 0#64 then s
    else ctxSleep s core x (mcLater s l)
  | _ => s

/-- The frame of a context waits for its next block. -/
def frameClear (s : State) (core x : Nat) : State := frameUpd s core x (fun _ => Frame.empty x)

/-- Everything a block commits together (R208): stores, hold writes, queue writes, exit, and its other effects. -/
def blockCommit (s : State) (core x : Nat) (n : NextBlk) (ix : Nat) : State :=
  let f := frameOf s core x
  let s := storesBelow s core x 32
  let s := ctxUpd s core x (fun c => { c with h := holdWrites f c.h })
  let s := queueWrites core x f.qwrites s
  let s := ctxUpd s core x (fun c => { c with
    blk := n.addr.setWidth 55, blkHi := n.addr.extractLsb' 55 9, link := n.link, exitIx := f.exitIndex ix, resume := none
    astat := astatOf f c.astat, st := .run, wcode := 0, widx := 0 })
  let s := frameClear s core x
  let s := (commitOrder f).foldl (fun s e => commitEffect core x s e.2) s
  let s := poolDrop (progress s core (ctxOf s core x).rid) core x
  let s := match f.defer with
    | some e => takeTrap s core x e (ctxOf s core x).blk none
    | none => (commitOrder f).foldl (commitControl core x) s
  let s := if (ctxOf s core x).st == .run && Hdr.kind f.hdr == 1 &&
      (readyCtxs s core).any (fun y => decide (ctxPri s (ctxOf s core x) ≤ ctxPri s (ctxOf s core y))) then ctxYield s core x else s
  ctxBoundary s core x

/-- BLOCK_COMMIT: a block in which everything has arrived commits once its stores can be performed (R42, R43); a link-stack fault takes its place, or after an
irrevocable access waits for the boundary, naming the following block, which after an empty link stack no rule
states (R208, R247, R144). -/
def execBlockCommit (s : State) : Out :=
  let core := s.sim.arg.core.toNat
  let x := s.sim.arg.ctx.toNat
  let c := ctxOf s core x
  let f := frameOf s core x
  match f.exit with
  | none => .next s
  | some (ix, tgt) =>
    if !(c.st == .run || c.st == .held) || f.own != x + 1 || !f.loaded || !f.complete then .next s
    else
      let n := exitOutcome c f ix tgt
      match n.flt with
      | none => .next (storesReady s core x 32 (fun s => blockCommit s core x n ix))
      | some e =>
        if !mustCommit s core x then .next (takeTrap s core x e c.blk none)
        else
          let v := free s
          let n := if f.exitKind ix == .pop then { n with addr := v.1.setWidth 55 |>.setWidth 64 } else n
          .next (storesReady v.2 core x 32 (fun s => blockCommit (ctFault s core x e) core x n ix))

end Sys2Proof.Machine
end

