-- ==== Sys2Proof/Machine/Arbiter.lean ====
section
/-! DEFINITION. Pre-emption and the return from it (R391, R393), and each die's Arbiter (R192, R197, R440). -/

namespace Sys2Proof.Machine

/-! ### Saving a region (R391) -/

/-- Entries of a map that a predicate on keys selects. -/
def keysIn {α : Type} (m : SMap α) (p : Nat → Bool) : SMap α := m.filter (fun x => p x.1)

/-- Is every element of a region's slot at its segment boundary on a core? -/
def segmentClosed (s : State) (core g : Nat) : Bool := (slotElems s core g).all (fun e => (s.fab.elems.at e).seg != some g)

/-- May a region be saved now: every context at a block boundary or in a block that can be abandoned, every segment
ended, no rollback due, and no engine operation of it outstanding (R257, R391)? -/
def maySave (s : State) (rid : Nat) : Bool :=
  let r := regionOf s rid
  r.placed && !stopped s rid && r.cores.any (fun c => (s.rg.slots.at (slotIx c r.slot)).preempt) &&
    (ctxsWhere s (fun c => c.rid == rid)).all (fun x =>
      let c := ctxOf s x.1 x.2
      c.st != .run && (c.st != .held || !mustCommit s x.1 x.2)) &&
    r.cores.all (fun c => segmentClosed s c r.slot) &&
    !s.eng.copies.any (fun c => c.t.rid == rid) && !s.eng.colls.any (fun c => c.rid == rid) && !s.eng.far.any (fun f => f.rid == rid) &&
    !s.eng.islands.any (fun i => i.2.task.any (fun t => t.rid == rid) || i.2.wait.any (fun t => t.rid == rid))

/-- The running state of a region, as plain data. -/
def savedOf (s : State) (rid : Nat) : Saved :=
  let r := regionOf s rid
  let on (c : Nat) : Bool := r.cores.contains c
  let slots : SMap GSlot := r.cores.map (fun c => (slotIx c r.slot, s.rg.slots.at (slotIx c r.slot)))
  { here := true
    ctxs := s.ctl.ctxs.filter (fun x => x.2.st != .free && x.2.rid == rid)
    streams := s.sm.streams.filter (fun x => x.2.rid == rid)
    queues := ridQueues s rid on
    rings := s.eng.rings.filter (fun x => x.2.v && x.2.rid == rid)
    tmpls := s.eng.tmpls.filter (fun x => x.2.v && x.2.rid == rid)
    zones := s.zn.zones.filter (fun x => x.2.v && x.2.rid == rid)
    blks := s.zn.blks.filter (fun x => (s.zn.zones.at (x.1 / 64)).v && (s.zn.zones.at (x.1 / 64)).rid == rid)
    resv := (s.zn.resv.map (fun x => (x.1, x.2.filter (fun v => v.rid == rid)))).filter (fun x => !x.2.isEmpty)
    reorder := (s.zn.reorder.map (fun x => (x.1, x.2.filter (fun u =>
      (zoneOf s x.1 u.zone).v && (zoneOf s x.1 u.zone).rid == rid)))).filter (fun x => !x.2.isEmpty)
    sets := ridSets s rid on
    rows := ridRows s rid on
    tiles := s.st.tiles.filter (fun x => on (x.1 / 256) && x.2.isDef && x.2.asid == r.asid)
    own := ridOwn s rid on
    sched := s.rg.sched.filter (fun x =>
      let g := s.rg.slots.at (slotIx (x.1 / 64) r.slot)
      on (x.1 / 64) && decide (g.sfirst ≤ x.1 % 64) && decide (x.1 % 64 < g.sfirst + g.scnt))
    elems := s.fab.elems.filter (fun x => on (x.1 / 4096) && x.2.has r.slot)
    slots := slots
    banks := s.st.banks.filter (fun x => on (x.1 / 192) && (s.rg.slots.at (slotIx (x.1 / 192) r.slot)).allot.getLsbD (x.1 % 192)) }

/-- The parts of the save block for which R387 gives a place. -/
def Saved.snap (v : Saved) : Snap :=
  { (default : Snap) with
    ctxs := v.ctxs, streams := v.streams
    elems := v.elems.map (fun x => (x.1, x.2.snap)), queues := v.queues, own := v.own, sets := v.sets }

/-- A region leaves its cores with its running state saved; its zones, tile entries and banks stay resident until another region takes
the banks (R139), and it queues for its place again (DEDUCED, log entry 24). -/
def regionSave (s : State) (rid : Nat) : State :=
  let s := (ctxsWhere s (fun c => c.rid == rid && c.st == .held)).foldl (fun s x =>
    pendDrop (ctAbandon s x.1 x.2 .ready 0 0) x.1 x.2) s
  let s := (regionOf s rid).cores.foldl (fun s c => regionFlush s c rid) s
  let r := regionOf s rid
  let v := savedOf s rid
  let s := (snapWrite s rid 2 v.snap).2
  let s := v.ctxs.foldl (fun s x => ctxFree s (x.1 / 8) (x.1 % 8)) s
  let s := r.cores.foldl (fun s c => slotUnconf s c r.slot) s
  let gone {α : Type} (n : SMap α) (k : Nat) : Bool := n.any (fun y => y.1 == k)
  let s := { s with
    sm.streams := s.sm.streams.filter (fun x => x.2.rid != rid)
    sm.own := s.sm.own.filter (fun x => !gone v.own x.1)
    xl.walks := s.xl.walks.filter (fun w => !gone v.streams (streamKey w.core w.strm))
    qu.queues := s.qu.queues.filter (fun x => !gone v.queues x.1)
    eng.rings := s.eng.rings.filter (fun x => !gone v.rings x.1)
    eng.tmpls := s.eng.tmpls.filter (fun x => !gone v.tmpls x.1)
    ac.sets := s.ac.sets.filter (fun x => !gone v.sets x.1)
    ac.rows := s.ac.rows.filter (fun x => !gone v.rows x.1)
    rg.sched := s.rg.sched.filter (fun x => !gone v.sched x.1)
    rg.slots := s.rg.slots.filter (fun x => !gone v.slots x.1) }
  let s := regUpd s rid (fun r => { r with save := v, placed := false, inFlight := false, cur := default })
  let e : ArbEnt := {
    tile := false, rid := rid, words := [], asid := r.asid, pri := r.pri, stamp := r.stamp, dep := 0#64, ready := true, owner := 0 }
  setRst (arbAdd s r.die e) rid 6

/-- REGION_PREEMPT: region `n`, whose pre-emption was asked for, is saved at its segment boundary (R391). -/
def execRegionPreempt (s : State) : Out :=
  .next (if s.sim.arg.n != 0 && maySave s s.sim.arg.n then regionSave s s.sim.arg.n else s)

/-- Ask for the pre-emption of a region: its slots take no further segment and its contexts stop (R391). -/
def preemptAsk (s : State) (rid : Nat) : State :=
  let r := regionOf s rid
  { s with rg.slots := s.rg.slots.map (fun x => if x.2.rid == rid && r.placed then (x.1, { x.2 with preempt := true }) else x) }

/-- SEGMENT_BUDGET_EXPIRY: a segment of slot `unit` on a core has reached SEGB: the region rolls back, then it is saved. The
overrun is recorded as KIND 5 and is no region error (R186, R393). -/
def execSegmentBudgetExpiry (s : State) : Out :=
  let core := s.sim.arg.core.toNat
  let k := slotIx core (s.sim.arg.unit.toNat % 4)
  let g := s.rg.slots.at k
  let r := regionOf s g.rid
  if g.rid = 0 || !g.live || g.halted || g.segN = 0 || stopped s g.rid ||
      decide (4 * (s.dev.gtsc - g.segAt).toNat < 5 * r.segb.toNat) then .next s
  else
    let s := eventRecord s 5 r.err r.asid r.fd core 0 r.rcba [0#64, 0#64, 0#64, coreLoc core, BitVec.ofNat 64 r.waveId]
    let s := preemptAsk s g.rid
    let s := regUpd s g.rid (fun r => { r with want := true, inFlight := false })
    .next (pushFirst s .regionRollback { (default : EvArg) with n := g.rid, unit := 0x100#12 })

/-! ### Restoring a region (R391) -/

/-- An element takes back what a saved one held of a slot. Registers that no slot owns return where no other slot's
handler stands. -/
def Elem.merge (e v : Elem) (g : Nat) : Elem :=
  let sole := !e.act.any (fun h => h.2.present)
  let mine (t : QTok) : Bool := v.tokSlot t.tok == some g
  let hs := v.act.filter (fun h => h.2.present && handlerSlot h.2 == g)
  { e with
    act := mapPuts e.act hs
    chm := mapPuts e.chm (v.chm.filter (fun c => match v.bind c.1 with
      | some h => handlerSlot (v.act.at h) == g
      | none => false))
    qs := mapPuts e.qs (v.qs.filter (fun q => q.1 / 4 == g))
    itok := mapPuts e.itok (v.itok.filter (fun x => x.1 == g))
    inq := v.inq.foldl (fun m q => m.upd q.1 (fun ts => ts ++ q.2.filter mine)) e.inq
    res := if v.resSlot == g && v.res.isSome then v.res else e.res
    pend := if v.resSlot == g && v.res.isSome then v.pend else e.pend
    resSlot := if v.resSlot == g && v.res.isSome then g else e.resSlot
    enabled := e.enabled ||| (v.enabled &&& (1#4 <<< g))
    blocked := e.blocked ||| (v.blocked &&& (1#4 <<< g))
    k := if sole then v.k else e.k
    st0 := if sole then v.st0 else e.st0
    st1 := if sole then v.st1 else e.st1
    shad := if v.shv && v.shvSlot == g then v.shad else e.shad
    shadCh := if v.shv && v.shvSlot == g then v.shadCh else e.shadCh
    shadK := if v.shv && v.shvSlot == g then v.shadK else e.shadK
    shadQs := if v.shv && v.shvSlot == g then v.shadQs else e.shadQs
    shv := e.shv || (v.shv && v.shvSlot == g)
    shvSlot := if v.shv && v.shvSlot == g then g else e.shvSlot }

/-- May an element take back what a saved one held? -/
def Elem.fits (e v : Elem) (g : Nat) : Bool :=
  v.act.all (fun h => !(h.2.present && handlerSlot h.2 == g) || !(e.act.at h.1).present) &&
    v.chm.all (fun c => e.chm.at c.1 == 0) && (v.res.isNone || v.resSlot != g || e.res.isNone)

/-- Can a core take a region's slot now (R197, R192): the graph slot is free, a context is FREE where one is needed, and
the core is neither retired nor barred by its allowance (R398, R429)? -/
def coreOpen (s : State) (core : Nat) : Bool := !s.dev.retired.contains (BitVec.ofNat 16 core) && s.dev.talw.at core != 0#16

/-- The lowest FREE context of a core. -/
def ctxLowest (s : State) (core : Nat) : Option Nat := (List.range 8).find? (fun x => (ctxOf s core x).st == .free)

/-- A core takes a region of slot g: one with no FREE context counts as having no free slot, whether the region starts a control thread
there or not (R192). -/
def coreTakes (s : State) (core g : Nat) : Bool :=
  coreOpen s core && slotRid s core g == 0 && (ctxLowest s core).isSome

/-- A zone of a saved region loses its banks: every FILLING slot fails with ABORT (R139), and the zone, its slot blocks and its entries
stand in the save block alone. -/
def zoneAway (s : State) (core z : Nat) : State :=
  let d := zoneOf s core z
  let ks := List.range (d.ns1.toNat + 1)
  let s := ks.foldl (fun s k => if (slotEnt s core z k).st == .filling then slotFail s core z k 5 none else s) s
  let s := regUpd s d.rid (fun r => { r with save := { r.save with
    zones := r.save.zones.set (zoneKey core z) d
    blks := ks.foldl (fun m k => m.set (slotKey core z k) (blkOf s core z k)) r.save.blks
    tiles := ks.foldl (fun m k => m.set (tileKey core (slotTile d k)) (slotEnt s core z k)) r.save.tiles } })
  let s := ks.foldl (fun s k => tileUndefine s core (slotTile d k)) s
  { s with zn.zones := s.zn.zones.upd (zoneKey core z) (fun d => { d with v := false }) }

/-- A tile-table entry of a saved region stands in the save block alone. -/
def tileAway (s : State) (core i rid : Nat) : State :=
  let t := s.st.tiles.at (tileKey core i)
  tileUndefine (regUpd s rid (fun r => { r with save := { r.save with tiles := r.save.tiles.set (tileKey core i) t } })) core i

/-- A region takes banks of a core with its slot: the zones and entries that saved regions have in them leave (R139, log entry 24). -/
def banksTaken (s : State) (core : Nat) (allot : BitVec 192) : State :=
  let hit (t : Tile) : Bool := t.isDef && !t.sp && (rangeBanks s core t.off.toNat t.size).any (fun b => allot.getLsbD b)
  let saved (rid : Nat) : Bool := rid != 0 && (regionOf s rid).save.here
  let zs := s.zn.zones.filter (fun x => x.1 / 8 == core && x.2.v && saved x.2.rid &&
    (List.range (x.2.ns1.toNat + 1)).any (fun k => hit (slotEnt s core (x.1 % 8) k)))
  let s := zs.foldl (fun s x => zoneAway s core (x.1 % 8)) s
  s.rg.regions.foldl (fun s r =>
    if !r.2.save.here then s
    else r.2.save.tiles.foldl (fun s x =>
      let t := s.st.tiles.at x.1
      if x.1 / 256 == core && hit t && t.asid == r.2.asid then tileAway s core (x.1 % 256) (r.1 + 1) else s) s) s

/-- Can a saved region return to its cores: slot, contexts and the numbers of its objects are free? -/
def saveFits (s : State) (rid : Nat) : Bool :=
  let r := regionOf s rid
  let v := r.save
  r.cores.all (fun c => coreTakes s c r.slot) &&
    v.ctxs.all (fun x => (s.ctl.ctxs.at x.1).st == .free) && v.streams.all (fun x => !(s.sm.streams.at x.1).isOpen) &&
    v.queues.all (fun x => !(s.qu.queues.at x.1).v) && v.rings.all (fun x => !(s.eng.rings.at x.1).v) &&
    v.tmpls.all (fun x => !(s.eng.tmpls.at x.1).v) && v.sets.all (fun x => !(s.ac.sets.at x.1).v) &&
    v.zones.all (fun x => !(s.zn.zones.at x.1).v || (s.zn.zones.at x.1).rid == rid) &&
    v.tiles.all (fun x => !(s.st.tiles.at x.1).isDef || (s.st.tiles.at x.1).asid == r.asid) &&
    v.own.all (fun x => !(s.sm.own.at x.1).v) && v.sched.all (fun x => !(s.rg.sched.at x.1).v) &&
    v.elems.all (fun x => (s.fab.elems.at x.1).fits x.2 r.slot)

/-- The state a region had before it was saved: DRAINING, RUNNING or PLACED. -/
def rstBefore (r : Region) : Nat :=
  if !r.drainCores.isEmpty && r.members.all (fun c => r.drainCores.contains c) then 3
  else if r.members.all (fun c => r.goCores.contains c) then 2 else 1

/-- A saved region resumes on its cores. Zones and tile-table entries that stayed resident are as they are now; any other returns from
the save block (R58, R139). -/
def regionRestore (s : State) (rid : Nat) : State :=
  let s := (regionOf s rid).save.slots.foldl (fun s x => banksTaken s (x.1 / 4) x.2.allot) s
  let r := regionOf s rid
  let v := r.save
  let t := stamp s
  let s := t.2
  let zones := v.zones.filter (fun x => !(s.zn.zones.at x.1).v)
  let back (c : Ctx) : Ctx :=
    if c.st == .run || c.st == .held || c.st == .ready then { c with st := .ready, wcode := 0, widx := 0, since := t.1 } else c
  let slots : SMap GSlot := v.slots.map (fun x => (x.1, { x.2 with preempt := false, segN := 0, prog := s.dev.gtsc, prog2 := s.dev.gtsc }))
  let s := { s with
    ctl.ctxs := mapPuts s.ctl.ctxs (v.ctxs.map (fun x => (x.1, back x.2)))
    sm.streams := mapPuts s.sm.streams (v.streams.map (fun x => (x.1, { x.2 with walking := false })))
    sm.own := mapPuts s.sm.own v.own
    qu.queues := mapPuts s.qu.queues v.queues
    eng.rings := mapPuts s.eng.rings v.rings
    eng.tmpls := mapPuts s.eng.tmpls v.tmpls
    ac.sets := mapPuts s.ac.sets v.sets
    ac.rows := mapPuts s.ac.rows v.rows
    zn.zones := mapPuts s.zn.zones zones
    zn.blks := mapPuts s.zn.blks (v.blks.filter (fun x => zones.any (fun z => z.1 == x.1 / 64)))
    st.tiles := mapPuts s.st.tiles (v.tiles.filter (fun x => !(s.st.tiles.at x.1).isDef))
    rg.sched := mapPuts s.rg.sched v.sched
    rg.slots := mapPuts s.rg.slots slots
    st.banks := v.banks.foldl (fun m x => m.upd x.1 (fun b => { b with mode := x.2.mode, ilv := x.2.ilv })) s.st.banks
    fab.elems := v.elems.foldl (fun m x => m.upd x.1 (fun e => e.merge x.2 r.slot)) s.fab.elems }
  setRst (regUpd s rid (fun r => { r with save := default, placed := true })) rid (rstBefore r)

/-! ### Placing a region (R192, R197) -/

/-- The origins on a die at which a rectangle lies on it, as core numbers, ascending. -/
def origins (die w h : Nat) : List Nat :=
  ((List.range 64).filter (fun o => decide (o % 8 + w ≤ 8) && decide (o / 8 + h ≤ 8))).map (fun o => die * 64 + o)

/-- The cores of a rectangle, in order dy × W + dx. -/
def rectCores (o w h : Nat) : List Nat := ((List.range h).map (fun dy => (List.range w).map (fun dx => o + 8 * dy + dx))).flatten

/-- Sum of TALW over cores. -/
def talwSum (s : State) (cs : List Nat) : Nat := (cs.map (fun c => (s.dev.talw.at c).toNat)).sum

/-- Of the origins whose cores a predicate admits, the one of highest TALW sum, the lowest of those that tie. -/
def originBest (s : State) (die : Nat) (h : ImageHdr) (ok : Nat → Bool) : Option Nat :=
  ((origins die h.w h.h).filter (fun o => (rectCores o h.w h.h).all ok)).foldl
    (fun b o => match b with
      | none => some o
      | some p => if talwSum s (rectCores p h.w h.h) < talwSum s (rectCores o h.w h.h) then some o else some p) none

/-- CONTROL_THREAD_START: a core's lowest FREE context becomes the region's control thread (R192). The first block of a launched region
begins with an acquire (R178). -/
def threadStart (s : State) (core rid : Nat) (entry : Word) : State :=
  match ctxLowest s core with
  | none => s
  | some x =>
    let r := regionOf s rid
    let t := stamp s
    let c : Ctx := { (default : Ctx) with
      st := .ready, gen := genOf s r.asid, ten := r.ten, asid := r.asid, h := (default : SMap Word).set 0 r.arg
      astat := (ctxOf s core x).astat, rcba := r.rcba, depth := r.depth, blk := entry.setWidth 55, blkHi := entry.extractLsb' 55 9
      rid := rid, since := t.1, acq := decide (0 < r.depth) }
    let s := ctxUpd t.2 core x (fun _ => c)
    regUpd s rid (fun r => { r with base := { r.base with ctxs := r.base.ctxs.set (ctxKey core x) c } })

/-- ALLOT of the core section at an address (R371). -/
def sectionAllot (s : State) (a : Actor) (va : Nat) : BitVec 192 × State :=
  let r := memWords s a va 8
  match r.1 with
  | .inl _ => (0#192, r.2)
  | .inr h => (h.getD 4 0#64 ++ h.getD 3 0#64 ++ h.getD 2 0#64, r.2)

/-- A region reserves its slot of a core, and with it the banks that the core's section allots it (R54, R184). -/
def slotReserve (rid : Nat) (r : Region) (h : ImageHdr) (s : State) (c : Nat × Nat) : State :=
  let off := (h.ents.getD c.2 (0, 0#64)).1
  let b := if off = 0 then (0#192, s) else sectionAllot s { admitActor s r.die r.asid with gen := r.gen } (r.image.toNat + off)
  let s := banksTaken b.2 c.1 b.1
  { s with rg.slots := s.rg.slots.set (slotIx c.1 h.slot) { (default : GSlot) with
      rid := rid, allot := b.1, prog := s.dev.gtsc, prog2 := s.dev.gtsc } }

/-- A region is placed: its slots are reserved, its control threads start, and it leaves the queue. -/
def regionPlace (s : State) (rid origin : Nat) (h : ImageHdr) : State :=
  let cs := rectCores origin h.w h.h
  let on := (cs.zipIdx.filter (fun c => (h.ents.getD c.2 (0, 0#64)).1 != 0))
  let s := regUpd s rid (fun r => { r with
    w := h.w, h := h.h, slot := h.slot, origin := origin, placed := true, members := on.map (·.1) })
  let s := cs.zipIdx.foldl (slotReserve rid (regionOf s rid) h) s
  let s := on.foldl (fun s c => threadStart s c.1 rid (h.ents.getD c.2 (0, 0#64)).2) s
  setRst s rid 1

/-- An entry goes before another: effective PRI, then admission time (R197). -/
def arbBefore (a b : ArbEnt) : Bool := decide (b.pri < a.pri) || (a.pri == b.pri && decide (a.stamp ≤ b.stamp))

/-- Put an entry into an ordered list. -/
def arbInsert (e : ArbEnt) : List ArbEnt → List ArbEnt
  | [] => [e]
  | f :: r => if arbBefore e f then e :: f :: r else f :: arbInsert e r

/-- The eligible entries of a die in the order of placement. -/
def arbOrder (s : State) (die : Nat) (tile : Bool) : List ArbEnt :=
  ((s.rg.arb.at die).filter (fun e => e.tile == tile && e.ready)).foldl (fun l e => arbInsert e l) []

def arbRemove (s : State) (die : Nat) (e : ArbEnt) : State := { s with rg.arb := s.rg.arb.upd die (fun es => es.erase e) }

/-- What becomes of one region entry: placed, or its launch failed; none where it cannot be placed now. -/
def regionTry (s : State) (die : Nat) (e : ArbEnt) : Option State × State :=
  let r := regionOf s e.rid
  if r.save.here then (if saveFits s e.rid then some (regionRestore (arbRemove s die e) e.rid) else none, s)
  else
    let h := imageRead s { admitActor s die r.asid with gen := r.gen } r.image.toNat
    match h.1 with
    | .inr (some h') =>
      (match originBest h.2 die h' (fun c => coreTakes h.2 c h'.slot) with
        | some o => some (regionPlace (arbRemove h.2 die e) e.rid o h')
        | none => none, h.2)
    | _ => (some (launchFail (arbRemove h.2 die e) e.rid 0x39 (coreLoc (die * 64))), h.2)

/-- The first entry of a list that can be placed is. -/
def regionsTry (die : Nat) : List ArbEnt → State → Option State
  | [], _ => none
  | e :: r, s =>
    let t := regionTry s die e
    match t.1 with
    | some s' => some s'
    | none => regionsTry die r t.2

/-! ### Pre-emption by the Arbiter (R391) -/

/-- Regions of lower effective PRI that keep a core from an entry: the holder of its slot, or where no context is FREE the
region of the lowest context. -/
def coreHolders (s : State) (core g pri : Nat) : Option (List Nat) :=
  let q := slotRid s core g
  let low (n : Nat) : Bool := n != 0 && decide ((regionOf s n).pri < pri)
  if !coreOpen s core || (q != 0 && !low q) then none
  else
    let a := if q = 0 then [] else [q]
    if (ctxLowest s core).isSome || (q != 0 && (List.range 8).any (fun x => (ctxOf s core x).rid == q)) then some a
    else match (List.range 8).find? (fun x => low (ctxOf s core x).rid) with
      | some x => some ((ctxOf s core x).rid :: a)
      | none => none

/-- The regions to pre-empt for an entry: those that hold the best origin it could have without them. -/
def holdersFor (s : State) (die : Nat) (e : ArbEnt) : List Nat :=
  let r := regionOf s e.rid
  let cs : Option (List Nat) × Nat :=
    if r.save.here then (some r.cores, r.slot)
    else match (imageRead s { admitActor s die r.asid with gen := r.gen } r.image.toNat).1 with
      | .inr (some h) => (match originBest s die h (fun c => (coreHolders s c h.slot e.pri).isSome) with
          | some o => some (rectCores o h.w h.h)
          | none => none, h.slot)
      | _ => (none, 0)
  match cs.1 with
  | none => []
  | some l =>
    if l.all (fun c => (coreHolders s c cs.2 e.pri).isSome) then
      ((l.map (fun c => (coreHolders s c cs.2 e.pri).getD [])).flatten).eraseDups
    else []

/-- Is a region's pre-emption already asked for? -/
def preemptAsked (s : State) (rid : Nat) : Bool := s.rg.slots.any (fun x => x.2.rid == rid && x.2.preempt)

/-- The pre-emptions that the first blocked entry of a list asks for. -/
def preemptFor (s : State) (die : Nat) : List ArbEnt → List Nat
  | [] => []
  | e :: r => match (holdersFor s die e).filter (fun q => !preemptAsked s q) with
    | [] => preemptFor s die r
    | qs => qs

/-- ARBITER_PLACE_REGION: the Arbiter of a die places the first eligible region that can be placed; where none can, it
asks for the pre-emption of regions of lower effective PRI (R197, R391). -/
def execArbiterPlaceRegion (s : State) : Out :=
  let die := s.sim.arg.die.toNat
  let es := arbOrder s die false
  match regionsTry die es s with
  | some s' => .next s'
  | none => .next ((preemptFor s die es).foldl preemptAsk s)

/-! ### Tile tasks (R197, R440) -/

/-- The eligible free core of highest TALW for a tile task, the lowest of those that tie. -/
def tileCore (s : State) (die : Nat) (t : MxTask) : Option Nat :=
  (((List.range 64).map (fun c => die * 64 + c)).filter (fun c =>
    let e := s.st.tiles.at (tileKey c t.ent)
    coreOpen s c && (islandOf s c).task.isNone && e.canIssue && !e.badRef t.asid)).foldl
    (fun b c => match b with
      | none => some c
      | some d => if (s.dev.talw.at d).toNat < (s.dev.talw.at c).toNat then some c else some d) none

/-- The task of an entry. -/
def ArbEnt.task (e : ArbEnt) (s : State) : MxTask :=
  { words := e.words, asid := e.asid, gen := genOf s e.asid, start := 0#64, owner := e.owner, used := false, rid := e.rid }

/-- The first tile task of a list that can be placed is. -/
def tilesTry (s : State) (die : Nat) : List ArbEnt → Option State
  | [] => none
  | e :: r => match tileCore s die (e.task s) with
    | some c => some (taskBegin (arbRemove s die e) c (e.task s))
    | none => tilesTry s die r

/-- ARBITER_PLACE_TILE: a tile task goes to the eligible free core of highest TALW (R197, R440). -/
def execArbiterPlaceTile (s : State) : Out :=
  match tilesTry s s.sim.arg.die.toNat (arbOrder s s.sim.arg.die.toNat true) with
  | some s' => .next s'
  | none => .next s

/-- One waiting entry's counter is read again. -/
def counterPoll (die : Nat) (s : State) (e : ArbEnt) : State :=
  if e.ready then s
  else
    let d := depReady s (admitActor s die e.asid) e.dep.toNat
    if d.1 then { d.2 with rg.arb := d.2.rg.arb.upd die (fun es => es.map (fun f => if f == e then { f with ready := true } else f)) }
    else d.2

/-- ARBITER_COUNTER_POLL: the Arbiter of a die reads its waiting dependence counters again (R197). -/
def execArbiterCounterPoll (s : State) : Out :=
  let die := s.sim.arg.die.toNat
  .next ((s.rg.arb.at die).foldl (counterPoll die) s)

end Sys2Proof.Machine
end

