-- ==== Sys2Proof/Machine/Copy.lean ====
section
/-! DEFINITION. Copy templates (R301–R303): arming, firing, the copies of the streamer islands and their records. -/

namespace Sys2Proof.Machine

def tmplKey (core t : Nat) : Nat := core * 32 + t
def tmplOf (s : State) (core t : Nat) : Template := s.eng.tmpls.at (tmplKey core t)
def tmplUpd (s : State) (core t : Nat) (f : Template → Template) : State :=
  { s with eng.tmpls := s.eng.tmpls.upd (tmplKey core t) f }

/-- The copies an island of a core has accepted, in order: eight run and sixteen more wait (R301). -/
def islandCopies (s : State) (core t : Nat) : List CopyRun :=
  s.eng.copies.filter (fun c => c.core == core && c.tmpl / 16 == t / 16)

/-- Does an island hold its sixteen accepted fires besides the eight copies it runs? -/
def islandFull (s : State) (core t : Nat) : Bool := decide (24 ≤ (islandCopies s core t).length)

/-! ### Arming and firing -/

/-- One use of a template's source entry ends (R303). -/
def tmplRelease (s : State) (core t : Nat) : State :=
  let d := tmplOf s core t
  if d.held = 0 then s
  else tmplUpd (tileDone s core d.stile.toNat) core t (fun d => { d with held := d.held - 1 })

/-- The use that an arming took ends with its last copy, once the template is no longer armed under it (R303). -/
def armingEnd (s : State) (core t arming : Nat) : State :=
  let d := tmplOf s core t
  if (d.arm && d.arming == arming) || s.eng.copies.any (fun c => c.core == core && c.tmpl == t && c.t.arming == arming) then s
  else if d.srck = 1#2 then tmplRelease s core t else s

/-- A fire with index i (R301): an armed template counts it, and disarms when the count reaches a nonzero LIM. `who` is the context
whose cpgo fires it, plus one. -/
def tmplFire (s : State) (core t : Nat) (i : BitVec 32) (who : Nat := 0) : State :=
  let d := tmplOf s core t
  let id := stamp s
  let run : CopyRun := {
    id := id.1, core := core, tmpl := t, t := d, idx := i, ctx := d.armer, by_ := who, port := none, acked := 0 }
  let s := { id.2 with eng.copies := id.2.eng.copies ++ [run] }
  tmplUpd s core t (fun d => { d with
    fires := d.fires + 1, nf := BitVec.ofNat 10 (min 1023 (d.fires + 1))
    arm := !(d.lim != 0#16 && decide (d.lim.toNat ≤ d.fires + 1)) })

/-- The statuses of cparm that precede its wait for the source (R303), in an order of the model's (DESIGN CHOICE, log entry 62). -/
def armStatus (s : State) (core : Nat) (c : Ctx) (l r : Word) : Nat :=
  let d := tmplOf s core (l.extractLsb' 0 5).toNat
  let src := s.st.tiles.at (tileKey core d.stile.toNat)
  let dst := s.st.tiles.at (tileKey core d.dtile.toNat)
  if l.extractLsb' 5 59 != 0#59 then 5
  else if !d.v || d.asid != c.asid then 1
  else if d.arm then 2
  else if (d.srck == 1#2 && src.badRef d.asid) || (d.dstk == 1#2 && dst.badRef d.asid) then 6
  else if (d.dstk == 1#2 && dst.st != .filling) || (d.dstk == 2#2 && r.extractLsb' 0 8 != 0#8) then 4
  else 0

/-- CPARM: arms a template, taking a use of a tile source, for which it waits, and the generations (R56, R303). -/
def execCparm (p : BitVec 2) (t : BitVec 9) (u : BitVec 9) (s : State) : Out :=
  .next (ctCommand s p true true false [t, u] fun core x ix l r =>
    let k := (l.extractLsb' 0 5).toNat
    let st := armStatus s core (ctxOf s core x) l r
    let out (st : Nat) (s : State) : State := ctPerformed s core x ix (outsOf [t, u] (some (stTok st)))
    if st != 0 then out st s
    else
      let d := tmplOf s core k
      let src := s.st.tiles.at (tileKey core d.stile.toNat)
      if d.srck == 1#2 && !src.canIssue then ctHold s core x 5 d.stile.toNat
      else
        let s := if d.srck = 1#2 then tileUse s core d.stile.toNat else s
        let s := if d.rel then tileUpd s core d.stile.toNat (fun e => { e with drq := true }) else s
        let a := stamp s
        out 0 (tmplUpd a.2 core k (fun d => { d with
          arm := true, nf := 0#10, fires := 0, arming := a.1, armer := x + 1
          held := if d.srck = 1#2 then d.held + 1 else d.held
          sgen := if d.srck = 1#2 then src.gen else d.sgen
          dgen := if d.dstk = 1#2 then (s.st.tiles.at (tileKey core d.dtile.toNat)).gen
            else if d.dstk = 2#2 then r.extractLsb' 48 16 else d.dgen
          dslot := if d.dstk = 2#2 then r.extractLsb' 42 6 else d.dslot })))

/-- CPGO: fires an armed template once with index signed(R[31:0]) (R303). -/
def execCpgo (p : BitVec 2) (t : BitVec 9) (u : BitVec 9) (s : State) : Out :=
  .next (ctCommand s p true true false [t, u] fun core x ix l r =>
    let k := (l.extractLsb' 0 5).toNat
    let d := tmplOf s core k
    let st := if l.extractLsb' 5 59 != 0#59 then 5
      else if !d.v || d.asid != (ctxOf s core x).asid then 1
      else if !d.arm then 3
      else if islandFull s core k then 7 else 0
    let s := if st = 0 then tmplFire s core k (r.extractLsb' 0 32) (x + 1) else s
    ctPerformed s core x ix (outsOf [t, u] (some (stTok st))))

/-- CPDIS: disarms; the template's use of its source ends when its last copy completes (R303). -/
def execCpdis (p : BitVec 2) (t : BitVec 9) (u : BitVec 9) (s : State) : Out :=
  .next (ctCommand s p true false false [t, u] fun core x ix l _ =>
    let k := (l.extractLsb' 0 5).toNat
    let d := tmplOf s core k
    let st := if l.extractLsb' 5 59 != 0#59 then 5
      else if !d.v || d.asid != (ctxOf s core x).asid then 1
      else if !d.arm then 3 else 0
    let s := if st = 0 then armingEnd (tmplUpd s core k (fun d => { d with arm := false })) core k d.arming else s
    ctPerformed s core x ix (outsOf [t, u] (some (stTok st))))

/-- COPY_TRIGGER_RECORD: template `unit` reads the oldest readable entry of its TRIGQ. A record, which it reads only while it is armed,
fires it, with the signed payload of its first data token; a marker or gap is discarded (R301). A poisoned entry is a region error
(R50). -/
def execCopyTriggerRecord (s : State) : Out :=
  let core := s.sim.arg.core.toNat
  let t := s.sim.arg.unit.toNat % 32
  let d := tmplOf s core t
  let q := s.qu.queues.at (queueKey core d.trigq.toNat)
  .next (if !d.v || !d.tq || !q.v || stopped s d.rid then s
    else match (q.views.at 0).readable q.ch with
    | [] => s
    | ts :: _ =>
      if isRec (ts.headD 0#48) && (!d.arm || islandFull s core t) then s
      else
      let w := readPoison s core d.trigq.toNat 0 0
      let s := progress (viewPop s core d.trigq.toNat 0 1) core d.rid
      if w.isSome then regionError s d.rid 0x02 (coreLoc core) [BitVec.ofNat 64 (w.getD 0)]
      else if isRec (ts.headD 0#48) then tmplFire s core t ((ts.getD 1 0#48).extractLsb' 0 32) else s)

/-! ### Performing a copy (R301, R302) -/

/-- How a piece of a copy ended: its status (R302), a translation status, the bytes performed at the destination, and
the port it left through. -/
structure CopyOut where
  st : Nat
  xs : Nat
  bytes : Nat
  port : Option Nat
  deriving DecidableEq, Repr, Inhabited

def CopySt.code : CopySt → Nat
  | .ok => 0 | .stale => 1 | .bounds => 3 | .reorder => 4 | .seq => 5 | .refused => 7

/-- A failed access as a copy's end. A write that the commit gate cannot hold raises GATEFULL (R388), and the status that R302 gives the
copy's record then is no rule's: one of those that are not OK. -/
def MemFault.copyOut (f : MemFault) (r : CopyRun) (s : State) : CopyOut × State :=
  match f.kind with
  | .xlate => ({ st := 8, xs := f.st.code, bytes := 0, port := none }, s)
  | .poison => ({ st := 9, xs := 0, bytes := 0, port := none }, s)
  | .mode => ({ st := 2, xs := 0, bytes := 0, port := none }, s)
  | .full =>
    let x := freeN s
    ({ st := x.1 % 10 + 1, xs := 0, bytes := 0, port := none }, f.raise x.2 r.core r.t.rid)

/-- The CP path of a template. -/
def Template.actor (t : Template) (s : State) (core : Nat) : Actor :=
  { core := core, path := .cp, asid := t.asid, gen := genOf s t.asid, rid := t.rid }

/-- The landing slot that a template's handle names, as a write of some bytes at an offset (R127, R131). -/
def CopyRun.slot (r : CopyRun) (s : State) (off : Nat) (bs : List Byte) : SlotWrite :=
  { core := r.t.zh.extractLsb' 8 2 ++ r.t.zh.extractLsb' 10 6, zone := r.t.zh.extractLsb' 16 3, slot := r.t.dslot
    gen := r.t.dgen, off := off, q := r.t.seq, src := nodeId s, inPort := none, copyCore := BitVec.ofNat 8 r.core
    copyId := r.id, data := bs }

/-- The way of a copy's writes out of the module: the port they left by already, else one that is trained or retrains; none where no
port is (R137). All writes of a copy to a node leave by one port, so that its end token follows its data (R131). -/
def copyPort (s : State) (node : BitVec 10) (o : Option Nat) : Option Nat × State :=
  match o with
  | some q => (some q, s)
  | none =>
    let q := portTo s node
    let p := s.lnk.ports.at q.1
    (if p.up || p.retrain.isSome then some q.1 else none, q.2)

/-- A write of a copy leaves the module, or ends it with LINK_LOST where no port is left. -/
def copySend (s : State) (node : BitVec 10) (asid : BitVec 8) (o : Option Nat) (load : Payload) : CopyOut × State :=
  let q := copyPort s node o
  match q.1 with
  | none => ({ st := 6, xs := 0, bytes := 0, port := none }, q.2)
  | some p => ({ st := 0, xs := 0, bytes := 0, port := some p }, sendOut q.2 { port := p, node := node, asid := asid, load := load })

/-- The byte offset in a slot: one below its start names no byte of it (R131). -/
def slotOff (dst : Int) : Nat := (BitVec.ofInt 64 dst).toNat

/-- Write a piece at the destination position; `o` is the port that earlier pieces left by. -/
def copyPut (s : State) (r : CopyRun) (dst : Int) (bs : List Byte) (o : Option Nat) : CopyOut × State :=
  let t := r.t
  let ok (n : Nat) (s : State) : CopyOut × State := ({ st := 0, xs := 0, bytes := n, port := none }, s)
  if t.dstk = 1#2 then
    let w := tileWrite s r.core t.dtile.toNat t.dgen dst.toNat bs
    if w.1 then ok bs.length w.2 else ({ st := 1, xs := 0, bytes := 0, port := none }, w.2)
  else if t.dstk = 2#2 then
    let w := r.slot s (slotOff dst) bs
    if t.zh.getLsbD 7 then
      let x := slotWrite s w
      let size := (slotEnt s w.core.toNat w.zone.toNat w.slot.toNat).size
      ({ st := x.1.code, xs := 0, port := none
         bytes := match x.1 with
           | .ok => bs.length
           | .bounds => min bs.length (size - w.off)
           | _ => 0 }, x.2)
    else
      let pe := s.xl.peers.at (t.zh.extractLsb' 0 7).toNat
      if !pe.v then ({ st := 8, xs := XSt.code .nopeer, bytes := 0, port := none }, s)
      else copySend s pe.node t.asid o (.slotWrite w)
  else
    let a := t.actor s r.core
    let va := BitVec.ofInt 64 dst
    let x := translate s a va .store bs.length
    if x.1.st != .ok then ({ st := 8, xs := x.1.st.code, bytes := 0, port := none }, x.2)
    else match place x.1.pa with
    | .remote p off => copySend x.2 (x.2.xl.peers.at p).node t.asid o (.inbound (nodeId x.2) .write (BitVec.ofNat 44 off) bs)
    | _ =>
      let w := writeAt x.2 a x.1.mt (localPa x.2 x.1.pa) va bs
      match w.1 with
      | some f => f.copyOut r w.2
      | none => ok bs.length w.2

/-- Read a piece at the source position. -/
def copyGet (s : State) (r : CopyRun) (src : Int) (n : Nat) : (MemFault ⊕ List Byte) × State :=
  let a := r.t.actor s r.core
  if r.t.srck = 1#2 then
    let e := s.st.tiles.at (tileKey r.core r.t.stile.toNat)
    readAt s a .wb (tilePa r.core e src.toNat) (BitVec.ofInt 64 src) n
  else readRange a .load 3 (BitVec.ofInt 64 src) n s

/-- The bytes from a position to the end of a tile entry, none before its start; unbounded for another kind. -/
def entryRoom (s : State) (core k : Nat) (tile : Bool) (o : Int) (n : Nat) : Nat :=
  if !tile then n
  else if o < 0 then 0
  else min n ((s.st.tiles.at (tileKey core k)).size - o.toNat)

/-- Bytes to the next sector boundary. -/
def sectorRoom (o : Int) : Nat := 128 - (o % 128).toNat

/-- The bytes of the next piece: within a sector of source and destination, or for a landing slot within one of its 64-byte units and by
whole words, so that a contribution's words arrive whole (R135). -/
def pieceLen (r : CopyRun) (src dst : Int) (len : Nat) : Nat :=
  if r.t.dstk = 2#2 then min len (min (max 4 (sectorRoom src / 4 * 4)) (64 - (dst % 64).toNat)) else min len (min (sectorRoom src) (sectorRoom dst))

/-- Where the source and destination of a copy stand: at their addresses for its index, and the bytes done further on (R301). -/
def CopyRun.src (r : CopyRun) : Int := (r.t.src.toNat : Int) + r.idx.toInt * r.t.sstep.toInt + r.pos
def CopyRun.dst (r : CopyRun) : Int := (r.t.dst.toNat : Int) + r.idx.toInt * r.t.dstep.toInt + r.pos

/-- The bytes of a copy's next piece, 0 at its end. -/
def CopyRun.next (r : CopyRun) : Nat := pieceLen r r.src r.dst (r.t.len.toNat - r.pos)

def copyUpd (s : State) (r : CopyRun) (f : CopyRun → CopyRun) : State :=
  { s with eng.copies := s.eng.copies.map (fun c => if c.id == r.id then f c else c) }

/-- A copy ends at a fault: nothing more of it is read, and its status is fixed (R302). -/
def copyStop (s : State) (r : CopyRun) (st xs : Nat) : State :=
  copyUpd s r (fun c => { c with pos := c.t.len.toNat, fin := st, finXs := xs })

/-- The next piece of a copy, in ascending order: it ends at the first fault, with BOUNDS at the first byte that leaves an entry, with
the bytes before performed (R301). -/
def copyPiece (s : State) (r : CopyRun) : State :=
  let k := entryRoom s r.core r.t.dtile.toNat (r.t.dstk == 1#2) r.dst
    (entryRoom s r.core r.t.stile.toNat (r.t.srck == 1#2) r.src r.next)
  if k = 0 then copyStop s r 3 0
  else
    let g := copyGet s r r.src k
    match g.1 with
    | .inl f =>
      let e := f.copyOut r g.2
      copyStop e.2 r e.1.st e.1.xs
    | .inr bs =>
      let w := copyPut g.2 r r.dst bs r.port
      let s := copyUpd w.2 r (fun c => { c with
        pos := c.pos + k, acked := c.acked + w.1.bytes, port := w.1.port.orElse (fun _ => c.port) })
      if w.1.st = 0 then progress s r.core r.t.rid else copyStop s r w.1.st w.1.xs

/-- A copy's end: the read-out of R55 is decided before its use of the source ends, and the record is written (R302). -/
def copyEnd (s : State) (r : CopyRun) (st xs bytes : Nat) : State :=
  let s := { s with eng.copies := s.eng.copies.filter (fun c => c.id != r.id) }
  let k := r.t.stile.toNat
  let e := s.st.tiles.at (tileKey r.core k)
  let rel := r.t.rel && r.t.srck == 1#2
  let able := e.st == .draining || (e.st == .ready && e.drq)
  let s := if !rel then s
    else if st != 0 then (if e.st == .ready then tileUpd s r.core k (fun e => { e with drq := false }) else s)
    else if e.st == .draining then tileUpd s r.core k Tile.toEmpty
    else if able then tileUpd s r.core k (fun e => { e with rel := true }) else s
  let st := if rel && st == 0 && !able then 10 else st
  let s := armingEnd s r.core r.tmpl r.t.arming
  let w0 := BitVec.ofNat 64 (2 ^ 56 + st * 2 ^ 48 + r.tmpl * 2 ^ 43 + r.idx.toNat)
  let w1 := BitVec.ofNat 64 (bytes % 2 ^ 32 * 2 ^ 32 + (if st = 8 then xs * 2 ^ 24 else 0))
  ringPushAs (progress s r.core r.t.rid) .cp r.core r.t.ring.toNat r.t.asid r.t.rid w0 w1

/-- Must the next piece of a copy wait: for a walk slot, or for a bank that changes its mode (R27, R42)? -/
def copyHeld (s : State) (r : CopyRun) : Bool :=
  let a := r.t.actor s r.core
  let held (acc : Acc) (o : Int) : Bool := rangeHeld s a acc 3 (BitVec.ofInt 64 o) r.next
  (if r.t.srck = 1#2 then entryBusy s r.core r.t.stile.toNat else held .load r.src) ||
    (if r.t.dstk = 1#2 then entryBusy s r.core r.t.dtile.toNat
     else if r.t.dstk = 0#2 then held .store r.dst
     else
       let w := r.slot s 0 []
       r.t.zh.getLsbD 7 && entryBusy s w.core.toNat (slotTile (zoneOf s w.core.toNat w.zone.toNat) w.slot.toNat))

/-- A copy whose pieces are done: each copy into a slot ends with its end token (R131), and one whose writes left the module waits for
the receiver's answers. -/
def copyFinish (s : State) (r : CopyRun) : State :=
  let w := r.slot s 0 []
  let pe := s.xl.peers.at (r.t.zh.extractLsb' 0 7).toNat
  let e : (Nat × Option Nat) × State :=
    if r.t.dstk != 2#2 then ((r.fin, r.port), s)
    else if r.t.zh.getLsbD 7 then
      let x := slotEnd s w
      ((if r.fin = 0 then x.1.code else r.fin, none), x.2)
    else if !pe.v then ((r.fin, r.port), s)
    else
      let q := copySend s pe.node r.t.asid r.port (.slotEnd w)
      ((if r.fin = 0 then q.1.st else r.fin, q.1.port), q.2)
  match e.1.2 with
  | none => copyEnd e.2 r e.1.1 r.finXs r.acked
  | some q => copyUpd e.2 r (fun c => { c with port := some q, fin := e.1.1, sent := true })

/-- A copy goes on: its next piece, or its end. -/
def copyStep (s : State) (r : CopyRun) : State := if r.pos < r.t.len.toNat then copyPiece s r else copyFinish s r

/-- The receiver's answer to a copy whose writes left the module: bytes performed and a status; one that is not OK ends the
copy, and so does the answer to its last write or end token (R131, R436). -/
def copyAnswer (s : State) (r : CopyRun) (st bytes : Nat) (last : Bool) : State :=
  let n := r.acked + bytes
  if st != 0 then copyEnd s r st 0 n
  else if last && r.sent then copyEnd s r r.fin r.finXs n
  else copyUpd s r (fun c => { c with acked := n })

/-- COPY_COMPLETE: copy `n` of a core, one of the eight its island runs, performs its next piece or ends; with an answer of its
receiver in `load`, one whose writes left the module takes it (R301, R302). -/
def execCopyComplete (s : State) : Out :=
  let a := s.sim.arg
  match s.eng.copies.find? (fun c => c.core == a.core.toNat && c.id == a.n) with
  | none => .next s
  | some r =>
    match a.load with
    | .copyReply _ _ st bytes last =>
      .next (if r.port.isSome then copyAnswer s r (st.toNat % 8) bytes last else s)
    | _ =>
      .next (if !r.sent && ((islandCopies s r.core r.tmpl).take 8).any (fun c => c.id == r.id) && !copyHeld s r then copyStep s r
        else s)

/-- The copies that a lost link ends: those in flight through the port, with the bytes acknowledged as performed (R137, R436). R137 names
those to a landing slot; one that writes the remote window, of which no rule speaks, ends in the same way (DESIGN CHOICE, log entry
6). -/
def copiesLinkLost (s : State) (port : Nat) (src : Option (BitVec 10)) : State :=
  (s.eng.copies.filter (fun c => c.port == some port &&
      (c.t.dstk != 2#2 || lostFor src (s.xl.peers.at (c.t.zh.extractLsb' 0 7).toNat).node))).foldl (fun s c => copyEnd s c 6 0 c.acked) s

end Sys2Proof.Machine
end

