-- ==== Sys2Proof/Machine/CtAccum.lean ====
section
/-! DEFINITION. Control-thread instructions on accumulator sets (R311, R312) and the steps of the add and temper ports
on their behalf (R111–R120). -/

namespace Sys2Proof.Machine

/-! ### The shared operand layout (R311) -/

def accSetOf (l : Word) : Nat := (l.extractLsb' 60 4).toNat
def accScopeOf (l : Word) : Nat := (l.extractLsb' 56 4).toNat
def accRowOf (l : Word) : Nat := (l.extractLsb' 40 16).toNat
def accElemOf (l : Word) : Nat := (l.extractLsb' 26 14).toNat

/-- A set by its core and number. -/
def accOf (s : State) (core a : Nat) : AccSet := s.ac.sets.at (setKey core a)

/-- Owner and operand-field checks that every form on an existing set makes first; `resv` says whether a bit that the
form does not list is set. -/
def accPre (s : State) (core a : Nat) (asid : BitVec 8) (resv : Bool) : AccSt :=
  let d := accOf s core a
  if d.v && d.asid != asid then .notowner else if resv then .badrange else .ok

/-- A command on a set answers a status. -/
def accAnswer (s : State) (core x ix : Nat) (t : BitVec 9) (st : AccSt) : State :=
  ctPerformed s core x ix [(0, t, some (BitVec.ofNat 64 st.code))]

/-- The set descriptor that acopen's operands give. -/
def accImage (l r : Word) : AccSet :=
  { (default : AccSet) with
    bank := (l.extractLsb' 40 8).toNat, nb := (l.extractLsb' 35 5).toNat, nm1 := (l.extractLsb' 16 14).toNat
    nrow := (l.extractLsb' 0 16).toNat, eps := r.setWidth 42 }

/-- Undefine a set: refused while a row is open, or for another ASID's set (R110, R311). -/
def accUndefine (s : State) (core a : Nat) (asid : BitVec 8) : AccSt × State :=
  let d := accOf s core a
  if !d.v then (.ok, s)
  else if d.asid != asid then (.notowner, s)
  else if (List.range d.nrow).any (fun j => rowOpen s core a j) then (.rowopen, s)
  else (.ok, accUpd s core a (fun d => { d with v := false }))

/-- ACOPEN: defines or undefines a set (R109, R110). -/
def execAcopen (p : BitVec 2) (t : BitVec 9) (u : BitVec 9) (s : State) : Out :=
  .next (ctCommand s p true true false [t, u] fun core x ix l r =>
    let c := ctxOf s core x
    let a := accSetOf l
    let fin (y : AccSt × State) : State := ctPerformed y.2 core x ix (outsOf [t, u] (some (BitVec.ofNat 64 y.1.code)))
    if l.extractLsb' 56 4 != 0#4 then fin (.badrange, s)
    else if !l.getLsbD 55 then fin (accUndefine s core a c.asid)
    else
      let d := { accImage l r with asid := c.asid, rid := c.rid }
      let resv := l.extractLsb' 48 7 != 0#7 || l.extractLsb' 30 5 != 0#5 || r.extractLsb' 42 22 != 0#22
      let st := accDefine s core a d resv
      fin (st, if st == .ok then accOpenSet s core a d else s))

/-- The acadds of a core that have issued and wait for a row that another row add holds (R113, R116): each as its left operand. -/
def acaddsWait (s : State) (core : Nat) (p : PendOp → Bool) : Bool :=
  s.ctl.pend.any (fun w => w.kind == .acadd && w.core == core && p w)

/-- An acadd issues on a held row: its scope opens, and it waits there to be applied (R116). -/
def acaddIssue (s : State) (core x ix : Nat) (l : Word) : State :=
  if acaddsWait s core (fun w => w.ctx == x && w.ix == ix) then s
  else
    let w : PendOp := {
      core := core, ctx := x, ix := ix, kind := .acadd, a := l, b := 0#64, c := 0#64, time := s.dev.gtsc, va := 0#64, port := 0
      tag := 0#24, req := none }
    scopeOpen { s with ctl.pend := s.ctl.pend ++ [w] } core (accSetOf l) (accScopeOf l)

/-- The acadd of an instruction waits no longer. -/
def acaddEnd (s : State) (core x ix : Nat) : State :=
  { s with ctl.pend := s.ctl.pend.filter (fun w => !(w.kind == .acadd && w.core == core && w.ctx == x && w.ix == ix)) }

/-- ACADD: one row add of one element; a null right operand counts in NULLN and opens the scope (R111, R112). -/
def execAcadd (p : BitVec 2) (t : BitVec 9) (u : BitVec 9) (s : State) : Out :=
  .next (withCt s fun core x ix f =>
    match f.ready ix p true true with
    | .wait => s
    | .off => ctOff s core x ix none [t, u]
    | .on none _ => ctDone s core x ix none (outsOf [t, u] none)
    | .on (some l) r =>
      if !f.memDone || f.commandBelow ix then s
      else
        let a := accSetOf l
        let j := accRowOf l
        let d := accOf s core a
        let st := accPre s core a (ctxOf s core x).asid (l.extractLsb' 0 26 != 0#26)
        let st := if st == .ok && d.v && decide (d.n ≤ accElemOf l) then .badrange else st
        let fin (y : AccSt × State) : State := ctPerformed y.2 core x ix (outsOf [t, u] (some (BitVec.ofNat 64 y.1.code)))
        if st != .ok then fin (st, s)
        else if d.v && rowHeld s core a j 0 then ctHold (acaddIssue s core x ix l) core x 8 (a * 65536 + j)
        else
          let s := acaddEnd s core x ix
          let k : FTok := match r with
            | some v => v.setWidth 48 &&& 0x03FFFFFFFFFF#48
            | none => 0x040000000000#48
          let y := rowAdd s core a j (accElemOf l) (accScopeOf l) [k]
          fin (y.1, progress y.2 core d.rid))

/-- ACSCOPE: a memory token that closes a scope at the add port, after every acadd bearing it that issued on the core has been applied
(R116). The row adds of closed streams have been: each is applied before its stream closes. -/
def execAcscope (p : BitVec 2) (t : BitVec 9) (l : BitVec 5) (s : State) : Out :=
  .next (ctMem s p true false l [t] fun core x ix a _ =>
    let fin (st : AccSt) (s : State) : State := ctDone s core x ix (some l.toNat) [(0, t, some (BitVec.ofNat 64 st.code))]
    let st := accPre s core (accSetOf a) (ctxOf s core x).asid (a.extractLsb' 0 56 != 0#56)
    if st != .ok then fin st s
    else if acaddsWait s core (fun w => accSetOf w.a == accSetOf a && accScopeOf w.a == accScopeOf a) then ctHold s core x 9 l.toNat
    else ctIrrev s core x l.toNat (fun s =>
      let y := scopeClose (setIrrev s core x) core (accSetOf a) (accScopeOf a) (ctxOf s core x).asid
      fin y.1 y.2))

/-- The tokens of a temper read enter a queue as one record of weight 1.0 (R312); the answer says whether it was
admitted. -/
def temperRecord (s : State) (core x n : Nat) (toks : List FTok) : Bool × State :=
  let d := s.qu.queues.at (queueKey core n)
  let r := qRecord s core n x (ctlTok d.ch 8 0x100)
  let s := toks.foldl (fun s t => (qData s core n x (tokOn t d.ch)).2) r.2
  (r.1, qEnd s core n x)

/-- ACNORM: a temper read, held until the scopes of its mask are closed (R114, R117, R312). -/
def execAcnorm (p : BitVec 2) (t : BitVec 9) (u : BitVec 9) (s : State) : Out :=
  .next (ctCommand s p true true false [t, u] fun core x ix l r =>
    let c := ctxOf s core x
    let a := accSetOf l
    let j := accRowOf l
    let e0 := accElemOf l
    let n := (l.extractLsb' 12 14).toNat + 1
    let d := accOf s core a
    let qout := r.getLsbD 22
    let q := (r.extractLsb' 16 6).toNat
    let fin (v : Tok) (st : AccSt) (s : State) : State := ctPerformed s core x ix [(0, t, v), (1, u, some (BitVec.ofNat 64 st.code))]
    let st := accPre s core a c.asid (l.extractLsb' 56 4 != 0#4 || l.extractLsb' 0 10 != 0#10 || r.extractLsb' 23 41 != 0#41 ||
      (!qout && (n != 1 || l.getLsbD 10)))
    let st := if st == .ok && d.v && decide (d.n < e0 + n) then .badrange else st
    let qd := s.qu.queues.at (queueKey core q)
    let st := if st == .ok && qout && (!qd.v || qd.asid != c.asid || !isProducer s core q c.rid) then .notowner else st
    if st != .ok then fin none st s
    else if !d.v then fin none .accrow s
    else if scopesOpen d (r.setWidth 16) then ctHold s core x 7 (scopeIdx d a (r.setWidth 16))
    else if !rowOpen s core a j then fin none .accrow s
    else if rowHeld s core a j 0 then ctHold s core x 8 (a * 65536 + j)
    else
      let ts := temperToks d (s.ac.rows.at (rowKey core a j)) (l.getLsbD 11) (l.getLsbD 10) e0 n
      let s := progress (temperDone s core a j) core d.rid
      if qout then
        let y := temperRecord s core x q ts
        fin (some (bit64 y.1)) .ok y.2
      else fin (some ((ts.headD 0#48).setWidth 64)) .ok s)

/-- The AG path of a set's memory tile, under the set's ASID (R119). -/
def AccSet.actor (d : AccSet) (s : State) (core : Nat) : Actor :=
  { core := core, path := .ag, asid := d.asid, gen := genOf s d.asid, rid := d.rid }

/-- The value that an eviction or a reload answers when its image faults: the manual states none. -/
def accFaulted (s : State) (core x ix : Nat) (t u : BitVec 9) : State :=
  let f := free s
  ctPerformed f.2 core x ix (outsOf [t, u] (some f.1))

/-- ACEVICT: writes the image of a row and closes it where CLOSE is set (R119). -/
def execAcevict (p : BitVec 2) (t : BitVec 9) (u : BitVec 9) (s : State) : Out :=
  .next (ctCommand s p true true false [t, u] fun core x ix l r =>
    let a := accSetOf l
    let j := accRowOf l
    let d := accOf s core a
    let fin (st : AccSt) (s : State) : State := ctPerformed s core x ix (outsOf [t, u] (some (BitVec.ofNat 64 st.code)))
    let st := accPre s core a (ctxOf s core x).asid
      (l.extractLsb' 56 4 != 0#4 || l.extractLsb' 0 38 != 0#38 || r.extractLsb' 0 6 != 0#6)
    if st != .ok then fin st s
    else if !rowOpen s core a j then fin .accrow s
    else if rowHeld s core a j 0 then ctHold s core x 8 (a * 65536 + j)
    else
      let img := evictImage d (s.ac.rows.at (rowKey core a j)) (l.getLsbD 39)
      if memHeld s (d.actor s core) .store r.toNat img.length then ctHold s core x 8 (a * 65536 + j)
      else
      let w := memWrite s (d.actor s core) r.toNat img
      match w.1 with
      | some f => accFaulted (f.raise w.2 d.rid core) core x ix t u
      | none =>
        let s := progress w.2 core d.rid
        if l.getLsbD 38 then
          let s := rowSnap s core a j
          fin .ok (rowPut s core a j (s.ac.rows.at (rowKey core a j)).closed)
        else fin .ok s)

/-- A reload enters a row through the add port (R120). A COMPACT image that sets a flag the row did not bear counts it and raises its
error, as R112 does. -/
def rowReload (s : State) (core a j : Nat) (compact : Bool) (row : AccRow) : State :=
  let d := accOf s core a
  let s := rowSnap s core a j
  let old := s.ac.rows.at (rowKey core a j)
  let nf := compact && row.nf && !old.nf
  let ovf := compact && row.ovf && !old.ovf
  let s := rowAddEnd (rowPut s core a j { row with imaged := old.imaged }) core a j
  let s := accUpd s core a (fun d => { d with
    nfn := sat16 d.nfn (if nf then 1 else 0), ovfn := sat16 d.ovfn (if ovf then 1 else 0) })
  let s := if nf then regionError s d.rid 0x0B (coreLoc core) (rowDetail a j) else s
  if ovf then regionError s d.rid 0x0A (coreLoc core) (rowDetail a j) else s

/-- ACLOAD: replaces a row by an image, opening its scope, or answers BADIMG (R120). -/
def execAcload (p : BitVec 2) (t : BitVec 9) (u : BitVec 9) (s : State) : Out :=
  .next (ctCommand s p true true false [t, u] fun core x ix l r =>
    let a := accSetOf l
    let j := accRowOf l
    let d := accOf s core a
    let fin (st : AccSt) (s : State) : State := ctPerformed s core x ix (outsOf [t, u] (some (BitVec.ofNat 64 st.code)))
    let st := accPre s core a (ctxOf s core x).asid (l.extractLsb' 0 39 != 0#39 || r.extractLsb' 0 6 != 0#6)
    if st != .ok then fin st s
    else if !d.v then fin .accrow s
    else
      let s := scopeOpen s core a (accScopeOf l)
      if d.nrow ≤ j then fin .accrow s
      else if rowHeld s core a j 0 || memHeld s (d.actor s core) .load r.toNat (imageSize d (l.getLsbD 39)) then
        ctHold s core x 8 (a * 65536 + j)
      else
        let m := memRead s (d.actor s core) r.toNat (imageSize d (l.getLsbD 39))
        match m.1 with
        | .inl f => accFaulted (f.raise m.2 d.rid core) core x ix t u
        | .inr img =>
          match reloadRow d (m.2.ac.rows.at (rowKey core a j)) (l.getLsbD 39) img with
          | none => fin .badimg m.2
          | some row => fin .ok (progress (rowReload m.2 core a j (l.getLsbD 39) row) core d.rid))

end Sys2Proof.Machine
end

