-- ==== Sys2Proof/Machine/CtOrder.lean ====
section
/-! DEFINITION. Control-thread instructions that order accesses, yield and signal (R151, R162, R175, R271–R278). -/

namespace Sys2Proof.Machine

/-! ### Fences (R271–R273) -/

/-- A token that must come after the stores of its block below it: where such stores wait they are performed first, after which the
block cannot be abandoned (log entry 14). Tokens above it whose operands have come must pass their checks; the others are not waited
for. -/
def ctAfterStores (s : State) (core x l : Nat) (k : State → State) : State :=
  if (frameOf s core x).storesWait l then
    ctHigher false s core x l (fun s => storesReady s core x l (fun s => k (storesFirst s core x l)))
  else k s

/-- FENCE: a release of its scope, then an acquire of it; scope .s orders nothing more (R271). -/
def execFence (p : BitVec 2) (l : BitVec 5) (c : BitVec 3) (t : BitVec 9) (s : State) : Out :=
  .next (ctMem s p false false l [t] fun core x ix _ _ =>
    if c = 0#3 then ctDone s core x ix (some l.toNat) [(0, t, some 0#64)]
    else ctAfterStores s core x l.toNat (fun s =>
      ctDone (acquire (release s core c.toNat) core c.toNat) core x ix (some l.toNat) [(0, t, some 0#64)]))

/-- WBAR: a release without a store (R272). -/
def execWbar (p : BitVec 2) (l : BitVec 5) (c : BitVec 3) (s : State) : Out :=
  .next (ctMem s p false false l [] fun core x ix _ _ =>
    if c = 0#3 then ctDone s core x ix (some l.toNat) []
    else ctAfterStores s core x l.toNat (fun s => ctDone (release s core c.toNat) core x ix (some l.toNat) []))

/-- Is an operation of an engine path that a context issued still in flight (R175)? Operations whose completion
record is written have ended; the updates of the SU path and the accesses of the EN path end with their own step. -/
def engineBusy (s : State) (core x : Nat) (f : BitVec 8) : Bool :=
  let own := core * 8 + x + 1
  (f.getLsbD 2 && s.eng.copies.any (fun c => c.core == core && (c.ctx == x + 1 || c.by_ == x + 1))) ||
  (f.getLsbD 3 && (s.eng.islands.any (fun i => (match i.2.task with
      | some t => t.owner == own
      | none => false) || i.2.wait.any (fun t => t.owner == own)) ||
    s.rg.arb.any (fun d => d.2.any (fun e => e.tile && e.owner == own)))) ||
  (f.getLsbD 5 && s.eng.colls.any (fun c => c.core == core && c.ctx == x + 1))

/-- At scope .f, are writes of the named engine paths of a region, or of the core where the context has none, still without the
acknowledgement of their receiving ports (R161, R175)? -/
def farBusy (s : State) (core rid : Nat) (f : BitVec 8) (sc : Nat) : Bool :=
  decide (4 ≤ sc) && s.eng.far.any (fun r => !r.read && f.getLsbD r.path && r.rid == rid && (rid != 0 || r.core == core))

/-- The cores whose AG path an xfence of a context acts on: those of its region, else its own. -/
def agCores (s : State) (core rid : Nat) : List Nat := if rid = 0 then [core] else (regionOf s rid).cores

/-- Does an xfence take the cache actions of R46: it names CT or AG with another path, at any scope, or its scope is .d or wider? -/
def xfenceActs (f : BitVec 8) (t : BitVec 7) (sc : Nat) : Bool :=
  decide (2 ≤ sc) || decide (2 ≤ (List.range 7).countP (fun i => f.getLsbD i || t.getLsbD i))

/-- The source side of an xfence: the writes of its F paths become visible at its scope, CT and AG with the write-back of R46
(R175). -/
def xfenceFrom (s : State) (core rid : Nat) (f : BitVec 8) (act : Bool) : State :=
  let s := if f.getLsbD 1 then (agCores s core rid).foldl (fun s c =>
      let s := regionFlush s c rid
      if act then ccClean s c else s) s else s
  if f.getLsbD 0 && act then ccClean s core else s

/-- The destination side: CT and AG invalidate (R46, R175). -/
def xfenceTo (s : State) (core rid : Nat) (t : BitVec 7) (act : Bool) : State :=
  let s := if t.getLsbD 1 && act then (agCores s core rid).foldl ccInval s else s
  if t.getLsbD 0 && act then ccInval s core else s

/-- XFENCE: it waits for the operations of its F paths, makes their writes visible, and invalidates for CT and AG in T
(R175, R273). -/
def execXfence (p : BitVec 2) (l : BitVec 5) (f : BitVec 8) (g : BitVec 7) (c : BitVec 3) (s : State) : Out :=
  .next (ctMem s p false false l [] fun core x ix _ _ =>
    let rid := (ctxOf s core x).rid
    let act := xfenceActs f g c.toNat
    if engineBusy s core x f || farBusy s core rid f c.toNat then ctHold s core x 9 l.toNat
    else
      let go (s : State) : State := ctDone (xfenceTo (xfenceFrom s core rid f act) core rid g act) core x ix (some l.toNat) []
      if f.getLsbD 0 then ctAfterStores s core x l.toNat go else go s)

/-! ### Stream and update barriers (R274, R275) -/

/-- SBAR: the units that the named streams of the issuing region wrote are flushed and performed, with every write that waits at a
port; it completes when their reads and writes outside the module are answered too (R151, R274). -/
def execSbar (p : BitVec 2) (l : BitVec 5) (a : BitVec 1) (g : BitVec 2) (s : State) : Out :=
  .next (ctMem s p (a == 0#1) false l [] fun core x ix m _ =>
    let rid := (ctxOf s core x).rid
    let named (k : Nat) : Bool :=
      (a == 1#1 || (k / 64 == g.toNat && m.getLsbD (k % 64))) &&
        (s.sm.streams.at (core * 256 + k)).isOpen && (s.sm.streams.at (core * 256 + k)).rid == rid
    let s1 := coreFlush s core (fun u => u.streams.any named)
    if s1.eng.far.any (fun r => r.core == core && r.strm != 0 && named (r.strm - 1)) then ctHold s1 core x 9 l.toNat
    else ctDone s1 core x ix (some l.toNat) [])

/-- ABAR: every update accepted before it has been performed. An update is performed whole in the step of its access,
so none waits (R275). -/
def execAbar (p : BitVec 2) (l : BitVec 5) (_m : BitVec 8) (s : State) : Out :=
  .next (ctMem s p false false l [] fun core x ix _ _ => ctDone s core x ix (some l.toNat) [])

/-- The tile state that tbar's ST names. -/
def tbarState (q : BitVec 2) : TileSt := if q = 0#2 then .empty else if q = 1#2 then .filling else .ready

/-- TBAR: holds until the entry stands in the named state, for READY without a drain request too (R276). -/
def execTbar (p : BitVec 2) (l : BitVec 5) (q : BitVec 2) (k : BitVec 8) (s : State) : Out :=
  .next (ctMem s p false false l [] fun core x ix _ _ =>
    let t := s.st.tiles.at (tileKey core k.toNat)
    if t.badRef (ctxOf s core x).asid then ctMemFault s core x ix l.toNat [] (addrFlt 0x14 ix 0#64)
    else if t.st == tbarState q && (q != 2#2 || !t.drq) then ctDone s core x ix (some l.toNat) []
    else ctHold s core x 5 k.toNat)

/-! ### Yield and events (R277, R278) -/

/-- YIELD: 0 to its targets, and the frame at commit (R277). -/
def execYield (p : BitVec 2) (t : BitVec 9) (u : BitVec 9) (s : State) : Out :=
  .next (ctForm s p false false [t, u] fun core x ix _ _ =>
    ctDone (atCommit s core x ix .yield) core x ix none (outsOf [t, u] (some 0#64)))

/-- WFE: 0 to its targets, and the wait at commit (R278). -/
def execWfe (p : BitVec 2) (t : BitVec 9) (u : BitVec 9) (s : State) : Out :=
  .next (ctForm s p false false [t, u] fun core x ix _ _ =>
    ctDone (atCommit s core x ix .wfe) core x ix none (outsOf [t, u] (some 0#64)))

/-- SEV: a status at firing, and under OK the event at commit (R278). -/
def execSev (p : BitVec 2) (t : BitVec 9) (u : BitVec 9) (s : State) : Out :=
  .next (ctForm s p true false [t, u] fun core x ix a _ =>
    let c := (a.extractLsb' 0 8).toNat
    let y := (a.extractLsb' 8 3).toNat
    let z := ctxOf s c y
    if a.extractLsb' 11 53 != 0#53 then ctDone s core x ix none (outsOf [t, u] (some 2#64))
    else if z.st == .free || z.ten != (ctxOf s core x).ten then ctDone s core x ix none (outsOf [t, u] (some 1#64))
    else ctDone (atCommit s core x ix (.sev c y)) core x ix none (outsOf [t, u] (some 0#64)))

end Sys2Proof.Machine
end

