-- ==== Sys2Proof/Machine/CtStream.lean ====
section
/-! DEFINITION. Control-thread instructions on streams, ownership, banks and the tile table (R291–R293, R299, R300). -/

namespace Sys2Proof.Machine

/-! ### Streams (R291–R293) -/

/-- The 64 bytes of a descriptor, read as a load of the CT path: none where a poisoned word was read. -/
def descRead (s : State) (core x l : Nat) (mt : MType) (pa : Nat) : Option (List Word) × State :=
  let r := ctRead s core x l mt pa 64 false
  (r.1.map (wordsOf 8), r.2)

/-- What a descriptor that has been read does: it opens the stream, or the status says why not (R82, R291). -/
def sopenWith (s : State) (core x ix l k : Nat) (t : BitVec 9) (va : Word) (ws : List Word) : State :=
  let c := ctxOf s core x
  let n : Stream := { (default : Stream) with desc := ws }
  let e := s.st.tiles.at (tileKey core n.tile)
  let st := openStatus s core k n c.asid
  if st != 0 then ctDone s core x ix (some l) [(0, t, some (stTok st))]
  else if n.til && e.badRef c.asid then ctMemFault s core x ix l [t] (addrFlt 0x14 ix va)
  else if n.til && openBound s core n then ctMemFault s core x ix l [t] (addrFlt 0x15 ix (BitVec.ofNat 64 n.base))
  else if n.til && !e.canIssue then ctHold s core x 5 n.tile
  else ctIrrev s core x l (fun s =>
    let s := setIrrev s core x
    let s := if n.til then tileUse s core n.tile else s
    ctDone (streamOpen s core k ws c) core x ix (some l) [(0, t, some (stTok 0))])

/-- SOPEN: reads the descriptor and opens the stream, or answers why not; an irrevocable access where it opens (R291). A descriptor
in the remote window is read by a request that leaves the module (R256). -/
def execSopen (p : BitVec 2) (l : BitVec 5) (sc : BitVec 8) (t : BitVec 9) (s : State) : Out :=
  .next (ctMem s p true false l [t] fun core x ix a _ =>
    let c := ctxOf s core x
    let k := sc.toNat
    let r := ctTranslate s core c ix a .load 64
    match r.1.flt with
    | some e => ctMemFault r.2 core x ix l.toNat [t] e
    | none =>
      if r.1.wait then ctHold r.2 core x 9 l.toNat
      else match place r.1.pa with
      | .remote q o => ctIrrev r.2 core x l.toNat (fun s =>
          remoteIssue s core x ix q l.toNat 1 a (.inbound (nodeId s) (.read 64) (BitVec.ofNat 44 o) []) 0#24 none)
      | _ =>
        let d := descRead r.2 core x l.toNat r.1.mt r.1.pa
        match d.1 with
        | none => ctMemFault d.2 core x ix l.toNat [t] (addrFlt 0x13 ix a)
        | some ws => sopenWith d.2 core x ix l.toNat k t a ws)

/-- SCLOSE: completes when every access of the stream has been performed, with the counts word (R152, R291). -/
def execSclose (p : BitVec 2) (l : BitVec 5) (sc : BitVec 8) (t : BitVec 9) (s : State) : Out :=
  .next (ctMem s p false false l [t] fun core x ix _ _ =>
    let k := sc.toNat
    let n := streamOf s core k
    if !n.isOpen || n.rid != (ctxOf s core x).rid then ctDone s core x ix (some l.toNat) [(0, t, none)]
    else
      let s := streamSettle s core k
      if (streamOf s core k).unsettled || farWrites s core k then ctHold s core x 9 l.toNat
      else ctIrrev s core x l.toNat (fun s =>
        let s := streamShut (setIrrev s core x) core k
        ctDone s core x ix (some l.toNat) [(0, t, some (BitVec.ofNat 64 (streamOf s core k).counts))]))

/-- SSEEK: a status at firing; under OK the position moves at commit (R292). -/
def execSseek (p : BitVec 2) (sc : BitVec 8) (t : BitVec 9) (s : State) : Out :=
  .next (ctForm s p true false [t] fun core x ix a _ =>
    let n := streamOf s core sc.toNat
    let st := if !n.isOpen || n.rid != (ctxOf s core x).rid then 1
      else if n.count ≤ a.toNat || n.pat = 2 || n.dir ≥ 2 then 2 else 0
    let s := if st = 0 then atCommit s core x ix (.sseek sc.toNat a.toNat) else s
    ctDone s core x ix none [(0, t, some (stTok st))])

/-- SHAND: a status at firing; under OK the hand-over at commit (R293). -/
def execShand (p : BitVec 2) (o : BitVec 4) (t : BitVec 9) (s : State) : Out :=
  .next (ctForm s p false false [t] fun core x ix _ _ =>
    let e := s.sm.own.at (core * 16 + o.toNat)
    let st := if !e.v || e.asid != (ctxOf s core x).asid then 1 else 0
    let s := if st = 0 then atCommit s core x ix (.shand o.toNat) else s
    ctDone s core x ix none [(0, t, some (stTok st))])

/-! ### Banks (R299) -/

/-- Does a bank lie in the bank allotment of a region on a core? -/
def bankAllotted (s : State) (core rid b : Nat) : Bool :=
  rid != 0 && (List.range 4).any (fun g => slotRid s core g == rid && (s.rg.slots.at (slotIx core g)).allot.getLsbD b)

/-- BANKM: a bank change at its LSID position, irrevocable (R40–R42, R299). -/
def execBankm (p : BitVec 2) (l : BitVec 5) (b : BitVec 5) (t : BitVec 9) (s : State) : Out :=
  .next (ctMem s p true false l [t] fun core x ix a _ =>
    let n := (a.extractLsb' 3 5).toNat
    let first := (a.extractLsb' 0 3).toNat * 24 + b.toNat
    let mode : BankMode := match (a.extractLsb' 8 2).toNat with
      | 0 => .cache | 1 => .scratch | 2 => .fifo | _ => .accum
    let c : BankChange := { mode := mode, ilv := a.extractLsb' 10 2 }
    let done (st : BankSt) (s : State) : State := ctDone s core x ix (some l.toNat) [(0, t, some (stTok st.code))]
    if (List.range n).any (fun i => decide (b.toNat + i < 24) && !bankAllotted s core (ctxOf s core x).rid (first + i)) then done .owner s
    else if a.extractLsb' 12 52 != 0#52 || decide (24 ≤ b.toNat) then done .badmode s
    else match bankCheck s core first n c with
    | .ok => ctIrrev s core x l.toNat (fun s => storesReady s core x l.toNat (fun s =>
        let r := bankChange (storesFirst (setIrrev s core x) core x l.toNat) core first n c
        done r.1 r.2))
    | st => done st s)

/-! ### The tile table (R54, R55, R300) -/

/-- Codes of R300. -/
def TileStatus.code : TileStatus → Nat
  | .ok => 0 | .live => 1 | .badsize => 2 | .badspace => 3 | .overlap => 4 | .badstate => 5

/-- A ttset without an operand: TILEREF, BADSTATE for an entry of a zone, else what `k` answers. -/
def ctTile (s : State) (p : BitVec 2) (k : BitVec 8) (t : BitVec 9) (g : Nat → Tile → State → TileStatus × State) : State :=
  ctCommand s p false false false [t] fun core x ix _ _ =>
    let e := s.st.tiles.at (tileKey core k.toNat)
    if e.badRef (ctxOf s core x).asid then ctPerformed s core x ix [(0, t, some (stTok 6))]
    else if inZone s core k.toNat then ctPerformed s core x ix [(0, t, some (stTok 5))]
    else
      let r := g core e s
      ctPerformed r.2 core x ix [(0, t, some (stTok r.1.code))]

/-- An event of R55 on an entry: BADSTATE in every other state. -/
def tileEvent (k : BitVec 8) (st : TileSt) (f : Tile → Tile) (core : Nat) (e : Tile) (s : State) : TileStatus × State :=
  if e.st == st then (.ok, tileUpd s core k.toNat f) else (.badstate, s)

/-- TTSET define: the checks of R54 in order, with ASID := CTXID.ASID; must-be-zero bits set answer BADSIZE (DESIGN CHOICE, log entry 62). -/
def execTtsetDefine (p : BitVec 2) (k : BitVec 8) (t : BitVec 9) (s : State) : Out :=
  .next (ctCommand s p true false false [t] fun core x ix a _ =>
    let asid := (ctxOf s core x).asid
    let e := s.st.tiles.at (tileKey core k.toNat)
    let sp := a.getLsbD 44
    let sz := (a.extractLsb' 39 5).toNat
    let off := (a.extractLsb' 0 26).toNat
    let resv := a.extractLsb' 45 19 != 0#19 || a.extractLsb' 26 13 != 0#13
    if e.isDef && e.asid != asid then ctPerformed s core x ix [(0, t, some (stTok 6))]
    else if inZone s core k.toNat then ctPerformed s core x ix [(0, t, some (stTok 5))]
    else
      let st := tileDefCheck s core k.toNat sp sz off asid
      let st := if resv && st != .live then .badsize else st
      let s := if st == .ok then tileDefine s core k.toNat sp sz off asid else s
      ctPerformed s core x ix [(0, t, some (stTok st.code))])

/-- TTSET undefine: an EMPTY entry only (R54). -/
def execTtsetUndefine (p : BitVec 2) (k : BitVec 8) (t : BitVec 9) (s : State) : Out :=
  .next (ctTile s p k t fun core e s => if e.st == .empty then (.ok, tileUndefine s core k.toNat) else (.live, s))

/-- TTSET fill: fill begin (R55). -/
def execTtsetFill (p : BitVec 2) (k : BitVec 8) (t : BitVec 9) (s : State) : Out :=
  .next (ctTile s p k t (tileEvent k .empty Tile.fillBegin))

/-- TTSET ready: fill end (R55). -/
def execTtsetReady (p : BitVec 2) (k : BitVec 8) (t : BitVec 9) (s : State) : Out :=
  .next (ctTile s p k t (tileEvent k .filling (fun e => { e with st := .ready })))

/-- TTSET abort: fail (R55). -/
def execTtsetAbort (p : BitVec 2) (k : BitVec 8) (t : BitVec 9) (s : State) : Out :=
  .next (ctTile s p k t (tileEvent k .filling Tile.toEmpty))

/-- TTSET drain: a drain request (R55). -/
def execTtsetDrain (p : BitVec 2) (k : BitVec 8) (t : BitVec 9) (s : State) : Out :=
  .next (ctTile s p k t fun core e s =>
    if e.st == .ready && !e.drq then (.ok, tileUpd s core k.toNat (fun e => Tile.settle { e with drq := true })) else (.badstate, s))

/-- TTSET empty: release (R55). -/
def execTtsetEmpty (p : BitVec 2) (k : BitVec 8) (t : BitVec 9) (s : State) : Out :=
  .next (ctTile s p k t (tileEvent k .draining Tile.toEmpty))

/-- TTQ: a word of an entry; null where another ASID owns it (R300). -/
def execTtq (p : BitVec 2) (w : BitVec 1) (k : BitVec 8) (t : BitVec 9) (s : State) : Out :=
  .next (ctForm s p false false [t] fun core x ix _ _ =>
    let e := s.st.tiles.at (tileKey core k.toNat)
    let v : Tok := if e.isDef && e.asid != (ctxOf s core x).asid then none else some (e.word w.toNat)
    ctDone s core x ix none [(0, t, v)])

end Sys2Proof.Machine
end

