-- ==== Sys2Proof/Machine/CtRegion.lean ====
section
/-! DEFINITION. Control-thread instructions on regions (R294–R298) and the steps that end them. -/

namespace Sys2Proof.Machine

/-- A region form acts on its context's region in a slot of its core; any other slot answers NOSLOT (R294). -/
def ctMine (s : State) (core x : Nat) (g : BitVec 2) : Bool :=
  let rid := (ctxOf s core x).rid
  rid != 0 && slotRid s core g.toNat == rid

/-- A status in [63:56] with a value in [55:0]. -/
def regTok (st : Nat) (v : Word) : Word := (BitVec.ofNat 64 (st * 2 ^ 56)) ||| (v &&& 0x00FFFFFFFFFFFFFF#64)

/-! ### cfgld and cfgsh (R295, R296) -/

/-- cfgld and cfgsh: their load is a step of its own; the context is HELD for it. A slot that is live fails the launch
with SLOTLIVE (R184, R295); an address that is no multiple of 64 is the fault ALIGN (DESIGN CHOICE, log entry 62). -/
def ctConfig (s : State) (p : BitVec 2) (g : BitVec 2) (t : BitVec 9) (sh : Bool) : State :=
  ctForm s p true false [t] fun core x ix a _ =>
    let rid := (ctxOf s core x).rid
    if !ctMine s core x g then ctDone s core x ix none [(0, t, some (regTok 10 0#64))]
    else if !sh && (s.rg.slots.at (slotIx core g.toNat)).live then
      ctDone (launchFail s rid 0x31 (coreLoc core)) core x ix none [(0, t, some (regTok 1 (coreLoc core)))]
    else if a.toNat % 64 != 0 then ctFault (ctFired s core x ix) core x (addrFlt 0x12 ix a)
    else
      let s := pendIssue s core x ix (if sh then .cfgsh else .cfgld) 0 0 (g.setWidth 64) 0#64 a
      pushEv s .cfgldComplete { (default : EvArg) with core := BitVec.ofNat 8 core, ctx := BitVec.ofNat 3 x }

/-- CFGLD: loads the region's configuration for the core (R295). -/
def execCfgld (p : BitVec 2) (g : BitVec 2) (t : BitVec 9) (s : State) : Out := .next (ctConfig s p g t false)

/-- CFGSH: writes the shadow tables of the slot (R296). -/
def execCfgsh (p : BitVec 2) (g : BitVec 2) (t : BitVec 9) (s : State) : Out := .next (ctConfig s p g t true)

/-- The block fault that a failed read of an image is (R24, R43, R50). -/
def MemFault.block (f : MemFault) (ix : Nat) : Flt :=
  match f.kind with
  | .poison => addrFlt 0x13 ix f.va
  | _ => xlateFlt f.st.code ix f.va

/-- The load of a pending cfgld or cfgsh is performed: it ends in a block fault, is looked at again while a bank still changes, or
answers its status, the launch failing where R295 says so. A block that is abandoned later takes the load back. -/
def configEnd (s : State) (w : PendOp) : State :=
  let c := ctxOf s w.core w.ctx
  let g := (w.a.extractLsb' 0 2).toNat
  let a := ctxActor w.core c
  let sh := w.kind == .cfgsh
  let ts := targetsAt (frameOf s w.core w.ctx) w.ix
  let r := if sh then shadowLoad s a w.core g w.va.toNat else configLoad s a w.core g c.rid c.asid w.va.toNat
  let tok (st : Nat) (v : Word) (s : State) : State := ctDone s w.core w.ctx w.ix none (outsOf ts (some (regTok st v)))
  match r.1 with
  | .busy => s
  | .fault f => ctFault (ctFired (pendEnd r.2 w) w.core w.ctx w.ix) w.core w.ctx (f.block w.ix)
  | .status st err loc =>
    let s := pendEnd r.2 w
    if st = 0 then
      let s := atCommit s w.core w.ctx w.ix (.cfg g sh)
      tok 0 0#64 (progress s w.core c.rid)
    else
      let s := if sh then s else launchFail s c.rid err loc
      tok st loc s

/-- CFGLD_COMPLETE: the pending load of a context is performed (R295, R296, R351). A slot that the region no longer
holds answers NOSLOT. -/
def execCfgldComplete (s : State) : Out :=
  let core := s.sim.arg.core.toNat
  let x := s.sim.arg.ctx.toNat
  match pendOf s core x (fun k => k == .cfgld || k == .cfgsh) with
  | none => .next s
  | some w =>
    if slotRid s core (w.a.extractLsb' 0 2).toNat = (ctxOf s core x).rid then .next (configEnd s w)
    else .next (ctDone (pendEnd s w) core x w.ix none (outsOf (targetsAt (frameOf s core x) w.ix) (some (regTok 10 0#64))))

/-! ### rgo, rmark, rroll (R297) -/

/-- RGO: starts the region on the core; a second one answers RUNNING (R297). -/
def execRgo (p : BitVec 2) (g : BitVec 2) (t : BitVec 9) (s : State) : Out :=
  .next (ctCommand s p false false false [t] fun core x ix _ _ =>
    let rid := (ctxOf s core x).rid
    if !ctMine s core x g then ctPerformed s core x ix [(0, t, some (regTok 10 0#64))]
    else if (s.rg.slots.at (slotIx core g.toNat)).live then ctPerformed s core x ix [(0, t, some (regTok 1 0#64))]
    else ctPerformed (regionGo s core g.toNat rid) core x ix [(0, t, some (regTok 0 0#64))])

/-- RMARK: starts a marker wave at the sources of the region on the core; BUSY while one is in flight (R297, R386). -/
def execRmark (p : BitVec 2) (g : BitVec 2) (t : BitVec 9) (s : State) : Out :=
  .next (ctCommand s p true false false [t] fun core x ix a _ =>
    let rid := (ctxOf s core x).rid
    if !ctMine s core x g then ctPerformed s core x ix [(0, t, some (regTok 10 0#64))]
    else if (regionOf s rid).inFlight then ctPerformed s core x ix [(0, t, some (regTok 1 0#64))]
    else
      let s := waveStart s rid (a.extractLsb' 0 24).toNat [core] (some (ctxKey core x))
      ctPerformed s core x ix [(0, t, some (regTok 0 0#64))])

/-- RROLL: requests the region's rollback (R297, R389). -/
def execRroll (p : BitVec 2) (g : BitVec 2) (t : BitVec 9) (s : State) : Out :=
  .next (ctCommand s p false false false [t] fun core x ix _ _ =>
    let rid := (ctxOf s core x).rid
    if !ctMine s core x g then ctPerformed s core x ix [(0, t, some (regTok 10 0#64))]
    else
      let s := regUpd s rid (fun r => { r with want := true, inFlight := false })
      let s := pushEv s .regionRollback { (default : EvArg) with n := rid }
      ctPerformed s core x ix [(0, t, some (regTok 0 0#64))])

/-- RSTAT: reads a stream's counts, the region's RCB word 6 or its waves; null for other selections and for objects of
another region (R298). -/
def execRstat (p : BitVec 2) (q : BitVec 6) (k : BitVec 8) (t : BitVec 9) (s : State) : Out :=
  .next (ctForm s p false false [t] fun core x ix _ _ =>
    let rid := (ctxOf s core x).rid
    let n := streamOf s core k.toNat
    let own := rid != 0 && n.rid == rid
    let g := k.toNat % 4
    let here := rid != 0 && slotRid s core g == rid
    let r := regionOf s rid
    let v : Tok := match q.toNat with
      | 0 => if own then some (regTok 0 (BitVec.ofNat 64 n.counts)) else none
      | 1 => if own then some (regTok 0 (BitVec.ofNat 64 (n.nulln % 65536 * 2 ^ 40 + n.done % 2 ^ 40))) else none
      | 2 => if here then some (regTok 0 r.word6) else none
      | 3 => if here then
          some (regTok 0 (BitVec.ofNat 64 (r.lastId % 2 ^ 24 + (if r.inFlight then r.waveId % 2 ^ 24 * 2 ^ 24 + 2 ^ 48 else 0))))
        else none
      | _ => none
    ctDone s core x ix none [(0, t, v)])

/-! ### rdrain (R297) -/

/-- RDRAIN: holds its context until the region's work on the core has ended (R297). -/
def execRdrain (p : BitVec 2) (g : BitVec 2) (t : BitVec 9) (s : State) : Out :=
  .next (ctForm s p false false [t] fun core x ix _ _ =>
    let rid := (ctxOf s core x).rid
    if !ctMine s core x g then ctDone s core x ix none [(0, t, some (regTok 10 0#64))]
    else
      let s := regUpd s rid (fun r => { r with
        drainCores := if r.drainCores.contains core then r.drainCores else r.drainCores ++ [core] })
      let r := regionOf s rid
      let s := if r.rst == 2 && r.members.all (fun c => r.drainCores.contains c) then setRst s rid 3 else s
      let s := pendIssue s core x ix .rdrain 0 0 (g.setWidth 64) 0#64 0#64
      pushEv s .regionDrainComplete { (default : EvArg) with core := BitVec.ofNat 8 core, ctx := BitVec.ofNat 3 x })

/-- The number of waves, plus one, that a pending rdrain waits to see completed; 0 before its final wave has started. -/
def drainWave (s : State) (w : PendOp) (n : Nat) : State :=
  { s with ctl.pend := s.ctl.pend.map (fun y => if y == w then { y with b := BitVec.ofNat 64 n } else y) }

/-- What a pending rdrain can do now: fail with its region, start the final wave, whose id no rule gives (a free value,
log entry 19), or complete. -/
def drainStep (s : State) (w : PendOp) : State :=
  let rid := (ctxOf s w.core w.ctx).rid
  let r := regionOf s rid
  let ts := targetsAt (frameOf s w.core w.ctx) w.ix
  let tok (st : Nat) (s : State) : State := ctDone (pendEnd s w) w.core w.ctx w.ix none (outsOf ts (some (regTok st 0#64)))
  if r.rst = 5 || r.rst = 7 then tok 2 s
  else if r.inFlight || r.want || !coreIdle s rid w.core then s
  else if w.b = 0#64 then
    let id := freeN s
    drainWave (waveStart id.2 rid (id.1 % 2 ^ 24) [w.core] none) w (r.wave + 1)
  else if r.wave < w.b.toNat then drainWave s w 0
  else
    let s := tok 0 (regUpd s rid (fun r => { r with drained := r.drained ++ [w.core] }))
    let r := regionOf s rid
    if r.members.all (fun c => r.drained.contains c) then
      regionDone (if r.rst = 3 then s else setRst s rid 3) rid
    else s

/-- REGION_DRAIN_COMPLETE: a context in rdrain is looked at, after the drain has closed the streams left open (R291, R297, R183). -/
def execRegionDrainComplete (s : State) : Out :=
  match pendOf s s.sim.arg.core.toNat s.sim.arg.ctx.toNat (· == .rdrain) with
  | none => .next s
  | some w =>
    let rid := (ctxOf s w.core w.ctx).rid
    let st := (regionOf s rid).rst
    .next (drainStep (if st = 5 || st = 7 then s else drainStreams s rid w.core) w)

/-! ### Waves and rollback -/

/-- MARKER_WAVE_COMPLETE: the wave in flight of region `n` completes once its MARK has reached every sink and every
snapshot is written (R386–R388). -/
def execMarkerWaveComplete (s : State) : Out :=
  .next (if waveClear s s.sim.arg.n then waveDone s s.sim.arg.n else s)

/-- REGION_ROLLBACK: region `n` rolls back for the error code in `unit` (R389). -/
def execRegionRollback (s : State) : Out := .next (regionRollback s s.sim.arg.n s.sim.arg.unit.toNat)

end Sys2Proof.Machine
end

