-- ==== Sys2Proof/Machine/CtZone.lean ====
section
/-! DEFINITION. Control-thread instructions on landing zones (R307), and the steps at both ends of a reservation
(R127–R137, R437). -/

namespace Sys2Proof.Machine

/-! ### zrel, zbar, zanno -/

def ZopSt.code : ZopSt → Nat
  | .ok => 0 | .badstate => 1 | .badrange => 2 | .nozone => 3
def ZoneSt.code : ZoneSt → Nat
  | .ok => 0 | .live => 1 | .badzone => 2 | .badspace => 3

/-- ZREL: releases a READY slot, or aborts a FILLING one (R136). -/
def execZrel (p : BitVec 2) (t : BitVec 9) (u : BitVec 9) (s : State) : Out :=
  .next (ctCommand s p true true false [t, u] fun core x ix l _ =>
    let r := zoneRel s core (l.extractLsb' 0 3).toNat (l.extractLsb' 3 6).toNat (l.getLsbD 9) (l.extractLsb' 10 54 != 0#54)
      (ctxOf s core x).asid
    ctPerformed r.2 core x ix (outsOf [t, u] (some (stTok r.1.code))))

/-- ZBAR: arms the arrival barrier of a slot (R132). -/
def execZbar (p : BitVec 2) (t : BitVec 9) (u : BitVec 9) (s : State) : Out :=
  .next (ctCommand s p true true false [t, u] fun core x ix l r =>
    let z := zoneBar s core (l.extractLsb' 0 3).toNat (l.extractLsb' 3 6).toNat (r.extractLsb' 52 12).toNat
      (r.extractLsb' 0 21).toNat (l.extractLsb' 9 6).toNat (l.extractLsb' 15 49 != 0#49 || r.extractLsb' 21 31 != 0#31)
      (ctxOf s core x).asid
    ctPerformed z.2 core x ix (outsOf [t, u] (some (stTok z.1.code))))

/-- ZANNO: defines a zone from a header image, or undefines it (R126, R307); an image that is not aligned answers BADZONE (DESIGN CHOICE,
log entry 62). -/
def execZanno (p : BitVec 2) (t : BitVec 9) (u : BitVec 9) (s : State) : Out :=
  .next (ctCommand s p true true false [t, u] fun core x ix l r =>
    let c := ctxOf s core x
    let z := (r.extractLsb' 0 3).toNat
    let undef := r.getLsbD 3
    let d := zoneOf s core z
    let out (st : ZoneSt) (s : State) : State := ctPerformed s core x ix (outsOf [t, u] (some (stTok st.code)))
    if r.extractLsb' 4 60 != 0#60 || (!undef && l.toNat % 64 != 0) then out .badzone s
    else if d.v && d.asid != c.asid then out .live s
    else if undef then
      (if !d.v then out .ok s
      else
        let q := zoneUndefine s core z
        out q.1 q.2)
    else
      let m := memWords s (ctxActor core c) l.toNat 8
      match m.1 with
      | .inl f => ctFault (ctFired m.2 core x ix) core x (match f.kind with
          | .poison => addrFlt 0x13 ix f.va
          | _ => xlateFlt f.st.code ix f.va)
      | .inr ws =>
        let n := Zone.ofWords ws c.asid c.rid
        let st := zoneDefCheck m.2 core z n.1 n.2
        out st (if st = .ok then zoneDefine m.2 core z n.1 else m.2))

/-! ### zres (R127–R129) -/

/-- The state of the way to a node: a port that is up, one whose retrain window runs, or none. -/
inductive Way
  | up (port : Nat)
  | waits
  | lost
  deriving DecidableEq, Repr, Inhabited

/-- The way a zres takes: through a port whose link partner is the node, or where no port has that partner through any
trained port (log entry 6). -/
def wayTo (s : State) (node : BitVec 10) : Way × State :=
  let mine := (List.range 24).filter (fun p => (s.lnk.ports.at p).en && (s.lnk.ports.at p).peer == node)
  match mine.find? (fun p => (s.lnk.ports.at p).up) with
  | some p => (.up p, s)
  | none =>
    if mine.any (fun p => (s.lnk.ports.at p).retrain.isSome) then (.waits, s)
    else if !mine.isEmpty then (.lost, s)
    else
      let q := portTo s node
      let p := s.lnk.ports.at q.1
      (if p.up then .up q.1 else if p.retrain.isSome then .waits else .lost, q.2)

/-- ZRES: asks the receiving core for a slot and waits for the reply in its frame (R127, R307, R437). A zres that awaits its reply counts
as an entry of the reservation table, so that an OK reply always finds room (DESIGN CHOICE, log entry 60). -/
def execZres (p : BitVec 2) (t : BitVec 9) (u : BitVec 9) (s : State) : Out :=
  .next (ctCommand s p true true false [t, u] fun core x ix l r =>
    let out (st : ResvSt) (s : State) : State := ctPerformed s core x ix (outsOf [t, u] (some (resvWord st 0#16 0)))
    let pe := s.xl.peers.at (l.extractLsb' 0 7).toNat
    let loc := l.getLsbD 7
    let rq : ResvReq := {
      zh := l, node := nodeId s, core := BitVec.ofNat 8 core, ctx := BitVec.ofNat 3 x, ring := r.extractLsb' 0 6
      inPort := none, outPort := none }
    if l.extractLsb' 19 22 != 0#22 then out .badh s
    else if !loc && !pe.v then out .nopeer s
    else if 64 ≤ (s.zn.resv.at core).length + (s.ctl.pend.filter (fun w => w.core == core && w.kind == .zres)).length then out .norec s
    else if loc then
      let s := pendIssue (setIrrev s core x) core x ix .zres 18 0 l 0#64 0#64
      pushEv s .reservationRequest { (default : EvArg) with load := .resv rq }
    else
      let w := wayTo s pe.node
      match w.1 with
      | .lost => out .linkLost w.2
      | .waits => ctHold w.2 core x 19 0
      | .up q =>
        let s := pendIssue (setIrrev w.2 core x) core x ix .zres 18 0 l 0#64 0#64
        let s := { s with ctl.pend := s.ctl.pend.map (fun y =>
          if y.core == core && y.ctx == x && y.kind == .zres then { y with port := q + 1 } else y) }
        sendOut s { port := q, node := pe.node, load := .resv { rq with outPort := some q } })

/-- RESERVATION_REQUEST: the receiving core decides the request in `load` and replies (R127, R128, R130). -/
def execReservationRequest (s : State) : Out :=
  match s.sim.arg.load with
  | .resv rq =>
    let core := (rq.zh.extractLsb' 8 2).toNat * 64 + (rq.zh.extractLsb' 10 6).toNat
    let d := resvDecide s core rq
    let v := resvWord d.1 d.2.2.1 d.2.1
    let reply : Payload := .resvReply rq.core rq.ctx v rq.zh rq.ring rq.outPort
    let s := d.2.2.2
    .next (match rq.inPort with
      | none => pushEv s .reservationReply { (default : EvArg) with load := reply }
      | some q => sendOut s { port := q, node := rq.node, load := reply })
  | _ => .next s

/-- A zres ends with its reply word. -/
def zresEnd (s : State) (w : PendOp) (v : Word) : State :=
  ctDone (pendEnd s w) w.core w.ctx w.ix none (outsOf (targetsAt (frameOf s w.core w.ctx) w.ix) (some v))

/-- RESERVATION_REPLY: the reply in `load` arrives at the requester: an OK one makes a reservation entry, and the zres that
waits for it completes (R127, R129). -/
def execReservationReply (s : State) : Out :=
  match s.sim.arg.load with
  | .resvReply core ctx v zh ring port =>
    let c := ctxOf s core.toNat ctx.toNat
    let e : Resv := {
      zh := zh, slot := v.extractLsb' 42 6, gen := v.extractLsb' 48 16, port := port, ring := ring.toNat, asid := c.asid, rid := c.rid }
    let s := if v.extractLsb' 0 8 = 0#8 then { s with zn.resv := s.zn.resv.upd core.toNat (fun es => es ++ [e]) } else s
    .next (match pendOf s core.toNat ctx.toNat (· == .zres) with
      | none => s
      | some w => zresEnd s w v)
  | _ => .next s

/-! ### Writes and end tokens (R131) -/

/-- Does an inbound window with W of the zone's ASID take a write aimed at a slot (R131)? A write of this module needs
none. Only its bytes within the slot are looked at: those beyond are dropped with BOUNDS. -/
def slotAdmits (s : State) (w : SlotWrite) : Bool :=
  w.inPort.isNone ||
    (let core := w.core.toNat
     let d := zoneOf s core w.zone.toNat
     let size := 2 ^ d.sz.toNat
     let off := if size ≤ w.off then 0 else w.off
     let n := if size ≤ w.off then 0 else min w.data.length (size - w.off)
     match winFor s w.src (·.w) (bankWin core + d.off.toNat + w.slot.toNat * size + off) n with
     | some i => i.asid == d.asid
     | none => false)

/-- The receiver answers the copy that sent a write or an end token. -/
def slotAnswer (s : State) (w : SlotWrite) (st : CopySt) (bytes : Nat) (last : Bool) : State :=
  match w.inPort with
  | none => s
  | some q => sendOut s { port := q, node := w.src, load := .copyReply w.copyCore w.copyId (BitVec.ofNat 8 st.code) bytes last }

/-- SLOT_WRITE_ARRIVAL: a write aimed at a landing slot is checked, performed or dropped, and answered (R57, R131, R135). -/
def execSlotWriteArrival (s : State) : Out :=
  match s.sim.arg.load with
  | .slotWrite w =>
    if entryBusy s w.core.toNat (slotTile (zoneOf s w.core.toNat w.zone.toNat) w.slot.toNat) then .next (parkEv s .slotWriteArrival)
    else if !slotAdmits s w then .next (slotAnswer s w .refused 0 false)
    else
      let size := (slotEnt s w.core.toNat w.zone.toNat w.slot.toNat).size
      let r := slotWrite s w
      let n := match r.1 with
        | .ok => w.data.length
        | .bounds => min w.data.length (size - w.off)
        | _ => 0
      .next (slotAnswer r.2 w r.1 n false)
  | _ => .next s

/-- SLOT_END_TOKEN: a copy's end token reaches its slot: CA increases, and the phase may complete (R131, R133, R135). -/
def execSlotEndToken (s : State) : Out :=
  match s.sim.arg.load with
  | .slotEnd w =>
    if entryBusy s w.core.toNat (slotTile (zoneOf s w.core.toNat w.zone.toNat) w.slot.toNat) then .next (parkEv s .slotEndToken)
    else if !slotAdmits s w then .next (slotAnswer s w .refused 0 true)
    else
      let r := slotEnd s w
      .next (slotAnswer r.2 w r.1 0 true)
  | _ => .next s

/-! ### Notices, timeout -/

/-- PHASE_NOTICE_ARRIVAL: the notice of words `v` and `w` reaches the port of `core`, which writes it to the holder's ring
`unit` and removes the reservation entry (R133). -/
def execPhaseNoticeArrival (s : State) : Out :=
  let a := s.sim.arg
  let core := a.core.toNat
  let mine (r : Resv) : Bool :=
    r.slot == a.v.extractLsb' 21 6 && r.gen == a.v.extractLsb' 0 16 && r.zh.extractLsb' 16 3 == a.v.extractLsb' 27 3 &&
      r.zh.extractLsb' 10 6 == a.v.extractLsb' 30 6 && r.zh.extractLsb' 8 2 == a.v.extractLsb' 36 2 &&
      (if r.zh.getLsbD 7 then nodeId s else (s.xl.peers.at (r.zh.extractLsb' 0 7).toNat).node) == a.v.extractLsb' 38 10
  let s := ringPush s core (a.unit.toNat % 64) ((s.zn.resv.at core).find? mine) a.v a.w
  .next { s with zn.resv := s.zn.resv.upd core (fun rs => match rs.find? mine with
      | some r => rs.erase r
      | none => rs) }

/-- RESERVATION_TIMEOUT: the slot `sub` of zone `unit` on a core, still FILLING when TMO µs have passed since its grant,
fails with TIMEOUT (R128, R136). -/
def execReservationTimeout (s : State) : Out :=
  let core := s.sim.arg.core.toNat
  let z := s.sim.arg.unit.toNat % 8
  let k := s.sim.arg.sub.toNat % 64
  let d := zoneOf s core z
  .next (if d.v && decide (k ≤ d.ns1.toNat) && (slotEnt s core z k).st == .filling && d.tmo != 0#16 &&
      decide (d.tmo.toNat * 1000 ≤ (s.dev.gtsc - (blkOf s core z k).since).toNat) then slotFail s core z k 4 none
    else s)

/-- The zres requests that a lost link ends (R137). -/
def zresLinkLost (s : State) (port : Nat) (src : Option (BitVec 10)) : State :=
  (s.ctl.pend.filter (fun w => w.kind == .zres && w.port == port + 1 &&
      lostFor src (s.xl.peers.at (w.a.extractLsb' 0 7).toNat).node)).foldl
    (fun s w => zresEnd s w (resvWord .linkLost 0#16 0)) s

end Sys2Proof.Machine
end

