-- ==== Sys2Proof/Machine/Steps.lean ====
section
/-! DEFINITION. The steps of banks, caches, the L2, the tile table, queues, accumulator ports and streams that run on
their own: each performs the operation its chapter gives on the object that its operands name; and the replies of requests that left the
module. -/

namespace Sys2Proof.Machine

/-! ### Walks (R26, R27) -/

/-- WALK_SLOT_GRANT: a free slot of die `die` goes to a waiting request. -/
def execWalkSlotGrant (s : State) : Out := .next (walkGrant s s.sim.arg.die.toNat)
/-- WALK_COMPLETE: the oldest granted walk of die `die` ends. -/
def execWalkComplete (s : State) : Out := .next (walkEnd s s.sim.arg.die.toNat)

/-! ### Banks (R36, R41, R42) -/

/-- BANK_PORT_GRANT: the port of bank `unit` of a core grants its oldest queued store. -/
def execBankPortGrant (s : State) : Out := .next (portGrant s s.sim.arg.core.toNat s.sim.arg.unit.toNat)
/-- BANK_CHANGE_REACH: an accepted change reaches bank `unit` of a core. -/
def execBankChangeReach (s : State) : Out := .next (bankReach s s.sim.arg.core.toNat s.sim.arg.unit.toNat)
/-- BANK_CHANGE_COMPLETE: the change in progress at bank `unit` of a core ends. -/
def execBankChangeComplete (s : State) : Out := .next (bankFinish s s.sim.arg.core.toNat s.sim.arg.unit.toNat)

/-! ### The core cache and the L2 (R45, R48, R50) -/

/-- CORE_CACHE_FILL: the sector of address `v` that a core missed under `asid` arrives from its home L2 (R45). -/
def execCoreCacheFill (s : State) : Out :=
  let e := s.sim.arg
  let pa := e.v.toNat
  let a : Actor := { core := e.core.toNat, path := .ct, asid := e.asid, gen := genOf s e.asid, rid := 0 }
  if place pa != .dram || (ccHit s a pa).isSome || (ccWays s a.core (ccSlice pa)).isEmpty then .next s else .next (ccFill s a pa false)

/-- L2_FILL_COMPLETE: the sector of address `v`, read from DRAM for an access under `asid`, fills its L2 line (R48). -/
def execL2FillComplete (s : State) : Out :=
  let pa := s.sim.arg.v.toNat
  if place pa != .dram || l2Holds s pa then .next s else .next (l2Touch (stackRead s pa) pa false true s.sim.arg.asid)

/-- The loss of dirty data under a poisoned tag reaches the regions of the line's owner list, or every live region where
the list overflowed or is lost: a context fault of each one's fault domain (R50, R384). -/
def tagLoss (s : State) (owners : List (BitVec 8)) (every : Bool) : State :=
  ((s.rg.regions.filter (fun x => !rstEnded x.2.rst && (every || owners.contains x.2.asid))).map (fun x => x.1 + 1)).foldl
    (fun s rid => if rstEnded (regionOf s rid).rst then s else contextFault s rid 0x02 (regionOf s rid).origin) s

/-- The path that a code of R174 names. -/
def pathOf (n : Nat) : Path := [Path.ct, .ag, .cp, .mx, .su, .cl, .en, .inb].getD n .inb

/-- L2_ACCESS: an access of path `unit`, by `core` under `asid` for region `n`, is performed at its home L2: a read, a
write or an atomic of `load`; with `flag`, the loss that a poisoned tag caused is reported instead. -/
def execL2Access (s : State) : Out :=
  let e := s.sim.arg
  let a : Actor := { core := e.core.toNat, path := pathOf e.unit.toNat, asid := e.asid, gen := genOf s e.asid, rid := e.n }
  if e.flag then .next (tagLoss s e.data (e.n == 1))
  else match e.load with
  | .l2 pa kind data =>
    if place pa.toNat != .dram then .next s
    else match kind with
    | .read n u => .next (dramRead s a pa.toNat n u).2
    | .write u => if gateFull s a pa.toNat then .next (regionError s a.rid 0x1F (coreLoc a.core) []) else .next (dramWrite s a pa.toNat data u)
    | .atomic op _ => .next (atomicPerform s a .wb pa.toNat op.toNat (leWord data)).2
  | _ => .next s

/-! ### The tile table (R56, R57) -/

/-- TILE_ENGINE_WRITE: an engine or inbound write of `data` at offset `v` of entry `unit`, bearing GEN `sub`. -/
def execTileEngineWrite (s : State) : Out :=
  let e := s.sim.arg
  .next (if entryBusy s e.core.toNat e.unit.toNat then parkEv s .tileEngineWrite
    else (tileWrite s e.core.toNat e.unit.toNat e.sub e.v.toNat e.data).2)

/-- TILE_REF_ISSUE: a context that is HELD for a tile-table entry issues again once the entry is READY with DRQ = 0; the
use is counted as its instruction issues (R56). -/
def execTileRefIssue (s : State) : Out :=
  let core := s.sim.arg.core.toNat
  let x := s.sim.arg.ctx.toNat
  let c := ctxOf s core x
  if c.st == .held && c.wcode = 5 && (s.st.tiles.at (tileKey core c.widx)).canIssue then
    .next (ctxUpd s core x (fun c => { c with st := .run, wcode := 0, widx := 0 }))
  else .next s

/-! ### Queues (R63, R65, R67, R72) -/

/-- A token from source `sub` reaches queue `unit` of a core, counted as progress of its region. -/
def tokenArrives (s : State) : State :=
  let e := s.sim.arg
  let core := e.core.toNat
  progress (qToken s core e.unit.toNat e.sub.toNat e.tok).2 core (s.qu.queues.at (queueKey core e.unit.toNat)).rid

/-- QUEUE_RECORD_ARRIVAL: a REC reaches a queue. -/
def execQueueRecordArrival (s : State) : Out := .next (if isRec s.sim.arg.tok then tokenArrives s else s)
/-- QUEUE_DATA_TOKEN: a data token reaches a queue. -/
def execQueueDataToken (s : State) : Out := .next (if !tokC s.sim.arg.tok then tokenArrives s else s)
/-- QUEUE_MARKER_ARRIVAL: a control token that is no REC reaches a queue. -/
def execQueueMarkerArrival (s : State) : Out :=
  .next (if tokC s.sim.arg.tok && !isRec s.sim.arg.tok then tokenArrives s else s)
/-- SPILL_REFILL: the oldest ring entry of view `sub` of queue `unit` returns to the view's slots. -/
def execSpillRefill (s : State) : Out :=
  .next (spillRefill s s.sim.arg.core.toNat s.sim.arg.unit.toNat s.sim.arg.sub.toNat)

/-- The step in which a token reaches a queue, by its kind. -/
def queueTurn (s : State) (core n src : Nat) (t : FTok) : State :=
  let i : Instr := if isRec t then .queueRecordArrival else if tokC t then .queueMarkerArrival else .queueDataToken
  pushFirst s i { (default : EvArg) with
    core := BitVec.ofNat 8 core, unit := BitVec.ofNat 12 n, sub := BitVec.ofNat 16 src, tok := t }

/-! ### Streams and accumulator ports (R111–R117, R146, R153, R156) -/

/-- A step of stream `unit` of a core; the streams of a stopped region do nothing. -/
def streamStep (s : State) (k : State → Nat → Nat → State) : State :=
  let core := s.sim.arg.core.toNat
  let n := s.sim.arg.unit.toNat
  if stopped s (streamOf s core n).rid then s else k s core n

/-- ROW_ADD: the next element of an add stream's row add. -/
def execRowAdd (s : State) : Out := .next (streamStep s addAccess)
/-- TEMPER_READ: the next temper read of a stream. -/
def execTemperRead (s : State) : Out := .next (streamStep s temperAccess)
/-- AGU_STREAM_ACCESS: the next access of a stream. -/
def execAguStreamAccess (s : State) : Out := .next (streamStep s streamAccess)
/-- HAND_TOKEN: a HAND token at the head of a stream's port reaches the current owner. -/
def execHandToken (s : State) : Out := .next (streamStep s handToken)

/-- ADD_SCOPE_CLOSE: scope `sub` of set `unit` of a core closes at the add port for `asid`. -/
def execAddScopeClose (s : State) : Out :=
  let e := s.sim.arg
  .next (scopeClose s e.core.toNat (e.unit.toNat % 16) (e.sub.toNat % 16) e.asid).2

/-- 64 mc (R153), in ns. -/
def coalesceNs : Nat := 80

/-- COALESCE_IDLE_FLUSH: the units of node `unit` of a core that no write has entered for 64 mc are flushed. -/
def execCoalesceIdleFlush (s : State) : Out :=
  .next (nodeFlush s s.sim.arg.core.toNat s.sim.arg.unit.toNat (fun u => decide (u.used + coalesceNs ≤ s.dev.gtsc.toNat)))

/-! ### Replies (R256, R170) -/

/-- An atomic without a reply is recorded in the core's indeterminate table of 16 entries, the oldest going (R170). A retry leaves its
entry in place (R270). -/
def indetAdd (s : State) (w : PendOp) (asid : BitVec 8) : State :=
  match w.req with
  | none => s
  | some q =>
    if q.retry then s
    else
    let e : Indet := { tag := w.tag, asid := asid, req := q, node := w.c.setWidth 10, time := q.time }
    { s with ctl.indet := s.ctl.indet.upd w.core (fun es => (es ++ [e]).drop (es.length + 1 - 16)) }

/-- A pending request leaves the list. -/
def pendRemove (s : State) (w : PendOp) : State := { s with ctl.pend := s.ctl.pend.erase w }

/-- The instruction of a frame is no longer issued. -/
def unissue (s : State) (core x ix : Nat) : State :=
  frameUpd s core x (fun f => { f with issued := f.issued &&& ~~~(1#64 <<< ix) })

/-- Does the instruction at an index acquire, so that the core cache is invalidated after its remote load? -/
def Instr.acquires (i : Instr) : Bool :=
  match i with
  | .lda .. => true
  | .ldred .. => true
  | _ => false

/-- A remote access ends with a status (R256, R170): 0 OK, 10 REFUSED, 0x13 POISON, 16 INDET, 17 REPLAYED,
18 EXPIRED, 19 RQUOTA, 20 TAGCLASH. `v` is the value of a load or the old value; `far` the values of the remote
replicas of ldred, or the words of sopen's descriptor. -/
def replyEnd (s : State) (w : PendOp) (st : Nat) (v : Word) (far : List Word) : State :=
  let s := unissue (pendRemove s w) w.core w.ctx w.ix
  let f := frameOf s w.core w.ctx
  let c := ctxOf s w.core w.ctx
  let l := w.a.toNat
  let ts := targetsAt f w.ix
  match f.instr w.ix with
  | none => s
  | some i =>
    if w.b = 6#64 then
      -- ldred (R266)
      (match i with
        | .ldred _ _ sc t =>
          if st = 0 then ldredDone s w.core w.ctx w.ix l t sc.toNat w.c far
          else if st = 10 then ctMemFault s w.core w.ctx w.ix l ts (replicaFlt w.ix v.toNat 10)
          else let x := freeN s; ctMemFault x.2 w.core w.ctx w.ix l ts (replicaFlt w.ix v.toNat (x.1 % 16))
        | _ => s)
    else if st = 10 then
      ctMemFault s w.core w.ctx w.ix l ts { cls := 3, code := 0x10, xst := 10, idx := w.ix, addr := w.va }
    else if st = 0x13 then ctMemFault s w.core w.ctx w.ix l ts (addrFlt 0x13 w.ix w.va)
    else
      let s := setIrrev s w.core w.ctx
      if w.b = 3#64 || w.b = 4#64 then
        -- an atomic or a retry (R270)
        let n := atomicWidth (match w.req with
          | some q => q.op.toNat
          | none => 0)
        let s := if st = 16 then indetAdd s w c.asid
          else if w.b = 4#64 && st != 19 then indetDrop s w.core c.asid w.tag else s
        let s := astatAt s w.core w.ctx w.ix l st w.b.toNat w.tag.toNat
        let s := acquire s w.core 4
        let tok : Tok := if st = 0 || st = 17 then some (zx v (8 * n)) else none
        ctDone s w.core w.ctx w.ix (some l) (outsOf ts tok)
      else
        let s := astatAt s w.core w.ctx w.ix l st w.b.toNat 0
        let s := if Instr.acquires i then acquire s w.core 4 else s
        match i with
        | .sopen _ _ sc t =>
          if st = 0 then sopenWith s w.core w.ctx w.ix l sc.toNat t w.va far else ctDone s w.core w.ctx w.ix (some l) (outsOf ts none)
        | _ => ctDone s w.core w.ctx w.ix (some l) (outsOf ts (if st = 0 then some (Instr.loadExt i v) else none))

/-- The remote request a context waits for. -/
def remotePend (s : State) (core x : Nat) : Option PendOp :=
  s.ctl.pend.find? (fun w => w.core == core && w.ctx == x && w.kind == .remote)

/-- REMOTE_REPLY: a reply completes the access it answers; `n` is its status, `v` its value, `words` the values of
ldred's remote replicas (R256, R266, R270). With `flag` it answers the engine request `v` with the bytes of `data` (R24). A reply that
nothing waits for is dropped. -/
def execRemoteReply (s : State) : Out :=
  let a := s.sim.arg
  if a.flag then .next (farEnd s a.v.toNat a.n a.data)
  else match remotePend s a.core.toNat a.ctx.toNat with
  | none => .next s
  | some w => .next (replyEnd s w a.n a.v (if a.words.isEmpty then wordsOf (a.data.length / 8) a.data else a.words))

/-- The replicas of a replicated load that stand on other modules. -/
def ldredFar (s : State) (w : PendOp) : List Nat :=
  match place (w.c.toNat / 8) with
  | .repl g _ => (List.range (groupCount s g)).filter (fun i => !replicaHere s g i)
  | _ => []

/-- REMOTE_REPLY_TIMEOUT: 500 µs after the issue without a reply the access is INDET (R170, R256). Which of the remote replicas of a
replicated load has not answered is a free choice. -/
def execRemoteReplyTimeout (s : State) : Out :=
  let a := s.sim.arg
  match remotePend s a.core.toNat a.ctx.toNat with
  | none => .next s
  | some w =>
    if replyLimit ≤ (s.dev.gtsc - w.time).toNat then
      if w.b = 6#64 then
        let f := freeN s
        let is := ldredFar s w
        .next (replyEnd f.2 w 16 (BitVec.ofNat 64 (is.getD (f.1 % is.length) 0)) [])
      else .next (replyEnd s w 16 0#64 [])
    else .next s

end Sys2Proof.Machine
end

