-- ==== Sys2Proof/Machine/Fabric.lean ====
section
/-! DEFINITION. Elements at work (R185–R189, R203, R315–R325, R350): binding and checking heads, which handlers are runnable,
one firing, pulls, and shadow swaps. -/

namespace Sys2Proof.Machine

/-! ### Heads of input queues -/

/-- The head of an input queue. -/
def Elem.head (e : Elem) (q : Nat) : Option FTok := ((e.inq.at q).head?).map (·.tok)

/-- The handler index that a token is bound to (R321). -/
def Elem.bound (e : Elem) (t : FTok) : Option Nat := e.bind (tokCh t).toNat

def isCode (c : Nat) (t : FTok) : Bool := tokC t && tokCode t == c
def isSot (t : FTok) : Bool := isCode 1 t
def isEot (t : FTok) : Bool := isCode 2 t
/-- A reserved control code (R224). -/
def isReserved (t : FTok) : Bool := tokC t && (tokCode t == 0 || decide (10 < tokCode t))

/-- The queues that FIRE names, in ascending order. -/
def fireQs (h : HWord) : List Nat := [0, 1, 2, 3].filter (fun q => h.fire.getLsbD q)

/-- Does a handler send a result? -/
def sends (h : HWord) : Bool := h.outmask != 0#4 || h.dsel != 0#3

/-- The consumers that a handler's result waits for (R187). -/
def consumersOf (h : HWord) : List Nat :=
  [0, 1, 2, 3].filter (outGoes h) ++ (if h.dsel = 0#3 then [] else [3 + h.dsel.toNat])

/-- Do the elements of a slot act: it is enabled, not halted by a debugger, and its region goes on (R297, R389, R395)? -/
def slotActs (s : State) (core g : Nat) : Bool :=
  let k := s.rg.slots.at (slotIx core g)
  k.live && !k.halted && k.rid != 0 && !stopped s k.rid

/-- A slot of an element becomes BLOCKED, with its region error (R350). -/
def elemBlock (s : State) (key g code : Nat) : State :=
  let e := s.fab.elems.at key
  if e.blocked.getLsbD g then s
  else
    regionError (elemUpd s key (fun e => { e with blocked := e.blocked ||| (1#4 <<< g) })) (slotRid s (elemCore key) g) code (keyLoc key) []

/-- The slots that an unbound head of a queue blocks (R321). -/
def unboundSlots (e : Elem) (q : Nat) : List Nat :=
  match e.seg with
  | some g => [g]
  | none =>
    let named := (List.range 4).filter (fun g => e.act.any (fun h =>
      h.2.present && handlerSlot h.2 == g && (unpackHandler h.2.word).fire.getLsbD q))
    if named.isEmpty then (List.range 4).filter (fun g => e.qs.at (4 * g + q) != 0 && e.qs.at (4 * g + q) != 7) else named

/-- The slots of an element that a token concerns: its own, or for one that no slot's channel binds those of `unboundSlots`. -/
def tokSlots (e : Elem) (q : Nat) (t : FTok) : List Nat :=
  match e.tokSlot t with
  | some g => [g]
  | none => unboundSlots e q

/-- The checks on the head of a queue: CTLCODE, CHMAP and SEGNEST (R185, R224, R321). -/
def headCheck (key : Nat) (s : State) (q : Nat) : State :=
  let e := s.fab.elems.at key
  match e.head q with
  | none => s
  | some t =>
    if isReserved t then (tokSlots e q t).foldl (fun s g => elemBlock s key g 0x13) s
    else match e.tokSlot t with
    | none => (unboundSlots e q).foldl (fun s g => elemBlock s key g 0x14) s
    | some g =>
      if (isSot t && e.seg == some g) || (isEot t && e.seg.isNone) then elemBlock s key g 0x11
      else s

def headsCheck (s : State) (key : Nat) : State := [0, 1, 2, 3].foldl (headCheck key) s

/-- A token that comes to the head of a queue while the element is in another slot's segment raises SEGMIX there and is
discarded (R185). -/
def headArrive (key q : Nat) : Nat → State → State
  | 0, s => s
  | n + 1, s =>
    let e := s.fab.elems.at key
    match e.head q, e.seg with
    | some t, some g =>
      match e.tokSlot t with
      | some k =>
        if k = g then s
        else
          let s := elemUpd s key (fun e => { e with inq := e.inq.upd q (fun l => l.drop 1) })
          headArrive key q n (regionError s (slotRid s (elemCore key) k) 0x10 (keyLoc key) [])
      | none => s
    | _, _ => s

/-- A queue has a new head: its stamp is taken, and it is checked. -/
def headNew (key : Nat) (s : State) (q : Nat) : State :=
  let t := stamp s
  let s := elemUpd t.2 key (fun e => { e with inq := e.inq.upd q (fun l => match l with
    | x :: r => { x with at_ := t.1 } :: r
    | [] => []) })
  headArrive key q 3 s

/-! ### Operands (R220, R322) -/

/-- The token of a source code; `flt` tells an operation on XF42 values. -/
def operand (e : Elem) (hd : Handler) (flt : Bool) (c : Nat) : FTok :=
  if c < 4 then (e.head c).getD 0#48
  else if c < 8 then e.k.at (c - 4)
  else if c = 8 then e.st0
  else if c = 9 then e.st1
  else if c = 11 then (if flt then 0x1FF00000000#48 else 1#48)
  else if c = 12 then (if flt then weightTok 0#4 hd.rwt.toNat else hd.rwt.setWidth 48)
  else 0#48

/-- The record weight as an exact value. -/
def rwtVal (hd : Handler) : FV := if hd.rwt = 0#24 then .zero false else .fin false hd.rwt.toNat (-8)

/-! ### One firing (R322–R325) -/

/-- What a firing does: the element and handler with the state the operation changed, the token it sends, whether that token
is a result, whether it is a GAP's weight token, the queues it consumes from, a token it takes from the island, a run-time cause
that blocks the slot instead, and the region errors of class NOTE or ROLL that do not block. -/
structure Fire where
  e : Elem
  hd : Handler
  out : Option FTok
  res : Bool
  wt : Bool
  take : List Nat
  also : Option FTok
  block : Option Nat
  errs : List Nat

def Fire.of (e : Elem) (hd : Handler) : Fire :=
  { e := e, hd := hd, out := none, res := false, wt := false, take := [], also := none, block := none, errs := [] }

/-- A computed result token on OCH. -/
def Fire.result (o : Fire) (h : HWord) (qs : List Nat) (t : FTok) : Fire :=
  { o with out := some (tokOn (t &&& 0x7FFFFFFFFFFF#48) h.och), res := true, take := qs }

/-- A token forwarded unchanged but for its channel. -/
def Fire.forward (o : Fire) (h : HWord) (qs : List Nat) (t : FTok) : Fire :=
  { o with out := some (tokOn t h.och), take := qs }

/-- The code of a control token and the bits of its argument that have an effect (R223). -/
def ctlKey (t : FTok) : BitVec 32 :=
  t.extractLsb' 0 32 &&& (match tokCode t with
    | 1 | 2 | 5 | 9 => 0xFF000000#32
    | 3 => 0xFFF00000#32
    | _ => 0xFFFFFFFF#32)

/-- Control tokens at every head (R324): equal code and argument, REC arguments apart. -/
def ctlRule (h : HWord) (qs : List Nat) (o : Fire) : Fire :=
  let qs := [0, 1, 2, 3].filter (fun q => qs.contains q)
  match qs.filterMap o.e.head with
  | [] => o
  | t :: rest =>
    if tokC t && rest.all (fun u => tokC u && (ctlKey u == ctlKey t || (isRec u && isRec t))) then
      { o.forward h qs t with hd := { o.hd with gapPend := tokCode t == 7 } }
    else { o with block := some 0x15 }

/-- The weight token that follows a forwarded GAP (R324). -/
def weightRule (h : HWord) (qs : List Nat) (o : Fire) : Fire :=
  let qs := [0, 1, 2, 3].filter (fun q => qs.contains q)
  match qs.filterMap o.e.head with
  | [] => o
  | t :: _ => { o.forward h qs t with wt := true, hd := { o.hd with gapPend := false } }

/-- A null result (R323). -/
def nullRule (h : HWord) (qs : List Nat) (o : Fire) : Fire := { o with out := some (tokNull h.och), res := true, take := qs }

/-- May a slot of an element take a segment: it is enabled, not blocked, at work, and no pre-emption of it waits (R391)? -/
def slotOpens (s : State) (key g : Nat) : Bool :=
  let e := s.fab.elems.at key
  e.enabled.getLsbD g && !e.blocked.getLsbD g && slotActs s (elemCore key) g && !(s.rg.slots.at (slotIx (elemCore key) g)).preempt

/-- The SOTs that wait at an element: the slot of each, and when it came to the head of its queue. One that waits at the island for a
result port has come to no queue. -/
def waitingSots (s : State) (key : Nat) : List (Nat × Nat) :=
  let e := s.fab.elems.at key
  let heads := [0, 1, 2, 3].filterMap (fun q => match (e.inq.at q).head? with
    | some x => if isSot x.tok then (e.tokSlot x.tok).map (fun g => (g, x.at_)) else none
    | none => none)
  let isl := if ((s.eng.islands.at (elemCore key)).outq.head?).any isSot then
      (e.act.filter (fun h => h.2.present && (h.2.word.extractLsb' 56 8).toNat == 0x62 && (unpackHandler h.2.word).param.getLsbD 0 &&
        (fireQs (unpackHandler h.2.word)).isEmpty)).map (fun h => (handlerSlot h.2, 2 ^ 64))
    else []
  (heads ++ isl).filter (fun x => slotOpens s key x.1)

/-- Does one waiting SOT go before another (R185): its region's PRI, the longer wait, the lower slot? -/
def sotBefore (s : State) (key : Nat) (a b : Nat × Nat) : Bool :=
  let p (x : Nat × Nat) : Nat := (regionOf s (slotRid s (elemCore key) x.1)).pri
  if p a != p b then decide (p b < p a) else if a.2 != b.2 then decide (a.2 < b.2) else decide (a.1 < b.1)

/-- The slot whose SOT an idle element accepts next (R185). -/
def sotSlot (s : State) (key : Nat) : Option Nat :=
  match waitingSots s key with
  | [] => none
  | x :: xs => some (xs.foldl (fun b y => if sotBefore s key y b then y else b) x).1

/-- May a handler fire: `need` are the queues that must hold a token bound to it, `heads` the tokens they hold (R187, R189,
R203, R321, R350)? -/
def canFire (s : State) (key hnd : Nat) (h : HWord) (need : List Nat) (heads : List FTok) : Bool :=
  let e := s.fab.elems.at key
  let g := h.graph.toNat
  (e.act.at hnd).present && h.msk == 0#1 && e.enabled.getLsbD g && !e.blocked.getLsbD g && slotActs s (elemCore key) g &&
    need.all (fun q => match e.head q with
      | some t => e.bound t == some hnd && !(e.shv && e.shvSlot == g && (isCode 5 t || isCode 9 t))
      | none => false) &&
    (match e.seg with
      | some k => k == g
      | none => !heads.isEmpty && heads.all isSot && sotSlot s key == some g) &&
    (!sends h || e.res.isNone) && e.emit.isEmpty

/-- The interval since the last MARK ends: dup and bfly have sent as many tokens as they took (R385). -/
def rateBad (h : HWord) (op : Nat) (hd : Handler) : Bool :=
  (op = 0x41 && hd.dout != ((h.param.extractLsb' 0 8).toNat + 1) * hd.din) || (op = 0x52 && hd.dout != hd.din)

/-- A swap token at an element without a shadow table raises NOSHADOW once per region (R203). -/
def noShadow (s : State) (key g : Nat) : State :=
  let k := slotIx (elemCore key) g
  let rid := (s.rg.slots.at k).rid
  if s.rg.slots.any (fun x => x.2.rid == rid && x.2.noshadow) then s
  else regionError { s with rg.slots := s.rg.slots.upd k (fun x => { x with noshadow := true }) } rid 0x12 (keyLoc key) []

/-- The effects of the control tokens that a firing consumed: segments (R185, R186), RWT (R324), snapshots (R325, R385) and
NOSHADOW (R203). -/
def ctlEffects (key hnd g op : Nat) (h : HWord) (s : State) (t : FTok) : State :=
  let k := slotIx (elemCore key) g
  let rid := (s.rg.slots.at k).rid
  if !tokC t then s
  else match tokCode t with
  | 1 =>
    if (s.fab.elems.at key).seg == some g then s
    else
    let s := elemUpd s key (fun e => { e with seg := some g })
    { s with rg.slots := s.rg.slots.upd k (fun x => { x with
        segN := x.segN + 1, segAt := if x.segN = 0 then s.dev.gtsc else x.segAt }) }
  | 2 =>
    if (s.fab.elems.at key).seg.isNone then s
    else
    let s := elemUpd s key (fun e => { e with seg := none, act := e.act.upd hnd (fun d => { d with rwt := 0x100#24 }) })
    { s with rg.slots := s.rg.slots.upd k (fun x => { x with segN := x.segN - 1 }) }
  | 6 =>
    let hd := (s.fab.elems.at key).act.at hnd
    let s := if rateBad h op hd then regionError s rid 0x1E (keyLoc key) [] else s
    let s := elemUpd s key (fun e => { e with act := e.act.upd hnd (fun d => { d with din := 0, dout := 0 }) })
    progress (elemSnap s rid key) (elemCore key) rid
  | 8 => elemUpd s key (fun e => { e with act := e.act.upd hnd (fun d => { d with rwt := BitVec.ofNat 24 (tokArg t) }) })
  | 9 => noShadow s key g
  | _ => s

/-- A firing takes effect. The token of the lowest queue acts last, so that RWT is the weight of the REC forwarded. -/
def fireEnd (s : State) (key hnd op : Nat) (h : HWord) (o : Fire) : State :=
  let g := h.graph.toNat
  match o.block with
  | some c => elemBlock s key g c
  | none =>
    let seen := (match o.also with
      | some t => [t]
      | none => []) ++ ([3, 2, 1, 0].filter (fun q => o.take.contains q)).filterMap o.e.head
    let w (d : BitVec 4) (old : FTok) : FTok := match o.out with
      | some t => if o.res && h.dst == d then t else old
      | none => old
    let e : Elem := { o.e with
      inq := o.take.foldl (fun m q => m.upd q (fun l => l.drop 1)) o.e.inq
      act := o.e.act.set hnd { o.hd with age := 0 }
      st0 := w 8#4 o.e.st0, st1 := w 9#4 o.e.st1
      res := if o.out.isSome && sends h then o.out else o.e.res
      pend := if o.out.isSome && sends h then consumersOf h else o.e.pend
      resSlot := if o.out.isSome && sends h then g else o.e.resSlot }
    let s := { s with fab.elems := s.fab.elems.set key e }
    let s := seen.foldl (ctlEffects key hnd g op h) s
    let s := o.take.foldl (headNew key) s
    o.errs.foldl (fun s c => regionError s (slotRid s (elemCore key) g) c (keyLoc key) []) s

/-- Run a meaning of a handler for the element and handler whose turn it is. -/
def withElem (s : State) (k : Nat → Nat → Elem → Handler → State) : State :=
  match s.sim.cur with
  | .elem core n hnd =>
    let key := core * 4096 + n % 4096
    k key hnd (s.fab.elems.at key) ((s.fab.elems.at key).act.at hnd)
  | _ => s

/-! ### Which queues a firing needs (R324, R335, R337, R338) -/

/-- All heads data, or all heads control tokens. -/
def uniform (e : Elem) (qs : List Nat) : Bool :=
  let ts := qs.filterMap e.head
  ts.all tokC || ts.all (fun t => !tokC t)

/-- Have the streams of a region on a core writes outside the module that are not acknowledged? A widen node of scope .f waits for them
(R161, R166). -/
def farStores (s : State) (core rid : Nat) : Bool :=
  s.eng.far.any (fun r => !r.read && r.path == Path.ag.bit && r.core == core && r.rid == rid)

/-- The queues that an operation's next firing needs at an element, none while its own rule holds it. The other conditions
are those of `canFire`. -/
def opNeed (s : State) (core op : Nat) (h : HWord) (e : Elem) (hd : Handler) : Option (List Nat) :=
  let qs := fireQs h
  let a := h.a.toNat
  let b := h.b.toNat
  let c := h.c.toNat
  let ab := if a = b then [a] else [a, b]
  if op = 0x44 then
    if hd.gapPend then some [a, b, c]
    else match e.head c with
    | none => none
    | some t => if tokC t then some [a, b, c] else if tokN t then some [c] else some [c, if t.getLsbD 0 then a else b]
  else if op = 0x43 then
    if hd.gapPend then some ab
    else match e.head b with
    | none => none
    | some t =>
      if !tokC t && tokN t then some [b]
      else if h.param.getLsbD 1 then (if uniform e ab then some ab else none)
      else if tokC t || t.getLsbD (h.param.extractLsb' 0 1).toNat then some ab
      else some [b]
  else if op = 0x45 || op = 0x46 || op = 0x47 || op = 0x60 then some ab
  else if op = 0x58 && h.param = 4#16 && farStores s core (slotRid s core h.graph.toNat) then none
  else if hd.gapPend || op = 0x40 || op = 0x48 || op = 0x54 || op = 0x58 || op = 0x59 then some qs
  else if op = 0x62 && h.param.getLsbD 0 && qs.isEmpty then
    if (s.eng.islands.at core).outq.isEmpty then none else some []
  else if !uniform e qs then none
  else if op = 0x62 && !h.param.getLsbD 0 && (qs.filterMap e.head).any isSot then
    let t := s.st.tiles.at (tileKey core ((e.k.at 0).extractLsb' 0 8).toNat)
    if t.canIssue && !t.badRef (regionOf s (slotRid s core h.graph.toNat)).asid then some qs else none
  else if op = 0x63 && (qs.filterMap e.head).any (fun t => !tokC t && !tokN t) then
    if (tmplOf s core h.param.toNat).arm && islandFull s core h.param.toNat then none else some qs
  else some qs

/-- The tokens that decide whether an idle element accepts a segment: the heads needed, or the island's for a result port that
takes its tokens there. -/
def opHeads (s : State) (core op : Nat) (e : Elem) (need : List Nat) : List FTok :=
  if op = 0x62 && need.isEmpty then ((s.eng.islands.at core).outq).take 1 else need.filterMap e.head

/-- A handler's operation fires where it may: `f` gives what the firing does and `after` what follows it elsewhere. -/
def handlerFire (s : State) (op : Nat) (h : HWord) (f : Elem → Handler → Fire)
    (after : Nat → Fire → State → State := fun _ _ s => s) : State :=
  withElem s fun key hnd e hd =>
    match opNeed s (elemCore key) op h e hd with
    | none => s
    | some need =>
      if canFire s key hnd h need (opHeads s (elemCore key) op e need) then
        let o := f e hd
        after key o (fireEnd s key hnd op h o)
      else s

/-! ### Handler selection (R185, R189) -/

/-- A handler of an element that may fire now: its index, operation, word and instruction. -/
structure Cand where
  hnd : Nat
  h : HWord
  need : List Nat
  i : Instr

/-- The runnable handlers of an element. -/
def readyHandlers (s : State) (key : Nat) : List Cand :=
  let e := s.fab.elems.at key
  (List.range 8).filterMap (fun n =>
    let hd := e.act.at n
    match decodeHandler hd.word with
    | none => none
    | some i =>
      let op := (hd.word.extractLsb' 56 8).toNat
      let h := unpackHandler hd.word
      match opNeed s (elemCore key) op h e hd with
      | none => none
      | some need => if canFire s key n h need (opHeads s (elemCore key) op e need) then some ⟨n, h, need, i⟩ else none)

/-- Is a picked before b: effective priority, then AGE, then the lower index (R189)? -/
def handlerBefore (e : Elem) (a b : Cand) : Bool :=
  let age (r : Cand) : Nat := (e.act.at r.hnd).age
  let p (r : Cand) : Nat := min 7 (r.h.pri.toNat + age r / 64)
  if p a != p b then decide (p b < p a) else if age a != age b then decide (age b < age a) else decide (a.hnd < b.hnd)

/-- The first of a list under an order. -/
def pickBy (lt : Cand → Cand → Bool) : List Cand → Option Cand
  | [] => none
  | r :: rs => some (rs.foldl (fun b x => if lt x b then x else b) r)

/-- The turn of an element: heads are checked, a handler is picked, and the others that were runnable age (R189). -/
def elemTurn (s : State) (key : Nat) : State × Option Instr :=
  let s := headsCheck s key
  let e := s.fab.elems.at key
  let rs := readyHandlers s key
  match pickBy (handlerBefore e) rs with
  | none => (s, none)
  | some r =>
    let s := elemUpd s key (fun e => { e with act := e.act.map (fun d =>
      if rs.any (fun x => x.hnd == d.1) then (d.1, { d.2 with age := if d.1 = r.hnd then 0 else d.2.age + 1 }) else d) })
    ({ s with sim.cur := .elem (elemCore key) (key % 4096) r.hnd }, some r.i)

/-! ### Pulls (R187, R188, R316) -/

/-- The operation and word of the handler that a token is bound to. -/
def boundOp (e : Elem) (t : FTok) : Nat × HWord :=
  match e.bound t with
  | some n => (((e.act.at n).word.extractLsb' 56 8).toNat, unpackHandler (e.act.at n).word)
  | none => (0, unpackHandler 0#64)

/-- Holds the matrix island its 256 tokens in flight, those that wait at its A-feeds counted (R348)? -/
def feedsFull (s : State) (core : Nat) : Bool :=
  decide (256 ≤ ((s.eng.islands.at core).feeds.map (fun f =>
    f.2.run.length + ((s.fab.elems.at f.1).inq.map (fun q => q.2.length)).sum)).sum)

/-- May an element pull a token into a queue (R185, R187, R350)? In a segment it pulls only tokens of the segment's slot. A widen node
accepts a token only after it has forwarded the one before, a cpnode holds its pulls while its copy island is full, and an A-feed while
the matrix island has no room (R166, R348, R349). -/
def elemRoom (s : State) (key q : Nat) (t : FTok) : Bool :=
  let e := s.fab.elems.at key
  let core := elemCore key
  let b := boundOp e t
  decide ((e.inq.at q).length < 2) &&
    (match e.tokSlot t with
      | some g =>
        e.enabled.getLsbD g && !e.blocked.getLsbD g && slotActs s core g && (e.seg.isNone || e.seg == some g) &&
          !(b.1 == 0x58 && (!(e.inq.at q).isEmpty || (e.res.isSome && e.resSlot == g))) &&
          !(b.1 == 0x63 && (tmplOf s core b.2.param.toNat).arm && islandFull s core b.2.param.toNat) &&
          !(b.1 == 0x62 && !b.2.param.getLsbD 0 && feedsFull s core)
      | none => e.enabled != 0#4 && e.seg.isNone)

/-- A token enters an input queue: a reserved code blocks its slot at once (R224), and the pull is progress (R202). -/
def elemTake (s : State) (key q : Nat) (t : FTok) : State :=
  let e := s.fab.elems.at key
  let first := (e.inq.at q).isEmpty
  let n : QTok := { tok := t, at_ := 0 }
  let s := elemUpd s key (fun e => { e with inq := e.inq.upd q (fun l => l ++ [n]) })
  let s := match e.tokSlot t with
    | some g => progress s (elemCore key) (slotRid s (elemCore key) g)
    | none => s
  let s := if isReserved t then (tokSlots e q t).foldl (fun s g => elemBlock s key g 0x13) s else s
  if first then headNew key s q else s

/-- The queue of an element whose source is a code (R316). -/
def sourceQueue (s : State) (key src : Nat) : Option Nat :=
  (List.range 4).find? (fun q => (s.fab.elems.at key).src q == src)

/-- May the port of a stream take a token: a queue's write port always, a write or add stream, or a memory node's address
port, when its last token has been performed (R188, R290)? -/
def portRoom (s : State) (core k : Nat) : Bool :=
  let t := streamOf s core k
  let d := s.qu.queues.at (queueKey core (t.bound - 1))
  if t.bound != 0 then d.v && d.prod == .fabric && d.pstrm == k
  else t.isOpen && t.inp.isEmpty && !stopped s t.rid && (t.dir == 1 || t.dir == 2 || t.pat == 2)

/-- A token enters the port of a stream or the queue bound to it. -/
def portTake (s : State) (core k : Nat) (t : FTok) : State :=
  let x := streamOf s core k
  if x.bound != 0 then queueTurn (progress s core x.rid) core (x.bound - 1) 8 t
  else progress (streamUpd s core k (fun x => { x with inp := x.inp ++ [t] })) core x.rid

/-- A consumer has pulled the result: it leaves the pending set, and an emptied register takes the next swap token (R187,
R203). -/
def resPulled (s : State) (key c : Nat) : State :=
  elemUpd s key (fun e =>
    let p := e.pend.filter (· != c)
    if !p.isEmpty then { e with pend := p }
    else match e.emit with
    | [] => { e with pend := [], res := none }
    | (t, cs) :: r => { e with pend := cs, res := some t, emit := r })

/-- Consumer c of an element's result pulls it where the consumer has room. Over a core boundary the consuming core performs
the AG-path invalidation of an acquire (R166). -/
def resultPull (s : State) (key c : Nat) : State :=
  let e := s.fab.elems.at key
  match e.res with
  | none => s
  | some t =>
    if !e.pend.contains c || !slotActs s (elemCore key) e.resSlot then s
    else if c < 8 then
      let dst : Option (Nat × Nat) :=
        if c < 4 then (neighbour key c).bind (fun n => (sourceQueue s n (opposite c)).map (fun q => (n, q))) else some (key, c - 4)
      match dst with
      | some (n, q) =>
        if elemRoom s n q t then
          let s := if elemCore n = elemCore key then s else acquire s (elemCore n) 2
          elemTake (resPulled s key c) n q t
        else s
      | none => s
    else match (edgePorts key)[c - 8]? with
    | some (.stream k) =>
      if portRoom s (elemCore key) k then portTake (resPulled s key c) (elemCore key) k t else s
    | _ => s

/-- The view of a queue that a stream's port reads (R371, R372). -/
def readView (d : Queue) (k : Nat) : Option Nat :=
  d.viewList.find? (fun v => decide (d.cons.getD v 0x8000 < 0x4000) && d.cons.getD v 0x8000 % 256 == k)

/-- The token that a stream's port offers: the head of a read stream's tokens, or the next token of the oldest entry of the
view bound to it (R188). -/
def portOffer (s : State) (core k : Nat) : Option FTok :=
  let t := streamOf s core k
  if t.bound != 0 then
    let d := s.qu.queues.at (queueKey core (t.bound - 1))
    match readView d k with
    | some v => if d.v then ((d.views.at v).readable d.ch).head?.bind (fun ts => ts[(d.views.at v).pos]?) else none
    | none => none
  else if t.isOpen && (t.dir == 0 || t.dir == 3) && !stopped s t.rid then t.port.head? else none

/-- The port's token has been pulled. The oldest entry leaves its view with its last token. -/
def portPulled (s : State) (core k : Nat) : State :=
  let t := streamOf s core k
  if t.bound != 0 then
    let n := t.bound - 1
    let d := s.qu.queues.at (queueKey core n)
    match readView d k with
    | some v =>
      let len := (((d.views.at v).readable d.ch).headD []).length
      let s := if (d.views.at v).pos + 1 < len then viewUpd s core n v (fun w => { w with pos := w.pos + 1 }) else viewPop s core n v 1
      progress s core d.rid
    | none => s
  else progress (streamUpd s core k (fun t => { t with port := t.port.drop 1, cout := t.cout + 1 })) core t.rid

/-- A poisoned word of the entry that a bound port is about to read (R50). -/
def portPoison (s : State) (core k : Nat) : Option Nat :=
  let t := streamOf s core k
  if t.bound = 0 then none
  else
    let d := s.qu.queues.at (queueKey core (t.bound - 1))
    match readView d k with
    | some v => if (d.views.at v).pos = 0 then readPoison s core (t.bound - 1) v 0 else none
    | none => none

/-- A poisoned entry is not delivered: it is a region error (R50). -/
def portSpoilt (s : State) (core k : Nat) : State :=
  let n := (streamOf s core k).bound - 1
  let d := s.qu.queues.at (queueKey core n)
  let s1 := match readView d k with
    | some v => viewPop s core n v 1
    | none => s
  regionError s1 d.rid 0x02 (coreLoc core) [BitVec.ofNat 64 ((portPoison s core k).getD 0)]

/-- Queue q of an element, whose source is an edge port, pulls the token that the port offers. -/
def sourcePull (s : State) (key q : Nat) : State :=
  let core := elemCore key
  let src := (s.fab.elems.at key).src q
  match srcPort key src with
  | some (.stream k) =>
    (match portOffer s core k with
      | some t => if (portPoison s core k).isSome then portSpoilt s core k
        else if sourceQueue s key src == some q && elemRoom s key q t then elemTake (portPulled s core k) key q t else s
      | none => s)
  | some .island =>
    (match (s.eng.islands.at core).outq with
      | t :: r =>
        if elemRoom s key q t then
          elemTake { s with eng.islands := s.eng.islands.upd core (fun i => { i with outq := r }) } key q t
        else s
      | [] => s)
  | _ => s

/-- CHANNEL_PULL: consumer `unit` of element `n`'s result register pulls it; with `flag`, queue `unit` of element `n` pulls
from the edge port that is its source (R187). -/
def execChannelPull (s : State) : Out :=
  let a := s.sim.arg
  .next (if a.flag then sourcePull s a.n (a.unit.toNat % 4) else resultPull s a.n a.unit.toNat)

/-! ### Shadow swaps (R203) -/

/-- The output channels of a slot's handlers, each with its consumers. -/
def outChannels (e : Elem) (g : Nat) : List (BitVec 4 × List Nat) :=
  e.act.foldl (fun l d =>
    let h := unpackHandler d.2.word
    if !d.2.present || handlerSlot d.2 != g || !sends h then l
    else
      let cs := consumersOf h
      if l.any (fun x => x.1 == h.och) then
        l.map (fun x => if x.1 == h.och then (x.1, x.2 ++ cs.filter (fun c => !x.2.contains c)) else x)
      else l ++ [(h.och, cs)]) []

/-- The active and shadow tables of a slot exchange; the state of a handler stays with its index. -/
def Elem.exchange (e : Elem) (g : Nat) : Elem :=
  let old := e.act.filter (fun d => d.2.present && handlerSlot d.2 == g)
  let oldCh := e.chm.filter (fun c => match e.bind c.1 with
    | some n => handlerSlot (e.act.at n) == g
    | none => false)
  let act := (e.act.filter (fun d => !(d.2.present && handlerSlot d.2 == g)))
  { e with
    act := e.shad.foldl (fun a w =>
      let d := if old.any (fun x => x.1 == w.1) then e.act.at w.1 else { (default : Handler) with rwt := 0x100#24 }
      a.set w.1 { d with present := true, word := w.2 }) act
    chm := e.shadCh.foldl (fun m c => m.set c.1 c.2) (e.chm.filter (fun c => !oldCh.any (fun o => o.1 == c.1)))
    shad := old.map (fun d => (d.1, d.2.word)), shadCh := oldCh, k := e.shadK, shadK := e.k, shv := false }

/-- ELEMENT_SWAP: element `n` swaps once a swap token stands at the head of every input queue that its old configuration's
handlers name in FIRE and its result register is empty; then it sends one swap token on each of that configuration's output
channels. -/
def execElementSwap (s : State) : Out :=
  let key := s.sim.arg.n
  let e := s.fab.elems.at key
  let g := e.shvSlot
  let qs := [0, 1, 2, 3].filter (fun q => e.act.any (fun d =>
    d.2.present && handlerSlot d.2 == g && (unpackHandler d.2.word).fire.getLsbD q))
  let heads := qs.filterMap e.head
  if !e.shv || qs.isEmpty || e.res.isSome || !e.emit.isEmpty || e.blocked.getLsbD g || !slotActs s (elemCore key) g ||
      heads.length != qs.length || !heads.all (fun t => (isCode 5 t || isCode 9 t) && e.tokSlot t == some g) then .next s
  else
    let t := heads.headD 0#48
    let outs := (outChannels e g).map (fun x => (tokOn t x.1, x.2))
    let n : Elem := { e.exchange g with inq := qs.foldl (fun m q => m.upd q (fun l => l.drop 1)) e.inq }
    let n : Elem := match outs with
      | [] => n
      | o :: r => { n with res := some o.1, pend := o.2, resSlot := g, emit := r }
    let s := { s with fab.elems := s.fab.elems.set key n }
    .next (progress (qs.foldl (headNew key) s) (elemCore key) (slotRid s (elemCore key) g))

end Sys2Proof.Machine
end

