-- ==== Sys2Proof/Machine/Handlers.lean ====
section
/-! DEFINITION. Handler operations on values (R332–R334): the integer, XF42 and conversion operations. -/

namespace Sys2Proof.Machine

/-- An operation that computes one result from up to three operands: control tokens by R324, nulls by R323, and otherwise the
result of `f` to the pending set and DST. -/
def dataFire (h : HWord) (op : Nat) (flt : Bool) (f : FTok → FTok → FTok → FTok) (e : Elem) (hd : Handler) : Fire :=
  let o := Fire.of e hd
  let qs := fireQs h
  if hd.gapPend then weightRule h qs o
  else if (qs.filterMap e.head).any tokC then ctlRule h qs o
  else
    let a := operand e hd flt h.a.toNat
    let b := operand e hd flt h.b.toNat
    let c := operand e hd flt h.c.toNat
    if tokN a || (hUsesB op && tokN b) || (hUsesC op && tokN c) then nullRule h qs o
    else o.result h qs (f a b c)

/-- An integer operation (R332). -/
def intOp (s : State) (op : Nat) (h : HWord) (f : BitVec 32 → BitVec 32 → BitVec 32 → BitVec 32) : State :=
  handlerFire s op h (dataFire h op false (fun a b c =>
    (f (a.extractLsb' 0 32) (b.extractLsb' 0 32) (c.extractLsb' 0 32)).setWidth 48))

/-- An XF42 operation whose exact result is rounded under RM (R333). -/
def floatOp (s : State) (op : Nat) (h : HWord) (f : RMode → FV → FV → FV → FV) : State :=
  let rm := RMode.ofCode h.rm.toNat
  handlerFire s op h (dataFire h op true (fun a b c => Num.xfRound rm (f rm (Num.xfOf a) (Num.xfOf b) (Num.xfOf c))))

/-- An operation on tokens read as XF42. -/
def tokenOp (s : State) (op : Nat) (h : HWord) (f : FTok → FTok → FTok → FTok) : State :=
  handlerFire s op h (dataFire h op true f)

/-- 1 or 0. -/
def flag32 (b : Bool) : BitVec 32 := if b then 1#32 else 0#32

/-- The lesser or greater of two values, −0 below +0; a NaN gives the canonical NaN (R333). -/
def floatPick (least : Bool) (a b : FTok) : FTok :=
  let x := Num.xfOf a
  let y := Num.xfOf b
  if x = .nan || y = .nan then Num.xfNaN
  else Num.xfRound .rne (if least then (if Num.ltz y x then y else x) else (if Num.ltz x y then y else x))

/-! ### Integer operations (R332) -/

/-- IADD: the sum modulo 2^32. -/
def execIadd (h : HWord) (s : State) : Out := .next (intOp s 0x01 h (fun a b _ => a + b))
/-- ISUB: the difference modulo 2^32. -/
def execIsub (h : HWord) (s : State) : Out := .next (intOp s 0x02 h (fun a b _ => a - b))
/-- IMUL: the product modulo 2^32. -/
def execImul (h : HWord) (s : State) : Out := .next (intOp s 0x03 h (fun a b _ => a * b))
/-- IMULH: bits [63:32] of the signed product. -/
def execImulh (h : HWord) (s : State) : Out := .next (intOp s 0x04 h (fun a b _ => BitVec.ofInt 32 (a.toInt * b.toInt / 2 ^ 32)))
/-- IAND. -/
def execIand (h : HWord) (s : State) : Out := .next (intOp s 0x05 h (fun a b _ => a &&& b))
/-- IOR. -/
def execIor (h : HWord) (s : State) : Out := .next (intOp s 0x06 h (fun a b _ => a ||| b))
/-- IXOR. -/
def execIxor (h : HWord) (s : State) : Out := .next (intOp s 0x07 h (fun a b _ => a ^^^ b))
/-- ISHL: a to the left by b[4:0]. -/
def execIshl (h : HWord) (s : State) : Out := .next (intOp s 0x08 h (fun a b _ => a <<< (b.toNat % 32)))
/-- ISHR: a logically to the right by b[4:0]. -/
def execIshr (h : HWord) (s : State) : Out := .next (intOp s 0x09 h (fun a b _ => a >>> (b.toNat % 32)))
/-- ISHA: a arithmetically to the right by b[4:0]. -/
def execIsha (h : HWord) (s : State) : Out := .next (intOp s 0x0A h (fun a b _ => a.sshiftRight (b.toNat % 32)))
/-- IMIN: the signed minimum. -/
def execImin (h : HWord) (s : State) : Out := .next (intOp s 0x0B h (fun a b _ => if b.slt a then b else a))
/-- IMAX: the signed maximum. -/
def execImax (h : HWord) (s : State) : Out := .next (intOp s 0x0C h (fun a b _ => if a.slt b then b else a))
/-- IEQ: 1 where a equals b. -/
def execIeq (h : HWord) (s : State) : Out := .next (intOp s 0x0D h (fun a b _ => flag32 (a == b)))
/-- ILT: 1 where a is below b, signed. -/
def execIlt (h : HWord) (s : State) : Out := .next (intOp s 0x0E h (fun a b _ => flag32 (a.slt b)))
/-- ILTN: 1 where a is below b, unsigned. -/
def execIltn (h : HWord) (s : State) : Out := .next (intOp s 0x0F h (fun a b _ => flag32 (a.ult b)))
/-- ISEL: a where c[0] is 1, else b. -/
def execIsel (h : HWord) (s : State) : Out := .next (intOp s 0x10 h (fun a b c => if c.getLsbD 0 then a else b))

/-! ### XF42 operations (R327–R329, R333) -/

/-- FADD: a + b. -/
def execFadd (h : HWord) (s : State) : Out := .next (floatOp s 0x20 h (fun rm a b _ => Num.add rm a b))
/-- FSUB: a + (−b). -/
def execFsub (h : HWord) (s : State) : Out := .next (floatOp s 0x21 h (fun rm a b _ => Num.add rm a (Num.neg b)))
/-- FMUL: a × b. -/
def execFmul (h : HWord) (s : State) : Out := .next (floatOp s 0x22 h (fun _ a b _ => Num.mul a b))
/-- FMA: a × b + c, rounded once. -/
def execFma (h : HWord) (s : State) : Out := .next (floatOp s 0x23 h (fun rm a b c => Num.fma rm a b c))
/-- FMIN: the lesser operand, exactly. -/
def execFmin (h : HWord) (s : State) : Out := .next (tokenOp s 0x24 h (fun a b _ => floatPick true a b))
/-- FMAX: the greater operand, exactly. -/
def execFmax (h : HWord) (s : State) : Out := .next (tokenOp s 0x25 h (fun a b _ => floatPick false a b))
/-- FNEG: a with its sign changed. -/
def execFneg (h : HWord) (s : State) : Out := .next (tokenOp s 0x26 h (fun a _ _ => Num.xfRound .rne (Num.neg (Num.xfOf a))))
/-- FABS: a without its sign. -/
def execFabs (h : HWord) (s : State) : Out := .next (tokenOp s 0x27 h (fun a _ _ => Num.xfRound .rne (Num.abs (Num.xfOf a))))
/-- FRCP: 1/a (R329). -/
def execFrcp (h : HWord) (s : State) : Out := .next (floatOp s 0x28 h (fun _ a _ _ => Num.rcp a))
/-- FRSQ: 1/√a (R329). -/
def execFrsq (h : HWord) (s : State) : Out := .next (floatOp s 0x29 h (fun _ a _ _ => Num.rsq a))
/-- FEXP2: 2^a (R329). -/
def execFexp2 (h : HWord) (s : State) : Out := .next (floatOp s 0x2A h (fun _ a _ _ => Num.exp2 a))
/-- FLOG2: log2 a (R329). -/
def execFlog2 (h : HWord) (s : State) : Out := .next (floatOp s 0x2B h (fun _ a _ _ => Num.log2 a))
/-- FEQ: 1 where a equals b; a NaN gives 0. -/
def execFeq (h : HWord) (s : State) : Out := .next (tokenOp s 0x2C h (fun a b _ => (flag32 (Num.eq (Num.xfOf a) (Num.xfOf b))).setWidth 48))
/-- FLT: 1 where a is below b; a NaN gives 0. -/
def execFlt (h : HWord) (s : State) : Out := .next (tokenOp s 0x2D h (fun a b _ => (flag32 (Num.lt (Num.xfOf a) (Num.xfOf b))).setWidth 48))
/-- FSEL: a where c is no NaN and has sign 0, else b. -/
def execFsel (h : HWord) (s : State) : Out := .next (tokenOp s 0x2E h (fun a b c =>
    if Num.xfOf c != .nan && !Num.sign (Num.xfOf c) then a else b))

/-! ### Conversions (R334) -/

/-- CVIF: the XF42 value of an integer, unsigned where PARAM[0] is 1. -/
def execCvif (h : HWord) (s : State) : Out :=
  .next (handlerFire s 0x30 h (dataFire h 0x30 false (fun a _ _ =>
    let v := a.extractLsb' 0 32
    Num.xfRound .rne (Num.ofInt (if h.param.getLsbD 0 then (v.toNat : Int) else v.toInt) 0))))
/-- CVFI: an XF42 value rounded under RM to an integer that saturates; a NaN gives 0. -/
def execCvfi (h : HWord) (s : State) : Out :=
  .next (tokenOp s 0x31 h (fun a _ _ =>
    let lo : Int := if h.param.getLsbD 0 then 0 else -2147483648
    let hi : Int := if h.param.getLsbD 0 then 4294967295 else 2147483647
    match Num.xfOf a with
    | .nan => 0#48
    | .inf n => Num.intTok (if n then lo else hi)
    | v => Num.intTok (Num.clampInt lo hi (Num.toInteger (RMode.ofCode h.rm.toNat) v))))

end Sys2Proof.Machine
end

