-- ==== Sys2Proof/Machine/Rv.lean ====
section
/-! DEFINITION. The arithmetic of RV64IMAFDC as RISC-V International publishes it, which R401 takes over (log entry 7): the integer
operations, the rounding and the exception flags of F and D, and the words that compressed instructions stand for. -/

namespace Sys2Proof.Machine.Rv

/-! ### Integers -/

/-- The low 32 bits, sign-extended. -/
def low32 (v : Word) : Word := (v.extractLsb' 0 32).signExtend 64

/-- An operation of OP or OP-IMM; `alt` is bit 30 of the word. -/
def alu (f3 : Nat) (alt : Bool) (a b : Word) : Word :=
  let n := b.toNat % 64
  match f3 with
  | 0 => if alt then a - b else a + b
  | 1 => a <<< n
  | 2 => if a.slt b then 1#64 else 0#64
  | 3 => if a.ult b then 1#64 else 0#64
  | 4 => a ^^^ b
  | 5 => if alt then a.sshiftRight n else a >>> n
  | 6 => a ||| b
  | _ => a &&& b

/-- An operation of OP-32 or OP-IMM-32 on the low words: ADD, SUB and the shifts. -/
def aluW (f3 : Nat) (alt : Bool) (a b : Word) : Word :=
  let x := a.extractLsb' 0 32
  let y := b.extractLsb' 0 32
  let n := y.toNat % 32
  (match f3 with
    | 0 => if alt then x - y else x + y
    | 1 => x <<< n
    | _ => if alt then x.sshiftRight n else x >>> n).signExtend 64

/-- A multiplication or division of M. Division by zero and overflow trap nothing. -/
def mulDiv (f3 : Nat) (a b : Word) : Word :=
  match f3 with
  | 0 => a * b
  | 1 => BitVec.ofInt 64 (a.toInt * b.toInt / 2 ^ 64)
  | 2 => BitVec.ofInt 64 (a.toInt * (b.toNat : Int) / 2 ^ 64)
  | 3 => BitVec.ofNat 64 (a.toNat * b.toNat / 2 ^ 64)
  | 4 => if b = 0#64 then BitVec.allOnes 64 else BitVec.ofInt 64 (a.toInt.tdiv b.toInt)
  | 5 => if b = 0#64 then BitVec.allOnes 64 else BitVec.ofNat 64 (a.toNat / b.toNat)
  | 6 => if b = 0#64 then a else BitVec.ofInt 64 (a.toInt.tmod b.toInt)
  | _ => if b = 0#64 then a else BitVec.ofNat 64 (a.toNat % b.toNat)

/-- The same on the low words: MULW, DIVW, DIVUW, REMW, REMUW. -/
def mulDivW (f3 : Nat) (a b : Word) : Word :=
  let x := a.extractLsb' 0 32
  let y := b.extractLsb' 0 32
  (match f3 with
    | 0 => x * y
    | 4 => if y = 0#32 then BitVec.allOnes 32 else BitVec.ofInt 32 (x.toInt.tdiv y.toInt)
    | 5 => if y = 0#32 then BitVec.allOnes 32 else BitVec.ofNat 32 (x.toNat / y.toNat)
    | 6 => if y = 0#32 then x else BitVec.ofInt 32 (x.toInt.tmod y.toInt)
    | _ => if y = 0#32 then x else BitVec.ofNat 32 (x.toNat % y.toNat)).signExtend 64

/-- The condition of a branch; none for an undefined one. -/
def cond (f3 : Nat) (a b : Word) : Option Bool :=
  match f3 with
  | 0 => some (a == b)
  | 1 => some (a != b)
  | 4 => some (a.slt b)
  | 5 => some (!a.slt b)
  | 6 => some (a.ult b)
  | 7 => some (!a.ult b)
  | _ => none

/-- What an AMO writes for the value read and the source, both sign-extended; none for an undefined one. -/
def amo (f5 : Nat) (old src : Word) : Option Word :=
  match f5 with
  | 0 => some (old + src)
  | 1 => some src
  | 4 => some (old ^^^ src)
  | 8 => some (old ||| src)
  | 12 => some (old &&& src)
  | 16 => some (if old.slt src then old else src)
  | 20 => some (if old.slt src then src else old)
  | 24 => some (if old.ult src then old else src)
  | 28 => some (if old.ult src then src else old)
  | _ => none

/-! ### Floating point: codes as naturals, with the flags NV 16, DZ 8, OF 4, UF 2, NX 1 -/

/-- A result with its flags. -/
abbrev Res := Nat × BitVec 5

/-- Round n × 2^e to a multiple of 2^k in the coding of RISC-V: 0 RNE, 1 RTZ, 2 RDN, 3 RUP, 4 RMM; with whether it is inexact. -/
def round (rm : Nat) (s : Bool) (n : Nat) (e k : Int) : Nat × Bool :=
  let d := (k - e).toNat
  (match rm with
    | 0 => Num.roundAt .rne s n e k
    | 1 => Num.roundAt .rz s n e k
    | 2 => Num.roundAt .rd s n e k
    | 3 => Num.roundAt .ru s n e k
    | _ => Num.roundAt .rz s n e k + (if decide (e < k) && decide (2 ^ (d - 1) ≤ n % 2 ^ d) then 1 else 0),
   n % 2 ^ d != 0)

/-- The magnitude that an overflow delivers. -/
def overflow (f : FloatFmt) (rm : Nat) (s : Bool) : Nat :=
  if rm = 1 || (rm = 2 && !s) || (rm = 3 && s) then f.maxCode else f.infCode

/-- An exact value in a format. Tininess is judged after rounding. -/
def pack (f : FloatFmt) (rm : Nat) : FV → Res
  | .nan => (f.nanCode, 0#5)
  | .inf s => (f.signed s f.infCode, 0#5)
  | .zero s => (f.signed s 0, 0#5)
  | .fin s n e =>
    let k := f.ulpOf n e
    let q := round rm s n e k
    let c := f.codeOf q.1 k
    if f.maxCode < c then (f.signed s (overflow f rm s), 5#5)
    else
      let j := Num.ilog n e - f.fb
      let tiny := decide (Num.ilog (round rm s n e j).1 j < 1 - (f.bias : Int))
      (f.signed s c, if q.2 then (if tiny then 3#5 else 1#5) else 0#5)

/-- Is a code a signalling NaN? -/
def snan (f : FloatFmt) (c : Nat) : Bool := f.decode c == .nan && !c.testBit (f.fb - 1)

/-- The result of an operation whose exact value is `v`: invalid where an operand is a signalling NaN, where it says so itself, or
where no operand is NaN and the value is. -/
def arith (f : FloatFmt) (rm : Nat) (ops : List Nat) (bad : Bool) (v : FV) : Res :=
  let r := pack f rm v
  let nv := bad || ops.any (snan f) || (v == .nan && ops.all (fun c => f.decode c != .nan))
  (r.1, if nv then r.2 ||| 16#5 else r.2)

/-- The mode that decides the sign of an exact zero sum. -/
def zeroMode (rm : Nat) : RMode := if rm = 2 then .rd else .rne

def add (f : FloatFmt) (rm a b : Nat) : Res := arith f rm [a, b] false (Num.add (zeroMode rm) (f.decode a) (f.decode b))
def sub (f : FloatFmt) (rm a b : Nat) : Res := arith f rm [a, b] false (Num.add (zeroMode rm) (f.decode a) (Num.neg (f.decode b)))
def mul (f : FloatFmt) (rm a b : Nat) : Res := arith f rm [a, b] false (Num.mul (f.decode a) (f.decode b))

/-- ±(a × b) ± c with one rounding; ∞ × 0 is invalid whatever c is. -/
def fma (f : FloatFmt) (rm : Nat) (negP negC : Bool) (a b c : Nat) : Res :=
  let p := Num.mul (f.decode a) (f.decode b)
  let p' := if negP then Num.neg p else p
  let z := if negC then Num.neg (f.decode c) else f.decode c
  arith f rm [a, b, c] (p == .nan && f.decode a != .nan && f.decode b != .nan) (Num.add (zeroMode rm) p' z)

/-- The exact quotient, with a sticky last bit. -/
def quot : FV → FV → FV
  | .nan, _ => .nan
  | _, .nan => .nan
  | .inf _, .inf _ => .nan
  | .inf a, y => .inf (a != Num.sign y)
  | x, .inf b => .zero (Num.sign x != b)
  | .zero _, .zero _ => .nan
  | .zero a, y => .zero (a != Num.sign y)
  | x, .zero b => .inf (Num.sign x != b)
  | .fin a n e, .fin b m g => Num.divSticky 64 (a != b) n m (e - g)

def div (f : FloatFmt) (rm a b : Nat) : Res :=
  let x := f.decode a
  let y := f.decode b
  let r := arith f rm [a, b] false (quot x y)
  (r.1, match x, y with
    | .fin _ _ _, .zero _ => r.2 ||| 8#5
    | _, _ => r.2)

/-- The exact square root, with a sticky last bit. -/
def root : FV → FV
  | .nan => .nan
  | .inf s => if s then .nan else .inf false
  | .zero s => .zero s
  | .fin s n e =>
    if s then .nan
    else
      let m := if e % 2 = 0 then n else 2 * n
      let g := if e % 2 = 0 then e else e - 1
      let x := m <<< 128
      let q := Nat.sqrt x
      .fin false (2 * q + (if q * q = x then 0 else 1)) (g / 2 - 65)

def sqrt (f : FloatFmt) (rm a : Nat) : Res := arith f rm [a] false (root (f.decode a))

/-- FMIN and FMAX: a NaN yields the other operand, −0 is below +0, and a signalling NaN is invalid. -/
def minMax (f : FloatFmt) (mx : Bool) (a b : Nat) : Res :=
  let x := f.decode a
  let y := f.decode b
  let nv := snan f a || snan f b
  (if x == .nan && y == .nan then f.nanCode
    else if x == .nan then b
    else if y == .nan then a
    else if Num.ltz x y != mx then a else b, if nv then 16#5 else 0#5)

/-- FLE 0, FLT 1 and FEQ 2; none for an undefined one. FEQ alone is quiet. -/
def compare (f : FloatFmt) (f3 a b : Nat) : Option Res :=
  let x := f.decode a
  let y := f.decode b
  let nan := x == .nan || y == .nan
  let loud := if nan then 16#5 else 0#5
  match f3 with
  | 0 => some (if !nan && (Num.lt x y || Num.eq x y) then 1 else 0, loud)
  | 1 => some (if Num.lt x y then 1 else 0, loud)
  | 2 => some (if Num.eq x y then 1 else 0, if snan f a || snan f b then 16#5 else 0#5)
  | _ => none

/-- FCLASS. -/
def classify (f : FloatFmt) (a : Nat) : Nat :=
  match f.decode a with
  | .nan => if snan f a then 0x100 else 0x200
  | .inf s => if s then 1 else 0x80
  | .zero s => if s then 8 else 0x10
  | .fin s _ _ => if f.isSub a then (if s then 4 else 0x20) else if s then 2 else 0x40

/-- A conversion to an integer between two bounds: out of range is invalid and takes the bound, NaN the upper one. -/
def toInt (f : FloatFmt) (rm : Nat) (lo hi : Int) (a : Nat) : Int × BitVec 5 :=
  match f.decode a with
  | .nan => (hi, 16#5)
  | .inf s => (if s then lo else hi, 16#5)
  | .zero _ => (0, 0#5)
  | .fin s n e =>
    let q := round rm s n e 0
    let i := Num.toInt s q.1
    if i < lo then (lo, 16#5) else if hi < i then (hi, 16#5) else (i, if q.2 then 1#5 else 0#5)

/-- The bounds of the integer that a conversion names: W, WU, L, LU. -/
def bounds : Nat → Int × Int
  | 0 => (-(2 ^ 31), 2 ^ 31 - 1)
  | 1 => (0, 2 ^ 32 - 1)
  | 2 => (-(2 ^ 63), 2 ^ 63 - 1)
  | _ => (0, 2 ^ 64 - 1)

/-- The register that a conversion to an integer delivers: 32-bit results are sign-extended. -/
def intReg (k : Nat) (i : Int) : Word :=
  if k < 2 then (BitVec.ofInt 32 i).signExtend 64 else BitVec.ofInt 64 i

/-- The integer of a register that a conversion reads. -/
def regInt (k : Nat) (v : Word) : Int :=
  match k with
  | 0 => (v.extractLsb' 0 32).toInt
  | 1 => ((v.extractLsb' 0 32).toNat : Int)
  | 2 => v.toInt
  | _ => (v.toNat : Int)

/-- A single-precision value in a register: a value that is not NaN-boxed reads as the canonical NaN. -/
def unbox (v : Word) : Nat := if v.extractLsb' 32 32 = 0xFFFFFFFF#32 then (v.extractLsb' 0 32).toNat else FloatFmt.fp32.nanCode
def box (c : Nat) : Word := 0xFFFFFFFF#32 ++ BitVec.ofNat 32 c

/-- The format of the fmt field: S or D. -/
def format (fmt : Nat) : Option FloatFmt := if fmt = 0 then some .fp32 else if fmt = 1 then some .fp64 else none
/-- Operands and results in registers. -/
def take (fmt : Nat) (v : Word) : Nat := if fmt = 0 then unbox v else v.toNat
def give (fmt : Nat) (c : Nat) : Word := if fmt = 0 then box c else BitVec.ofNat 64 c

/-- What a floating-point instruction delivers: to an integer or to a floating-point register, with its flags. -/
inductive Out
  | int (v : Word) (fl : BitVec 5)
  | float (v : Word) (fl : BitVec 5)
  deriving DecidableEq, Repr

/-- FSGNJ, FSGNJN, FSGNJX. -/
def signInject (f : FloatFmt) (f3 a b : Nat) : Option Nat :=
  let p := 2 ^ (f.eb + f.fb)
  let sa := a / p % 2
  let sb := b / p % 2
  match f3 with
  | 0 => some (a % p + p * sb)
  | 1 => some (a % p + p * (1 - sb))
  | 2 => some (a % p + p * ((sa + sb) % 2))
  | _ => none

/-- An instruction of OP-FP: its funct5, fmt, the number in rs2, its funct3 and rounding mode (none where undefined), the floating
operands and the integer operand; none for an undefined one. -/
def opFp (f5 fmt rs2 f3 : Nat) (rm : Option Nat) (a b x : Word) : Option Out :=
  match format fmt with
  | none => none
  | some f =>
    let u := take fmt a
    let v := take fmt b
    let out (r : Res) : Out := .float (give fmt r.1) r.2
    match f5, rm with
    | 0x00, some m => some (out (add f m u v))
    | 0x01, some m => some (out (sub f m u v))
    | 0x02, some m => some (out (mul f m u v))
    | 0x03, some m => some (out (div f m u v))
    | 0x0B, some m => if rs2 = 0 then some (out (sqrt f m u)) else none
    | 0x04, _ => (signInject f f3 u v).map (fun c => out (c, 0#5))
    | 0x05, _ => if f3 < 2 then some (out (minMax f (f3 == 1) u v)) else none
    | 0x08, some m =>
      if rs2 < 2 && rs2 != fmt then
        (format rs2).map (fun g => let c := take rs2 a; out ((pack f m (g.decode c)).1, (pack f m (g.decode c)).2 ||| (if snan g c then 16#5 else 0#5)))
      else none
    | 0x14, _ => (compare f f3 u v).map (fun r => .int (BitVec.ofNat 64 r.1) r.2)
    | 0x18, some m =>
      if rs2 < 4 then
        let r := toInt f m (bounds rs2).1 (bounds rs2).2 u
        some (.int (intReg rs2 r.1) r.2)
      else none
    | 0x1A, some m => if rs2 < 4 then some (out (pack f m (Num.ofInt (regInt rs2 x) 0))) else none
    | 0x1C, _ =>
      if rs2 != 0 then none
      else if f3 = 0 then some (.int (if fmt = 0 then low32 a else a) 0#5)
      else if f3 = 1 then some (.int (BitVec.ofNat 64 (classify f u)) 0#5) else none
    | 0x1E, _ =>
      if rs2 = 0 && f3 = 0 then some (.float (if fmt = 0 then 0xFFFFFFFF#32 ++ x.extractLsb' 0 32 else x) 0#5) else none
    | _, _ => none

/-! ### Immediates -/

def immI (w : Word32) : Word := (w.extractLsb' 20 12).signExtend 64
def immS (w : Word32) : Word := (w.extractLsb' 25 7 ++ w.extractLsb' 7 5).signExtend 64
def immB (w : Word32) : Word := (w.extractLsb' 31 1 ++ w.extractLsb' 7 1 ++ w.extractLsb' 25 6 ++ w.extractLsb' 8 4 ++ 0#1).signExtend 64
def immU (w : Word32) : Word := (w.extractLsb' 12 20 ++ 0#12).signExtend 64
def immJ (w : Word32) : Word := (w.extractLsb' 31 1 ++ w.extractLsb' 12 8 ++ w.extractLsb' 20 1 ++ w.extractLsb' 21 10 ++ 0#1).signExtend 64

/-! ### Compressed instructions -/

def wordI (imm : BitVec 12) (a : BitVec 5) (f3 : BitVec 3) (d : BitVec 5) (op : BitVec 7) : Word32 := imm ++ a ++ f3 ++ d ++ op
def wordR (f7 : BitVec 7) (b a : BitVec 5) (f3 : BitVec 3) (d : BitVec 5) (op : BitVec 7) : Word32 := f7 ++ b ++ a ++ f3 ++ d ++ op
def wordS (imm : BitVec 12) (b a : BitVec 5) (f3 : BitVec 3) (op : BitVec 7) : Word32 :=
  imm.extractLsb' 5 7 ++ b ++ a ++ f3 ++ imm.extractLsb' 0 5 ++ op
def wordB (imm : BitVec 13) (b a : BitVec 5) (f3 : BitVec 3) : Word32 :=
  imm.extractLsb' 12 1 ++ imm.extractLsb' 5 6 ++ b ++ a ++ f3 ++ imm.extractLsb' 1 4 ++ imm.extractLsb' 11 1 ++ 0x63#7
def wordJ (imm : BitVec 21) (d : BitVec 5) : Word32 :=
  imm.extractLsb' 20 1 ++ imm.extractLsb' 1 10 ++ imm.extractLsb' 11 1 ++ imm.extractLsb' 12 8 ++ d ++ 0x6F#7

/-- The 32-bit instruction that a compressed one stands for; none for an undefined one. -/
def expand (c : BitVec 16) : Option Word32 :=
  let p : BitVec 5 := 1#2 ++ c.extractLsb' 2 3
  let q : BitVec 5 := 1#2 ++ c.extractLsb' 7 3
  let d := c.extractLsb' 7 5
  let b := c.extractLsb' 2 5
  let i6 : BitVec 6 := c.extractLsb' 12 1 ++ c.extractLsb' 2 5
  let imm : BitVec 12 := i6.signExtend 12
  let sh : BitVec 12 := i6.setWidth 12
  let offW : BitVec 12 := (c.extractLsb' 5 1 ++ c.extractLsb' 10 3 ++ c.extractLsb' 6 1 ++ 0#2).setWidth 12
  let offD : BitVec 12 := (c.extractLsb' 5 2 ++ c.extractLsb' 10 3 ++ 0#3).setWidth 12
  let spW : BitVec 12 := (c.extractLsb' 2 2 ++ c.extractLsb' 12 1 ++ c.extractLsb' 4 3 ++ 0#2).setWidth 12
  let spD : BitVec 12 := (c.extractLsb' 2 3 ++ c.extractLsb' 12 1 ++ c.extractLsb' 5 2 ++ 0#3).setWidth 12
  let stW : BitVec 12 := (c.extractLsb' 7 2 ++ c.extractLsb' 9 4 ++ 0#2).setWidth 12
  let stD : BitVec 12 := (c.extractLsb' 7 3 ++ c.extractLsb' 10 3 ++ 0#3).setWidth 12
  let br : BitVec 13 := (c.extractLsb' 12 1 ++ c.extractLsb' 5 2 ++ c.extractLsb' 2 1 ++ c.extractLsb' 10 2 ++ c.extractLsb' 3 2 ++ 0#1).signExtend 13
  match (c.extractLsb' 0 2).toNat, (c.extractLsb' 13 3).toNat with
  | 0, 0 =>
    let n : BitVec 10 := c.extractLsb' 7 4 ++ c.extractLsb' 11 2 ++ c.extractLsb' 5 1 ++ c.extractLsb' 6 1 ++ 0#2
    if n = 0#10 then none else some (wordI (n.setWidth 12) 2#5 0#3 p 0x13#7)
  | 0, 1 => some (wordI offD q 3#3 p 0x07#7)
  | 0, 2 => some (wordI offW q 2#3 p 0x03#7)
  | 0, 3 => some (wordI offD q 3#3 p 0x03#7)
  | 0, 5 => some (wordS offD p q 3#3 0x27#7)
  | 0, 6 => some (wordS offW p q 2#3 0x23#7)
  | 0, 7 => some (wordS offD p q 3#3 0x23#7)
  | 1, 0 => some (wordI imm d 0#3 d 0x13#7)
  | 1, 1 => if d = 0#5 then none else some (wordI imm d 0#3 d 0x1B#7)
  | 1, 2 => some (wordI imm 0#5 0#3 d 0x13#7)
  | 1, 3 =>
    if i6 = 0#6 then none
    else if d = 2#5 then
      let n : BitVec 10 := c.extractLsb' 12 1 ++ c.extractLsb' 3 2 ++ c.extractLsb' 5 1 ++ c.extractLsb' 2 1 ++ c.extractLsb' 6 1 ++ 0#4
      some (wordI (n.signExtend 12) 2#5 0#3 2#5 0x13#7)
    else some ((i6.signExtend 20 : BitVec 20) ++ d ++ 0x37#7)
  | 1, 4 =>
    match (c.extractLsb' 10 2).toNat, (c.extractLsb' 12 1).toNat, (c.extractLsb' 5 2).toNat with
    | 0, _, _ => some (wordI sh q 5#3 q 0x13#7)
    | 1, _, _ => some (wordI (sh ||| 0x400#12) q 5#3 q 0x13#7)
    | 2, _, _ => some (wordI imm q 7#3 q 0x13#7)
    | _, 0, 0 => some (wordR 0x20#7 p q 0#3 q 0x33#7)
    | _, 0, 1 => some (wordR 0#7 p q 4#3 q 0x33#7)
    | _, 0, 2 => some (wordR 0#7 p q 6#3 q 0x33#7)
    | _, 0, _ => some (wordR 0#7 p q 7#3 q 0x33#7)
    | _, _, 0 => some (wordR 0x20#7 p q 0#3 q 0x3B#7)
    | _, _, 1 => some (wordR 0#7 p q 0#3 q 0x3B#7)
    | _, _, _ => none
  | 1, 5 =>
    let n : BitVec 12 := c.extractLsb' 12 1 ++ c.extractLsb' 8 1 ++ c.extractLsb' 9 2 ++ c.extractLsb' 6 1 ++ c.extractLsb' 7 1 ++
      c.extractLsb' 2 1 ++ c.extractLsb' 11 1 ++ c.extractLsb' 3 3 ++ 0#1
    some (wordJ (n.signExtend 21) 0#5)
  | 1, 6 => some (wordB br 0#5 q 0#3)
  | 1, 7 => some (wordB br 0#5 q 1#3)
  | 2, 0 => some (wordI sh d 1#3 d 0x13#7)
  | 2, 1 => some (wordI spD 2#5 3#3 d 0x07#7)
  | 2, 2 => if d = 0#5 then none else some (wordI spW 2#5 2#3 d 0x03#7)
  | 2, 3 => if d = 0#5 then none else some (wordI spD 2#5 3#3 d 0x03#7)
  | 2, 4 =>
    if c.getLsbD 12 then
      if b != 0#5 then some (wordR 0#7 b d 0#3 d 0x33#7)
      else if d = 0#5 then some 0x00100073#32 else some (wordI 0#12 d 0#3 1#5 0x67#7)
    else if b != 0#5 then some (wordR 0#7 b 0#5 0#3 d 0x33#7)
    else if d = 0#5 then none else some (wordI 0#12 d 0#3 0#5 0x67#7)
  | 2, 5 => some (wordS stD b 2#5 3#3 0x27#7)
  | 2, 6 => some (wordS stW b 2#5 2#3 0x23#7)
  | 2, 7 => some (wordS stD b 2#5 3#3 0x23#7)
  | _, _ => none

end Sys2Proof.Machine.Rv
end

