-- ==== Sys2Proof/Machine/Hearth.lean ====
section
/-! DEFINITION. Hearth cores (R401–R405, R412–R417): RV64IMAFDC with Zicsr and Zifencei, exceptions to M-mode, windowed accesses, the
episode CSRs, binding, the mailbox's acceptance of actions, the flag-fall watchdog and the ply forms. -/

namespace Sys2Proof.Machine

/-! ### A hearth core (R401; the layout of RISC-V's machine mode, log entry 7) -/

def hartOf (s : State) (hc : Nat) : Hart := s.hth.harts.at hc
def hartUpd (s : State) (hc : Nat) (f : Hart → Hart) : State := { s with hth.harts := s.hth.harts.upd hc f }

/-- An integer register; x0 reads as 0. -/
def Hart.reg (h : Hart) (r : BitVec 5) : Word := if r = 0#5 then 0#64 else h.x.at r.toNat
/-- x0 discards a write. -/
def Hart.setReg (h : Hart) (r : BitVec 5) (v : Word) : Hart := if r = 0#5 then h else { h with x := h.x.set r.toNat v }

/-- mstatus at a trap: MPIE takes MIE, MIE is cleared, MPP takes the mode. -/
def trapStatus (w : Word) (user : Bool) : Word :=
  (w &&& ~~~0x1888#64) ||| (if w.getLsbD 3 then 0x80#64 else 0#64) ||| (if user then 0#64 else 0x1800#64)

/-- Taking an exception or interrupt to M-mode: mepc, mcause and mtval are written, mstatus and the mode change, and the pc is
mtvec's base, or for an interrupt of vectored mode its entry. -/
def hartTrap (s : State) (hc : Nat) (intr : Bool) (cause : Nat) (tval : Word) : State :=
  hartUpd s hc (fun h => { h with
    mepc := h.pc, mcause := BitVec.ofNat 64 (cause + (if intr then 2 ^ 63 else 0)), mtval := tval
    mstatus := trapStatus h.mstatus h.user, user := false
    pc := (h.mtvec &&& ~~~3#64) + (if intr && h.mtvec.getLsbD 0 then BitVec.ofNat 64 (4 * cause) else 0#64) })

/-- The return from M-mode (R417): the pc is mepc, the mode MPP, MIE takes MPIE, and MPRV is cleared where the mode is U. -/
def hartReturn (s : State) (hc : Nat) : State :=
  hartUpd s hc (fun h => { h with
    pc := h.mepc, user := h.mstatus.extractLsb' 11 2 == 0#2
    mstatus := ((h.mstatus &&& ~~~0x1888#64) ||| (if h.mstatus.getLsbD 7 then 0x8#64 else 0#64) ||| 0x80#64) &&&
      (if h.mstatus.extractLsb' 11 2 == 0#2 then ~~~0x20000#64 else ~~~0#64)
    instret := h.instret + 1#64 })

/-- The exception of an illegal instruction (R401); mtval, which no rule gives, is a free value. -/
def hartIllegal (s : State) (hc : Nat) : State :=
  let f := free s
  hartTrap f.2 hc false 2 f.1

/-- The entry that U-mode runs (R403). -/
def Hart.episode (h : Hart) (hc : Nat) : Option Nat :=
  if h.hepcur.getLsbD 4 then some (epKey hc (h.hepcur.extractLsb' 0 4).toNat) else none

/-- The next instruction. -/
def hartNext (s : State) (hc : Nat) (d : BitVec 5) (v : Word) : State :=
  hartUpd s hc (fun h => { h.setReg d v with pc := h.pc + 4#64, instret := h.instret + 1#64 })

/-! ### Windows (R405) -/

/-- The cause of an access fault. -/
def HKind.cause : HKind → Nat
  | .fetch => 1
  | .load => 5
  | .store => 7
  | .amo => 7

/-- A value as a load delivers it. -/
def loadedValue (bs : List Byte) (signed : Bool) : Word :=
  let n := leNat bs
  BitVec.ofNat 64 (if signed && decide (2 ^ (8 * bs.length) ≤ 2 * n) then n + 2 ^ 64 - 2 ^ (8 * bs.length) else n)

/-- HEARTH_WINDOW_ACCESS: an access of U-mode at offset `v` of `n` bytes by hearth core `core`, bearing the KEY and KGEN of `w`: it
goes to the current entry's window, or raises an access fault. A load or AMO delivers to register `unit`, sign-extended with
`flag`; `data` is what is written. -/
def execHearthWindowAccess (s : State) : Out :=
  let e := s.sim.arg
  let hc := e.core.toNat
  let h := hartOf s hc
  match e.load with
  | .hearth kind =>
    if !h.user then .next s
    else match h.episode hc with
    | none => .next (hartTrap s hc false (HKind.cause kind) e.v)
    | some k =>
      let ep := s.hth.eps.at k
      let n := if kind == .store then e.data.length else e.n
      if !ep.inWindow e.v.toNat n then .next (hartTrap s hc false (HKind.cause kind) e.v)
      else
        let r := if kind == .store then ([], s) else winRead s k ep e.v.toNat n
        let stale := e.w.extractLsb' 0 16 != ep.kgen || e.w.extractLsb' 16 16 != ep.key
        let s := if (kind == .store || kind == .amo) && !stale then winWrite r.2 k ep e.v.toNat e.data else r.2
        .next (if kind == .load || kind == .amo then
          hartUpd s hc (fun h => h.setReg (e.unit.setWidth 5) (loadedValue r.1 e.flag)) else s)
  | _ => .next s

/-! ### Memory accesses of the base profile (R402, R405) -/

/-- Do data accesses go by U-mode: in U-mode, or in M-mode where MPRV says so with MPP naming U? -/
def Hart.dataUser (h : Hart) : Bool := h.user || (h.mstatus.getLsbD 17 && h.mstatus.extractLsb' 11 2 == 0#2)

/-- The physical address of an access of n bytes: in the window of the current entry in U-mode, the address itself in M-mode, where it
must be DRAM, whose home L2 performs it; none where it raises an access fault. -/
def hartPa (s : State) (hc : Nat) (user : Bool) (a n : Nat) : Option Nat :=
  if user then
    ((hartOf s hc).episode hc).bind (fun k =>
      let e := s.hth.eps.at k
      if e.inWindow a n then some (e.base.toNat * 2 ^ 16 + a) else none)
  else if isDram a && isDram (a + n - 1) then some a else none

/-- Is a write of U-mode dropped, because the KEY or KGEN that it carries is not the entry's (R405)? -/
def hartStale (s : State) (hc : Nat) (user : Bool) : Bool :=
  let h := hartOf s hc
  user && (match h.episode hc with
    | some k => (s.hth.eps.at k).kgen != h.kgen || (s.hth.eps.at k).key != h.key
    | none => false)

/-- Read for a load: the bytes, or none where the access faults. -/
def hartLoad (s : State) (hc a n : Nat) : Option (List Byte × State) :=
  (hartPa s hc (hartOf s hc).dataUser a n).map (fun pa => enRead hc (n / 128 + 2) pa n s)

/-- Write for a store: none where the access faults. -/
def hartStore (s : State) (hc a : Nat) (bs : List Byte) : Option State :=
  let user := (hartOf s hc).dataUser
  (hartPa s hc user a bs.length).map (fun pa => if hartStale s hc user then s else enWrite hc (bs.length / 128 + 2) pa bs s)

/-- Bytes of a register, lowest first. -/
def regBytes (v : Word) (n : Nat) : List Byte := (List.range n).map (fun i => v.extractLsb' (8 * i) 8)

/-! ### CSRs (R403 and Zicsr; log entry 7) -/

/-- What HEPSEL, HEW0–HEW7 and HEPCUR read as. -/
def csrRead (s : State) (hc n : Nat) : Word :=
  let h := hartOf s hc
  if n = 0x7C0 then h.hepsel.setWidth 64
  else if n = 0x7C9 then h.hepcur.setWidth 64
  else (s.hth.eps.at (epKey hc h.hepsel.toNat)).word s.dev.gtsc (n - 0x7C1)

/-- A write of one of them. HEPCUR takes the KEY and KGEN of the entry that it names, which the accesses of U-mode carry from then on. -/
def csrWrite (s : State) (hc n : Nat) (w : Word) : State :=
  if n = 0x7C0 then hartUpd s hc (fun h => { h with hepsel := w.extractLsb' 0 4 })
  else if n = 0x7C9 then
    let e := s.hth.eps.at (epKey hc (w.extractLsb' 0 4).toNat)
    hartUpd s hc (fun h => { h with hepcur := w.extractLsb' 0 5, key := e.key, kgen := e.kgen })
  else episodeWriteOp s hc (hartOf s hc).hepsel.toNat (n - 0x7C1) w

/-- Cycles of the hearth clock since GTSC was 0. -/
def clockNow (s : State) : Word := BitVec.ofNat 64 (hearthCycles s.dev.gtsc.toNat)

/-- mstatus as it is read: UXL is 2, and SD says whether FS is Dirty. -/
def Hart.status (h : Hart) : Word :=
  h.mstatus ||| 0x200000000#64 ||| (if h.mstatus.extractLsb' 13 2 = 3#2 then 0x8000000000000000#64 else 0#64)

/-- mstatus as it is written: MIE, MPIE, MPP (which holds U or M), FS, MPRV and TW. -/
def statusWrite (w : Word) : Word :=
  (w &&& 0x226088#64) ||| (if w.extractLsb' 11 2 = 3#2 then 0x1800#64 else 0#64)

/-- misa: RV64 with A, C, D, F, I, M and U. -/
def misaWord : Word := 0x800000000010112D#64

/-- A CSR of the base profile: its value, or none where there is no such CSR. -/
def baseCsr (s : State) (hc n : Nat) : Option Word :=
  let h := hartOf s hc
  match n with
  | 0x001 => some (h.fcsr &&& 0x1F#64)
  | 0x002 => some ((h.fcsr >>> 5) &&& 7#64)
  | 0x003 => some (h.fcsr &&& 0xFF#64)
  | 0x300 => some h.status
  | 0x301 => some misaWord
  | 0x304 => some h.mie
  | 0x305 => some h.mtvec
  | 0x306 => some h.mcounteren
  | 0x30A => some 0#64
  | 0x320 => some 0#64
  | 0x340 => some h.mscratch
  | 0x341 => some h.mepc
  | 0x342 => some h.mcause
  | 0x343 => some h.mtval
  | 0x344 => some h.mip
  | 0xC01 => some s.dev.gtsc
  | 0xF14 => some (BitVec.ofNat 64 hc)
  | _ =>
    if n = 0xB00 || n = 0xC00 then some (clockNow s + h.cycle)
    else if n = 0xB02 || n = 0xC02 then some h.instret
    else if (decide (0xB03 ≤ n) && decide (n ≤ 0xB1F)) || (decide (0x323 ≤ n) && decide (n ≤ 0x33F)) ||
        (decide (0xC03 ≤ n) && decide (n ≤ 0xC1F)) || n = 0xF11 || n = 0xF12 || n = 0xF13 || n = 0xF15 then some 0#64
    else none

/-- FS says Dirty. -/
def Hart.dirty (h : Hart) : Hart := { h with mstatus := h.mstatus ||| 0x6000#64 }

/-- A write of a CSR of the base profile; those that only read as a constant keep it. -/
def baseCsrWrite (s : State) (hc n : Nat) (w : Word) : State :=
  hartUpd s hc (fun h => match n with
    | 0x001 => { h with fcsr := (h.fcsr &&& 0xE0#64) ||| (w &&& 0x1F#64) }.dirty
    | 0x002 => { h with fcsr := (h.fcsr &&& 0x1F#64) ||| ((w &&& 7#64) <<< 5) }.dirty
    | 0x003 => { h with fcsr := w &&& 0xFF#64 }.dirty
    | 0x300 => { h with mstatus := statusWrite w }
    | 0x304 => { h with mie := w &&& 0x10888#64 }
    | 0x305 => { h with mtvec := w &&& ~~~2#64 }
    | 0x306 => { h with mcounteren := w &&& 7#64 }
    | 0x340 => { h with mscratch := w }
    | 0x341 => { h with mepc := w &&& ~~~1#64 }
    | 0x342 => { h with mcause := w }
    | 0x343 => { h with mtval := w }
    | 0xB00 => { h with cycle := w - clockNow s }
    | 0xB02 => { h with instret := w - 1#64 }
    | _ => h)

/-- Is a CSR refused: of M-mode from U-mode, read-only when written, of F while FS is Off, or a counter that mcounteren withholds? -/
def csrRefused (h : Hart) (n : Nat) (writes : Bool) : Bool :=
  (h.user && n / 0x100 % 4 != 0) || (writes && n / 0x400 == 3) ||
    (decide (n ≤ 3) && h.mstatus.extractLsb' 13 2 == 0#2) ||
    (h.user && n / 0x100 == 0xC && !h.mcounteren.getLsbD (n % 0x20))

/-- A CSR instruction, in the encoding of Zicsr: write, set or clear, from a register or an immediate. -/
def csrStep (s : State) (hc : Nat) (w : BitVec 32) : State :=
  let h := hartOf s hc
  let n := (w.extractLsb' 20 12).toNat
  let f3 := w.extractLsb' 12 3
  let src := w.extractLsb' 15 5
  let v := if f3.getLsbD 2 then src.setWidth 64 else h.reg src
  let writes := f3.extractLsb' 0 2 == 1#2 || src != 0#5
  let ep := decide (0x7C0 ≤ n) && decide (n ≤ 0x7C9)
  match if ep then some (csrRead s hc n) else baseCsr s hc n with
  | none => hartIllegal s hc
  | some old =>
    if csrRefused h n writes then hartIllegal s hc
    else
      let new := match (f3.extractLsb' 0 2).toNat with
        | 1 => v
        | 2 => old ||| v
        | _ => old &&& ~~~v
      let s := if !writes then s else if ep then csrWrite s hc n new else baseCsrWrite s hc n new
      hartNext s hc (w.extractLsb' 7 5) old

/-! ### The base profile (R401; log entry 7) -/

/-- The instruction is complete: rd takes a value, and the pc stands `len` bytes on. -/
def hartDone (s : State) (hc len : Nat) (d : BitVec 5) (v : Word) : State :=
  hartUpd s hc (fun h => { h.setReg d v with pc := h.pc + BitVec.ofNat 64 len, instret := h.instret + 1#64 })

/-- A jump: rd takes the address after the instruction. -/
def hartJump (s : State) (hc len : Nat) (d : BitVec 5) (target : Word) : State :=
  hartUpd s hc (fun h => { h.setReg d (h.pc + BitVec.ofNat 64 len) with pc := target, instret := h.instret + 1#64 })

/-- A floating-point register takes a value, fcsr the flags, and FS says Dirty. -/
def hartFloat (s : State) (hc len : Nat) (d : BitVec 5) (v : Word) (fl : BitVec 5) : State :=
  hartUpd s hc (fun h => { h with
    f := h.f.set d.toNat v, fcsr := h.fcsr ||| fl.setWidth 64, pc := h.pc + BitVec.ofNat 64 len, instret := h.instret + 1#64 }.dirty)

/-- An integer register takes what a floating-point instruction delivers. -/
def hartFlags (s : State) (hc len : Nat) (d : BitVec 5) (v : Word) (fl : BitVec 5) : State :=
  hartDone (if fl = 0#5 then s else hartUpd s hc (fun h => { h with fcsr := h.fcsr ||| fl.setWidth 64 }.dirty)) hc len d v

/-- LOAD: n bytes, sign-extended or not. -/
def rvLoad (s : State) (hc len : Nat) (d : BitVec 5) (a : Word) (n : Nat) (signed : Bool) : State :=
  match hartLoad s hc a.toNat n with
  | none => hartTrap s hc false 5 a
  | some r => hartDone r.2 hc len d (loadedValue r.1 signed)

/-- STORE. -/
def rvStore (s : State) (hc len : Nat) (a : Word) (bs : List Byte) : State :=
  match hartStore s hc a.toNat bs with
  | none => hartTrap s hc false 7 a
  | some t => hartDone t hc len 0#5 0#64

/-- The reservation of a hearth core. -/
def lrSet (s : State) (hc : Nat) (r : Option Nat) : State := { s with st.lrs := s.st.lrs.set hc r }

/-- LR, SC or an AMO on n bytes, which must be aligned. The read and the write of an AMO are one step at the home L2. -/
def rvAtomic (s : State) (hc len : Nat) (f5 n : Nat) (d : BitVec 5) (a b : Word) : State :=
  let wide (v : Word) : Word := if n = 4 then Rv.low32 v else v
  if a.toNat % n != 0 then hartTrap s hc false (if f5 = 2 then 4 else 6) a
  else match hartPa s hc (hartOf s hc).dataUser a.toNat n, hartLoad s hc a.toNat n with
  | some pa, some r =>
    let old := loadedValue r.1 true
    if f5 = 2 then hartDone (lrSet r.2 hc (some (pa / 128))) hc len d old
    else if f5 = 3 then
      if s.st.lrs.at hc == some (pa / 128) then
        hartDone (lrSet ((hartStore s hc a.toNat (regBytes b n)).getD s) hc none) hc len d 0#64
      else hartDone (lrSet s hc none) hc len d 1#64
    else match Rv.amo f5 old (wide b) with
    | none => hartIllegal s hc
    | some v => hartDone ((hartStore r.2 hc a.toNat (regBytes v n)).getD r.2) hc len d old
  | _, _ => hartTrap s hc false (if f5 = 2 then 5 else 7) a

/-- The rounding mode of a floating-point instruction; none where it, or frm where it defers to it, is undefined. -/
def Hart.rounding (h : Hart) (f3 : Nat) : Option Nat :=
  let m := if f3 = 7 then (h.fcsr.extractLsb' 5 3).toNat else f3
  if m < 5 then some m else none

/-- A floating-point instruction that works on registers. -/
def rvFloat (s : State) (hc len : Nat) (w : Word32) : State :=
  let h := hartOf s hc
  let d := w.extractLsb' 7 5
  let x := h.f.at (w.extractLsb' 15 5).toNat
  let y := h.f.at (w.extractLsb' 20 5).toNat
  let z := h.f.at (w.extractLsb' 27 5).toNat
  let f3 := (w.extractLsb' 12 3).toNat
  let fmt := (w.extractLsb' 25 2).toNat
  let rm := h.rounding f3
  if h.mstatus.extractLsb' 13 2 == 0#2 then hartIllegal s hc
  else if w.extractLsb' 0 7 = 0x53#7 then
    match Rv.opFp (w.extractLsb' 27 5).toNat fmt (w.extractLsb' 20 5).toNat f3 rm x y (h.reg (w.extractLsb' 15 5)) with
    | none => hartIllegal s hc
    | some (.int v fl) => hartFlags s hc len d v fl
    | some (.float v fl) => hartFloat s hc len d v fl
  else
    let k := (w.extractLsb' 2 2).toNat
    match Rv.format fmt, rm with
    | some f, some m =>
      let r := Rv.fma f m (decide (2 ≤ k)) (k == 1 || k == 3) (Rv.take fmt x) (Rv.take fmt y) (Rv.take fmt z)
      hartFloat s hc len d (Rv.give fmt r.1) r.2
    | _, _ => hartIllegal s hc

/-- FLW, FLD, FSW and FSD. -/
def rvFloatMem (s : State) (hc len : Nat) (w : Word32) : State :=
  let h := hartOf s hc
  let f3 := (w.extractLsb' 12 3).toNat
  let n := if f3 = 2 then 4 else 8
  let base := h.reg (w.extractLsb' 15 5)
  if h.mstatus.extractLsb' 13 2 == 0#2 || (f3 != 2 && f3 != 3) then hartIllegal s hc
  else if w.extractLsb' 0 7 = 0x07#7 then
    let a := base + Rv.immI w
    match hartLoad s hc a.toNat n with
    | none => hartTrap s hc false 5 a
    | some r =>
      let v := leNat r.1
      hartFloat r.2 hc len (w.extractLsb' 7 5) (if n = 4 then Rv.box v else BitVec.ofNat 64 v) 0#5
  else rvStore s hc len (base + Rv.immS w) (regBytes (h.f.at (w.extractLsb' 20 5).toNat) n)

/-- ECALL, EBREAK, MRET and WFI. A wait ends at once. -/
def rvSystem (s : State) (hc : Nat) (w : Word32) : State :=
  let h := hartOf s hc
  if w = 0x00000073#32 then hartTrap s hc false (if h.user then 8 else 11) 0#64
  else if w = 0x00100073#32 then (let f := free s; hartTrap f.2 hc false 3 f.1)
  else if w = 0x30200073#32 then (if h.user then hartIllegal s hc else hartReturn s hc)
  else if w = 0x10500073#32 then (if h.user && h.mstatus.getLsbD 21 then hartIllegal s hc else hartNext s hc 0#5 0#64)
  else hartIllegal s hc

/-- One instruction of the base profile, `len` bytes long as it stands. -/
def rvStep (s : State) (hc len : Nat) (w : Word32) : State :=
  let h := hartOf s hc
  let d := w.extractLsb' 7 5
  let a := h.reg (w.extractLsb' 15 5)
  let b := h.reg (w.extractLsb' 20 5)
  let f3 := (w.extractLsb' 12 3).toNat
  let f7 := (w.extractLsb' 25 7).toNat
  match (w.extractLsb' 0 7).toNat with
  | 0x03 => if f3 = 7 then hartIllegal s hc else rvLoad s hc len d (a + Rv.immI w) (2 ^ (f3 % 4)) (decide (f3 < 4))
  | 0x0F => if f3 < 2 then hartDone s hc len 0#5 0#64 else hartIllegal s hc
  | 0x13 =>
    if (f3 = 1 && f7 / 2 != 0) || (f3 = 5 && f7 / 2 != 0 && f7 / 2 != 0x10) then hartIllegal s hc
    else hartDone s hc len d (Rv.alu f3 (f3 == 5 && f7 / 2 != 0) a (Rv.immI w))
  | 0x17 => hartDone s hc len d (h.pc + Rv.immU w)
  | 0x1B =>
    if f3 = 0 || (f3 = 1 && f7 = 0) || (f3 = 5 && (f7 = 0 || f7 = 0x20)) then hartDone s hc len d (Rv.aluW f3 (f3 == 5 && f7 != 0) a (Rv.immI w))
    else hartIllegal s hc
  | 0x23 => if 4 ≤ f3 then hartIllegal s hc else rvStore s hc len (a + Rv.immS w) (regBytes b (2 ^ f3))
  | 0x2F => if f3 = 2 || f3 = 3 then
      (if (Rv.amo (f7 / 4) 0#64 0#64).isSome || f7 / 4 = 3 || (f7 / 4 = 2 && w.extractLsb' 20 5 = 0#5) then
        rvAtomic s hc len (f7 / 4) (if f3 = 2 then 4 else 8) d a b else hartIllegal s hc)
    else hartIllegal s hc
  | 0x33 =>
    if f7 = 1 then hartDone s hc len d (Rv.mulDiv f3 a b)
    else if f7 = 0 || (f7 = 0x20 && (f3 = 0 || f3 = 5)) then hartDone s hc len d (Rv.alu f3 (f7 != 0) a b)
    else hartIllegal s hc
  | 0x37 => hartDone s hc len d (Rv.immU w)
  | 0x3B =>
    if f7 = 1 && (f3 = 0 || 4 ≤ f3) then hartDone s hc len d (Rv.mulDivW f3 a b)
    else if (f7 = 0 && (f3 = 0 || f3 = 1 || f3 = 5)) || (f7 = 0x20 && (f3 = 0 || f3 = 5)) then
      hartDone s hc len d (Rv.aluW f3 (f7 != 0) a b)
    else hartIllegal s hc
  | 0x63 => (match Rv.cond f3 a b with
    | none => hartIllegal s hc
    | some t => hartJump s hc len 0#5 (if t then h.pc + Rv.immB w else h.pc + BitVec.ofNat 64 len))
  | 0x67 => if f3 = 0 then hartJump s hc len d ((a + Rv.immI w) &&& ~~~1#64) else hartIllegal s hc
  | 0x6F => hartJump s hc len d (h.pc + Rv.immJ w)
  | 0x73 => if f3 = 0 then rvSystem s hc w else if f3 = 4 then hartIllegal s hc else csrStep s hc w
  | 0x07 => rvFloatMem s hc len w
  | 0x27 => rvFloatMem s hc len w
  | 0x43 => rvFloat s hc len w
  | 0x47 => rvFloat s hc len w
  | 0x4B => rvFloat s hc len w
  | 0x4F => rvFloat s hc len w
  | 0x53 => rvFloat s hc len w
  | _ => hartIllegal s hc

/-! ### A hearth core's turn -/

/-- What the turn of a hearth core comes to: a ply form to execute, or a state. -/
inductive HartTurn
  | run (i : Instr) (s : State)
  | done (s : State)

/-- Take FLAGFALL where it waits and is enabled (R416): HEPSEL names the entry. -/
def hartInterrupt (s : State) (hc : Nat) : Option State :=
  let h := hartOf s hc
  match h.falls with
  | [] => none
  | e :: r =>
    if h.mie.getLsbD 16 && (h.user || h.mstatus.getLsbD 3) then
      let s := hartUpd s hc (fun h => { h with
        falls := r, hepsel := e, mip := if r.isEmpty then h.mip &&& ~~~0x10000#64 else h.mip })
      some (hartTrap s hc true 16 0#64)
    else none

/-- Fetch two bytes: through the window in U-mode, at the physical address in M-mode. -/
def hartFetch (s : State) (hc : Nat) (pc : Word) : Option (List Byte × State) :=
  (hartPa s hc (hartOf s hc).user pc.toNat 2).map (fun pa => enRead hc 2 pa 2 s)

/-- The turn of an instruction of 32 bits: a ply form, or one of the base profile. -/
def hartWord (s : State) (hc : Nat) (w : Word32) : HartTurn :=
  if w.extractLsb' 0 7 = 0xB#7 then
    match decodePly w with
    | some i => .run i { s with sim.cur := .hart hc }
    | none => .done (hartIllegal s hc)
  else .done (rvStep s hc 4 w)

/-- One instruction of a hearth core. -/
def hartTurn (s : State) (hc : Nat) : HartTurn :=
  match hartInterrupt s hc with
  | some s => .done s
  | none =>
    let pc := (hartOf s hc).pc
    match hartFetch s hc pc with
    | none => .done (hartTrap s hc false 1 pc)
    | some lo =>
      let c : BitVec 16 := BitVec.ofNat 16 (leNat lo.1)
      if c.extractLsb' 0 2 != 3#2 then
        .done (match Rv.expand c with
          | some w => rvStep lo.2 hc 2 w
          | none => hartIllegal lo.2 hc)
      else match hartFetch lo.2 hc (pc + 2#64) with
      | none => .done (hartTrap lo.2 hc false 1 (pc + 2#64))
      | some hi => hartWord hi.2 hc (BitVec.ofNat 16 (leNat hi.1) ++ c)

/-! ### Binding (R404) -/

/-- BERR of a binding, 0 where every check passes. -/
def bindCheck (s : State) (k : Nat) : Nat :=
  let e := s.hth.eps.at k
  let aq := s.qu.queues.at (queueKey e.core e.aq.toNat)
  let oq := s.qu.queues.at (queueKey e.core e.oq.toNat)
  if decide (e.limit.toNat ≤ e.base.toNat) || decide (e.base.toNat * 2 ^ 16 < 0x80000000000) ||
      decide (0x100000000000 < e.limit.toNat * 2 ^ 16) then 1
  else if !aq.v || !oq.v || aq.asid != e.asid || oq.asid != e.asid then 2
  else if aq.pol != 5 || oq.pol != 5 || aq.nv != 0 || oq.nv != 0 then 3
  else if oq.prod != .threads || aq.cons.getD 0 0 / 0x4000 != 2 || decide (oq.len < 6) || decide (aq.len < 3) then 4
  else if s.hth.eps.any (fun x => x.1 != k && x.2.v && x.2.core == e.core &&
      (x.2.aq == e.aq || x.2.aq == e.oq || x.2.oq == e.aq || x.2.oq == e.oq)) then 5
  else 0

/-- EPISODE_BIND: the write that sets V of entry `unit` of hearth core `core` binds it, or leaves V = 0 with BERR. -/
def execEpisodeBind (s : State) : Out :=
  let k := epKey s.sim.arg.core.toNat (s.sim.arg.unit.toNat % 16)
  if (s.hth.eps.at k).v then .next s
  else
    let b := bindCheck s k
    .next (epUpd s k (fun e =>
      if b != 0 then { e with v := false, st := .free, berr := BitVec.ofNat 4 b }
      else { e with
        v := true, st := .live, berr := 0#4, aseq := 0#32, oseq := 0#32, flag := 0#40, bud := 0#40, ptag := 0#32, dseq := 0xFFFFFFFF#32
        ivl := false, tagSet := false, acts := [], busy := [], trunc := none }))

/-- EPISODE_UNBIND: the write that clears V of entry `unit` of hearth core `core`. -/
def execEpisodeUnbind (s : State) : Out :=
  let k := epKey s.sim.arg.core.toNat (s.sim.arg.unit.toNat % 16)
  .next (if (s.hth.eps.at k).v then epUnbind s k else s)

/-! ### Actions (R407–R410) -/

/-- Is a record an action: at least four data tokens, its slot in the box, LEN and the reserved bits in order, its KIND an action's? -/
def actionOk (e : Episode) (ds : List (BitVec 32)) : Bool :=
  let d1 := ds.getD 1 0#32
  let kind := (d1.extractLsb' 24 8).toNat
  decide (4 ≤ ds.length) && decide ((ds.getD 0 0#32).toNat < e.slots) && decide ((d1.extractLsb' 0 13).toNat ≤ 4096) &&
    d1.extractLsb' 13 11 == 0#11 && decide (1 ≤ kind) && decide (kind ≤ 3)

/-- An ACK frees the observation slots whose messages it covers (R408). -/
def Episode.acked (e : Episode) (ack : BitVec 32) : Episode :=
  if ack = 0xFFFFFFFF#32 then e else { e with busy := e.busy.filter (fun b => (ack - b.2).getLsbD 31) }

/-- An action is accepted: it takes ASEQ, its ACK is applied, and its tag is compared with the tag of the action before it (R410). -/
def actionTake (s : State) (k : Nat) (ds : List (BitVec 32)) : State :=
  let e := s.hth.eps.at k
  let tag := ds.getD 2 0#32
  let d1 := ds.getD 1 0#32
  let stored := match e.acts.getLast? with
    | some a => a.ptag
    | none => e.ptag
  let s := epUpd s k (fun e => { e.acked (ds.getD 3 0#32) with aseq := e.aseq + 1#32 })
  if e.tagSet && tag != stored && e.rule then epTruncate s k e.aseq tag
  else
    let a : Action := { slot := (ds.getD 0 0#32).toNat, kind := (d1.extractLsb' 24 8).toNat, len := (d1.extractLsb' 0 13).toNat
                        ptag := tag, ack := ds.getD 3 0#32, seq := e.aseq, time := s.dev.gtsc }
    epUpd s k (fun e => { e with acts := e.acts ++ [a], tagSet := true })

/-- May the mailbox read its next AQ record: the episode is LIVE and an action slot's worth of actions is not yet waiting? -/
def boxReads (s : State) (k : Nat) : Bool :=
  let e := s.hth.eps.at k
  let d := s.qu.queues.at (queueKey e.core e.aq.toNat)
  e.v && e.st == .live && decide (e.acts.length < e.slots) && d.v && !((d.views.at 0).readable d.ch).isEmpty

/-- ACTION_RECORD_ACCEPT: the mailbox of entry `unit` of hearth core `core` reads the oldest entry of AQ, whose slot is freed at
once. A marker, or a record that is no action, is discarded. -/
def execActionRecordAccept (s : State) : Out :=
  let k := epKey s.sim.arg.core.toNat (s.sim.arg.unit.toNat % 16)
  if !boxReads s k then .next s
  else
    let e := s.hth.eps.at k
    let n := e.aq.toNat
    let d := s.qu.queues.at (queueKey e.core n)
    let ts := ((d.views.at 0).readable d.ch).headD []
    let w := readPoison s e.core n 0 0
    let s := progress (viewPop s e.core n 0 1) e.core d.rid
    let ds := (ts.drop 1).map (fun t => t.extractLsb' 0 32)
    .next (if w.isSome then regionError s d.rid 0x02 (coreLoc e.core) [BitVec.ofNat 64 (w.getD 0)]
      else if isRec (ts.headD 0#48) && actionOk e ds then actionTake s k ds else s)

/-! ### The flag (R415, R416) -/

/-- Has the flag of an entry fallen? -/
def flagDown (s : State) (k : Nat) : Bool :=
  let e := s.hth.eps.at k
  e.v && e.st == .live && e.ivl && e.bud != 0#40 && e.flagNow s.dev.gtsc == 0

/-- FLAG_FALL: FLAG of entry `unit` of hearth core `core` is 0 in an interval: the episode is DEAD, KGEN advances, a KILLED
observation under the EPI of the episode is placed, and FLAGFALL waits at its hearth core. -/
def execFlagFall (s : State) : Out :=
  let hc := s.sim.arg.core.toNat
  let x := s.sim.arg.unit.toNat % 16
  let k := epKey hc x
  if !flagDown s k then .next s
  else
    let id := epi k (s.hth.eps.at k)
    let s := epUpd s k (fun e => { e with st := .dead, kgen := e.kgen + 1#16 })
    let s := obsPlace s k id 6 0#32 []
    .next (hartUpd s hc (fun h => { h with falls := h.falls ++ [BitVec.ofNat 4 x], mip := h.mip ||| 0x10000#64 }))

/-! ### The ply forms (R412–R414) -/

/-- A status in bits [63:56]. -/
def plyStatus (st : Nat) (v : Nat) : Word := BitVec.ofNat 64 (st * 2 ^ 56 + v)

/-- A ply form of the hearth core whose instruction is current: `f` answers, for the current episode, the state and what rd takes, or
no value where it has taken an exception. Without a current episode the form returns ENDED. -/
def plyForm (s : State) (d : BitVec 5) (f : Nat → Nat → Hart → Episode → State × Option Word) : State :=
  match s.sim.cur with
  | .hart hc =>
    let h := hartOf s hc
    (match h.episode hc with
      | none => hartNext s hc d (plyStatus 1 0)
      | some k =>
        let r := f hc k h (s.hth.eps.at k)
        match r.2 with
        | some v => hartNext r.1 hc d v
        | none => r.1)
  | _ => s

/-- PLY.SEND: places a STEP observation; its VAL, which no rule gives, is a free value. -/
def execPlySend (b : BitVec 5) (a : BitVec 5) (d : BitVec 5) (s : State) : Out :=
  .next (plyForm s d fun _ k h e =>
    let at_ := (h.reg a).toNat
    let len := ((h.reg b).extractLsb' 0 13).toNat
    if e.st != .live then (s, some (plyStatus 1 0))
    else if decide (4096 < len) || !e.inWindow at_ len then (s, some (plyStatus 2 0))
    else if len != 0 && decide (e.slots ≤ e.busy.length) then (s, some (plyStatus 3 0))
    else
      let r := winRead s k e at_ len
      let f := freeN r.2
      (obsPlace f.2 k (epi k e) 1 (BitVec.ofNat 32 f.1) r.1, some (plyStatus 0 e.oseq.toNat)))

/-- A TRUNCATED message is written: its ACK and VAL, which no rule gives, are free values. -/
def recvTrunc (s : State) (k : Nat) (e : Episode) (at_ : Nat) (m : BitVec 32 × BitVec 32 × Word) : State :=
  let f := freeN s
  let g := freeN f.2
  let s := winWrite g.2 k e at_ (msgHeader m.1 (epi k e) m.2.1 5 0 m.2.2 (BitVec.ofNat 32 f.1) (BitVec.ofNat 32 g.1))
  epUpd s k (fun e => { e with trunc := none })

/-- The oldest action is delivered: header and payload are copied into the window, its slot is free, and the budget starts. The
header's VAL, and what a box address without a translation reads as, are free values. -/
def recvAction (s : State) (k : Nat) (e : Episode) (at_ : Nat) (m : Action) : State :=
  let f := freeN s
  let r := memRead f.2 (e.actor s k) (e.slotVa false m.slot + 64) m.len
  let b := match r.1 with
    | .inr bs => (bs, r.2)
    | .inl _ => freeBytes m.len r.2
  let s := winWrite b.2 k e at_ (msgHeader m.seq (epi k e) m.ptag m.kind m.len m.time m.ack (BitVec.ofNat 32 f.1) ++ b.1)
  epUpd s k (fun e => { e with
    acts := e.acts.drop 1, dseq := m.seq, ptag := m.ptag, ivl := true, flag := e.bud, flagAt := s.dev.gtsc })

/-- PLY.RECV: delivers the pending TRUNCATED message or the oldest accepted action. -/
def execPlyRecv (_b : BitVec 5) (a : BitVec 5) (d : BitVec 5) (s : State) : Out :=
  .next (plyForm s d fun hc k h e =>
    let at_ := (h.reg a).toNat
    if e.st == .free then (s, some (plyStatus 1 0))
    else if at_ % 64 != 0 || !e.inWindow at_ 4160 then (s, some (plyStatus 2 0))
    else match e.trunc with
    | some m => (recvTrunc s k e at_ m, some (plyStatus 0 (5 * 2 ^ 24)))
    | none =>
      if e.st == .dead then (s, some (plyStatus 1 0))
      else match e.acts with
      | [] => if h.user then (let f := free s; (hartTrap f.2 hc false 24 f.1, none)) else (s, some (plyStatus 4 0))
      | m :: _ => (recvAction s k e at_ m, some (plyStatus 0 (m.kind * 2 ^ 24 + m.len))))

/-- PLY.POLL: how many accepted actions wait. -/
def execPlyPoll (_b : BitVec 5) (_a : BitVec 5) (d : BitVec 5) (s : State) : Out :=
  .next (plyForm s d fun _ _ _ e => (s, some (BitVec.ofNat 64 e.acts.length)))

/-- PLY.TAG: PTAG. -/
def execPlyTag (_b : BitVec 5) (_a : BitVec 5) (d : BitVec 5) (s : State) : Out :=
  .next (plyForm s d fun _ _ _ e => (s, some (e.ptag.setWidth 64)))

/-- PLY.FLAG: arms or disarms the budget; an interval that runs takes it from now. -/
def execPlyFlag (_b : BitVec 5) (a : BitVec 5) (d : BitVec 5) (s : State) : Out :=
  .next (plyForm s d fun _ k h _ =>
    let v := (h.reg a).extractLsb' 0 40
    (epUpd s k (fun e => { e with
      bud := v, flag := if v = 0#40 then 0#40 else if e.ivl then v else e.flag, flagAt := s.dev.gtsc }), some 0#64))

/-- PLY.END: places an END observation and ends the episode. -/
def execPlyEnd (_b : BitVec 5) (a : BitVec 5) (d : BitVec 5) (s : State) : Out :=
  .next (plyForm s d fun _ k h e =>
    if e.st != .live then (s, some (plyStatus 1 0))
    else
      (epUpd (obsPlace s k (epi k e) 3 ((h.reg a).extractLsb' 0 32) []) k (fun e => { e with st := .dead, flag := 0#40 }),
        some (plyStatus 0 e.oseq.toNat)))

/-- PLY.RWD: places a REWARD observation. -/
def execPlyRwd (_b : BitVec 5) (a : BitVec 5) (d : BitVec 5) (s : State) : Out :=
  .next (plyForm s d fun _ k h e =>
    if e.st != .live then (s, some (plyStatus 1 0))
    else (obsPlace s k (epi k e) 4 ((h.reg a).extractLsb' 0 32) [], some (plyStatus 0 e.oseq.toNat)))

end Sys2Proof.Machine
end

