-- ==== Sys2Proof/Machine/Links.lean ====
section
/-! DEFINITION. Scale-up ports (R137, R418–R423): training, loss and retraining, flits and their replay, the re-sequencing queues
of the compatibility modes, and what an arriving message begins. -/

namespace Sys2Proof.Machine

def portOf (s : State) (p : Nat) : Port := s.lnk.ports.at p
def portUpd (s : State) (p : Nat) (f : Port → Port) : State := { s with lnk.ports := s.lnk.ports.upd p f }

/-- 50 µs (R137). -/
def retrainNs : Nat := 50000

/-! ### A lost link (R137, R170, R423) -/

/-- The requests of engines in flight through a lost link end: the status of one, of which no rule speaks, is that of a refused one
(DESIGN CHOICE, log entry 6). -/
def farLinkLost (s : State) (port : Nat) (src : Option (BitVec 10)) : State :=
  (s.eng.far.filter (fun r => r.port == port && lostFor src r.node)).foldl (fun s r => farEnd s r.id 10 []) s

/-- The actions of R137 at both ends, for every node or for one lost source: slots, copies, reservations, zres requests, and
remote accesses, whose reply becomes INDET. -/
def linkLost (s : State) (port : Nat) (src : Option (BitVec 10)) : State :=
  let s := zonesLinkLost s port src
  let s := copiesLinkLost s port src
  let s := resvLinkLost s port src
  let s := zresLinkLost s port src
  let s := farLinkLost s port src
  (s.ctl.pend.filter (fun w => w.kind == .remote && w.port == port && lostFor src (w.c.setWidth 10))).foldl
    (fun s w => replyEnd s w 16 0#64 []) s

/-- A port counts a lost link. -/
def portDown (s : State) (p : Nat) : State :=
  portUpd s p (fun q => { q with
    up := false, lanes := 0#4, retrain := none, down := if q.down = 0xFFFF#16 then q.down else q.down + 1#16 })

/-- LINK_DOWN: port `port` loses lane lock, and its retrain window begins (R137). -/
def execLinkDown (s : State) : Out :=
  let p := s.sim.arg.port.toNat
  .next (if (portOf s p).up then portUpd s p (fun q => { q with up := false, lanes := 0#4, retrain := some s.dev.gtsc }) else s)

/-- RETRAIN_WINDOW_EXPIRY: 50 µs after it went down the link of port `port` has not retrained (R137, R420). -/
def execRetrainWindowExpiry (s : State) : Out :=
  let p := s.sim.arg.port.toNat
  match (portOf s p).retrain with
  | none => .next s
  | some t => .next (if retrainNs ≤ (s.dev.gtsc - t).toNat then linkLost (portDown s p) p none else s)

/-- Flits go out again, in order. -/
def replayFlits (s : State) (p : Nat) (hs : List Held) : State :=
  { s with sim.out := s.sim.out ++ hs.map (fun h => { port := p, node := h.node, load := h.load }) }

/-- LINK_RETRAINED: the link of port `port` retrains within its window, and every unacknowledged flit is replayed (R420). -/
def execLinkRetrained (s : State) : Out :=
  let p := s.sim.arg.port.toNat
  match (portOf s p).retrain with
  | none => .next s
  | some t =>
    if (s.dev.gtsc - t).toNat > retrainNs then .next s
    else
      let s := portUpd s p (fun q => { q with
        up := true, lanes := 4#4, retrain := none, retr := if q.retr = 0xFFFF#16 then q.retr else q.retr + 1#16 })
      .next (replayFlits s p (portOf s p).kept)

/-! ### Enabling and training (R418, R419) -/

/-- PORT_ENABLE: the write in `v` sets EN of port `port`; it trains anew. -/
def execPortEnable (s : State) : Out :=
  let p := s.sim.arg.port.toNat
  .next (if s.sim.arg.v.getLsbD 60 && !(portOf s p).en then portUpd s p (fun q => { q with en := true }) else s)

/-- PORT_DISABLE: the write in `v` clears EN of port `port`. A trained port's link is lost at once, without a window, and its
unacknowledged flits are discarded. -/
def execPortDisable (s : State) : Out :=
  let p := s.sim.arg.port.toNat
  let q := portOf s p
  if s.sim.arg.v.getLsbD 60 || !q.en then .next s
  else
    let s := portUpd s p (fun q => { q with en := false, kept := [] })
    .next (if q.up || q.retrain.isSome then linkLost (portDown s p) p none else s)

/-- PORT_MODE_SET: the write in `v` changes MODE of port `port` while EN = 0; MODE 3 is ignored. -/
def execPortModeSet (s : State) : Out :=
  let p := s.sim.arg.port.toNat
  let m := s.sim.arg.v.extractLsb' 61 2
  .next (if (portOf s p).en || m = 3#2 then s else portUpd s p (fun q => { q with mode := m }))

/-- LINK_TRAINED: the training of port `port` completes on four lanes, with node `node` as its partner. No port trains while NODE
is 0x3FF or in SAFE state. Flits kept since the link was lost are still replayed as far as a free choice says (R138). -/
def execLinkTrained (s : State) : Out :=
  let p := s.sim.arg.port.toNat
  let q := portOf s p
  if !q.en || q.up || q.retrain.isSome || nodeId s = 0x3FF#10 || s.dev.phase == .safe then .next s
  else
    let f := freeN s
    let hs := q.kept.take (f.1 % (q.kept.length + 1))
    let ks : List Held := hs.zipIdx.map (fun h => { h.1 with seq := h.2 })
    let s := if q.kept.isEmpty then s else f.2
    let s := portUpd s p (fun q => { q with
      up := true, lanes := 4#4, peerC := 0x3FF#10 - s.sim.arg.node, rxSeq := 0#32, txSeq := BitVec.ofNat 32 ks.length, kept := ks, reseq := [] })
    .next (replayFlits s p ks)

/-! ### Arrivals -/

/-- The step that a message arriving at a port begins; `rc` and `rx` are the place of a requester, `ws` further values of a reply. -/
def deliver (s : State) (p : Nat) (node : BitVec 10) (rc : BitVec 8) (rx : BitVec 3) (ws : List Word) (load : Payload) : State :=
  let q := BitVec.ofNat 5 p
  let base : EvArg := { (default : EvArg) with port := q, node := node, core := rc, ctx := rx }
  match load with
  | .inbound src k ad bs => pushFirst s .inboundRequest { base with load := .inbound src k ad bs }
  | .resv rq => pushFirst s .reservationRequest { base with load := .resv { rq with inPort := some p } }
  | .slotWrite w => pushFirst s .slotWriteArrival { base with load := .slotWrite { w with inPort := some p } }
  | .slotEnd w => pushFirst s .slotEndToken { base with load := .slotEnd { w with inPort := some p } }
  | .notice core ring w0 w1 => pushFirst s .phaseNoticeArrival { base with core := core, unit := ring.setWidth 12, v := w0, w := w1 }
  | .remoteAtomic ra => pushFirst s .remoteAtomicArrival { base with load := .remoteAtomic ra }
  | .resvReply core ctx v zh ring port => pushFirst s .reservationReply { base with load := .resvReply core ctx v zh ring port }
  | .reply core ctx st v bs => pushFirst s .remoteReply { base with core := core, ctx := ctx, n := st.toNat, v := v, data := bs, words := ws }
  | .farReply core id st bs => pushFirst s .remoteReply { base with core := core, v := BitVec.ofNat 64 id, n := st.toNat, data := bs, flag := true }
  | .copyReply core id st n fin => pushFirst s .copyComplete { base with core := core, n := id, load := .copyReply core id st n fin }
  | _ => s

/-- A link retry counts in the histogram of a lane of the port; which of the four, no rule says (R397). -/
def histRetry (s : State) (p : Nat) : State :=
  let f := freeN s
  { f.2 with dev.hist := f.2.dev.hist.upd (5 * 2 ^ 40 + p * 5 + f.1 % 4) (fun h =>
      { h with link := if h.link = 0xFFFF#16 then h.link else h.link + 1#16 }) }

/-- FLIT_RECEIVE: a flit of sequence `v` reaches port `port` from node `node`, its CRC good with `flag`. One that fails, or is out of
turn, is refused, and the partner is asked to replay from the one expected; otherwise `load` is delivered. Bit 32 of `w` says that
the flit acknowledges every one of ours below bits [31:0]. -/
def execFlitReceive (s : State) : Out :=
  let a := s.sim.arg
  let p := a.port.toNat
  let q := portOf s p
  if !q.up || q.mode != 0#2 || s.dev.phase != .ready then .next s
  else
    let s := if a.w.getLsbD 32 then
        portUpd s p (fun q => { q with kept := q.kept.dropWhile (fun h => decide (h.seq < (a.w.extractLsb' 0 32).toNat)) })
      else s
    match a.load with
    | .replay n => .next (replayFlits s p ((portOf s p).kept.dropWhile (fun h => decide (h.seq < n.toNat))))
    | load =>
      if !a.flag || a.v.extractLsb' 0 32 != q.rxSeq then
        let s := histRetry s p
        .next { s with sim.out := s.sim.out ++ [{ port := p, node := q.peer, load := .replay q.rxSeq }] }
      else .next (deliver (portUpd s p (fun q => { q with rxSeq := q.rxSeq + 1#32 })) p a.node a.core a.ctx a.words load)

/-! ### Re-sequencing (R423) -/

/-- The re-sequencing state of a source node. -/
def Port.seqOf (q : Port) (node : BitVec 10) : Reseq :=
  (q.reseq.find? (fun r => r.node == node)).getD { node := node, next := 0, held := [], seen := 0#64 }

def Port.setSeq (q : Port) (r : Reseq) : Port := { q with reseq := r :: q.reseq.filter (fun x => x.node != r.node) }

/-- Packets held in sequence from the next expected one, with what stays. -/
def reseqRun : Nat → Reseq → List Held × Reseq
  | 0, r => ([], r)
  | n + 1, r => match r.held.find? (fun h => h.seq == r.next) with
    | none => ([], r)
    | some h =>
      let t := reseqRun n { r with next := r.next + 1, held := r.held.filter (fun x => x.seq != r.next) }
      (h :: t.1, t.2)

/-- RESEQ_PACKET_ARRIVAL: a packet of sequence `v` from node `node` reaches port `port`, in UALINK or UEC mode: held until the ones
before it have come, dropped as a duplicate, or beyond the window dropped with RSQD. -/
def execReseqPacketArrival (s : State) : Out :=
  let a := s.sim.arg
  let p := a.port.toNat
  let q := portOf s p
  if !q.up || (q.mode != 1#2 && q.mode != 2#2) || s.dev.phase != .ready then .next s
  else
    let r := { q.seqOf a.node with seen := s.dev.gtsc }
    let n := a.v.toNat
    if r.next + 1024 ≤ n then
      .next (portUpd s p (fun q => { q.setSeq r with rsqd := if q.rsqd = 0xFFFFFFFF#32 then q.rsqd else q.rsqd + 1#32 }))
    else if n < r.next || r.held.any (fun h => h.seq == n) then .next (portUpd s p (fun q => q.setSeq r))
    else
      let t := reseqRun 1024 { r with held := r.held ++ [{ seq := n, node := a.node, core := a.core, ctx := a.ctx, load := a.load }] }
      let s := portUpd s p (fun q => q.setSeq t.2)
      .next (t.1.reverse.foldl (fun s h => deliver s p h.node h.core h.ctx [] h.load) s)

/-- RESEQ_SOURCE_TIMEOUT: node `node` has been silent for 500 µs at port `port` with packets missing: a lost link for that source. -/
def execReseqSourceTimeout (s : State) : Out :=
  let a := s.sim.arg
  let p := a.port.toNat
  let r := (portOf s p).seqOf a.node
  if r.held.isEmpty || decide ((s.dev.gtsc - r.seen).toNat < 500000) then .next s
  else .next (linkLost (portUpd s p (fun q => q.setSeq { r with held := [] })) p (some a.node))

/-! ### Time (R421) -/

/-- TIME_SYNC_TICK: a trained port exchanges time flits, and a device that is not the reference slews its GTSC by one count: added
with `flag`. A dropped count is one by which the GTSC does not advance. -/
def execTimeSyncTick (s : State) : Out :=
  .next (if s.dev.phase == .ready && !s.dev.isRef && s.sim.arg.flag && (List.range 24).any (fun p => (portOf s p).up) then
    { s with dev.gtsc := s.dev.gtsc + 1#64 } else s)

/-- GTSC_ALIGN: step 5 of R426: a device that is not the reference takes the reference's GTSC `v` in one step; the module is READY. -/
def execGtscAlign (s : State) : Out :=
  if s.dev.phase != .off || s.dev.aligned || nodeId s = 0x3FF#10 then .next s
  else .next { s with
    dev.gtsc := if s.dev.isRef then s.dev.gtsc else s.sim.arg.v
    dev.aligned := true, dev.phase := .ready }

end Sys2Proof.Machine
end

