-- ==== Sys2Proof/Machine/Module.lean ====
section
/-! DEFINITION. The management controller and the module (R6, R397, R398, R426–R432): start-up, firmware, retirement, thermal
control, cooling and reset. -/

namespace Sys2Proof.Machine

/-! ### SAFE state (R428) -/

/-- SAFE state: a diagnosis record is kept for the management link, and the ports go down. COUNT, the controller's own cycles, is a
free value. -/
def enterSafe (s : State) (step code die : Nat) (unit : BitVec 40) (det : List Word) : State :=
  let f := free s
  let d : Diag := { step := BitVec.ofNat 8 step, code := BitVec.ofNat 8 code, die := BitVec.ofNat 8 die, unit := unit, count := f.1, detail := det }
  { f.2 with
    dev.phase := .safe, dev.diags := f.2.dev.diags ++ [d]
    lnk.ports := f.2.lnk.ports.map (fun x => (x.1, { x.2 with up := false, lanes := 0#4, retrain := none })) }

/-! ### Sensors (R429, R430) -/

/-- 115 °C in units of 0.25 °C. -/
def hotLimit : Int := 460

/-- TALW of a core at a junction temperature: 4 × (105 − T), floored at 0. -/
def talwOf (t : Int) : BitVec 16 := BitVec.ofNat 16 (420 - t).toNat

/-- A stack's word at a sample: DBL is set above 85 °C, with SCNT cleared, and clears at or below 83 °C. -/
def Stack.sample (k : Stack) (t : BitVec 16) : Stack :=
  let dbl := if 340 < t.toInt then true else if t.toInt ≤ 332 then false else k.dbl
  { k with temp := t, dbl := dbl, scnt := if dbl && !k.dbl then 0 else k.scnt }

/-- One sample: junction of core k below 256, else HBM stack k − 256. The STEP of a thermal record after start-up is a free value. -/
def sample (s : State) (k : Nat) (t : BitVec 16) (step : Option Nat) : State :=
  if k < 256 then
    let s := { s with dev.talw := s.dev.talw.set k (talwOf t.toInt) }
    if hotLimit ≤ t.toInt && s.dev.phase != .safe then
      let f := freeN s
      let s := if step.isSome then s else f.2
      enterSafe s (step.getD (f.1 % 256)) 7 (k / 64) (BitVec.ofNat 40 (k % 64)) [0#64, 0#64]
    else s
  else { s with dev.hbm := s.dev.hbm.upd (k - 256) (fun h => h.sample t) }

/-- SENSOR_SAMPLE: the junction sensor of core `core`, or with `flag` that of HBM stack `unit`, reads `v` in 0.25 °C. -/
def execSensorSample (s : State) : Out :=
  let a := s.sim.arg
  .next (sample s (if a.flag then 256 + a.unit.toNat % 8 else a.core.toNat) (a.v.extractLsb' 0 16) none)

/-! ### Bit errors (R50) and retirement (R397, R398) -/

/-- One more in a 16-bit saturating counter. -/
def satUp (n : BitVec 16) : BitVec 16 := if n = 0xFFFF#16 then n else n + 1#16

/-- A unit that protects a physical address: a sub-array of a bank, a slice of anvil SRAM, or the L2 slice that holds it. -/
def errUnit (s : State) (pa : Nat) : Nat :=
  match place pa with
  | .bank core o =>
    let b := bankOf s core o
    bankKey core b.1 * 8 + b.2 / 0x1000
  | .anvil core o => 2 * 2 ^ 40 + core * 128 + o / 64 % 128
  | _ => 2 ^ 40 + l2Key pa / 512

/-- An uncorrectable error counts in its unit's histogram. -/
def errCount (s : State) (pa : Nat) : State :=
  { s with dev.hist := s.dev.hist.upd (errUnit s pa) (fun h => { h with unc := satUp h.unc }) }

/-- The 8-byte words that one double-bit error makes poisoned: one in a bank or in anvil SRAM, the two that the L2 protects as one. In a bank
of ACCUM mode it makes a row poisoned instead (R118). -/
def errWords (s : State) (pa : Nat) : List Nat :=
  match place pa with
  | .bank core o => if (s.st.banks.at (bankKey core (bankOf s core o).1)).mode == .accum then [] else [bankByte s core o / 8 * 8]
  | .anvil _ _ => [pa / 8 * 8]
  | .dram => if l2Holds s pa then [pa / 16 * 16, pa / 16 * 16 + 8] else []
  | _ => []

/-- A double-bit error in a bank of ACCUM mode, at a bank-window offset: none where the bank is in another mode. -/
def rowError (s : State) (pa : Nat) : Option State :=
  match place pa with
  | .bank core o =>
    let b := bankOf s core o
    if (s.st.banks.at (bankKey core b.1)).mode == .accum then
      some (rowPoison (errCount s pa) core b.1 b.2)
    else none
  | _ => none

/-- The L2 line that holds an address changes. -/
def errLine (s : State) (pa : Nat) (f : L2Line → L2Line) : State :=
  if isDram pa && l2Holds s pa then
    let s := errCount s pa
    { s with st.l2 := s.st.l2.upd (l2Key pa) (fun t =>
        { t with ways := t.ways.map (fun w => if w.2.line = pa / 256 then (w.1, f w.2) else w) }) }
  else s

/-- A bit error of a bank, anvil SRAM or the L2 (R50; log entry 50). -/
def bitError (e : BitErr) (s : State) : State :=
  match e with
  | .corrected k => { s with dev.hist := s.dev.hist.upd k (fun h => { h with corr := satUp h.corr }) }
  | .word pa =>
    (match rowError s pa, errWords s pa with
      | some t, _ => t
      | none, [] => s
      | none, ws =>
        let s := errCount s pa
        { s with st.poison := ws.filter (fun w => !s.st.poison.contains w) ++ s.st.poison })
  | .tag pa => errLine s pa (fun l => { l with badTag := true })
  | .owners pa => errLine s pa (fun l => { l with badOwn := true })

/-! ### Retirement -/

/-- What shares a spare with a unit: the bank of a sub-array, the compute tile of an element row, the island of a column, the port of
a lane. L2 and anvil slices have none. -/
def spareGroup (k : Nat) : Option Nat :=
  let i := k % 2 ^ 40
  match k / 2 ^ 40 with
  | 0 => some (i / 8)
  | 3 => some (2 ^ 40 + i / 32)
  | 4 => some (2 * 2 ^ 40 + i / 128)
  | 5 => some (3 * 2 ^ 40 + i / 5)
  | _ => none

/-- The core of a unit. -/
def unitCore (k : Nat) : Option Nat :=
  let i := k % 2 ^ 40
  match k / 2 ^ 40 with
  | 0 => some (i / 8 / 192)
  | 2 => some (i / 128)
  | 3 => some (i / 32 / 8)
  | 4 => some (i / 128)
  | _ => none

/-- Is a unit retired on its stored counts, with how many bytes were read from it? -/
def Hist.retire (h : Hist) (bytes : Nat) : Bool :=
  decide (1 ≤ h.unc.toNat) || decide (4096 * bytes < h.corr.toNat * 10 ^ 15)

/-- Units whose group's one spare is taken by a unit before them, or that have no spare. -/
def unspared : List Nat → List Nat → List Nat
  | _, [] => []
  | used, k :: ks => match spareGroup k with
    | none => k :: unspared used ks
    | some g => if used.contains g then k :: unspared used ks else unspared (g :: used) ks

/-- The retirement of a list of units: an event record of KIND 7 each; a unit without a spare left retires its core. -/
def retireUnits (s : State) (ks : List Nat) : State :=
  let cores := (unspared [] ks).filterMap unitCore
  let s := ks.foldl (fun s k =>
    let f := freeN s
    eventRecord f.2 7 0 0#8 0#12 ((unitCore k).getD 0) f.1 0#55 [BitVec.ofNat 64 k]) s
  { s with dev.retired := cores.foldl (fun l c => if l.contains (BitVec.ofNat 16 c) then l else l ++ [BitVec.ofNat 16 c]) s.dev.retired }

/-- A retired unit that neither a spare nor the retirement of a core covers: an L2 slice. -/
def uncovered (ks : List Nat) : Option Nat := (unspared [] ks).find? (fun k => k / 2 ^ 40 == 1)

/-- HISTOGRAM_SAVE: the histograms are copied to non-volatile storage. -/
def execHistogramSave (s : State) : Out := .next { s with dev.histNv := s.dev.hist }

/-! ### Firmware (R427) -/

/-- CODE of an image that verification refuses: 1 its signature, 2 its version. -/
def imageBad (s : State) (k : Nat) (f : Firmware) : Option Nat :=
  if !f.signed then some 1 else if (f.version.toNat < (s.dev.minVer.at k).toNat) then some 2 else none

/-- The first image that verification refuses: its number, its CODE and its digest. -/
def imagesBad (s : State) : Option (Nat × Nat × BitVec 256) :=
  s.dev.images.foldl (fun o x => match o with
    | some y => some y
    | none => (imageBad s x.1 x.2).map (fun c => (x.1, c, x.2.digest))) none

/-- The digest of 32 bytes. -/
def digestOf (bs : List Byte) : BitVec 256 := BitVec.ofNat 256 (leNat (bs.take 32))

/-- FIRMWARE_INSTALL: an image for number `unit` with version `v`, digest `data` and, with `flag`, a good signature: refused where
the signature fails or the version is below the fused minimum, else installed, raising the minimum to its version. -/
def execFirmwareInstall (s : State) : Out :=
  let a := s.sim.arg
  let k := a.unit.toNat
  let f : Firmware := { version := a.v.extractLsb' 0 32, digest := digestOf a.data, signed := a.flag }
  .next (if (imageBad s k f).isSome then s
    else { s with
      dev.images := s.dev.images.set k f
      dev.minVer := if (s.dev.minVer.at k).toNat < f.version.toNat then s.dev.minVer.set k f.version else s.dev.minVer })

/-- ATTESTATION_REQUEST: the controller returns its report for nonce `v`. -/
def execAttestationRequest (s : State) : Out :=
  let r : Attest := {
    images := s.dev.images.map (fun x => (x.2.digest, x.2.version)), key := s.dev.keyHash, retired := s.dev.retired.length
    nonce := s.sim.arg.v }
  .next { s with dev.attest := s.dev.attest ++ [r] }

/-! ### Start-up (R426) -/

/-- The first samples of the 264 sensors: `words` gives them, and a free value one that it lacks. -/
def firstSamples : Nat → List Word → State → State
  | 0, _, s => s
  | n + 1, ws, s =>
    let k := 263 - n
    let f := free s
    let w := ws.getD k f.1
    firstSamples n ws (sample (if k < ws.length then s else f.2) k (w.extractLsb' 0 16) (some 2))

/-- A self-test failure that no retirement covers, as `data` gives it: CODE, die and unit bytes, little-endian. -/
def selfTestBad (bs : List Byte) : Option (Nat × Nat × BitVec 40) :=
  if bs.length < 7 then none else some ((bs.getD 0 0#8).toNat, (bs.getD 1 0#8).toNat, BitVec.ofNat 40 (leNat ((bs.drop 2).take 5)))

/-- POWER_ON: from power-on, or by a power cycle out of SAFE state, the controller runs steps 1 to 4 of R426: firmware, self-test with
its first samples `words`, retirement on `n` bytes read, and NODEID `node` with the ports. `data` names a self-test failure that
retirement cannot cover, and `flag` says that the switch chose this device as the time reference. Memory keeps what a reset left in it,
and after a power cycle lists nothing (log entry 46). -/
def execPowerOn (s : State) : Out :=
  if s.dev.phase == .ready || (s.dev.phase == .off && nodeId s != 0x3FF#10) then .next s
  else
    let a := s.sim.arg
    let dev : Device := { (default : Device) with
      gtsc := s.dev.gtsc, images := s.dev.images, minVer := s.dev.minVer, keyHash := s.dev.keyHash, histNv := s.dev.histNv
      hist := s.dev.histNv }
    let s : State := { State.reset with
      sim := { s.sim with agenda := [], cur := .none }, dev := dev, mem := if s.dev.phase == .off then s.mem else [] }
    match imagesBad s with
    | some (k, c, g) => .next (enterSafe s 1 c 0xFF (BitVec.ofNat 40 k) [g.extractLsb' 0 64, g.extractLsb' 64 64])
    | none =>
      let s := firstSamples 264 a.words s
      if s.dev.phase == .safe then .next s
      else match selfTestBad a.data with
      | some (c, d, u) => .next (enterSafe s 2 c d u [])
      | none =>
        let ks := (s.dev.histNv.filter (fun h => h.2.retire a.n)).map (·.1)
        match uncovered ks with
        | some k => .next (enterSafe s 2 3 0xFF (BitVec.ofNat 40 (k % 2 ^ 40)) [])
        | none =>
          let s := nodeidOp (retireUnits s ks) (a.node.setWidth 64)
          .next { s with
            dev.isRef := a.flag
            lnk.ports := (List.range 24).foldl (fun m p => m.upd p (fun q => { q with en := true })) s.lnk.ports }

/-! ### Cooling (R432) -/

/-- The minimum flow, 6 L/min, in mL/min. -/
def flowMin : Nat := 6000

/-- COOLANT_REPORT: the controller reports inlet temperature `v`, flow `w` in mL/min and module power `n`. -/
def execCoolantReport (s : State) : Out :=
  let a := s.sim.arg
  let low := decide ((a.w.extractLsb' 0 16).toNat < flowMin)
  .next { s with dev.cool := {
    inlet := a.v.extractLsb' 0 16, flow := a.w.extractLsb' 0 16, power := BitVec.ofNat 16 a.n
    lowSince := if !low then none else match s.dev.cool.lowSince with
      | some t => some t
      | none => some s.dev.gtsc } }

/-- FLOW_LOSS: the flow has stayed below its minimum for 1 s. The STEP of its record is a free value. -/
def execFlowLoss (s : State) : Out :=
  match s.dev.cool.lowSince with
  | none => .next s
  | some t =>
    if s.dev.phase == .safe || decide ((s.dev.gtsc - t).toNat < 10 ^ 9) then .next s
    else
      let f := freeN s
      .next (enterSafe f.2 (f.1 % 256) 7 0xFF 0#40 [])

/-! ### Reset (R6) -/

/-- MODULE_RESET: every register field returns to its reset value. Firmware, fuses, diagnosis records, histograms, which are saved,
and the clock are no register fields; SAFE state stays, and otherwise start-up follows. Memory keeps its contents (DEDUCED, log entry 46). -/
def execModuleReset (s : State) : Out :=
  let dev : Device := { (default : Device) with
    gtsc := s.dev.gtsc, phase := if s.dev.phase == .safe then .safe else .off, diags := s.dev.diags, images := s.dev.images
    minVer := s.dev.minVer, keyHash := s.dev.keyHash, retired := [], hist := s.dev.hist, histNv := s.dev.hist, attest := s.dev.attest }
  .next { State.reset with sim := { s.sim with agenda := [], cur := .none }, dev := dev, mem := s.mem }

end Sys2Proof.Machine
end

