-- ==== Sys2Proof/Machine/Nodes.lean ====
section
/-! DEFINITION. Handler operations on tokens and streams (R335–R345, R442): steering, coordinate streams, injection,
accumulation, weights, and the boundary and check nodes. -/

namespace Sys2Proof.Machine

/-! ### Steering (R335, R338, R339) -/

/-- A token passed on unchanged; a data token is also the result that DST takes. -/
def passFire (h : HWord) (e : Elem) (hd : Handler) : Fire :=
  let t := operand e hd false h.a.toNat
  { (Fire.of e hd).forward h (fireQs h) t with res := !tokC t }

/-- PASS: a unchanged, whatever it is. -/
def execPass (h : HWord) (s : State) : Out := .next (handlerFire s 0x40 h (passFire h))

/-- STOPCK: every token unchanged; a STOP deeper than PARAM[3:0] raises STOPLVL. -/
def execStopck (h : HWord) (s : State) : Out :=
  .next (handlerFire s 0x48 h (fun e hd =>
    let t := operand e hd false h.a.toNat
    { passFire h e hd with errs := if isCode 3 t && decide (h.param.toNat % 16 < tokArg t / 2 ^ 20) then [0x17] else [] }))

/-- DUP: a data token n = PARAM[7:0] + 1 times, the last of which consumes it. -/
def execDup (h : HWord) (s : State) : Out :=
  .next (handlerFire s 0x41 h (fun e hd =>
    let o := Fire.of e hd
    let qs := fireQs h
    if hd.gapPend then weightRule h qs o
    else if (qs.filterMap e.head).any tokC then ctlRule h qs o
    else
      let fin := decide (h.param.toNat % 256 ≤ hd.ph.toNat)
      { o.forward h (if fin then qs else []) (operand e hd false h.a.toNat) with
        res := true
        hd := { hd with ph := if fin then 0#8 else hd.ph + 1#8, din := hd.din + (if fin then 1 else 0), dout := hd.dout + 1 } }))

/-- TSEL: the head of the queue that c chooses; a control token at c chooses none, and the three are aligned. -/
def execTsel (h : HWord) (s : State) : Out :=
  .next (handlerFire s 0x44 h (fun e hd =>
    let o := Fire.of e hd
    let a := h.a.toNat
    let b := h.b.toNat
    let c := h.c.toNat
    let all := [a, b, c]
    if hd.gapPend then weightRule h all o
    else
      let t := (e.head c).getD 0#48
      if tokC t then ctlRule h all o
      else if tokN t then nullRule h [c] o
      else
        let q := if t.getLsbD 0 then a else b
        let v := (e.head q).getD 0#48
        if tokC v then { o with block := some 0x15 }
        else { o.forward h [c, q] v with res := true }))

/-- Two STOPs: the higher level is forwarded, and unequal levels raise STOPLVL (R337, R338). -/
def stopPair (h : HWord) (a b : Nat) (ta tb : FTok) (o : Fire) : Fire :=
  let la := tokArg ta / 2 ^ 20
  let lb := tokArg tb / 2 ^ 20
  { o.forward h [a, b] (if lb ≤ la then ta else tb) with errs := if la = lb then [] else [0x17] }

/-- GATE (R338). -/
def execGate (h : HWord) (s : State) : Out :=
  .next (handlerFire s 0x43 h (fun e hd =>
    let o := Fire.of e hd
    let a := h.a.toNat
    let b := h.b.toNat
    if hd.gapPend then weightRule h [a, b] o
    else
      let tb := (e.head b).getD 0#48
      let ta := (e.head a).getD 0#48
      let pass (qs : List Nat) (t : FTok) : Fire := { o.forward h qs t with res := true }
      if !tokC tb && tokN tb then { o with take := [b] }
      else if h.param.getLsbD 1 then
        if tokC tb then ctlRule h [a, b] o
        else if tb.getLsbD 0 then pass [a, b] ta
        else { o with take := [a, b] }
      else
        let adv := tb.getLsbD (h.param.extractLsb' 0 1).toNat
        if tokC tb then
          if !tokC ta then { o with block := some 0x15 }
          else if isCode 3 tb && isCode 3 ta then stopPair h a b ta tb o
          else ctlRule h [a, b] o
        else if adv && tokC ta then { o with block := some 0x15 }
        else
          let qs := if adv then [a, b] else [b]
          if tb.getLsbD 2 then pass qs (if adv then ta else 0#48) else { o with take := qs }))

/-! ### Coordinate streams (R336, R337) -/

/-- A coordinate is consumed on a side: one not above its predecessor in the fibre raises CRDORDER. -/
def coordTake (left : Bool) (x : BitVec 32) (o : Fire) : Fire :=
  let prev := if left then o.hd.prevA else o.hd.prevB
  { o with
    hd := if left then { o.hd with prevA := some x } else { o.hd with prevB := some x }
    errs := if prev.any (fun p => decide (x ≤ p)) then o.errs ++ [0x16] else o.errs }

/-- The sides that a step of a coordinate operation consumes, and what it sends for them. -/
def coordFire (h : HWord) (merge union : Bool) (e : Elem) (hd : Handler) : Fire :=
  let o := Fire.of e hd
  let a := h.a.toNat
  let b := h.b.toNat
  if hd.gapPend then weightRule h [a, b] o
  else
    let ta := (e.head a).getD 0#48
    let tb := (e.head b).getD 0#48
    let xa := ta.extractLsb' 0 32
    let xb := tb.extractLsb' 0 32
    if tokC ta && tokC tb then
      let o := { o with hd := { hd with prevA := none, prevB := none } }
      if isCode 3 ta && isCode 3 tb then stopPair h a b ta tb o
      else
        let r := ctlRule h [a, b] o
        if r.block.isSome then { r with hd := hd }
        else if isCode 1 ta || isCode 2 ta then r
        else { r with hd := { r.hd with prevA := hd.prevA, prevB := hd.prevB } }
    else
      let null (q : Nat) (t : FTok) : Fire := if merge then { o.forward h [q] t with res := true } else nullRule h [q] o
      if !tokC ta && tokN ta then null a ta
      else if !tokC tb && tokN tb then null b tb
      else
        let useA := !tokC ta && (tokC tb || decide (xa ≤ xb))
        let useB := !tokC tb && (tokC ta || decide (xb ≤ xa)) && !(merge && useA)
        let o := if useA then coordTake true xa o else o
        let o := if useB then coordTake false xb o else o
        let qs := (if useA then [a] else []) ++ (if useB then [b] else [])
        let t := if useA then ta else tb
        if merge then { o.forward h qs t with res := true }
        else
          let m := union || (useA && useB)
          let v := (t.extractLsb' 0 29).setWidth 48 <<< 3
          o.result h qs (v ||| (if m then 4#48 else 0#48) ||| (if useB then 2#48 else 0#48) ||| (if useA then 1#48 else 0#48))

/-- MERGE. -/
def execMerge (h : HWord) (s : State) : Out := .next (handlerFire s 0x45 h (coordFire h true false))
/-- ISECT. -/
def execIsect (h : HWord) (s : State) : Out := .next (handlerFire s 0x46 h (coordFire h false false))
/-- UNION. -/
def execUnion (h : HWord) (s : State) : Out := .next (handlerFire s 0x47 h (coordFire h false true))

/-! ### Injection (R340) -/

/-- An operation that sends a control token for each data token. -/
def injectFire (h : HWord) (f : FTok → FTok) (e : Elem) (hd : Handler) : Fire :=
  let o := Fire.of e hd
  let qs := fireQs h
  if hd.gapPend then weightRule h qs o
  else if (qs.filterMap e.head).any tokC then ctlRule h qs o
  else
    let t := operand e hd false h.a.toNat
    if tokN t then nullRule h qs o else { o with out := some (f t), take := qs }

/-- SWAP. -/
def execSwap (h : HWord) (s : State) : Out := .next (handlerFire s 0x49 h (injectFire h (fun _ => ctlTok h.och 9 0)))
/-- MARK: a MARK of id a[23:0], with the snapshot of the element that sends it. -/
def execMark (h : HWord) (s : State) : Out :=
  .next (handlerFire s 0x4A h (injectFire h (fun t => ctlTok h.och 6 (tokArg t))) (fun key o s =>
    if o.block.isNone && o.out.any (isCode 6) && !(o.take.filterMap o.e.head).any tokC then
      elemSnap s (slotRid s (elemCore key) h.graph.toNat) key
    else s))
/-- HAND. -/
def execHand (h : HWord) (s : State) : Out :=
  .next (handlerFire s 0x4B h (injectFire h (fun _ => ctlTok h.och 10 (h.param.toNat % 16))))

/-! ### Accumulation and weights (R341–R344, R442) -/

/-- A GAP's weight as a 24.8 count (R442). -/
def gapCount (t : FTok) : Nat :=
  match Num.xfOf t with
  | .inf false => 2 ^ 32 - 1
  | .fin false n e => min (2 ^ 32 - 1) (Num.scale n (e + 8))
  | _ => 0

/-- A 24.8 count raised by an amount. -/
def countUp (t : FTok) (n : Nat) : FTok := BitVec.ofNat 48 (min (2 ^ 32 - 1) ((t.extractLsb' 0 32).toNat + n))

/-- Is a token the trigger that PARAM chooses (R341)? -/
def isTrigger (h : HWord) (t : FTok) : Bool :=
  match h.param.toNat % 4 with
  | 0 => isCode 4 t
  | 1 => isCode 3 t && decide (h.param.toNat / 16 % 16 ≤ tokArg t / 2 ^ 20)
  | 2 => isEot t
  | _ => false

/-- The two firings at a trigger: the value goes out and consumes nothing, then the trigger goes out and st0 and st1 are
cleared. -/
def triggerFire (h : HWord) (v : FTok) (errs : List Nat) (both : Bool) (o : Fire) : Fire :=
  if o.hd.ph = 0#8 then
    { o with out := some (tokOn (v &&& 0x7FFFFFFFFFFF#48) h.och), errs := errs, hd := { o.hd with ph := 1#8 } }
  else
    ctlRule h (fireQs h) { o with
      hd := { o.hd with ph := 0#8 }, e := { o.e with st0 := 0#48, st1 := if both then 0#48 else o.e.st1 } }

/-- ACC (R341). -/
def execAcc (h : HWord) (s : State) : Out :=
  let rm := RMode.ofCode h.rm.toNat
  .next (handlerFire s 0x50 h (fun e hd =>
    let o := Fire.of e hd
    let qs := fireQs h
    let a := operand e hd (!h.param.getLsbD 2) h.a.toNat
    if hd.gapPend then weightRule h qs o
    else match (qs.filterMap e.head).find? tokC with
    | some t =>
      if isTrigger h t then
        let n := tokArg t
        triggerFire h e.st0 (if isCode 4 t && n != 0 && n != (e.st1.extractLsb' 0 32).toNat then [0x18] else []) true o
      else ctlRule h qs o
    | none =>
      if tokN a then { o with take := qs }
      else
        let x := if h.param.getLsbD 2 then (e.st0.extractLsb' 0 32 + a.extractLsb' 0 32).setWidth 48
          else Num.xfRound rm (Num.add rm (Num.xfOf e.st0) (Num.xfOf a))
        { o with take := qs, e := { e with st0 := x, st1 := (e.st1.extractLsb' 0 32 + 1#32).setWidth 48 } }))

/-- The mean that accw emits: st0 / (st1 / 256), or +0 where st1 is 0. -/
def meanOf (rm : RMode) (e : Elem) : FTok :=
  let d := (e.st1.extractLsb' 0 32).toNat
  if d = 0 then 0#48
  else match Num.xfOf e.st0 with
  | .fin s n x => Num.xfRound rm (Num.divSticky 40 s n d (x + 8))
  | v => Num.xfRound rm v

/-- ACCW (R342). -/
def execAccw (h : HWord) (s : State) : Out :=
  let rm := RMode.ofCode h.rm.toNat
  .next (handlerFire s 0x51 h (fun e hd =>
    let o := Fire.of e hd
    let qs := fireQs h
    let a := operand e hd true h.a.toNat
    if hd.gapPend then
      let w := (qs.filterMap e.head).headD 0#48
      weightRule h qs { o with e := { e with st1 := countUp e.st1 (gapCount w) } }
    else match (qs.filterMap e.head).find? tokC with
    | some t =>
      if isTrigger h t then triggerFire h (if h.param.getLsbD 8 then meanOf rm e else e.st0) [] true o else ctlRule h qs o
    | none =>
      if tokN a then { o with take := qs }
      else
        let x := Num.xfRound rm (Num.fma rm (Num.xfOf a) (rwtVal hd) (Num.xfOf e.st0))
        { o with take := qs, e := { e with st0 := x, st1 := countUp e.st1 hd.rwt.toNat } }))

/-- CNT (R342). -/
def execCnt (h : HWord) (s : State) : Out :=
  .next (handlerFire s 0x42 h (fun e hd =>
    let o := Fire.of e hd
    let qs := fireQs h
    let up (n : Nat) : Fire := { o with e := { e with st0 := countUp e.st0 n } }
    if hd.gapPend then weightRule h qs (up (gapCount ((qs.filterMap e.head).headD 0#48)))
    else match (qs.filterMap e.head).find? tokC with
    | some t =>
      if isEot t then triggerFire h e.st0 [] false o
      else if isRec t && !h.param.getLsbD 0 then ctlRule h qs (up (tokArg t))
      else ctlRule h qs o
    | none =>
      if tokN (operand e hd false h.a.toNat) then nullRule h qs o
      else if h.param.getLsbD 0 then { up 256 with take := qs }
      else { o with take := qs }))

/-- BFLY: the sum on OCH, which consumes nothing, then the difference on channel PARAM[3:0] (R343). -/
def execBfly (h : HWord) (s : State) : Out :=
  let rm := RMode.ofCode h.rm.toNat
  .next (handlerFire s 0x52 h (fun e hd =>
    let o := Fire.of e hd
    let qs := fireQs h
    if hd.gapPend then weightRule h qs o
    else if (qs.filterMap e.head).any tokC then ctlRule h qs o
    else
      let ta := operand e hd true h.a.toNat
      let tb := operand e hd true h.b.toNat
      let null := tokN ta || tokN tb
      if hd.ph = 0#8 then
        { (if null then nullRule h [] o else o.result h [] (Num.xfRound rm (Num.add rm (Num.xfOf ta) (Num.xfOf tb)))) with
          hd := { hd with ph := 1#8, dout := hd.dout + 1 } }
      else
        let g : HWord := { h with och := h.param.extractLsb' 0 4 }
        { (if null then nullRule g qs o else o.result g qs (Num.xfRound rm (Num.add rm (Num.xfOf ta) (Num.neg (Num.xfOf tb))))) with
          hd := { hd with ph := 0#8, din := hd.din + 2, dout := hd.dout + 1 } }))

/-- WMUL: a times the record weight. -/
def execWmul (h : HWord) (s : State) : Out :=
  let rm := RMode.ofCode h.rm.toNat
  .next (handlerFire s 0x53 h (fun e hd =>
    dataFire h 0x53 true (fun a _ _ => Num.xfRound rm (Num.mul (Num.xfOf a) (rwtVal hd))) e hd))

/-- GAPW: every token unchanged, but a GAP pair becomes its weight token on channel PARAM[3:0]. -/
def execGapw (h : HWord) (s : State) : Out :=
  .next (handlerFire s 0x54 h (fun e hd =>
    let o := Fire.of e hd
    let qs := fireQs h
    let t := operand e hd false h.a.toNat
    if hd.gapPend then { o with
      out := some (tokOn t (h.param.extractLsb' 0 4)), res := !tokC t, take := qs, hd := { hd with gapPend := false } }
    else if isCode 7 t then { o with take := qs, hd := { hd with gapPend := true } }
    else passFire h e hd))

/-! ### Boundary and check nodes (R166, R345) -/

/-- WIDEN: the streams of the subgraph are cut and their writes made visible at the scope, then the token goes on (R166). -/
def execWiden (h : HWord) (s : State) : Out :=
  .next (handlerFire s 0x58 h (passFire h) (fun key _ s =>
    let core := elemCore key
    release (regionFlush s core (slotRid s core h.graph.toNat)) core h.param.toNat))

/-- CMPD: a where all 48 bits of a and b are equal, else DUPMIS, which holds the region's gate shut (R345, R386). -/
def execCmpd (h : HWord) (s : State) : Out :=
  .next (handlerFire s 0x59 h (fun e hd =>
    let ta := (e.head h.a.toNat).getD 0#48
    let tb := (e.head h.b.toNat).getD 0#48
    if ta = tb then passFire h e hd else { Fire.of e hd with take := fireQs h, errs := [0x19] }))

end Sys2Proof.Machine
end

