-- ==== Sys2Proof/Machine/Operators.lean ====
section
/-! DEFINITION. Operators on records (R346, R347) and the nodes that join the fabric to the matrix island, the copy engines
and the collective units (R348, R349). -/

namespace Sys2Proof.Machine

/-! ### join (R346) -/

/-- One side of join. -/
def Handler.side (hd : Handler) (left : Bool) : JoinSide := if left then hd.sideA else hd.sideB
def Handler.withSide (hd : Handler) (left : Bool) (w : JoinSide) : Handler := if left then { hd with sideA := w } else { hd with sideB := w }
/-- A side that holds a record's weight and key. -/
def JoinSide.full (w : JoinSide) : Bool := w.weight.isSome && w.key.isSome
/-- A side that stands between records. -/
def JoinSide.clear (w : JoinSide) : Bool := w.weight.isNone

/-- The next token of a record, or what stands where one is due: a REC gives the weight, the token after it the key. A record
without a key raises JOINREC and is gone. The answer is none where the side holds a record or waits at a control token. -/
def joinTake (h : HWord) (left : Bool) (q : Nat) (o : Fire) : Option Fire :=
  let w := o.hd.side left
  match o.e.head q with
  | none => none
  | some t =>
    if w.weight.isSome && w.key.isNone then
      if tokC t then some { o with errs := [0x1A], hd := o.hd.withSide left default }
      else
        let hd := o.hd.withSide left { w with key := some t }
        if tokN t then some { nullRule h [q] o with hd := hd }
        else some (coordTake left (t.extractLsb' 0 32) { o with hd := hd, take := [q] })
    else if w.clear then
      if isRec t then some { o with take := [q], hd := o.hd.withSide left { weight := some (tokArg t), key := none } }
      else if isCode 7 t then some { o.forward h [q] t with hd := { o.hd with ph := if left then 8#8 else 9#8 } }
      else if !tokC t then some { o with take := [q], errs := [0x1A] }
      else none
    else none

/-- A record is consumed with its value; one without a value raises JOINREC. -/
def joinDrop (left : Bool) (q : Nat) (o : Fire) : Fire :=
  let o := { o with hd := o.hd.withSide left default }
  match o.e.head q with
  | some t => if tokC t then { o with errs := o.errs ++ [0x1A] } else { o with take := o.take ++ [q] }
  | none => o

/-- JOIN. The four tokens of a match go out in successive firings that PH counts. -/
def execJoin (h : HWord) (s : State) : Out :=
  .next (handlerFire s 0x60 h (fun e hd =>
    let o := Fire.of e hd
    let a := h.a.toNat
    let b := h.b.toNat
    let sa := hd.side true
    let sb := hd.side false
    let ka := sa.key.getD 0#48
    let kb := sb.key.getD 0#48
    let head (q : Nat) : FTok := (e.head q).getD 0#48
    let ph (n : BitVec 8) (o : Fire) : Fire := { o with hd := { o.hd with ph := n } }
    if hd.ph = 8#8 then ph 0#8 (weightRule h [a] o)
    else if hd.ph = 9#8 then ph 0#8 (weightRule h [b] o)
    else if hd.ph = 1#8 then ph 2#8 { o with out := some (tokOn ka h.och), res := true }
    else if hd.ph = 2#8 then ph 3#8 { o with out := some (tokOn (head a) h.och), res := true }
    else if hd.ph = 3#8 then
      ph 0#8 { o.forward h [a, b] (head b) with res := true, hd := { hd with sideA := default, sideB := default } }
    else if hd.gapPend then weightRule h [a, b] o
    else match joinTake h true a o with
    | some r => r
    | none => match joinTake h false b o with
    | some r => r
    | none =>
      if sa.full && sb.full then
        if tokN ka then joinDrop true a o
        else if tokN kb then joinDrop false b o
        else if ka.extractLsb' 0 32 < kb.extractLsb' 0 32 then joinDrop true a o
        else if kb.extractLsb' 0 32 < ka.extractLsb' 0 32 then joinDrop false b o
        else if tokC (head a) then joinDrop true a o
        else if tokC (head b) then joinDrop false b o
        else
          let w := divRne ((sa.weight.getD 0 * sb.weight.getD 0 : Nat) : Int) 256
          ph 1#8 { o with out := some (ctlTok h.och 8 (min 0xFFFFFF w.toNat)) }
      else if sa.full then joinDrop true a o
      else if sb.full then joinDrop false b o
      else
        let r := ctlRule h [a, b] o
        if r.block.isSome || !(isCode 1 (head a) || isCode 2 (head a)) then r
        else { r with hd := { r.hd with prevA := none, prevB := none } }))

/-! ### win (R347) -/

/-- The firings of a close: REC of the window's weight, its sum, the status. The last consumes `qs` and clears. -/
def winClose (h : HWord) (base : BitVec 8) (status : Nat) (qs : List Nat) (o : Fire) : Fire :=
  let e := o.e
  if o.hd.ph = base then
    { o with out := some (ctlTok h.och 8 (min 0xFFFFFF (e.st1.extractLsb' 0 32).toNat)), hd := { o.hd with ph := base + 1#8 } }
  else if o.hd.ph = base + 1#8 then
    { o with out := some (tokOn (e.st0 &&& 0x7FFFFFFFFFFF#48) h.och), hd := { o.hd with ph := base + 2#8 } }
  else
    { o with
      out := some (tokOn (BitVec.ofNat 48 status) h.och), take := qs, hd := { o.hd with ph := 0#8 }
      e := { e with st0 := 0#48, st1 := 0#48 } }

/-- WIN. PH is 0 between closes; 1 and 2 stand in a close by weight, 4 to 6 in one by a gap, whose weight token stays at the head
until the last firing, and 9 and 10 in one by EOT. -/
def execWin (h : HWord) (s : State) : Out :=
  let rm := RMode.ofCode h.rm.toNat
  .next (handlerFire s 0x61 h (fun e hd =>
    let o := Fire.of e hd
    let qs := fireQs h
    let z := h.param.toNat % 2 ^ 15 * 256
    let count := h.param.getLsbD 15
    let t := (qs.filterMap e.head).headD 0#48
    if hd.ph = 4#8 || hd.ph = 5#8 || hd.ph = 6#8 then winClose h 4#8 1 qs o
    else if hd.ph = 9#8 || hd.ph = 10#8 then winClose h 8#8 2 [] o
    else if hd.ph = 1#8 || hd.ph = 2#8 then winClose h 0#8 0 qs o
    else if hd.gapPend then
      { weightRule h qs { o with e := { e with st1 := countUp e.st1 (gapCount t) } } with
        take := [], hd := { hd with gapPend := false, ph := 4#8 } }
    else if tokC t then
      if isRec t then { o with take := qs, e := if count then e else { e with st1 := countUp e.st1 (tokArg t) } }
      else if isEot t && (e.st1.extractLsb' 0 32) != 0#32 then winClose h 8#8 2 [] { o with hd := { hd with ph := 8#8 } }
      else ctlRule h qs o
    else
      let v := operand e hd true h.a.toNat
      if tokN v then { o with take := qs }
      else
        let x := if count then Num.xfRound rm (Num.add rm (Num.xfOf e.st0) (Num.xfOf v))
          else Num.xfRound rm (Num.fma rm (Num.xfOf v) (rwtVal hd) (Num.xfOf e.st0))
        let e := { e with st0 := x, st1 := if count then countUp e.st1 256 else e.st1 }
        if z ≤ (e.st1.extractLsb' 0 32).toNat then winClose h 0#8 0 qs { o with e := e } else { o with e := e, take := qs }))

/-! ### mxnode (R348) -/

/-- A run of 128 tokens as the values that its conversion to TYPE gives (R87, R88, R94). -/
def feedVals (typ : Nat) (rm : BitVec 3) (ts : List FTok) : List FV :=
  let w : ConvWord := { fmt := mxFmt typ, rm := rm.toNat, sat := false, bfn := 0, kind := false }
  let c : ConvState := default
  let block (i : Nat) : List Nat × Nat := let r := Conv.blockOut w c ((ts.drop (32 * i)).take 32) 32; (r.1, r.2.1)
  let codes : List Nat := if typ = 5 then ((List.range 4).map (fun i => (block i).1)).flatten else ts.map (fun t => (Conv.elemOut w c t).1)
  mxPass typ (leBytes (passBytes typ) (Conv.packCodes (mxBits typ) codes)) ((List.range 4).map (fun i => (block i).2))

/-- A full run is one K-pass of its row (R304, R330, R348). For INT4Q the place of B's scales follows from K, which a feed does
not state: the number of passes is a free value (log entry 25). -/
def feedPass (s : State) (key typ boff : Nat) (rm : BitVec 3) : State :=
  let core := elemCore key
  let f := (s.eng.islands.at core).feeds.at key
  if f.run.length < 128 || f.ent = 0 then s
  else
    let e := s.st.tiles.at (tileKey core (f.ent - 1))
    let a : Actor := { core := core, path := .mx, asid := e.asid, gen := genOf s e.asid, rid := 0 }
    let av := feedVals typ rm f.run
    let row := f.runs % 128
    let p := f.runs / 128
    let kp := freeN s
    let s := if typ = 5 then kp.2 else s
    let r := (List.range 128).foldl (fun acc j =>
      match acc.1 with
      | .inl _ => acc
      | .inr ns =>
        let b := bPass acc.2 a e boff typ p j
        let c := if typ = 5 then bScales b.2 a e boff kp.1 p j else (.inr [], b.2)
        match b.1, c.1 with
        | .inr bs, .inr cs =>
          let v := passSum av (mxPass typ bs (cs.map BitVec.toNat))
          (.inr (SMap.upd ns (128 * row + j) (fun n => nodeAdd n v)), c.2)
        | .inl x, _ => (.inl x, c.2)
        | _, .inl x => (.inl x, c.2)) ((.inr (s.eng.islands.at core).nodes, s) : (MemFault ⊕ SMap (BitVec 80)) × State)
    let next (i : Island) : Island := { i with feeds := i.feeds.upd key (fun f => { f with run := [], runs := f.runs + 1 }) }
    match r.1 with
    | .inl x => islandUpd (x.raise r.2 f.rid core) core next
    | .inr ns => islandUpd r.2 core (fun i => next { i with nodes := ns, passes := i.passes.upd row (· + 1) })

/-- An EOR releases the nodes that have received a pass, row by row and column by column, and the next run is row 0's first; a
pass count other than n ≠ 0 raises EORCNT. -/
def feedEor (s : State) (key n : Nat) (och : BitVec 4) : State :=
  let core := elemCore key
  let i := s.eng.islands.at core
  let out := (i.passes.map (fun p => (List.range 128).map (fun j =>
    tokOn (Num.xfRound .rne (Num.xeOf (i.nodes.at (128 * p.1 + j)))) och))).flatten
  let bad := n != 0 && i.passes.any (fun p => p.2 != n)
  let f := i.feeds.at key
  let s := islandUpd s core (fun i => { i with
    outq := i.outq ++ out, outRid := f.rid, nodes := [], passes := []
    feeds := i.feeds.map (fun x => (x.1, { x.2 with run := [], runs := 0 })) })
  if bad then regionError s f.rid 0x18 (keyLoc key) [] else s

/-- What reaches the island from an A-feed: data tokens run by run, and every other token in its order for the result ports. -/
def feedToken (s : State) (key : Nat) (h : HWord) (weight : Bool) (t : FTok) : State :=
  let core := elemCore key
  let rid := slotRid s core h.graph.toNat
  let k0 := (s.fab.elems.at key).k.at 0
  let ent := (k0.extractLsb' 0 8).toNat
  let upd (f : MxFeed → MxFeed) (s : State) : State := islandUpd s core (fun i => { i with feeds := i.feeds.upd key f })
  let on (s : State) : State := islandUpd s core (fun i => { i with outq := i.outq ++ [tokOn t h.och], outRid := rid })
  if !tokC t && !weight then
    feedPass (upd (fun f => { f with rid := rid, run := f.run ++ [t] }) s) key (h.param.toNat / 2 % 8) ((k0.extractLsb' 8 24).toNat * 8192) h.rm
  else if isSot t then
    on (upd (fun _ => { rid := rid, run := [], runs := 0, ent := ent + 1 }) (tileUse s core ent))
  else if isEot t then
    let f := (s.eng.islands.at core).feeds.at key
    let s := if f.ent = 0 then s else tileDone s core (f.ent - 1)
    on (upd (fun f => { f with ent := 0, run := [] }) s)
  else if isCode 4 t then on (feedEor s key (tokArg t) h.och)
  else on s

/-- MXNODE: role 0 feeds the island, role 1 sends on what it releases. -/
def execMxnode (h : HWord) (s : State) : Out :=
  let qs := fireQs h
  let quiet : HWord := { h with dsel := 0#3 }
  if !h.param.getLsbD 0 then
    .next (handlerFire s 0x62 quiet (fun e hd =>
      let o := Fire.of e hd
      if hd.gapPend then weightRule h qs o
      else if (qs.filterMap e.head).any tokC then ctlRule h qs o
      else passFire h e hd) (fun key o s =>
        match o.block, o.out with
        | none, some t => feedToken s key h o.wt t
        | _, _ => s))
  else if qs.isEmpty then
    .next (handlerFire s 0x62 h (fun e hd =>
      let core := match s.sim.cur with
        | .elem c _ _ => c
        | _ => 0
      match (s.eng.islands.at core).outq with
      | t :: _ => { (Fire.of e hd).forward h [] t with res := !tokC t, also := some t }
      | [] => Fire.of e hd) (fun key _ s => islandUpd s (elemCore key) (fun i => { i with outq := i.outq.drop 1 })))
  else .next (handlerFire s 0x62 h (passFire h))

/-! ### cpnode and clnode (R349) -/

/-- CPNODE: each data token fires copy template PARAM[4:0] with index signed(a[31:0]); an unarmed template, or one of another
ASID, raises CPNOTARMED. -/
def execCpnode (h : HWord) (s : State) : Out :=
  .next (handlerFire s 0x63 h (injectFire h id) (fun key o s =>
    let core := elemCore key
    match o.block, o.out with
    | none, some t =>
      if tokC t || tokN t || o.wt then s
      else
        let rid := slotRid s core h.graph.toNat
        let d := tmplOf s core h.param.toNat
        if d.v && d.arm && d.asid == (regionOf s rid).asid then tmplFire s core h.param.toNat (t.extractLsb' 0 32)
        else regionError s rid 0x1B (keyLoc key) []
    | _, _ => s))

/-- The combination of the members' tokens in replica-index order. -/
def collTok (op : Nat) (rm : RMode) (ts : List FTok) : FTok :=
  match ts with
  | [] => 0#48
  | t :: rest =>
    if op = 3 then t
    else rest.foldl (fun a b =>
      if op = 0 then Num.xfRound rm (Num.add rm (Num.xfOf a) (Num.xfOf b))
      else if op = 1 then floatPick false a b
      else (a.extractLsb' 0 32 + b.extractLsb' 0 32).setWidth 48) t

/-- CLNODE: the m-th data token is combined with those of the other members of replica group PARAM[5:0], which come from other
devices: each is a free value, and whether their control tokens are equal is a free choice (log entry 26). What the edge delivers comes with the
AG-path acquire of a widened token (R166, R173). -/
def execClnode (h : HWord) (s : State) : Out :=
  let g := h.param.toNat % 64
  let n := groupCount s g
  let me := groupLocal s g
  let others := if n = 0 || me = 0x7F then 1 else n - 1
  let far (i : Nat) : FTok := (Config.freeWord (s.sim.freeIdx + i)).setWidth 48 &&& 0x07FFFFFFFFFF#48
  .next (handlerFire s 0x64 { h with dsel := 0#3 } (fun e hd =>
    let o := Fire.of e hd
    let qs := fireQs h
    if hd.gapPend then weightRule h qs o
    else if (qs.filterMap e.head).any tokC then
      { ctlRule h qs o with errs := if others = 0 || Config.freeBit s.sim.freeIdx then [] else [0x1C] }
    else
      let t := operand e hd true h.a.toNat
      let ts := if n = 0 || me = 0x7F then [far 0]
        else (List.range n).map (fun i => if i = me then t else far (if i < me then i else i - 1))
      if tokN t || ts.any tokN then nullRule h qs o
      else o.result h qs (collTok (h.param.toNat / 64 % 4) (RMode.ofCode h.rm.toNat) ts)) (fun key _ s =>
        acquire { s with sim.freeIdx := s.sim.freeIdx + others } (elemCore key) 4))

end Sys2Proof.Machine
end

