-- ==== Sys2Proof/Machine/Watch.lean ====
section
/-! DEFINITION. Each core's stalemate detector (R202) and the debugger's halt (R395). -/

namespace Sys2Proof.Machine

/-- 4,096 mc (R202), in ns. -/
def watchNs : Nat := 5120
/-- 2^24 mc (R202), in ns. -/
def stalloutNs : Nat := 20971520

/-- A blocked node: KIND, HND, LOC, WCODE and WIDX of R202. -/
structure Blocked where
  kind : Nat
  hnd : Nat
  loc : Word
  wcode : Nat
  widx : Nat

/-! ### Blocked nodes -/

/-- What a handler that cannot fire waits on. One of a BLOCKED slot is reported with WCODE 1 (R350). -/
def handlerWait (s : State) (key hnd : Nat) (h : HWord) : Nat × Nat :=
  let e := s.fab.elems.at key
  let op := ((e.act.at hnd).word.extractLsb' 56 8).toNat
  let g := h.graph.toNat
  if e.blocked.getLsbD g then (1, ((fireQs h).head?).getD 0)
  else match e.seg with
  | some k => if k != g then (12, k) else body e op
  | none => body e op
where
  body (e : Elem) (op : Nat) : Nat × Nat :=
    if sends h && e.res.isSome then (2, e.pend.foldl Nat.min 9)
    else match (fireQs h).find? (fun q => (e.head q).bind e.bound != some hnd) with
    | some q => (1, q)
    | none => if op = 0x62 && !(fireQs h).isEmpty then (5, ((e.k.at 0).extractLsb' 0 8).toNat) else (1, ((fireQs h).head?).getD 0)

/-- The blocked handlers of a slot on a core. -/
def blockedHandlers (s : State) (core g : Nat) : List Blocked :=
  ((slotElems s core g).map (fun key =>
    let e := s.fab.elems.at key
    let rs := readyHandlers s key
    ((List.range 8).filter (fun n => (e.act.at n).present && handlerSlot (e.act.at n) == g && !rs.any (fun r => r.hnd == n))).map
      (fun n =>
        let w := handlerWait s key n (unpackHandler (e.act.at n).word)
        { kind := 1, hnd := n, loc := keyLoc key, wcode := waitCode s core w.1 w.2, widx := w.2 : Blocked }))).flatten

/-- The blocked contexts of a region on a core. A trapped one, and one whose own command completes by itself, bear WCODE 0, which no
report holds. -/
def blockedContexts (s : State) (core rid : Nat) : List Blocked :=
  ((List.range 8).filter (fun x =>
    let c := ctxOf s core x
    c.rid == rid && c.wcode != 0 && (c.st == .held || c.st == .parked || c.st == .wait))).map (fun x =>
      let c := ctxOf s core x
      { kind := 2, hnd := x, loc := coreLoc core, wcode := waitCode s core c.wcode c.widx, widx := c.widx : Blocked })

/-- The ownership entry that holds the next access of a stream, if one does (R155). -/
def ownerWait (s : State) (core k : Nat) : Option Nat :=
  let t := streamOf s core k
  let acc : Acc := if t.dir = 1 then .store else .load
  let tok := if t.pat = 2 then t.addr.orElse (fun _ => t.inp.head?.map t.offset) else none
  match agParts s core t acc (t.ranges (if t.blockFull then t.gatherIx else t.pos) tok) [] with
  | .done ps => (List.range 16).find? (fun i =>
      let e := s.sm.own.at (core * 16 + i)
      ps.any (fun p => partGate s core (streamNode k) (t.actor core) (t.dir == 1) p == .hold &&
        (match place p.pa with
          | .bank c o => c == core && (ownerOf s core o) == some e
          | _ => false)))
  | _ => none

/-- What an open stream waits on, none where it has nothing left to do. -/
def streamWait (s : State) (core k : Nat) : Option (Nat × Nat) :=
  let t := streamOf s core k
  let j := t.row0 + t.pos / t.rowLen
  let d := s.ac.sets.at (setKey core t.set)
  if !t.isOpen || t.halted then none
  else if t.walking then some (19, 0)
  else if 0 < t.farN then some (18, 0)
  else if !t.port.isEmpty then some (2, 0)
  else if t.count ≤ t.pos then none
  else if t.dir = 3 then
    (if scopesOpen d t.mask then some (7, scopeIdx d t.set t.mask) else some (8, t.set * 65536 + j))
  else if (t.dir = 1 || t.dir = 2 || t.pat = 2) && t.inp.isEmpty then some (1, 0)
  else if t.dir = 2 then some (8, t.set * 65536 + j)
  else match ownerWait s core k with
  | some i => some (6, i)
  | none => some (1, 0)

/-- Location of a stream: its memory tile, with x the node and y the stream (R202). -/
def streamLoc (core k : Nat) : Word :=
  tileLoc core (k / 32) + BitVec.ofNat 64 (k / 4 % 8 * 2 ^ 5 + k % 4)

/-- The blocked streams of a region on a core. -/
def blockedStreams (s : State) (core rid : Nat) : List Blocked :=
  (List.range 256).filterMap (fun k =>
    if (streamOf s core k).rid != rid then none
    else (streamWait s core k).map (fun w => { kind := 3, hnd := 0, loc := streamLoc core k, wcode := w.1, widx := w.2 : Blocked }))

/-- An entry goes before another: KIND, then location. -/
def Blocked.before (a b : Blocked) : Bool := decide (a.kind < b.kind) || (a.kind == b.kind && decide (a.loc.toNat ≤ b.loc.toNat))

def blockedInsert (e : Blocked) : List Blocked → List Blocked
  | [] => [e]
  | f :: r => if f.before e then f :: blockedInsert e r else e :: f :: r

/-- Every blocked node of the region of a slot on a core, in the order of the report. -/
def blockedNodes (s : State) (core g : Nat) : List Blocked :=
  let rid := slotRid s core g
  (blockedHandlers s core g ++ blockedContexts s core rid ++ blockedStreams s core rid).foldl (fun l e => blockedInsert e l) []

/-- Does a node wait on an outward object? -/
def Blocked.outward (b : Blocked) : Bool := decide (16 ≤ b.wcode)

/-- Has the outward object that a node waits on a bound: a zone's TMO, an armed budget, a reply's 500 µs, a link's window? -/
def Blocked.bounded (b : Blocked) (s : State) (core : Nat) : Bool :=
  if b.wcode = 16 then
    (List.range 8).any (fun z =>
      let d := zoneOf s core z
      d.v && d.tmo != 0#16 && decide (d.tte.toNat ≤ b.widx) && decide (b.widx ≤ d.tte.toNat + d.ns1.toNat))
  else if b.wcode = 17 then
    s.hth.eps.any (fun e => e.2.v && e.2.st == .live && e.2.pdie.toNat * 64 + e.2.pcore.toNat == core &&
      (e.2.oq.toNat == b.widx || e.2.aq.toNat == b.widx) && e.2.bud != 0#40)
  else b.wcode = 18 || b.wcode = 19

/-! ### The detector (R202) -/

/-- The two words of a report's entry. -/
def Blocked.bytes (b : Blocked) (t : Word) : List Byte :=
  leBytes 8 (b.kind * 2 ^ 56 + b.hnd % 8 * 2 ^ 53 + b.loc.toNat % 2 ^ 21 * 2 ^ 32 + b.wcode % 256 * 2 ^ 24 + b.widx % 2 ^ 24) ++
    leBytes 8 t.toNat

/-- Up to 64 entries are written into the core's block of the half that the next wave writes, and the error is raised with their
offset in the snapshot area (R383, R387; DEDUCED, log entry 33: the half). -/
def watchReport (s : State) (core rid code : Nat) (bs : List Blocked) : State :=
  let r := regionOf s rid
  let va := r.snapBlock r.half core + 0x3A000
  let s := (memWrite s { r.actor with core := core } va ((bs.take 64).map (fun b => b.bytes s.dev.gtsc)).flatten).2
  regionError s rid code (coreLoc core) [BitVec.ofNat 64 (va - r.snapVa.toNat)]

/-- Does the detector examine the region of a slot: it has not ended, no debugger has halted it, and none of its contexts is
trapped? -/
def watched (s : State) (core g : Nat) : Bool :=
  let k := s.rg.slots.at (slotIx core g)
  k.rid != 0 && !k.halted && !stopped s k.rid && (ctxsWhere s (fun c => c.rid == k.rid && c.trapped)).isEmpty

/-- Has the counter of a slot reached 4,096 mc? -/
def watchDue (s : State) (core g : Nat) : Bool :=
  watched s core g && decide (watchNs ≤ (s.dev.gtsc - (s.rg.slots.at (slotIx core g)).prog).toNat)

/-- STALEMATE_CHECK: 4,096 mc have passed without progress of the region in slot `unit` of a core. A wait on an outward object
restarts the counter, and on a bounded one the second count too; without one the region is stalled. -/
def execStalemateCheck (s : State) : Out :=
  let core := s.sim.arg.core.toNat
  let g := s.sim.arg.unit.toNat % 4
  if !watchDue s core g then .next s
  else
    let k := slotIx core g
    let bs := blockedNodes s core g
    let out := bs.filter (·.outward)
    if out.isEmpty then .next (watchReport s core (slotRid s core g) 0x1D bs)
    else
      let s := { s with rg.slots := s.rg.slots.upd k (fun x => { x with
        prog := s.dev.gtsc, prog2 := if out.any (fun b => b.bounded s core) then s.dev.gtsc else x.prog2 }) }
      if stalloutNs ≤ (s.dev.gtsc - (s.rg.slots.at k).prog2).toNat then
        .next (pushFirst s .stallout { (default : EvArg) with core := s.sim.arg.core, unit := s.sim.arg.unit })
      else .next s

/-- STALLOUT: the second count of the region in slot `unit` of a core has reached 2^24 mc: the error is recorded, and the count is
cleared. -/
def execStallout (s : State) : Out :=
  let core := s.sim.arg.core.toNat
  let g := s.sim.arg.unit.toNat % 4
  let k := slotIx core g
  if !watched s core g || (s.dev.gtsc - (s.rg.slots.at k).prog2).toNat < stalloutNs then .next s
  else
    let bs := blockedNodes s core g
    if !bs.any (fun b => b.outward && !b.bounded s core) then .next s
    else
      let s := { s with rg.slots := s.rg.slots.upd k (fun x => { x with prog2 := s.dev.gtsc }) }
      .next (watchReport s core (slotRid s core g) 0x21 bs)

/-! ### The debugger (R395) -/

/-- DEBUG_HALT: HALT of a core's DBGA is set to bit 62 of `v`; while V = 1 its slot halts. -/
def execDebugHalt (s : State) : Out :=
  let core := s.sim.arg.core.toNat
  let d := s.ctl.dbga.at core
  let s := { s with ctl.dbga := s.ctl.dbga.set core { d with halt := true } }
  .next (if d.v then { s with rg.slots := s.rg.slots.upd (slotIx core d.slot.toNat) (fun x => { x with halted := true }) } else s)

/-- DEBUG_RESUME: HALT is cleared, and the core's halted slot goes on. -/
def execDebugResume (s : State) : Out :=
  let core := s.sim.arg.core.toNat
  let s := { s with ctl.dbga := s.ctl.dbga.upd core (fun d => { d with halt := false }) }
  .next { s with rg.slots := s.rg.slots.map (fun x =>
    if x.1 / 4 == core && x.2.halted then (x.1, { x.2 with halted := false, prog := s.dev.gtsc, prog2 := s.dev.gtsc }) else x) }

/-- DEBUG_AREA_REFILL: once a core's slot has resumed, the oldest entry of its debug area that can return does, ahead of later
arrivals. -/
def execDebugAreaRefill (s : State) : Out :=
  let core := s.sim.arg.core.toNat
  if (s.rg.slots.at (slotIx core (s.ctl.dbga.at core).slot.toNat)).halted then .next s
  else match dbgNext s core with
  | some e => .next (dbgReturn s core e)
  | none => .next s

end Sys2Proof.Machine
end

