-- ==== Sys2Proof/Machine/Dispatch.lean ====
section
/-! DEFINITION. One arm per constructor: each calls its meaning, or rejects the instruction by name. -/

namespace Sys2Proof.Machine
open Sys2Proof

/-- The meaning of an instruction. -/
def exec (i : Instr) (s : State) : Host.Outcome State Fault Refusal :=
  match i with
  | .add p t u => Sys2Proof.Machine.execAdd p t u s
  | .sub p t u => Sys2Proof.Machine.execSub p t u s
  | .mul p t u => Sys2Proof.Machine.execMul p t u s
  | .mulh p t u => Sys2Proof.Machine.execMulh p t u s
  | .mulhn p t u => Sys2Proof.Machine.execMulhn p t u s
  | .adds p t u => Sys2Proof.Machine.execAdds p t u s
  | .min p t u => Sys2Proof.Machine.execMin p t u s
  | .max p t u => Sys2Proof.Machine.execMax p t u s
  | .minn p t u => Sys2Proof.Machine.execMinn p t u s
  | .maxn p t u => Sys2Proof.Machine.execMaxn p t u s
  | .divs p t u => Sys2Proof.Machine.execDivs p t u s
  | .divn p t u => Sys2Proof.Machine.execDivn p t u s
  | .rems p t u => Sys2Proof.Machine.execRems p t u s
  | .remn p t u => Sys2Proof.Machine.execRemn p t u s
  | .and p t u => Sys2Proof.Machine.execAnd p t u s
  | .or p t u => Sys2Proof.Machine.execOr p t u s
  | .xor p t u => Sys2Proof.Machine.execXor p t u s
  | .andn p t u => Sys2Proof.Machine.execAndn p t u s
  | .shl p t u => Sys2Proof.Machine.execShl p t u s
  | .shr p t u => Sys2Proof.Machine.execShr p t u s
  | .sha p t u => Sys2Proof.Machine.execSha p t u s
  | .rol p t u => Sys2Proof.Machine.execRol p t u s
  | .clz p t u => Sys2Proof.Machine.execClz p t u s
  | .ctz p t u => Sys2Proof.Machine.execCtz p t u s
  | .popc p t u => Sys2Proof.Machine.execPopc p t u s
  | .mov p t u => Sys2Proof.Machine.execMov p t u s
  | .sext p w t u => Sys2Proof.Machine.execSext p w t u s
  | .zext p w t u => Sys2Proof.Machine.execZext p w t u s
  | .addi p im t => Sys2Proof.Machine.execAddi p im t s
  | .muli p im t => Sys2Proof.Machine.execMuli p im t s
  | .andi p im t => Sys2Proof.Machine.execAndi p im t s
  | .ori p im t => Sys2Proof.Machine.execOri p im t s
  | .xori p im t => Sys2Proof.Machine.execXori p im t s
  | .shli p n t => Sys2Proof.Machine.execShli p n t s
  | .shri p n t => Sys2Proof.Machine.execShri p n t s
  | .shai p n t => Sys2Proof.Machine.execShai p n t s
  | .bfx p q w t => Sys2Proof.Machine.execBfx p q w t s
  | .bfi p q w t => Sys2Proof.Machine.execBfi p q w t s
  | .movc c t => Sys2Proof.Machine.execMovc c t s
  | .movh c t => Sys2Proof.Machine.execMovh c t s
  | .rdh p h t u => Sys2Proof.Machine.execRdh p h t u s
  | .teq p t u => Sys2Proof.Machine.execTeq p t u s
  | .tne p t u => Sys2Proof.Machine.execTne p t u s
  | .tlt p t u => Sys2Proof.Machine.execTlt p t u s
  | .tle p t u => Sys2Proof.Machine.execTle p t u s
  | .tltn p t u => Sys2Proof.Machine.execTltn p t u s
  | .tlen p t u => Sys2Proof.Machine.execTlen p t u s
  | .teqi p im t => Sys2Proof.Machine.execTeqi p im t s
  | .tlti p im t => Sys2Proof.Machine.execTlti p im t s
  | .tltni p im t => Sys2Proof.Machine.execTltni p im t s
  | .pand p t u => Sys2Proof.Machine.execPand p t u s
  | .por p t u => Sys2Proof.Machine.execPor p t u s
  | .pnot p t u => Sys2Proof.Machine.execPnot p t u s
  | .ldb p l im t => Sys2Proof.Machine.execLdb p l im t s
  | .ldbs p l im t => Sys2Proof.Machine.execLdbs p l im t s
  | .ldh p l im t => Sys2Proof.Machine.execLdh p l im t s
  | .ldhs p l im t => Sys2Proof.Machine.execLdhs p l im t s
  | .ldw p l im t => Sys2Proof.Machine.execLdw p l im t s
  | .ldws p l im t => Sys2Proof.Machine.execLdws p l im t s
  | .ldd p l im t => Sys2Proof.Machine.execLdd p l im t s
  | .lda p l sc t => Sys2Proof.Machine.execLda p l sc t s
  | .ldred p l sc t => Sys2Proof.Machine.execLdred p l sc t s
  | .ldt p l k t => Sys2Proof.Machine.execLdt p l k t s
  | .prf p l im => Sys2Proof.Machine.execPrf p l im s
  | .stb p l im => Sys2Proof.Machine.execStb p l im s
  | .sth p l im => Sys2Proof.Machine.execSth p l im s
  | .stw p l im => Sys2Proof.Machine.execStw p l im s
  | .std p l im => Sys2Proof.Machine.execStd p l im s
  | .stl p l sc im => Sys2Proof.Machine.execStl p l sc im s
  | .stt p l k => Sys2Proof.Machine.execStt p l k s
  | .spills p l b a => Sys2Proof.Machine.execSpills p l b a s
  | .fills p l b a => Sys2Proof.Machine.execFills p l b a s
  | .aadd p l sc t => Sys2Proof.Machine.execAadd p l sc t s
  | .aaddf p l sc t => Sys2Proof.Machine.execAaddf p l sc t s
  | .amin p l sc t => Sys2Proof.Machine.execAmin p l sc t s
  | .amax p l sc t => Sys2Proof.Machine.execAmax p l sc t s
  | .aminn p l sc t => Sys2Proof.Machine.execAminn p l sc t s
  | .amaxn p l sc t => Sys2Proof.Machine.execAmaxn p l sc t s
  | .aand p l sc t => Sys2Proof.Machine.execAand p l sc t s
  | .aor p l sc t => Sys2Proof.Machine.execAor p l sc t s
  | .axor p l sc t => Sys2Proof.Machine.execAxor p l sc t s
  | .aswp p l sc t => Sys2Proof.Machine.execAswp p l sc t s
  | .acas p l sc t => Sys2Proof.Machine.execAcas p l sc t s
  | .ainc p l sc t => Sys2Proof.Machine.execAinc p l sc t s
  | .fence p l sc t => Sys2Proof.Machine.execFence p l sc t s
  | .xfence p l f g sc => Sys2Proof.Machine.execXfence p l f g sc s
  | .sbar p l a g => Sys2Proof.Machine.execSbar p l a g s
  | .abar p l m => Sys2Proof.Machine.execAbar p l m s
  | .wbar p l sc => Sys2Proof.Machine.execWbar p l sc s
  | .tbar p l q k => Sys2Proof.Machine.execTbar p l q k s
  | .yield p t u => Sys2Proof.Machine.execYield p t u s
  | .wfe p t u => Sys2Proof.Machine.execWfe p t u s
  | .sev p t u => Sys2Proof.Machine.execSev p t u s
  | .nwrite p l z => Sys2Proof.Machine.execNwrite p l z s
  | .qrsv p n t => Sys2Proof.Machine.execQrsv p n t s
  | .qpush p n t => Sys2Proof.Machine.execQpush p n t s
  | .qwait p v n t => Sys2Proof.Machine.execQwait p v n t s
  | .qpop p v n t => Sys2Proof.Machine.execQpop p v n t s
  | .qadv p v n t => Sys2Proof.Machine.execQadv p v n t s
  | .qpadv p v n t => Sys2Proof.Machine.execQpadv p v n t s
  | .qpol p n t => Sys2Proof.Machine.execQpol p n t s
  | .qstat p v n t => Sys2Proof.Machine.execQstat p v n t s
  | .qgap p n t => Sys2Proof.Machine.execQgap p n t s
  | .qmark p n t => Sys2Proof.Machine.execQmark p n t s
  | .rwait p n t => Sys2Proof.Machine.execRwait p n t s
  | .rrel p n t => Sys2Proof.Machine.execRrel p n t s
  | .sopen p l sc t => Sys2Proof.Machine.execSopen p l sc t s
  | .sclose p l sc t => Sys2Proof.Machine.execSclose p l sc t s
  | .sseek p sc t => Sys2Proof.Machine.execSseek p sc t s
  | .shand p o t => Sys2Proof.Machine.execShand p o t s
  | .cfgld p g t => Sys2Proof.Machine.execCfgld p g t s
  | .cfgsh p g t => Sys2Proof.Machine.execCfgsh p g t s
  | .rgo p g t => Sys2Proof.Machine.execRgo p g t s
  | .rdrain p g t => Sys2Proof.Machine.execRdrain p g t s
  | .rstat p q k t => Sys2Proof.Machine.execRstat p q k t s
  | .rmark p g t => Sys2Proof.Machine.execRmark p g t s
  | .rroll p g t => Sys2Proof.Machine.execRroll p g t s
  | .bankm p l b t => Sys2Proof.Machine.execBankm p l b t s
  | .ttsetDefine p k t => Sys2Proof.Machine.execTtsetDefine p k t s
  | .ttsetUndefine p k t => Sys2Proof.Machine.execTtsetUndefine p k t s
  | .ttsetFill p k t => Sys2Proof.Machine.execTtsetFill p k t s
  | .ttsetReady p k t => Sys2Proof.Machine.execTtsetReady p k t s
  | .ttsetAbort p k t => Sys2Proof.Machine.execTtsetAbort p k t s
  | .ttsetDrain p k t => Sys2Proof.Machine.execTtsetDrain p k t s
  | .ttsetEmpty p k t => Sys2Proof.Machine.execTtsetEmpty p k t s
  | .ttq p w k t => Sys2Proof.Machine.execTtq p w k t s
  | .cparm p t u => Sys2Proof.Machine.execCparm p t u s
  | .cpgo p t u => Sys2Proof.Machine.execCpgo p t u s
  | .cpdis p t u => Sys2Proof.Machine.execCpdis p t u s
  | .mxtask p t u => Sys2Proof.Machine.execMxtask p t u s
  | .coll p t u => Sys2Proof.Machine.execColl p t u s
  | .zres p t u => Sys2Proof.Machine.execZres p t u s
  | .zrel p t u => Sys2Proof.Machine.execZrel p t u s
  | .zbar p t u => Sys2Proof.Machine.execZbar p t u s
  | .zanno p t u => Sys2Proof.Machine.execZanno p t u s
  | .launch p t u => Sys2Proof.Machine.execLaunch p t u s
  | .tenq p t u => Sys2Proof.Machine.execTenq p t u s
  | .tdeq p t u => Sys2Proof.Machine.execTdeq p t u s
  | .schnext p t u => Sys2Proof.Machine.execSchnext p t u s
  | .launchPark p t u => Sys2Proof.Machine.execLaunchPark p t u s
  | .tdeqPark p t u => Sys2Proof.Machine.execTdeqPark p t u s
  | .acopen p t u => Sys2Proof.Machine.execAcopen p t u s
  | .acadd p t u => Sys2Proof.Machine.execAcadd p t u s
  | .acscope p t l => Sys2Proof.Machine.execAcscope p t l s
  | .acnorm p t u => Sys2Proof.Machine.execAcnorm p t u s
  | .acevict p t u => Sys2Proof.Machine.execAcevict p t u s
  | .acload p t u => Sys2Proof.Machine.execAcload p t u s
  | .br p e o => Sys2Proof.Machine.execBr p e o s
  | .call p e o => Sys2Proof.Machine.execCall p e o s
  | .brt p e => Sys2Proof.Machine.execBrt p e s
  | .callt p e => Sys2Proof.Machine.execCallt p e s
  | .ret p e => Sys2Proof.Machine.execRet p e s
  | .sel p t u => Sys2Proof.Machine.execSel p t u s
  | .nullw p t u => Sys2Proof.Machine.execNullw p t u s
  | .nulls p t l => Sys2Proof.Machine.execNulls p t l s
  | .trap p => Sys2Proof.Machine.execTrap p s
  | .sysc p => Sys2Proof.Machine.execSysc p s
  | .rdsr p t r => Sys2Proof.Machine.execRdsr p t r s
  | .wrsr p t r => Sys2Proof.Machine.execWrsr p t r s
  | .rdtime p t u => Sys2Proof.Machine.execRdtime p t u s
  | .eret p => Sys2Proof.Machine.execEret p s
  | .halt p => Sys2Proof.Machine.execHalt p s
  | .brk p => Sys2Proof.Machine.execBrk p s
  | .idle p t u => Sys2Proof.Machine.execIdle p t u s
  | .setctx p t u => Sys2Proof.Machine.execSetctx p t u s
  | .inval p t u => Sys2Proof.Machine.execInval p t u s
  | .kill p t u => Sys2Proof.Machine.execKill p t u s
  | .dsnap p t u => Sys2Proof.Machine.execDsnap p t u s
  | .plySend b a d => Sys2Proof.Machine.execPlySend b a d s
  | .plyRecv b a d => Sys2Proof.Machine.execPlyRecv b a d s
  | .plyPoll b a d => Sys2Proof.Machine.execPlyPoll b a d s
  | .plyTag b a d => Sys2Proof.Machine.execPlyTag b a d s
  | .plyFlag b a d => Sys2Proof.Machine.execPlyFlag b a d s
  | .plyEnd b a d => Sys2Proof.Machine.execPlyEnd b a d s
  | .plyRwd b a d => Sys2Proof.Machine.execPlyRwd b a d s
  | .iadd h => Sys2Proof.Machine.execIadd h s
  | .isub h => Sys2Proof.Machine.execIsub h s
  | .imul h => Sys2Proof.Machine.execImul h s
  | .imulh h => Sys2Proof.Machine.execImulh h s
  | .iand h => Sys2Proof.Machine.execIand h s
  | .ior h => Sys2Proof.Machine.execIor h s
  | .ixor h => Sys2Proof.Machine.execIxor h s
  | .ishl h => Sys2Proof.Machine.execIshl h s
  | .ishr h => Sys2Proof.Machine.execIshr h s
  | .isha h => Sys2Proof.Machine.execIsha h s
  | .imin h => Sys2Proof.Machine.execImin h s
  | .imax h => Sys2Proof.Machine.execImax h s
  | .ieq h => Sys2Proof.Machine.execIeq h s
  | .ilt h => Sys2Proof.Machine.execIlt h s
  | .iltn h => Sys2Proof.Machine.execIltn h s
  | .isel h => Sys2Proof.Machine.execIsel h s
  | .fadd h => Sys2Proof.Machine.execFadd h s
  | .fsub h => Sys2Proof.Machine.execFsub h s
  | .fmul h => Sys2Proof.Machine.execFmul h s
  | .fma h => Sys2Proof.Machine.execFma h s
  | .fmin h => Sys2Proof.Machine.execFmin h s
  | .fmax h => Sys2Proof.Machine.execFmax h s
  | .fneg h => Sys2Proof.Machine.execFneg h s
  | .fabs h => Sys2Proof.Machine.execFabs h s
  | .frcp h => Sys2Proof.Machine.execFrcp h s
  | .frsq h => Sys2Proof.Machine.execFrsq h s
  | .fexp2 h => Sys2Proof.Machine.execFexp2 h s
  | .flog2 h => Sys2Proof.Machine.execFlog2 h s
  | .feq h => Sys2Proof.Machine.execFeq h s
  | .flt h => Sys2Proof.Machine.execFlt h s
  | .fsel h => Sys2Proof.Machine.execFsel h s
  | .cvif h => Sys2Proof.Machine.execCvif h s
  | .cvfi h => Sys2Proof.Machine.execCvfi h s
  | .pass h => Sys2Proof.Machine.execPass h s
  | .dup h => Sys2Proof.Machine.execDup h s
  | .cnt h => Sys2Proof.Machine.execCnt h s
  | .gate h => Sys2Proof.Machine.execGate h s
  | .tsel h => Sys2Proof.Machine.execTsel h s
  | .merge h => Sys2Proof.Machine.execMerge h s
  | .isect h => Sys2Proof.Machine.execIsect h s
  | .union h => Sys2Proof.Machine.execUnion h s
  | .stopck h => Sys2Proof.Machine.execStopck h s
  | .swap h => Sys2Proof.Machine.execSwap h s
  | .mark h => Sys2Proof.Machine.execMark h s
  | .hand h => Sys2Proof.Machine.execHand h s
  | .acc h => Sys2Proof.Machine.execAcc h s
  | .accw h => Sys2Proof.Machine.execAccw h s
  | .bfly h => Sys2Proof.Machine.execBfly h s
  | .wmul h => Sys2Proof.Machine.execWmul h s
  | .gapw h => Sys2Proof.Machine.execGapw h s
  | .widen h => Sys2Proof.Machine.execWiden h s
  | .cmpd h => Sys2Proof.Machine.execCmpd h s
  | .join h => Sys2Proof.Machine.execJoin h s
  | .win h => Sys2Proof.Machine.execWin h s
  | .mxnode h => Sys2Proof.Machine.execMxnode h s
  | .cpnode h => Sys2Proof.Machine.execCpnode h s
  | .clnode h => Sys2Proof.Machine.execClnode h s
  | .asidEnable => Sys2Proof.Machine.execAsidEnable s
  | .asidDisable => Sys2Proof.Machine.execAsidDisable s
  | .asidDisableDrained => Sys2Proof.Machine.execAsidDisableDrained s
  | .registerWrite => Sys2Proof.Machine.execRegisterWrite s
  | .inboundRequest => Sys2Proof.Machine.execInboundRequest s
  | .walkerQuotaWrite => Sys2Proof.Machine.execWalkerQuotaWrite s
  | .walkSlotGrant => Sys2Proof.Machine.execWalkSlotGrant s
  | .walkComplete => Sys2Proof.Machine.execWalkComplete s
  | .dirtyTrackingWrite => Sys2Proof.Machine.execDirtyTrackingWrite s
  | .invalidationComplete => Sys2Proof.Machine.execInvalidationComplete s
  | .bankPortGrant => Sys2Proof.Machine.execBankPortGrant s
  | .bankChangeReach => Sys2Proof.Machine.execBankChangeReach s
  | .bankChangeComplete => Sys2Proof.Machine.execBankChangeComplete s
  | .coreCacheFill => Sys2Proof.Machine.execCoreCacheFill s
  | .l2Access => Sys2Proof.Machine.execL2Access s
  | .l2FillComplete => Sys2Proof.Machine.execL2FillComplete s
  | .tileEngineWrite => Sys2Proof.Machine.execTileEngineWrite s
  | .tileRefIssue => Sys2Proof.Machine.execTileRefIssue s
  | .queueRecordArrival => Sys2Proof.Machine.execQueueRecordArrival s
  | .queueDataToken => Sys2Proof.Machine.execQueueDataToken s
  | .queueMarkerArrival => Sys2Proof.Machine.execQueueMarkerArrival s
  | .spillRefill => Sys2Proof.Machine.execSpillRefill s
  | .rowAdd => Sys2Proof.Machine.execRowAdd s
  | .temperRead => Sys2Proof.Machine.execTemperRead s
  | .addScopeClose => Sys2Proof.Machine.execAddScopeClose s
  | .reservationRequest => Sys2Proof.Machine.execReservationRequest s
  | .reservationReply => Sys2Proof.Machine.execReservationReply s
  | .slotWriteArrival => Sys2Proof.Machine.execSlotWriteArrival s
  | .slotEndToken => Sys2Proof.Machine.execSlotEndToken s
  | .phaseNoticeArrival => Sys2Proof.Machine.execPhaseNoticeArrival s
  | .reservationTimeout => Sys2Proof.Machine.execReservationTimeout s
  | .landingQuotaWrite => Sys2Proof.Machine.execLandingQuotaWrite s
  | .linkDown => Sys2Proof.Machine.execLinkDown s
  | .retrainWindowExpiry => Sys2Proof.Machine.execRetrainWindowExpiry s
  | .linkRetrained => Sys2Proof.Machine.execLinkRetrained s
  | .aguStreamAccess => Sys2Proof.Machine.execAguStreamAccess s
  | .coalesceIdleFlush => Sys2Proof.Machine.execCoalesceIdleFlush s
  | .handToken => Sys2Proof.Machine.execHandToken s
  | .remoteAtomicArrival => Sys2Proof.Machine.execRemoteAtomicArrival s
  | .replayEntryExpiry => Sys2Proof.Machine.execReplayEntryExpiry s
  | .remoteReply => Sys2Proof.Machine.execRemoteReply s
  | .remoteReplyTimeout => Sys2Proof.Machine.execRemoteReplyTimeout s
  | .replayQuotaWrite => Sys2Proof.Machine.execReplayQuotaWrite s
  | .notifyPageEnable => Sys2Proof.Machine.execNotifyPageEnable s
  | .doorbellWrite => Sys2Proof.Machine.execDoorbellWrite s
  | .admitRegion => Sys2Proof.Machine.execAdmitRegion s
  | .admitTile => Sys2Proof.Machine.execAdmitTile s
  | .admitHeap => Sys2Proof.Machine.execAdmitHeap s
  | .admitEvent => Sys2Proof.Machine.execAdmitEvent s
  | .schedQuotaWrite => Sys2Proof.Machine.execSchedQuotaWrite s
  | .arbiterPlaceRegion => Sys2Proof.Machine.execArbiterPlaceRegion s
  | .arbiterPlaceTile => Sys2Proof.Machine.execArbiterPlaceTile s
  | .arbiterCounterPoll => Sys2Proof.Machine.execArbiterCounterPoll s
  | .frameAllocate => Sys2Proof.Machine.execFrameAllocate s
  | .frameSurrender => Sys2Proof.Machine.execFrameSurrender s
  | .blockFetch => Sys2Proof.Machine.execBlockFetch s
  | .blockCommit => Sys2Proof.Machine.execBlockCommit s
  | .segmentBudgetExpiry => Sys2Proof.Machine.execSegmentBudgetExpiry s
  | .channelPull => Sys2Proof.Machine.execChannelPull s
  | .stalemateCheck => Sys2Proof.Machine.execStalemateCheck s
  | .stallout => Sys2Proof.Machine.execStallout s
  | .elementSwap => Sys2Proof.Machine.execElementSwap s
  | .waitRelease => Sys2Proof.Machine.execWaitRelease s
  | .idleTimeout => Sys2Proof.Machine.execIdleTimeout s
  | .copyTriggerRecord => Sys2Proof.Machine.execCopyTriggerRecord s
  | .copyComplete => Sys2Proof.Machine.execCopyComplete s
  | .matrixTaskComplete => Sys2Proof.Machine.execMatrixTaskComplete s
  | .collectiveComplete => Sys2Proof.Machine.execCollectiveComplete s
  | .cfgldComplete => Sys2Proof.Machine.execCfgldComplete s
  | .regionDrainComplete => Sys2Proof.Machine.execRegionDrainComplete s
  | .markerWaveComplete => Sys2Proof.Machine.execMarkerWaveComplete s
  | .regionRollback => Sys2Proof.Machine.execRegionRollback s
  | .regionPreempt => Sys2Proof.Machine.execRegionPreempt s
  | .killDrainComplete => Sys2Proof.Machine.execKillDrainComplete s
  | .faultWindowWrite => Sys2Proof.Machine.execFaultWindowWrite s
  | .debugHalt => Sys2Proof.Machine.execDebugHalt s
  | .debugResume => Sys2Proof.Machine.execDebugResume s
  | .debugAreaRefill => Sys2Proof.Machine.execDebugAreaRefill s
  | .histogramSave => Sys2Proof.Machine.execHistogramSave s
  | .episodeBind => Sys2Proof.Machine.execEpisodeBind s
  | .episodeUnbind => Sys2Proof.Machine.execEpisodeUnbind s
  | .hearthWindowAccess => Sys2Proof.Machine.execHearthWindowAccess s
  | .actionRecordAccept => Sys2Proof.Machine.execActionRecordAccept s
  | .flagFall => Sys2Proof.Machine.execFlagFall s
  | .nodeidWrite => Sys2Proof.Machine.execNodeidWrite s
  | .portEnable => Sys2Proof.Machine.execPortEnable s
  | .portDisable => Sys2Proof.Machine.execPortDisable s
  | .portModeSet => Sys2Proof.Machine.execPortModeSet s
  | .flitReceive => Sys2Proof.Machine.execFlitReceive s
  | .timeSyncTick => Sys2Proof.Machine.execTimeSyncTick s
  | .gtscAlign => Sys2Proof.Machine.execGtscAlign s
  | .reseqPacketArrival => Sys2Proof.Machine.execReseqPacketArrival s
  | .reseqSourceTimeout => Sys2Proof.Machine.execReseqSourceTimeout s
  | .powerOn => Sys2Proof.Machine.execPowerOn s
  | .attestationRequest => Sys2Proof.Machine.execAttestationRequest s
  | .firmwareInstall => Sys2Proof.Machine.execFirmwareInstall s
  | .sensorSample => Sys2Proof.Machine.execSensorSample s
  | .coolantReport => Sys2Proof.Machine.execCoolantReport s
  | .flowLoss => Sys2Proof.Machine.execFlowLoss s
  | .linkTrained => Sys2Proof.Machine.execLinkTrained s
  | .moduleReset => Sys2Proof.Machine.execModuleReset s

end Sys2Proof.Machine
end

