-- ==== Sys2Proof/Machine/Sched.lean ====
section
/-! DEFINITION. What a turn does, and which turn comes next (log entry 2): the turns that a state names itself, and where it names
none, a free choice among everything the manual lets act. -/

namespace Sys2Proof.Machine

/-! ### Turns -/

/-- An instruction is executed with an agent as the current one. -/
def runAs (i : Instr) (c : Cur) (s : State) : Host.Outcome State Fault Refusal := exec i { s with sim.cur := c }

/-- An event with its operands. -/
def evTurn (i : Instr) (a : EvArg) (s : State) : Host.Outcome State Fault Refusal :=
  exec i { s with sim.cur := .none, sim.arg := a }

/-- The operands that name a context. -/
def ctxArg (core x : Nat) : EvArg := { (default : EvArg) with core := BitVec.ofNat 8 core, ctx := BitVec.ofNat 3 x }

/-- The LSID or missing part that a block with nothing to fire waits for: its lowest LSID, 32 for its exit, 33 for its holds. -/
def Frame.missing (f : Frame) : Nat :=
  match f.lowestLsid with
  | some l => l
  | none => if f.exit.isNone then 32 else 33

/-- What a block with nothing to fire waits for: the reply or completion that one of its instructions has issued for, else its
LSIDs, exit or holds. -/
def blockWait (s : State) (core x : Nat) (f : Frame) : Nat × Nat :=
  if (pendOf s core x (fun k => k == .remote || k == .zres)).isSome then (18, 0)
  else if (pendOf s core x (fun _ => true)).isSome then (0, 0)
  else (9, f.missing)

/-- The turn of a context: its block is fetched where it is not loaded, else the next instruction that can fire is executed; a
block in which everything has arrived commits, and any other waits (R191, R209, R253). -/
def ctTurn (core x : Nat) (s : State) : Host.Outcome State Fault Refusal :=
  let c := ctxOf s core x
  let f := frameOf s core x
  if !(c.st == .run || c.st == .held) || f.own != x + 1 then .next s
  else if !f.loaded then evTurn .blockFetch (ctxArg core x) s
  else match f.next with
  | some ix =>
    (match f.instr ix with
      | some i => runAs i (.ct core x ix) s
      | none => .next s)
  | none =>
    if f.complete then evTurn .blockCommit (ctxArg core x) s
    else
      let w := blockWait s core x f
      .next (ctHold s core x w.1 w.2)

/-- The turn of an element. -/
def elTurn (core n : Nat) (s : State) : Host.Outcome State Fault Refusal :=
  let t := elemTurn s (core * 4096 + n % 4096)
  match t.2 with
  | some i => exec i t.1
  | none => .next t.1

/-- The turn of a hearth core. -/
def hartDo (hc : Nat) (s : State) : Host.Outcome State Fault Refusal :=
  match hartTurn s hc with
  | .run i s => exec i s
  | .done s => .next s

/-- May a turn be taken before the module is READY (R426, R428)? Nothing executes then: only the controller, its ports and what a
reset or a power cycle begins. -/
def Turn.early : Turn → Bool
  | .ev i _ => match i with
    | .powerOn | .gtscAlign | .linkTrained | .linkDown | .retrainWindowExpiry | .linkRetrained | .portEnable | .portDisable
    | .portModeSet | .nodeidWrite | .timeSyncTick | .sensorSample | .coolantReport | .flowLoss | .histogramSave
    | .attestationRequest | .firmwareInstall | .moduleReset => true
    | _ => false
  | _ => false

/-- What a turn does. -/
def turnDo (t : Turn) (s : State) : Host.Outcome State Fault Refusal :=
  if s.dev.phase != .ready && !t.early then .next s
  else match t with
  | .ev i a => evTurn i a s
  | .ct core x => ctTurn core x s
  | .el core n => elTurn core n s
  | .hart hc => hartDo hc s
  | .err e => .next (bitError e s)

/-! ### Everything that could act -/

def ev (i : Instr) (a : EvArg) : Turn := .ev i a
/-- An event of a core's unit. -/
def evUnit (i : Instr) (core unit : Nat) : Turn :=
  .ev i { (default : EvArg) with core := BitVec.ofNat 8 core, unit := BitVec.ofNat 12 unit }
/-- An event of a die. -/
def evDie (i : Instr) (die : Nat) : Turn := .ev i { (default : EvArg) with die := BitVec.ofNat 2 die }
/-- An event of a numbered object. -/
def evNum (i : Instr) (n : Nat) : Turn := .ev i { (default : EvArg) with n := n }
/-- An event of a port. -/
def evPort (i : Instr) (p : Nat) : Turn := .ev i { (default : EvArg) with port := BitVec.ofNat 5 p }

/-- Turns of contexts: their own, and the steps that release, surrender, complete or time out. -/
def ctxTurns (s : State) : List Turn :=
  ((s.ctl.ctxs.filter (fun c => c.2.st != .free)).map (fun c =>
    let core := c.1 / 8
    let x := c.1 % 8
    Turn.ct core x :: [Instr.frameAllocate, .waitRelease, .idleTimeout, .frameSurrender, .tileRefIssue, .cfgldComplete, .regionDrainComplete,
      .invalidationComplete, .killDrainComplete, .remoteReplyTimeout].map (fun i => ev i (ctxArg core x)))).flatten

/-- Turns of elements: firing, swapping and every pull. -/
def elemTurns (s : State) : List Turn :=
  (s.fab.elems.map (fun e =>
    [Turn.el (e.1 / 4096) (e.1 % 4096), evNum .elementSwap e.1] ++
      (List.range 10).map (fun c => Turn.ev .channelPull { (default : EvArg) with n := e.1, unit := BitVec.ofNat 12 c }) ++
      (List.range 4).map (fun q => Turn.ev .channelPull { (default : EvArg) with n := e.1, unit := BitVec.ofNat 12 q, flag := true }))).flatten

/-- Turns of streams, banks, coalescing buffers, queues and walkers. -/
def memTurns (s : State) : List Turn :=
  ((s.sm.streams.filter (fun t => t.2.isOpen)).map (fun t =>
    [Instr.aguStreamAccess, .handToken, .rowAdd, .temperRead].map (fun i => evUnit i (t.1 / 256) (t.1 % 256)))).flatten ++
  ((s.st.banks.map (fun b => [Instr.bankPortGrant, .bankChangeReach, .bankChangeComplete].map (fun i => evUnit i (b.1 / 192) (b.1 % 192)))).flatten) ++
  s.sm.coal.map (fun c => evUnit .coalesceIdleFlush (c.1 / 64) (c.1 % 64)) ++
  ((s.qu.queues.map (fun q => (List.range 4).map (fun v => Turn.ev .spillRefill { (default : EvArg) with
    core := BitVec.ofNat 8 (q.1 / 64), unit := BitVec.ofNat 12 (q.1 % 64), sub := BitVec.ofNat 16 v }))).flatten) ++
  ((List.range 4).map (fun d => [evDie .walkSlotGrant d, evDie .walkComplete d])).flatten ++
  (s.xl.asids.filter (fun a => a.2.clearing)).map (fun a => Turn.ev .asidDisableDrained { (default : EvArg) with asid := BitVec.ofNat 8 a.1 })

/-- Turns of engines. -/
def engTurns (s : State) : List Turn :=
  s.eng.tmpls.map (fun t => evUnit .copyTriggerRecord (t.1 / 32) (t.1 % 32)) ++
  s.eng.copies.map (fun c => Turn.ev .copyComplete { (default : EvArg) with core := BitVec.ofNat 8 c.core, n := c.id }) ++
  s.eng.islands.map (fun i => evUnit .matrixTaskComplete i.1 0) ++
  s.eng.colls.map (fun c => Turn.ev .collectiveComplete { (default : EvArg) with core := BitVec.ofNat 8 c.core, n := c.id })

/-- Turns of regions, slots, notify pages and the Arbiters. -/
def regTurns (s : State) : List Turn :=
  ((s.rg.regions.map (fun r => [evNum .markerWaveComplete (r.1 + 1), evNum .regionRollback (r.1 + 1), evNum .regionPreempt (r.1 + 1)])).flatten) ++
  (s.rg.slots.map (fun g => [evUnit .segmentBudgetExpiry (g.1 / 4) (g.1 % 4), evUnit .stalemateCheck (g.1 / 4) (g.1 % 4)])).flatten ++
  ((s.rg.notify.filter (fun p => p.2.v && p.2.head != p.2.tail)).map (fun p =>
    [Instr.admitRegion, .admitTile, .admitHeap, .admitEvent].map (fun i => Turn.ev i { (default : EvArg) with
      die := BitVec.ofNat 2 (p.1 / 4096), unit := BitVec.ofNat 12 (p.1 % 4096) }))).flatten ++
  ((List.range 4).map (fun d => [Instr.arbiterPlaceRegion, .arbiterPlaceTile, .arbiterCounterPoll].map (fun i => evDie i d))).flatten

/-- Turns of zones, ports, debuggers and mailboxes. -/
def boxTurns (s : State) : List Turn :=
  ((s.zn.zones.filter (fun z => z.2.v)).map (fun z => (List.range (z.2.ns1.toNat + 1)).map (fun k =>
    Turn.ev .reservationTimeout { (default : EvArg) with
      core := BitVec.ofNat 8 (z.1 / 8), unit := BitVec.ofNat 12 (z.1 % 8), sub := BitVec.ofNat 16 k }))).flatten ++
  s.lnk.ports.map (fun p => evPort .retrainWindowExpiry p.1) ++
  s.ctl.replay.map (fun p => evPort .replayEntryExpiry p.1) ++
  s.ctl.dbga.map (fun d => evUnit .debugAreaRefill d.1 0) ++
  ((s.hth.eps.map (fun e => [evUnit .actionRecordAccept (e.1 / 16) (e.1 % 16), evUnit .flagFall (e.1 / 16) (e.1 % 16)])).flatten)

/-- Turns of the hearth cores, which run from reset (R401, R426). -/
def hartTurns : List Turn := (List.range 256).map Turn.hart

/-- Every turn that a READY module could take. -/
def allTurns (s : State) : List Turn :=
  ctxTurns s ++ elemTurns s ++ memTurns s ++ engTurns s ++ regTurns s ++ boxTurns s ++ hartTurns

/-- Did a turn change more than what an access that was held may touch: the caches of translation and of data, and the model's own
fields? -/
def moved (s t : State) : Bool :=
  s.dev != t.dev || s.mem != t.mem || s.qu != t.qu || s.ac != t.ac || s.zn != t.zn || s.sm != t.sm || s.eng != t.eng || s.fab != t.fab ||
    s.rg != t.rg || s.ctl != t.ctl || s.lnk != t.lnk || s.hth != t.hth || s.sim.agenda != t.sim.agenda || s.sim.out != t.sim.out ||
    s.xl.walks != t.xl.walks || s.xl.asids != t.xl.asids || s.st.banks != t.st.banks || s.st.tiles != t.st.tiles ||
    s.st.poison != t.st.poison || s.st.gated != t.st.gated

/-- Would a turn do something now? -/
def acts (s : State) (t : Turn) : Bool :=
  match turnDo t s with
  | .next u => !u.sim.stall && moved s u
  | _ => true

/-- The turns of a module that is not READY: start-up (R426). What it takes from outside, the samples, the reading counts, the node
number, the reference and its time, is free. -/
def startTurns (s : State) : List Turn × State :=
  if s.dev.phase != .off then ([], s)
  else if nodeId s = 0x3FF#10 then
    let f := freeN s
    let g := freeN f.2
    let h := freeN g.2
    ([.ev .powerOn { (default : EvArg) with node := BitVec.ofNat 10 f.1, n := g.1, flag := decide (h.1 % 2 = 1) }], h.2)
  else
    let f := free s
    ([.ev .gtscAlign { (default : EvArg) with v := f.1 }], f.2)

/-- A turn of which an access must wait is not taken: it stands among those that are held (R27, R42). -/
def holdTurn (t : Turn) (s : State) : Host.Outcome State Fault Refusal :=
  match turnDo t s with
  | .next u => if u.sim.stall then .next { s with sim.parked := s.sim.parked ++ [t] } else .next u
  | o => o

/-- The next turn: the first that the state names, else a free choice among those that would do something, the held ones among them,
else none. -/
def pick (s : State) : Option Turn × State :=
  match s.sim.agenda with
  | t :: r => (some t, { s with sim.agenda := r })
  | [] =>
    if s.dev.phase != .ready then
      let x := startTurns s
      (x.1.head?, x.2)
    else
      let ts := (allTurns s ++ s.sim.parked).filter (acts s)
      if ts.isEmpty then (none, s)
      else
        let f := freeN s
        let t := ts[f.1 % ts.length]?
        (t, { f.2 with sim.parked := t.elim f.2.sim.parked f.2.sim.parked.erase })

/-- A step takes 1 ns and a free number of nanoseconds more (log entry 3). -/
def tick (s : State) : State :=
  { s with
    dev.gtsc := s.dev.gtsc + BitVec.ofNat 64 (1 + Config.elapsed s.sim.freeIdx)
    sim.freeIdx := s.sim.freeIdx + 1 }

/-! ### A word in the place of the next instruction -/

/-- The bytes of a ply word at the pc of hearth core 0, which runs in M-mode. -/
def placePly (s : State) (w : BitVec 32) : State :=
  let h := hartOf s 0
  { s with
    mem := (bytesOfWord w).zipIdx.foldl (fun m b => Mem.put m (h.pc.toNat + b.2) b.1) s.mem
    hth.harts := s.hth.harts.set 0 { h with user := false, falls := [] }
    sim.agenda := [.hart 0] }

/-- A block of one control-thread word in frame 0 of core 0, whose context 0 runs it under ASID 0, with every operand arrived. -/
def placeCt (s : State) (w : BitVec 32) : State :=
  let i := decodeBytes (bytesOfWord w)
  let m := i.bind (·.form)
  let l : BitVec 32 := match m.bind (·.lsid) with
    | some l => 1#32 <<< l.toNat
    | none => 0#32
  let p : Word := if w.extractLsb' 23 2 = 2#2 then 0#64 else 1#64
  let f : Frame := { (default : Frame) with
    own := 1, loaded := true, words := [w], lsids := ~~~l
    opnd := [(0, some (some 0#64)), (1, some (some 0#64)), (2, some (some p))] }
  let c : Ctx := { (default : Ctx) with st := .run, frm := 0 }
  { s with
    ctl.ctxs := s.ctl.ctxs.set 0 c, ctl.frames := s.ctl.frames.set 0 f
    ctl.pend := s.ctl.pend.filter (fun y => !(y.core == 0 && y.ctx == 0))
    sim.agenda := [.ct 0 0] }

/-- A handler word as handler 0 of element 0 of core 0, in a segment of its slot, with a data token at the head of each queue. -/
def placeHandler (s : State) (w : Word) : State :=
  let g := (unpackHandler w).graph.toNat
  let t : QTok := { tok := 0#48, at_ := 0 }
  let e : Elem := { (default : Elem) with
    inq := [(0, [t]), (1, [t]), (2, [t]), (3, [t])], act := [(0, { (default : Handler) with present := true, word := w, rwt := 0x100#24 })]
    chm := [(0, 1)], seg := some g, enabled := 1#4 <<< g }
  let r : Region := { (default : Region) with rst := 2, w := 1, h := 1, slot := g, placed := true, members := [0] }
  { s with
    fab.elems := s.fab.elems.set 0 e, rg.regions := s.rg.regions.set 0 r
    rg.slots := s.rg.slots.set g { (default : GSlot) with rid := 1, live := true, loaded := true }
    sim.agenda := [.el 0 0] }

end Sys2Proof.Machine
end

