-- ==== Sys2Proof/Machine/Step.lean ====
section
/-! DEFINITION. One step of the machine, and the placing of a word where the next step fetches it. -/

namespace Sys2Proof.Machine

/-- One step: time passes, the next turn is picked, and it is taken or held; without one nothing happens. -/
def step (s : State) : Host.Outcome State Fault Refusal :=
  match pick (tick s) with
  | (some t, s) => holdTurn t s
  | (none, s) => .next s

/-- The state with a word where the next step fetches its instruction (log entry 2): a ply word at the pc of hearth core 0, a
control-thread word as the loaded block of context 0 of core 0, a handler word as a handler of element 0 of core 0. The turn is
named, and the module is READY, as it must be for anything to execute. -/
def State.withFetchWord (s : State) (nbits w : Nat) : State :=
  let s := { s with dev.phase := .ready, dev.aligned := true }
  if nbits ≤ 32 then
    if (decodePly (BitVec.ofNat 32 w)).isSome then placePly s (BitVec.ofNat 32 w) else placeCt s (BitVec.ofNat 32 w)
  else placeHandler s (BitVec.ofNat 64 w)

end Sys2Proof.Machine
end

