-- ==== Sys2Proof/Safety.lean ====
section
/-! DEFINITION. What counts as a safe run, and the situations that statements speak of: a context, an element or a hearth core that
executes an instruction, and what an instruction sends. -/

namespace Sys2Proof.Safety
open Sys2Proof.Machine

/-! ### Safe runs -/

/-- A state from which the next step goes on. -/
def GoesOn (s : State) : Prop := ∃ t, step s = .next t

/-- A state whose memory is in its canonical form. -/
def MemOk (s : State) : Prop := Mem.wf s.mem = true

/-- A run of n steps is safe: each step goes on. -/
def SafeRun : Nat → State → Prop
  | 0, _ => True
  | n + 1, s => ∃ t, step s = .next t ∧ SafeRun n t

/-! ### Turns -/

/-- The state in which the first turn that the state names is taken: time has passed, and `r` is left to come. -/
def taken (s : State) (r : List Turn) : State := { tick s with sim.agenda := r }

/-- What a step comes to whose turn, taken in `s`, answers `o`: where an access of it must wait, the turn stands among the held ones and
nothing else has happened (R27, R42). -/
def settled (t : Turn) (s : State) (o : Out) : Out :=
  match o with
  | .next u => if u.sim.stall then .next { s with sim.parked := s.sim.parked ++ [t] } else .next u
  | o => o

/-! ### Control threads -/

/-- Context x of a core executes instruction ix of the block in its frame (R190): the instruction has not fired. -/
structure CtAt (s : State) (core x ix : Nat) : Prop where
  cur : s.sim.cur = .ct core x ix
  active : (ctxOf s core x).st = .run ∨ (ctxOf s core x).st = .held
  own : (frameOf s core x).own = x + 1
  loaded : (frameOf s core x).loaded = true
  fresh : (frameOf s core x).gone ix = false

/-- The instruction fires on two operand tokens (R209): `left` and `right` say which inputs its form uses; an input that it does not
use counts as the value 0. -/
structure Fires (s : State) (core x ix : Nat) (p : BitVec 2) (left right : Bool) (l r : Tok) : Prop extends CtAt s core x ix where
  ready : (frameOf s core x).ready ix p left right = .on l r

/-- The instruction is predicated off (R210). -/
structure PredOff (s : State) (core x ix : Nat) (p : BitVec 2) (left right : Bool) : Prop extends CtAt s core x ix where
  ready : (frameOf s core x).ready ix p left right = .off

/-- The turn of a memory token has come: every lower LSID has completed, and its own has not (R142, R145). -/
structure Turns (s : State) (core x l : Nat) : Prop where
  below : (frameOf s core x).lsidsBelow l = true
  own : (frameOf s core x).lsidDone l = false

/-- The turn of a command has come: every LSID has completed, and no command of lower index can still fire (R280). -/
structure Commands (s : State) (core x ix : Nat) : Prop where
  mem : (frameOf s core x).memDone = true
  first : (frameOf s core x).commandBelow ix = false

/-- The instruction completes, and its token goes to its targets. -/
def token (s : State) (core x ix : Nat) (ts : List (BitVec 9)) (v : Tok) : Out := .next (ctDone s core x ix none (outsOf ts v))

/-- A memory token completes its LSID, and its token goes to its targets. -/
def tokenMem (s : State) (core x ix l : Nat) (ts : List (BitVec 9)) (v : Tok) : Out := .next (ctDone s core x ix (some l) (outsOf ts v))

/-- A command has been performed: the block can no longer be abandoned, and its token goes to its targets. -/
def performs (s : State) (core x ix : Nat) (ts : List (BitVec 9)) (v : Tok) : Out := .next (ctPerformed s core x ix (outsOf ts v))

/-- The tokens of an instruction are sent to a frame in order (R213): the frame that takes them all, or the first fault. -/
def puts (ix : Nat) : List (Nat × BitVec 9 × Tok) → Frame → Except Flt Frame
  | [], f => .ok f
  | (pos, t, v) :: r, f =>
    match f.put ix pos t v with
    | .ok g => puts ix r g
    | .error e => .error e

/-- The frame in which an instruction has fired. -/
def firedIn (f : Frame) (ix : Nat) : Frame :=
  { f with fired := f.fired ||| (1#64 <<< ix), issued := f.issued &&& ~~~(1#64 <<< ix) }

/-- The frame in which an LSID has completed. -/
def lsidIn (f : Frame) (l : Nat) : Frame := { f with lsids := f.lsids ||| (1#32 <<< l) }

/-- `t` is `s` but for the frame and the state of one context, which runs on. -/
structure FrameOnly (s t : State) (core x : Nat) : Prop where
  rest : t = { s with ctl.frames := t.ctl.frames, ctl.ctxs := t.ctl.ctxs }
  frames : ∀ k, k ≠ frameKey core (ctxOf s core x).frm → t.ctl.frames.at k = s.ctl.frames.at k
  ctxs : ∀ k, k ≠ ctxKey core x → t.ctl.ctxs.at k = s.ctl.ctxs.at k
  ctx : ctxOf t core x = { ctxOf s core x with st := .run, wcode := 0, widx := 0 }

/-- `t` is `s` but for what an access of memory changes: the bytes, the stores queued at bank ports, the caches, the gate, the poison
marks, the reservations of LR, the read counters of the stacks, the order stamps, and reports of lost sectors that wait. The canonical
form of memory is kept. -/
structure MemSide (s t : State) : Prop where
  rest : t = { s with
    mem := t.mem, st.banks := t.st.banks, st.cc := t.st.cc, st.l2 := t.st.l2, st.poison := t.st.poison, st.gated := t.st.gated
    st.lrs := t.st.lrs, dev.hbm := t.dev.hbm, sim.agenda := t.sim.agenda, sim.seqNo := t.sim.seqNo }
  wf : Mem.wf s.mem = true → Mem.wf t.mem = true
  banks : ∀ k, ∃ q, t.st.banks.at k = { s.st.banks.at k with queue := q }

/-- The access of a memory token passes alignment and translation, at a place of this module, and no walk or bank change holds it
(R27, R42, R254): it has a memory type and a physical address, and `t` is the state after the translation. -/
structure Reaches (s : State) (core x ix : Nat) (va : Word) (acc : Acc) (n : Nat) (mt : MType) (pa : Nat) (t : State) : Prop where
  passes : ctTranslate s core (ctxOf s core x) ix va acc n = (.at_ pa mt, t)
  here : ∀ q o, place pa ≠ .remote q o

/-- R144 lets an irrevocable access at an LSID be performed: every memory token of higher LSID has its operands, and passes its checks
or takes its fault later, the block having performed an irrevocable access already. `t` is the state after the checks. -/
def Allows (s : State) (core x l : Nat) (t : State) : Prop :=
  ∃ h, higherOk s core x l = (h, t) ∧ (h = .ok ∨ ∃ f, h = .flt f ∧ mustCommit t core x = true)

/-- The stores of a block below an LSID can be performed: none goes to a bank that changes its mode, or to one that has left SCRATCH
since the check (R42, R43). -/
def StoresPass (s : State) (core x l : Nat) : Prop :=
  ∀ p ∈ (frameOf s core x).stores, p.lsid < l → storeHeld s core (ctxOf s core x) p = false ∧ storeShut s p = false

/-- `u` is the state in which the stores of a block below an LSID stand performed: `s` where none waits; else the memory tokens above it
whose operands have come pass their checks, and the stores go first (R142, R143). -/
def AfterStores (s : State) (core x l : Nat) (u : State) : Prop :=
  (frameOf s core x).storesWait l = false ∧ u = s ∨
    (frameOf s core x).storesWait l = true ∧
      ∃ v, higherOk s core x l false = (.ok, v) ∧ StoresPass v core x l ∧ u = storesFirst v core x l

/-! ### Elements -/

/-- An element, by its key. -/
def elemIn (s : State) (key : Nat) : Elem := s.fab.elems.at key

/-- A handler of an element. -/
def handlerIn (s : State) (key hnd : Nat) : Handler := (elemIn s key).act.at hnd

/-- It is a handler's turn at its element, and the handler may fire its operation `op` (R187, R189, R321): the queues that the
operation needs now hold tokens bound to it, and the element, its slot and its result register are free for it. -/
structure Runs (s : State) (key hnd op : Nat) (h : HWord) : Prop where
  cur : s.sim.cur = .elem (elemCore key) (key % 4096) hnd
  fires : ∃ need, opNeed s (elemCore key) op h (elemIn s key) (handlerIn s key hnd) = some need ∧
    canFire s key hnd h need (opHeads s (elemCore key) op (elemIn s key) need) = true

/-- The handler fires on data: it awaits no weight token of a GAP, and no head of its FIRE queues is a control token. -/
structure OnData (s : State) (key hnd : Nat) (h : HWord) : Prop where
  gap : (handlerIn s key hnd).gapPend = false
  data : ∀ q ∈ fireQs h, ∀ t, (elemIn s key).head q = some t → tokC t = false

/-- The firing takes effect: what it consumes and sends, and the state of the handler, stand in `o`. -/
def fired (s : State) (key hnd op : Nat) (h : HWord) (o : Fire) : Out := .next (fireEnd s key hnd op h o)

end Sys2Proof.Safety
end

