-- ==== Sys2Proof/Certificates/Slice0/Obligations.lean ====
section
/-! DEFINITION. The statements for the provers: what the rules of the manual say the instructions and the machine do. -/

open Sys2Proof Sys2Proof.Machine Sys2Proof.Safety

/-- Memory after reset is in its canonical form, and every operation on memory keeps it (R3, R14, R15). -/
def Obligations.MemoryOperationsKeepForm : Prop :=
  Mem.wf State.reset.mem = true ∧
  ∀ m : List Host.Cell, Mem.wf m = true →
    (∀ a x, Mem.wf (Mem.put m a x) = true) ∧ (∀ a bs, Mem.wf (Mem.putN m a bs) = true) ∧
    (∀ bs : List (Nat × Byte), Mem.wf (bs.foldl (fun m b => Mem.put m b.1 b.2) m) = true) ∧
    (∀ a n, Mem.wf (Mem.clear m a n) = true)

/-- Bytes that were written are read back, and all other bytes read as before (R3). -/
def Obligations.MemoryReadsWhatWasWritten : Prop :=
  ∀ (m : List Host.Cell) (a : Nat) (bs : List Byte),
    Mem.getN (Mem.putN m a bs) a bs.length = bs ∧
    (∀ b, b < a ∨ a + bs.length ≤ b → Mem.get (Mem.putN m a bs) b = Mem.get m b) ∧
    (∀ n v, leNat (leBytes n v) = v % 256 ^ n)

/-- After reset every context, frame, queue, zone, set, stream, ring, region and port is as the manual gives for reset (R6,
R11, R190, R404, R426). -/
def Obligations.ResetContexts : Prop :=
  (∀ core x, (ctxOf State.reset core x).st = .free ∧ (ctxOf State.reset core x).evf = false ∧ (ctxOf State.reset core x).link = []) ∧
  (∀ core x, (frameOf State.reset core x).own = 0) ∧
  (∀ k, (State.reset.qu.queues.at k).v = false) ∧ (∀ k, (State.reset.zn.zones.at k).v = false) ∧
  (∀ k, (State.reset.ac.sets.at k).v = false) ∧ (∀ k, (State.reset.eng.rings.at k).v = false) ∧
  (∀ k, (State.reset.eng.tmpls.at k).v = false) ∧ (∀ k, (State.reset.sm.own.at k).v = false) ∧
  (∀ k, (State.reset.xl.wins.at k).v = false) ∧ (∀ k, (State.reset.sm.streams.at k).isOpen = false) ∧
  (∀ k, (State.reset.rg.slots.at k).live = false) ∧
  (∀ k, (State.reset.xl.asids.at k).v = false ∧ (State.reset.xl.asids.at k).gen = 0#16) ∧
  (∀ k, (State.reset.st.banks.at k).mode = .scratch) ∧ (∀ k, (State.reset.st.tiles.at k).sz = 0#5 ∧ (State.reset.st.tiles.at k).st = .empty) ∧
  (∀ k, (State.reset.hth.eps.at k).v = false) ∧ State.reset.dev.phase = .off ∧ State.reset.dev.gtsc = 0#64

/-- Every well-formed instruction decodes from its own encoding, as a 32-bit word or a handler word (R212, R216, R219, R221,
R412). -/
def Obligations.EncodingsDecode : Prop :=
  ∀ i : Instr, i.wf = true →
    (∀ w, encodeWord i = some w → decodeTableWord 32 w.toNat = some i) ∧
    (∀ w, encodeHandler i = some w → decodeTableWord 64 w.toNat = some i) ∧
    (i.form.isSome = true → (encodeWord i).isSome = true) ∧ ((handlerOp i).isSome = true → (encodeHandler i).isSome = true)

/-- Words written out from the encoding tables decode to the instructions they stand for (R231, R236, R239, R244, R412). -/
def Obligations.WrittenWordsDecode : Prop :=
  decodeTableWord 32 0x02000785 = some (.add 0#2 0x003#9 0x185#9) ∧
  decodeTableWord 32 0x22246801 = some (.movc 0x1234#16 0x001#9) ∧
  decodeTableWord 32 0x24ACF002 = some (.movh 0x5678#16 0x002#9) ∧
  decodeTableWord 32 0x25357803 = some (.movh 0x9ABC#16 0x003#9) ∧
  decodeTableWord 32 0x25BDE184 = some (.movh 0xDEF0#16 0x184#9) ∧
  decodeTableWord 32 0b11110000000100000000000000000011 = some (.br 0#2 1#3 3#20) ∧
  decodeTableWord 32 0b00000000011100110000001010001011 = some (.plySend 7#5 6#5 5#5)

/-- A zero word, a word of all ones, and a word of an unassigned OP or a PR of 3 decode to nothing (R214, R216, R218, R219).
-/
def Obligations.UnassignedWordsRefused : Prop :=
  decodeWord 0#32 = .error .illword ∧ decodeWord 0xFFFFFFFF#32 = .error .illword ∧
  (∀ w : BitVec 32, w ≠ 0#32 → w.extractLsb' 25 7 = 0#7 → decodeWord w = .error .badop) ∧
  (∀ w : BitVec 32, w.extractLsb' 25 7 = 0x7E#7 → decodeWord w = .error .badop) ∧
  (∀ w : BitVec 32, w.extractLsb' 25 7 = 1#7 → 10 ≤ (w.extractLsb' 18 5).toNat → decodeWord w = .error .badxop) ∧
  (∀ w : BitVec 32, w.extractLsb' 25 7 = 1#7 → (w.extractLsb' 18 5).toNat < 10 → w.extractLsb' 23 2 = 3#2 →
    decodeWord w = .error .badpr) ∧
  decodeHandler 0#64 = none ∧ decodeHandler 0xFFFFFFFFFFFFFFFF#64 = none

/-- A step executes the instruction that stands next: a context's word, an element's handler, a hearth core's ply word (R209,
R217, R412). -/
def Obligations.StepRunsDecodedInstruction : Prop :=
  (∀ s core x r ix i, s.sim.agenda = .ct core x :: r → s.dev.phase = .ready →
    ((ctxOf s core x).st = .run ∨ (ctxOf s core x).st = .held) → (frameOf s core x).own = x + 1 →
    (frameOf s core x).loaded = true → (frameOf s core x).next = some ix → (frameOf s core x).instr ix = some i →
    step s = settled (.ct core x) (taken s r) (runAs i (.ct core x ix) (taken s r))) ∧
  (∀ s hc r i t, s.sim.agenda = .hart hc :: r → s.dev.phase = .ready →
    hartTurn (taken s r) hc = .run i t → step s = settled (.hart hc) (taken s r) (exec i t)) ∧
  (∀ s core n r i t, s.sim.agenda = .el core n :: r → s.dev.phase = .ready →
    elemTurn (taken s r) (core * 4096 + n % 4096) = (t, some i) → step s = settled (.el core n) (taken s r) (exec i t)) ∧
  (∀ s i a r, s.sim.agenda = .ev i a :: r → s.dev.phase = .ready →
    step s = settled (.ev i a) (taken s r) (evTurn i a (taken s r)))

/-- Every instruction answers a next state, every step goes on, and every run is safe (R401, R412). -/
def Obligations.EveryStepGoesOn : Prop :=
  (∀ i s, ∃ t, exec i s = .next t) ∧ (∀ s, GoesOn s) ∧ ∀ n s, SafeRun n s

/-- An instruction fires when every input it uses holds a token and its predicate selects it (R209). -/
def Obligations.FiringRule : Prop :=
  (∀ (f : Frame) (ix : Nat) (p : BitVec 2) (left right : Bool),
    (∀ l r, f.ready ix p left right = .on l r ↔
      (p = 0#2 ∨ ∃ v : Word, f.input ix 2 = some (some v) ∧ v.getLsbD 0 = (p == 1#2)) ∧
      (if left then f.input ix 0 = some l else l = some 0#64) ∧ (if right then f.input ix 1 = some r else r = some 0#64)) ∧
    (f.ready ix p left right = .off ↔
      p ≠ 0#2 ∧ (f.input ix 2 = some none ∨ ∃ v : Word, f.input ix 2 = some (some v) ∧ v.getLsbD 0 ≠ (p == 1#2)))) ∧
  (∀ i m s core x ix, i.form = some m → s.sim.cur = .ct core x ix → (frameOf s core x).gone ix = true → exec i s = .next s) ∧
  (∀ (i : Instr) m, i.form = some m → (∃ c t, i = .movc c t ∨ i = .movh c t) → m.pr = 0#2)

/-- A form that is predicated off sends only null writes to hold and queue targets, and completes its LSID (R210, R145). -/
def Obligations.PredicatedOff : Prop :=
  ∀ i m s core x ix, i.form = some m → CtAt s core x ix → (frameOf s core x).readyOf ix i = .off →
    exec i s = .next (ctDone s core x ix (match i with
      | .nulls .. => none
      | _ => m.lsid.map (·.toNat))
      ((outsOf m.targets none).filter (fun o => tgtHeld o.2.1)))

/-- A form whose tokens have not come leaves the state as it is (R209). -/
def Obligations.WaitingChangesNothing : Prop :=
  ∀ i m s core x ix, i.form = some m → CtAt s core x ix → (frameOf s core x).readyOf ix i = .wait → exec i s = .next s

/-- A form that fires with a null operand performs nothing, sends nulls, and completes its LSID (R210, R227, R246, R253,
R280). -/
def Obligations.NullOperands : Prop :=
  ∀ i m s core x ix l r, i.form = some m → CtAt s core x ix → (frameOf s core x).readyOf ix i = .on l r → (l = none ∨ r = none ∧ ∀ p t u, i ≠ .acadd p t u) →
    (∀ p t u n, i ≠ .sel p t u ∧ i ≠ .nulls p t n) →
    exec i s = .next (ctDone s core x ix (m.lsid.map (·.toNat)) (outsOf m.targets none))

/-- A control-thread form that no context executes leaves the state (R190, R209). -/
def Obligations.OtherAgentsLeaveTheState : Prop :=
  ∀ i m s, i.form = some m → (∀ core x ix, s.sim.cur = .ct core x ix →
      (ctxOf s core x).st ≠ .run ∧ (ctxOf s core x).st ≠ .held ∨ (frameOf s core x).own ≠ x + 1 ∨ (frameOf s core x).loaded = false) →
    exec i s = .next s

/-- The arithmetic group: sums, products and their high halves, saturation, minima and maxima (R231). -/
def Obligations.ArithmeticGroup : Prop :=
  ∀ s core x ix p t u (a b : Word), Fires s core x ix p true true (some a) (some b) →
    exec (.add p t u) s = token s core x ix [t, u] (some (a + b)) ∧ exec (.sub p t u) s = token s core x ix [t, u] (some (a - b)) ∧
    exec (.mul p t u) s = token s core x ix [t, u] (some (a * b)) ∧
    exec (.mulh p t u) s = token s core x ix [t, u] (some ((a.signExtend 128 * b.signExtend 128).extractLsb' 64 64)) ∧
    exec (.mulhn p t u) s = token s core x ix [t, u] (some ((a.setWidth 128 * b.setWidth 128).extractLsb' 64 64)) ∧
    exec (.adds p t u) s = token s core x ix [t, u] (some (if a.toInt + b.toInt < -2 ^ 63 then 0x8000000000000000#64
      else if 2 ^ 63 ≤ a.toInt + b.toInt then 0x7FFFFFFFFFFFFFFF#64 else a + b)) ∧
    exec (.min p t u) s = token s core x ix [t, u] (some (if a.toInt ≤ b.toInt then a else b)) ∧
    exec (.max p t u) s = token s core x ix [t, u] (some (if b.toInt ≤ a.toInt then a else b)) ∧
    exec (.minn p t u) s = token s core x ix [t, u] (some (if a.toNat ≤ b.toNat then a else b)) ∧
    exec (.maxn p t u) s = token s core x ix [t, u] (some (if b.toNat ≤ a.toNat then a else b))

/-- The division group: every case has the result of R232, and quotient and remainder recombine (R232). -/
def Obligations.DivisionGroup : Prop :=
  ∀ s core x ix p t u (a b : Word), Fires s core x ix p true true (some a) (some b) →
    exec (.divs p t u) s = token s core x ix [t, u] (some (if b = 0#64 then 0xFFFFFFFFFFFFFFFF#64
      else if a.toInt = -2 ^ 63 ∧ b.toInt = -1 then a else BitVec.ofInt 64 (a.toInt.tdiv b.toInt))) ∧
    exec (.rems p t u) s = token s core x ix [t, u] (some (if b = 0#64 then a
      else if a.toInt = -2 ^ 63 ∧ b.toInt = -1 then 0#64 else BitVec.ofInt 64 (a.toInt - a.toInt.tdiv b.toInt * b.toInt))) ∧
    exec (.divn p t u) s = token s core x ix [t, u] (some (if b = 0#64 then 0xFFFFFFFFFFFFFFFF#64 else BitVec.ofNat 64 (a.toNat / b.toNat))) ∧
    exec (.remn p t u) s = token s core x ix [t, u] (some (if b = 0#64 then a else BitVec.ofNat 64 (a.toNat % b.toNat))) ∧
    (b ≠ 0#64 → ¬(a.toInt = -2 ^ 63 ∧ b.toInt = -1) → ∃ q r : Word,
      exec (.divs p t u) s = token s core x ix [t, u] (some q) ∧ exec (.rems p t u) s = token s core x ix [t, u] (some r) ∧
      a.toInt = q.toInt * b.toInt + r.toInt ∧ r.toInt.natAbs < b.toInt.natAbs ∧ (r.toInt ≠ 0 → (r.toInt < 0 ↔ a.toInt < 0))) ∧
    (∀ w : BitVec 32, w.extractLsb' 25 7 = 2#7 → 4 ≤ (w.extractLsb' 18 5).toNat → decodeWord w = .error .badxop)

/-- The logic group acts bit by bit (R233). -/
def Obligations.LogicGroup : Prop :=
  ∀ s core x ix p t u (a b : Word), Fires s core x ix p true true (some a) (some b) →
    (∃ v : Word, exec (.and p t u) s = token s core x ix [t, u] (some v) ∧ ∀ i, v.getLsbD i = (a.getLsbD i && b.getLsbD i)) ∧
    (∃ v : Word, exec (.or p t u) s = token s core x ix [t, u] (some v) ∧ ∀ i, v.getLsbD i = (a.getLsbD i || b.getLsbD i)) ∧
    (∃ v : Word, exec (.xor p t u) s = token s core x ix [t, u] (some v) ∧ ∀ i, v.getLsbD i = (a.getLsbD i ^^ b.getLsbD i)) ∧
    (∃ v : Word, exec (.andn p t u) s = token s core x ix [t, u] (some v) ∧
      ∀ i, i < 64 → v.getLsbD i = (a.getLsbD i && !b.getLsbD i)) ∧
    (∀ w : BitVec 32, w.extractLsb' 25 7 = 3#7 → 4 ≤ (w.extractLsb' 18 5).toNat → decodeWord w = .error .badxop)

/-- The shift group shifts by bits 5 to 0 of the right operand (R234). -/
def Obligations.ShiftGroup : Prop :=
  ∀ s core x ix p t u (a b : Word), Fires s core x ix p true true (some a) (some b) →
    (let n := b.toNat % 64
    (∃ v : Word, exec (.shl p t u) s = token s core x ix [t, u] (some v) ∧
      ∀ i, i < 64 → v.getLsbD i = (decide (n ≤ i) && a.getLsbD (i - n))) ∧
    (∃ v : Word, exec (.shr p t u) s = token s core x ix [t, u] (some v) ∧ ∀ i, v.getLsbD i = a.getLsbD (i + n)) ∧
    (∃ v : Word, exec (.sha p t u) s = token s core x ix [t, u] (some v) ∧
      ∀ i, i < 64 → v.getLsbD i = (if i + n < 64 then a.getLsbD (i + n) else a.getLsbD 63)) ∧
    (∃ v : Word, exec (.rol p t u) s = token s core x ix [t, u] (some v) ∧ ∀ i, i < 64 → v.getLsbD i = a.getLsbD ((i + 64 - n) % 64))) ∧
    (∀ w : BitVec 32, w.extractLsb' 25 7 = 4#7 → 4 ≤ (w.extractLsb' 18 5).toNat → decodeWord w = .error .badxop)

/-- clz, ctz and popc count bits, mov, sext and zext pass their operand or extend it, and bfx and bfi take and place a field
(R235, R236, R238). -/
def Obligations.UnaryAndFieldForms : Prop :=
  (∀ s core x ix p t u (a : Word), Fires s core x ix p true false (some a) (some 0#64) →
    (∃ n : Nat, n ≤ 64 ∧ exec (.clz p t u) s = token s core x ix [t, u] (some (BitVec.ofNat 64 n)) ∧ (n = 64 ↔ a = 0#64) ∧
      (n < 64 → a.getLsbD (63 - n) = true) ∧ ∀ i, 64 - n ≤ i → a.getLsbD i = false) ∧
    (∃ n : Nat, n ≤ 64 ∧ exec (.ctz p t u) s = token s core x ix [t, u] (some (BitVec.ofNat 64 n)) ∧ (n = 64 ↔ a = 0#64) ∧
      (n < 64 → a.getLsbD n = true) ∧ ∀ i, i < n → a.getLsbD i = false) ∧
    exec (.popc p t u) s = token s core x ix [t, u] (some (BitVec.ofNat 64 ((List.range 64).filter (fun i => a.getLsbD i)).length)) ∧
    exec (.mov p t u) s = token s core x ix [t, u] (some a) ∧
    (∀ w : BitVec 2, w ≠ 3#2 → (∃ v : Word, exec (.sext p w t u) s = token s core x ix [t, u] (some v) ∧
        v.toInt = (a.setWidth (8 * 2 ^ w.toNat)).toInt) ∧
      (∃ v : Word, exec (.zext p w t u) s = token s core x ix [t, u] (some v) ∧ v.toNat = a.toNat % 2 ^ (8 * 2 ^ w.toNat)))) ∧
  (∀ s core x ix p t (q w : BitVec 6) (a b : Word), q.toNat + w.toNat + 1 ≤ 64 →
    (Fires s core x ix p true false (some a) (some 0#64) →
      ∃ v : Word, exec (.bfx p q w t) s = token s core x ix [t] (some v) ∧
        ∀ i, v.getLsbD i = (decide (i ≤ w.toNat) && a.getLsbD (q.toNat + i))) ∧
    (Fires s core x ix p true true (some a) (some b) →
      ∃ v : Word, exec (.bfi p q w t) s = token s core x ix [t] (some v) ∧
        ∀ i, v.getLsbD i = (if q.toNat ≤ i ∧ i ≤ q.toNat + w.toNat then b.getLsbD (i - q.toNat) else a.getLsbD i)))

/-- The immediate and constant forms, the immediate tests and the predicate group (R237, R239, R242, R243). -/
def Obligations.ImmediateForms : Prop :=
  (∀ s core x ix p t (a : Word) (k : BitVec 14) (n : BitVec 6), Fires s core x ix p true false (some a) (some 0#64) →
    exec (.addi p k t) s = token s core x ix [t] (some (a + k.signExtend 64)) ∧
    exec (.muli p k t) s = token s core x ix [t] (some (a * k.signExtend 64)) ∧
    exec (.andi p k t) s = token s core x ix [t] (some (a &&& k.signExtend 64)) ∧
    exec (.ori p k t) s = token s core x ix [t] (some (a ||| k.setWidth 64)) ∧
    exec (.xori p k t) s = token s core x ix [t] (some (a ^^^ k.setWidth 64)) ∧
    exec (.shli p n t) s = token s core x ix [t] (some (a <<< n.toNat)) ∧
    exec (.shri p n t) s = token s core x ix [t] (some (a >>> n.toNat)) ∧
    exec (.shai p n t) s = token s core x ix [t] (some (a.sshiftRight n.toNat))) ∧
  (∀ s core x ix t (c : BitVec 16), Fires s core x ix 0#2 false false (some 0#64) (some 0#64) →
    exec (.movc c t) s = token s core x ix [t] (some (c.signExtend 64))) ∧
  (∀ s core x ix t (c : BitVec 16) (a : Word), Fires s core x ix 0#2 true false (some a) (some 0#64) →
    exec (.movh c t) s = token s core x ix [t] (some ((a <<< 16) ||| c.setWidth 64))) ∧
  (∀ s core x ix p t (a : Word) (k : BitVec 14), Fires s core x ix p true false (some a) (some 0#64) →
    exec (.teqi p k t) s = token s core x ix [t] (some (if a = k.signExtend 64 then 1#64 else 0#64)) ∧
    exec (.tlti p k t) s = token s core x ix [t] (some (if a.toInt < k.toInt then 1#64 else 0#64)) ∧
    exec (.tltni p k t) s = token s core x ix [t] (some (if a.toNat < k.toNat then 1#64 else 0#64))) ∧
  (∀ s core x ix p t u (a b : Word), Fires s core x ix p true true (some a) (some b) →
    exec (.pand p t u) s = token s core x ix [t, u] (some (if a.toNat % 2 = 1 ∧ b.toNat % 2 = 1 then 1#64 else 0#64)) ∧
    exec (.por p t u) s = token s core x ix [t, u] (some (if a.toNat % 2 = 1 ∨ b.toNat % 2 = 1 then 1#64 else 0#64))) ∧
  (∀ s core x ix p t u (a : Word), Fires s core x ix p true false (some a) (some 0#64) →
    exec (.pnot p t u) s = token s core x ix [t, u] (some (if a.toNat % 2 = 1 then 0#64 else 1#64)))

/-- The register tests send 1 where their condition holds and 0 where it does not (R241). -/
def Obligations.RegisterTests : Prop :=
  ∀ s core x ix p t u (a b : Word), Fires s core x ix p true true (some a) (some b) →
    exec (.teq p t u) s = token s core x ix [t, u] (some (if a = b then 1#64 else 0#64)) ∧
    exec (.tne p t u) s = token s core x ix [t, u] (some (if a ≠ b then 1#64 else 0#64)) ∧
    exec (.tlt p t u) s = token s core x ix [t, u] (some (if a.toInt < b.toInt then 1#64 else 0#64)) ∧
    exec (.tle p t u) s = token s core x ix [t, u] (some (if a.toInt ≤ b.toInt then 1#64 else 0#64)) ∧
    exec (.tltn p t u) s = token s core x ix [t, u] (some (if a.toNat < b.toNat then 1#64 else 0#64)) ∧
    exec (.tlen p t u) s = token s core x ix [t, u] (some (if a.toNat ≤ b.toNat then 1#64 else 0#64)) ∧
    (∀ w : BitVec 32, w.extractLsb' 25 7 = 0x18#7 → 6 ≤ (w.extractLsb' 18 5).toNat → decodeWord w = .error .badxop)

/-- rdh reads the hold register of the start of the block; sel joins; nullw and nulls supply nulls (R240, R250, R251, R252).
-/
def Obligations.JoinsAndHolds : Prop :=
  (∀ s core x ix p t u (h : BitVec 5), Fires s core x ix p false false (some 0#64) (some 0#64) →
    exec (.rdh p h t u) s = token s core x ix [t, u] (some ((ctxOf s core x).h.at h.toNat))) ∧
  (∀ s core x ix p t u v, CtAt s core x ix →
    (p = 0#2 ∨ ∃ q : Word, (frameOf s core x).input ix 2 = some (some q) ∧ q.getLsbD 0 = (p == 1#2)) →
    ((frameOf s core x).input ix 0 = some v ∧ ((frameOf s core x).input ix 1 = none ∨ (frameOf s core x).rightFirst.getLsbD ix = false) ∨
      (frameOf s core x).input ix 1 = some v ∧ ((frameOf s core x).input ix 0 = none ∨ (frameOf s core x).rightFirst.getLsbD ix = true)) →
    exec (.sel p t u) s = token s core x ix [t, u] v) ∧
  (∀ s core x ix p t u, Fires s core x ix p false false (some 0#64) (some 0#64) → exec (.nullw p t u) s = token s core x ix [t, u] none) ∧
  (∀ s core x ix p t l, Fires s core x ix p false false (some 0#64) (some 0#64) →
    exec (.nulls p t l) s = tokenMem s core x ix l.toNat [t] none)

/-- A token goes to the input its target names; a second one is BADOPND; hold writes follow BADHOLD (R211, R213, R208). -/
def Obligations.TokenDelivery : Prop :=
  (∀ (ts : List (BitVec 9)) (f : Frame) ix v, ts.Pairwise (· ≠ ·) →
    (∀ t ∈ ts, tgtClass t < 3 ∧ f.opnd.at (4 * tgtNum t + tgtClass t) = none) →
    ∃ g, puts ix (outsOf ts v) f = .ok g ∧ g = { f with opnd := g.opnd, rightFirst := g.rightFirst } ∧
      (∀ t ∈ ts, g.input (tgtNum t) (tgtClass t) = some v) ∧
      (∀ k, (∀ t ∈ ts, k ≠ 4 * tgtNum t + tgtClass t) → g.opnd.at k = f.opnd.at k) ∧
      ∀ n, n < 64 → (∀ t ∈ ts, ¬(tgtClass t = 1 ∧ tgtNum t = n)) → g.rightFirst.getLsbD n = f.rightFirst.getLsbD n) ∧
  (∀ (f : Frame) ix pos t v,
    (tgtClass t < 3 → f.opnd.at (4 * tgtNum t + tgtClass t) ≠ none → f.put ix pos t v = .error (dataFlt 0x16 (tgtNum t))) ∧
    (tgtClass t = 1 → tgtNum t < 64 → f.opnd.at (4 * tgtNum t + 1) = none →
      ∃ g, f.put ix pos t v = .ok g ∧ g.rightFirst.getLsbD (tgtNum t) = (f.rightFirst.getLsbD (tgtNum t) || (f.input (tgtNum t) 0).isNone)) ∧
    (tgtClass t = 3 → tgtNum t < 32 → f.filled (tgtNum t) = false → f.holds.length < Hdr.nw f.hdr →
      (v = none ∨ ∀ h ∈ f.holds, h.1 = tgtNum t → h.2 = none) → f.put ix pos t v = .ok { f with holds := f.holds ++ [(tgtNum t, v)] }) ∧
    (tgtClass t = 3 → tgtNum t < 32 →
      (Hdr.nw f.hdr ≤ f.holds.length ∨ v ≠ none ∧ ∃ h ∈ f.holds, h.1 = tgtNum t ∧ h.2 ≠ none) →
      f.put ix pos t v = .error (dataFlt 0x17 ix)) ∧
    (tgtClass t = 3 → tgtNum t = 32 → f.put ix pos t v = .ok f) ∧
    (tgtClass t = 3 → 64 ≤ tgtNum t → f.put ix pos t v = .ok { f with qwrites := f.qwrites ++ [(ix, pos, tgtNum t - 64, v)] }))

/-- An instruction that sends tokens changes its block's frame and its context's state, and nothing else (R208, R209, R213).
-/
def Obligations.TokenFrame : Prop :=
  (∀ s core x ix ts v g, puts ix (outsOf ts v) (firedIn (frameOf s core x) ix) = .ok g →
    ∃ t, token s core x ix ts v = .next t ∧ frameOf t core x = g ∧ FrameOnly s t core x ∧ ∀ a, Mem.get t.mem a = Mem.get s.mem a) ∧
  (∀ s core x ix l ts v g, (frameOf s core x).lsidDone l = false →
    puts ix (outsOf ts v) (lsidIn (firedIn (frameOf s core x) ix) l) = .ok g →
    ∃ t, tokenMem s core x ix l ts v = .next t ∧ frameOf t core x = g ∧ FrameOnly s t core x ∧ ∀ a, Mem.get t.mem a = Mem.get s.mem a)

/-- A dataflow fault traps the context at its block, or waits for the boundary after an irrevocable access (R211, R144, R376,
R377). -/
def Obligations.TokenFaults : Prop :=
  ∀ s core x ix t v, tgtClass t < 3 → (frameOf s core x).opnd.at (4 * tgtNum t + tgtClass t) ≠ none →
    (mustCommit s core x = false →
      token s core x ix [t] v = .next (takeTrap (ctFired s core x ix) core x (dataFlt 0x16 (tgtNum t)) (ctxOf s core x).blk none)) ∧
    (mustCommit s core x = true → (frameOf s core x).defer = none →
      ∃ u, token s core x ix [t] v = .next u ∧ FrameOnly s u core x ∧
        frameOf u core x = { firedIn (frameOf s core x) ix with defer := some (dataFlt 0x16 (tgtNum t)) })

/-- Taking an exception writes FLTREC, makes the context WAIT with WCODE 0 and WIDX the code, and releases its frame (R377,
R379, R381). -/
def Obligations.TrapEntry : Prop :=
  (∀ s core x f (b : BitVec 55) prog, (s.ctl.tsup.at core).v = false → (ctxOf s core x).asid = 0#8 → (frameOf s core x).commits = [] →
    let c := ctxOf s core x
    let t := takeTrap s core x f b prog
    ctxOf t core x = { c with
      flt0 := fltWord0 f c.exitIx prog, flt1 := b.setWidth 64, flt2 := f.addr, flt3 := s.dev.gtsc
      st := .wait, wcode := 0, widx := f.code, blk := b, resume := none } ∧
    (∀ k, k ≠ ctxKey core x → t.ctl.ctxs.at k = s.ctl.ctxs.at k) ∧
    (∀ k, k < 4 → (t.ctl.frames.at (frameKey core k)).own ≠ x + 1) ∧
    (∀ k, (s.ctl.frames.at k).own ≠ x + 1 → t.ctl.frames.at k = s.ctl.frames.at k) ∧
    (∀ w ∈ t.ctl.pend, ¬(w.core = core ∧ w.ctx = x)) ∧
    t.rg = s.rg ∧ t.qu = s.qu ∧ t.xl = s.xl ∧ t.zn = s.zn ∧ t.fab = s.fab) ∧
  (∀ (f : Flt) (exit : Nat) (prog : Option Nat), f.cls < 16 → f.xst < 16 → f.code < 256 → f.idx < 128 → exit < 8 → (∀ p, prog = some p → p < 32) →
    let w := fltWord0 f exit prog
    (w.extractLsb' 60 4).toNat = f.cls ∧ (w.extractLsb' 56 4).toNat = f.xst ∧ (w.extractLsb' 48 8).toNat = f.code ∧
    (w.extractLsb' 41 7).toNat = f.idx ∧ (w.extractLsb' 38 3).toNat = exit ∧ w.getLsbD 37 = prog.isSome ∧
    (w.extractLsb' 32 5).toNat = prog.getD 0 ∧ w.extractLsb' 0 32 = 0#32)

/-- A return from an exception makes the trapped context READY at BLK, and changes nothing of any other context (R381). -/
def Obligations.TrapReturn : Prop :=
  ∀ s core me (l : Word),
    let x := l.toNat % 8
    let c := ctxOf s core x
    let t := returnTrap s core me l
    (l.toNat < 8 → c.st = .wait → c.wcode = 0 →
      ctxOf t core x = { c with
        st := .ready, wcode := 0, widx := 0, since := s.sim.seqNo, blk := c.flt1.setWidth 55
        resume := if (c.flt0.extractLsb' 60 4).toNat ≤ 3 ∧ c.flt0.getLsbD 37 = true ∧ c.flt1.setWidth 55 = c.blk
          then some (c.flt0.extractLsb' 32 5).toNat else none } ∧
      (∀ k, k ≠ ctxKey core x → t.ctl.ctxs.at k = s.ctl.ctxs.at k) ∧ t.mem = s.mem) ∧
    (8 ≤ l.toNat ∨ c.st ≠ .wait ∨ c.wcode ≠ 0 → t.ctl.ctxs = s.ctl.ctxs)

/-- setctx, inval, kill, dsnap, eret and idle fault PRIV under any ASID but 0 (R282). -/
def Obligations.PrivilegedForms : Prop :=
  ∀ s core x ix p t u a b i, (ctxOf s core x).asid ≠ 0#8 → mustCommit s core x = false →
    (Fires s core x ix p true false (some a) (some b) ∧ (i = .eret p ∨ i = .idle p t u ∨ i = .kill p t u) ∨
      Fires s core x ix p true true (some a) (some b) ∧ (i = .setctx p t u ∨ i = .inval p t u ∨ i = .dsnap p t u)) →
    exec i s = .next (takeTrap (ctFired s core x ix) core x (dataFlt 0x1B ix) (ctxOf s core x).blk none)

/-- An exit names the next block; a second one is BADEXIT (R211, R212, R245, R246, R247). -/
def Obligations.Exits : Prop :=
  ∀ s core x ix p (e : BitVec 3) (o : BitVec 20) (a : Word) i (n : Word),
    (Fires s core x ix p false false (some 0#64) (some 0#64) ∧
        ((i = .br p e o ∨ i = .call p e o) ∧ n = (ctxOf s core x).blk.setWidth 64 + 4#64 * o.signExtend 64 ∨ i = .ret p e ∧ n = 0#64) ∨
      Fires s core x ix p true false (some a) (some 0#64) ∧ (i = .brt p e ∨ i = .callt p e) ∧ n = a) →
    ((frameOf s core x).exit = none →
      ∃ t, exec i s = .next t ∧ FrameOnly s t core x ∧ frameOf t core x = { firedIn (frameOf s core x) ix with exit := some (ix, n) } ∧
        ∀ b, Mem.get t.mem b = Mem.get s.mem b) ∧
    ((frameOf s core x).exit ≠ none → mustCommit s core x = false →
      exec i s = .next (takeTrap (ctFired s core x ix) core x (dataFlt 0x18 ix) (ctxOf s core x).blk none))

/-- A load delivers the bytes at its address, extended as its form says, and completes its LSID (R144, R163, R254, R255, R258,
R259). -/
def Obligations.Loads : Prop :=
  ∀ s core x ix p (l : BitVec 5) (k : BitVec 9) (c : BitVec 3) (t : BitVec 9) (a : Word) mt pa s1 s0 bs s2,
    Fires s core x ix p true false (some a) (some 0#64) → Turns s core x l.toNat →
    (mt ≠ .dev ∧ s0 = s1 ∨ mt = .dev ∧ Allows s1 core x l.toNat s0) →
    let at_ (n : Nat) : Prop := Reaches s core x ix (a + k.signExtend 64 * BitVec.ofNat 64 n) .load n mt pa s1 ∧
      ctRead s0 core x l.toNat mt pa n false = (some bs, s2)
    let mark (u : State) : State := if mt = .dev then setIrrev u core x else u
    let gives (i : Instr) (v : Word) : Prop := exec i s = tokenMem (mark s2) core x ix l.toNat [t] (some v)
    let v := leWord bs
    (at_ 1 → gives (.ldb p l k t) ((v.setWidth 8).setWidth 64) ∧ gives (.ldbs p l k t) ((v.setWidth 8).signExtend 64)) ∧
    (at_ 2 → gives (.ldh p l k t) ((v.setWidth 16).setWidth 64) ∧ gives (.ldhs p l k t) ((v.setWidth 16).signExtend 64)) ∧
    (at_ 4 → gives (.ldw p l k t) ((v.setWidth 32).setWidth 64) ∧ gives (.ldws p l k t) ((v.setWidth 32).signExtend 64)) ∧
    (at_ 8 → gives (.ldd p l k t) v) ∧
    (Reaches s core x ix a .load 8 mt pa s1 → ctRead s0 core x l.toNat mt pa 8 (decide (2 ≤ c.toNat)) = (some bs, s2) →
      exec (.lda p l c t) s = tokenMem (mark (if 2 ≤ c.toNat then ccInval s2 core else s2)) core x ix l.toNat [t] (some v))

/-- A read that a load performs changes the caches and the memory side alone, and sees its block's lower stores (R142, R258).
-/
def Obligations.LoadsLeaveMemory : Prop :=
  ∀ s core x l mt pa n h bs t, (∀ d o, place pa ≠ .regs d o) → (∀ d k o, place pa ≠ .notify d k o) →
    ctRead s core x l mt pa n h = (some bs, t) →
    let c := ctxOf s core x
    let below := ((List.range l).map (fun k => (frameOf s core x).stores.filter (fun p => p.lsid == k))).flatten
    MemSide s t ∧ bs.length = n ∧
    (loadAt core c mt pa n h (if (frameOf s core x).storesWait l then storesBelow s core x l else s)).1 = .ok bs ∧
    ∀ i before (p : PendStore) after, i < n → (∃ d o, place pa = .anvil d o) → staleGen s c.asid c.gen = false →
      (∀ q ∈ below, q.rel = none ∧ ∃ d o, place q.pa = .anvil d o) → below = before ++ p :: after →
      p.pa ≤ pa + i → pa + i < p.pa + p.bytes.length → (∀ q ∈ after, ¬(q.pa ≤ pa + i ∧ pa + i < q.pa + q.bytes.length)) →
      bs[i]? = p.bytes[pa + i - p.pa]?

/-- A store passes its checks and waits for the commit; until then it changes no byte of memory (R143, R254, R262, R263). -/
def Obligations.Stores : Prop :=
  ∀ s core x ix p (l : BitVec 5) (k : BitVec 18) (c : BitVec 3) (o : BitVec 15) (a b : Word) i n rel (va : Word) mt pa s1,
    Fires s core x ix p true true (some a) (some b) → Turns s core x l.toNat →
    (i = .stb p l k ∧ n = 1 ∧ rel = none ∧ va = a + k.signExtend 64 ∨
      i = .sth p l k ∧ n = 2 ∧ rel = none ∧ va = a + k.signExtend 64 * 2#64 ∨
      i = .stw p l k ∧ n = 4 ∧ rel = none ∧ va = a + k.signExtend 64 * 4#64 ∨
      i = .std p l k ∧ n = 8 ∧ rel = none ∧ va = a + k.signExtend 64 * 8#64 ∨
      i = .stl p l c o ∧ n = 8 ∧ rel = some c.toNat ∧ va = a + o.signExtend 64 * 8#64) →
    Reaches s core x ix va .store n mt pa s1 → (frameOf s1 core x).lsidDone l.toNat = false →
    ∃ t, exec i s = .next t ∧ FrameOnly s1 t core x ∧
      frameOf t core x = (let f := lsidIn (firedIn (frameOf s1 core x) ix) l.toNat
        { f with stores := f.stores ++ [{ ix := ix, lsid := l.toNat, va := va, pa := pa, mt := mt.bits, bytes := leBytes n b.toNat, rel := rel }] }) ∧
      ∀ y, Mem.get t.mem y = Mem.get s1.mem y

/-- A store of the block that is performed changes exactly the bytes at its address (R47, R52, R143). -/
def Obligations.StorePerformed : Prop :=
  ∀ core (c : Ctx) s (p : PendStore), staleGen s c.asid c.gen = false → p.rel = none →
    (place p.pa = .dram ∧ p.mt = 1#2 ∧ l2BadTag s p.pa = none ∨ ∃ d o, place p.pa = .anvil d o) →
    let t := storePerform core c s p
    MemSide s t ∧ (∀ i, i < p.bytes.length → some (Mem.get t.mem (p.pa + i)) = p.bytes[i]?) ∧
      ∀ y, (y < p.pa ∨ p.pa + p.bytes.length ≤ y) → Mem.get t.mem y = Mem.get s.mem y

/-- An access fails by its first failing step: ALIGN, then XLATE with the translation status (R24, R254, R255, R378). -/
def Obligations.AccessFaults : Prop :=
  ∀ s core x ix p (l : BitVec 5) (k : BitVec 9) (m : BitVec 18) (c : BitVec 3) (o : BitVec 15) (t : BitVec 9) (a b : Word) i acc n (va : Word),
    Turns s core x l.toNat → mustCommit s core x = false →
    (Fires s core x ix p true false (some a) (some 0#64) ∧ acc = .load ∧
        (((i = .ldh p l k t ∨ i = .ldhs p l k t) ∧ n = 2 ∨ (i = .ldw p l k t ∨ i = .ldws p l k t) ∧ n = 4 ∨ i = .ldd p l k t ∧ n = 8 ∨
            (i = .ldb p l k t ∨ i = .ldbs p l k t) ∧ n = 1) ∧
          va = a + k.signExtend 64 * BitVec.ofNat 64 n ∨ i = .lda p l c t ∧ n = 8 ∧ va = a) ∨
      Fires s core x ix p true true (some a) (some b) ∧ acc = .store ∧
        ((i = .sth p l m ∧ n = 2 ∨ i = .stw p l m ∧ n = 4 ∨ i = .std p l m ∧ n = 8 ∨ i = .stb p l m ∧ n = 1) ∧
          va = a + m.signExtend 64 * BitVec.ofNat 64 n ∨ i = .stl p l c o ∧ n = 8 ∧ va = a + o.signExtend 64 * 8#64) ∨
      Fires s core x ix p true true (some a) (some b) ∧ acc = .atomic ∧ va = a ∧
        ¬(a.extractLsb' 60 4 = 0xF#4 ∧ a.extractLsb' 24 36 = 0#36) ∧
        ((i = .aaddf p l c t ∨ i = .acas p l c t) ∧ n = 4 ∨
          (i = .aadd p l c t ∨ i = .amin p l c t ∨ i = .amax p l c t ∨ i = .aminn p l c t ∨ i = .amaxn p l c t ∨ i = .aand p l c t ∨
            i = .aor p l c t ∨ i = .axor p l c t ∨ i = .aswp p l c t ∨ i = .ainc p l c t) ∧ n = 8)) →
    (va.toNat % n ≠ 0 →
      exec i s = .next (takeTrap s core x { cls := 3, code := 0x12, xst := 0, idx := ix, addr := va } (ctxOf s core x).blk none)) ∧
    ∀ r s1, va.toNat % n = 0 → walkWait s (ctxActor core (ctxOf s core x)) va = false → translate s (ctxActor core (ctxOf s core x)) va acc n = (r, s1) → r.st ≠ .ok →
      mustCommit s1 core x = false →
      exec i s = .next (takeTrap s1 core x { cls := 3, code := 0x10, xst := r.st.code, idx := ix, addr := va } (ctxOf s1 core x).blk none)

/-- Under ASID 0 an address is its own physical address; the checks of its window still apply (R18, R22, R24). -/
def Obligations.SupervisorAddresses : Prop :=
  ∀ s (a : Actor) (va : Word) acc n, a.asid = 0#8 →
    (translate s a va acc n).2 = s ∧
    (va.extractLsb' 52 12 ≠ 0#12 → (translate s a va acc n).1.st = .noncanon) ∧
    (va.extractLsb' 52 12 = 0#12 →
      (translate s a va acc n).1.pa = va.toNat ∧
      (acc ≠ .ldred → (place va.toNat = .dram ∨ (∃ c o, place va.toNat = .bank c o) ∨ ∃ c o, place va.toNat = .anvil c o) →
        (translate s a va acc n).1.st = .ok ∧ (translate s a va acc n).1.mt = .wb) ∧
      (place va.toNat = .hole → (translate s a va acc n).1.st = .type) ∧
      ((∃ d o, place va.toNat = .regs d o) → (n ≠ 8 ∨ va.toNat % 8 ≠ 0 ∨ acc = .atomic) → (translate s a va acc n).1.st = .type))

/-- ldt and stt reach a READY entry of the tile table of their own ASID; prf only fills a cache (R56, R260, R261). -/
def Obligations.TileAccesses : Prop :=
  (∀ s core x ix p (l : BitVec 5) (k : BitVec 8) (t : BitVec 9) (o b : Word) i,
    Turns s core x l.toNat →
    (Fires s core x ix p true false (some o) (some 0#64) ∧ i = .ldt p l k t ∨ Fires s core x ix p true true (some o) (some b) ∧ i = .stt p l k) →
    let e := s.st.tiles.at (tileKey core k.toNat)
    let dead := staleGen s (ctxOf s core x).asid (ctxOf s core x).gen
    (dead = true → mustCommit s core x = false →
      exec i s = .next (takeTrap s core x { cls := 3, code := 0x10, xst := 2, idx := ix, addr := o } (ctxOf s core x).blk none)) ∧
    (dead = false → (e.isDef = false ∨ e.asid ≠ (ctxOf s core x).asid) → mustCommit s core x = false →
      exec i s = .next (takeTrap s core x (addrFlt 0x14 ix o) (ctxOf s core x).blk none)) ∧
    (dead = false → e.isDef = true → e.asid = (ctxOf s core x).asid → (o.toNat % 8 ≠ 0 ∨ e.size < o.toNat + 8) → mustCommit s core x = false →
      exec i s = .next (takeTrap s core x (addrFlt 0x15 ix o) (ctxOf s core x).blk none)) ∧
    (dead = false → e.isDef = true → e.asid = (ctxOf s core x).asid → o.toNat % 8 = 0 → o.toNat + 8 ≤ e.size →
      ((e.st ≠ .ready ∨ e.drq = true ∨ e.use = 255#8) → exec i s = .next (ctHold s core x 5 k.toNat)) ∧
      (e.st = .ready → e.drq = false → e.use ≠ 255#8 → tileBusy s core e o.toNat 8 = true → exec i s = .next (ctHold s core x 9 l.toNat)) ∧
      (e.st = .ready → e.drq = false → e.use ≠ 255#8 → tileBusy s core e o.toNat 8 = false →
        (∀ bs u, i = .ldt p l k t → ctRead (tileUse s core k.toNat) core x l.toNat .wb (tilePa core e o.toNat) 8 false = (some bs, u) →
          exec i s = tokenMem (tileDone u core k.toNat) core x ix l.toNat [t] (some (leWord bs))) ∧
        (i = .stt p l k → exec i s = tokenMem (frameUpd (tileUse s core k.toNat) core x (fun f => { f with
            commits := f.commits ++ [(ix, .stt k.toNat)]
            stores := f.stores ++ [{
              ix := ix, lsid := l.toNat, va := o, pa := tilePa core e o.toNat, mt := 0#2, bytes := leBytes 8 b.toNat, rel := none, tile := true }] }))
          core x ix l.toNat [] none)))) ∧
  (∀ s core x ix p (l : BitVec 5) (k : BitVec 9) (a : Word), Fires s core x ix p true false (some a) (some 0#64) → Turns s core x l.toNat →
    let act := ctxActor core (ctxOf s core x)
    let va := a + k.signExtend 64 * 128#64
    let r := translate s act va .load 1
    let cached := r.1.st = .ok ∧ r.1.mt = .wb ∧ place r.1.pa = .dram
    (walkWait s act va = true → exec (.prf p l k) s = .next (ctHold s core x 9 l.toNat)) ∧
    (walkWait s act va = false → cached → accBusy r.2 act .wb r.1.pa 1 = true → exec (.prf p l k) s = .next (ctHold r.2 core x 9 l.toNat)) ∧
    (walkWait s act va = false → cached → accBusy r.2 act .wb r.1.pa 1 = false →
      exec (.prf p l k) s = tokenMem (ccRead r.2 act (r.1.pa / 128 * 128) 128).2 core x ix l.toNat [] none) ∧
    (walkWait s act va = false → ¬cached → exec (.prf p l k) s = tokenMem r.2 core x ix l.toNat [] none))

/-- spills stores hold registers FIRST to LAST at commit; fills loads them for the commit; a fault keeps the progress (R264,
R265). -/
def Obligations.SpillsAndFills : Prop :=
  ∀ s core x ix p (l b a : BitVec 5) (v : Word), Fires s core x ix p true false (some v) (some 0#64) → Turns s core x l.toNat →
    let c := ctxOf s core x
    let k0 := c.resume.getD a.toNat
    let base := v + BitVec.ofNat 64 (8 * (k0 - a.toNat))
    (v.toNat % 8 ≠ 0 → mustCommit s core x = false →
      exec (.spills p l b a) s = .next (takeTrap s core x (addrFlt 0x12 ix v) c.blk (some k0))) ∧
    (v.toNat % 8 = 0 →
      (∀ ps s1, spillRun core c ix l.toNat (b.toNat + 1 - k0) k0 base s = (ps, .done, s1) →
        exec (.spills p l b a) s = tokenMem (frameUpd s1 core x (fun f => { f with stores := f.stores ++ ps })) core x ix l.toNat [] none ∧
        ps.length = b.toNat + 1 - k0 ∧
        ∀ i q, ps[i]? = some q → q.lsid = l.toNat ∧ q.va = base + BitVec.ofNat 64 (8 * i) ∧ q.bytes = leBytes 8 (c.h.at (k0 + i)).toNat) ∧
      (∀ ps k e s1, spillRun core c ix l.toNat (b.toNat + 1 - k0) k0 base s = (ps, .flt k e, s1) →
        mustCommit (ps.foldl (storePerform core c) s1) core x = false →
        exec (.spills p l b a) s = .next (takeTrap (ps.foldl (storePerform core c) s1) core x e (ctxOf (ps.foldl (storePerform core c) s1) core x).blk (some k)) ∧
        k = k0 + ps.length) ∧
      (∀ ps s1, spillRun core c ix l.toNat (b.toNat + 1 - k0) k0 base s = (ps, .held, s1) →
        exec (.spills p l b a) s = .next (ctHold s1 core x 9 l.toNat)) ∧
      ((frameOf s core x).holds.all (fun h => decide (h.1 < a.toNat ∨ b.toNat < h.1)) = true →
        ∀ vs s1, fillRun core x c ix l.toNat (b.toNat + 1 - k0) k0 base s = (vs, .done, s1) →
        exec (.fills p l b a) s = tokenMem (frameUpd s1 core x (fun f => { f with commits := f.commits ++ vs.map (fun y => (ix, .fill y.1 y.2)) }))
          core x ix l.toNat [] none ∧
        vs.map (·.1) = List.range' k0 (b.toNat + 1 - k0)))

/-- ldred delivers the sum of one location over the replicas of its group (R168, R266). -/
def Obligations.ReplicatedLoads : Prop :=
  ∀ s core x ix p (l : BitVec 5) (c : BitVec 3) (t : BitVec 9) (a b : Word),
    Fires s core x ix p true true (some a) (some b) → Turns s core x l.toNat →
    (2 ≤ b.toNat → mustCommit s core x = false → exec (.ldred p l c t) s = .next (takeTrap s core x (addrFlt 0x1D ix a) (ctxOf s core x).blk none)) ∧
    (∀ pa mt s1 s2 g o vs, b.toNat < 2 →
      ctTranslate s core (ctxOf s core x) ix a .ldred (if b = 0#64 then 8 else 4) = (.at_ pa mt, s1) →
      place pa = .repl g o → (∀ i, i < groupCount s g → replicaHere s g i = true) → Allows s1 core x l.toNat s2 →
      let rd (u : State) := replicaRead core (ctxOf s2 core x) g o (if b = 0#64 then 8 else 4) mt (List.range (groupCount u g)) [] u
      (rd (storesBelow s2 core x l.toNat)).1 = .inr vs →
      exec (.ldred p l c t) s = tokenMem (acquire (setIrrev (rd s2).2 core x) core c.toNat) core x ix l.toNat [t] (some (ldredSum (b != 0#64) vs)) ∧
      (b = 0#64 → ldredSum (b != 0#64) vs = vs.foldl (· + ·) 0#64))

/-- An atomic reads the old value, writes the new value of its operation at the same bytes, and delivers the old one (R267,
R268, R269). -/
def Obligations.Atomics : Prop :=
  ∀ s core x ix p (l : BitVec 5) (sc : BitVec 3) (t : BitVec 9) (a b : Word) i n (f : Word → Word) mt pa s1 s2 bs s3,
    Fires s core x ix p true true (some a) (some b) → Turns s core x l.toNat → ¬(a.extractLsb' 60 4 = 0xF#4 ∧ a.extractLsb' 24 36 = 0#36) →
    (n = 8 ∧ (i = .aadd p l sc t ∧ f = (· + b) ∨ i = .amin p l sc t ∧ f = (fun o => if o.toInt ≤ b.toInt then o else b) ∨
        i = .amax p l sc t ∧ f = (fun o => if b.toInt ≤ o.toInt then o else b) ∨
        i = .aminn p l sc t ∧ f = (fun o => if o.toNat ≤ b.toNat then o else b) ∨
        i = .amaxn p l sc t ∧ f = (fun o => if b.toNat ≤ o.toNat then o else b) ∨ i = .aand p l sc t ∧ f = (· &&& b) ∨
        i = .aor p l sc t ∧ f = (· ||| b) ∨ i = .axor p l sc t ∧ f = (· ^^^ b) ∨ i = .aswp p l sc t ∧ f = (fun _ => b) ∨
        i = .ainc p l sc t ∧ f = (fun o => if b.toNat ≤ o.toNat then 0#64 else o + 1#64)) ∨
      n = 4 ∧ (i = .aaddf p l sc t ∧ f = (fun o => BitVec.ofNat 64 (fmtAdd .fp32 (o.toNat % 2 ^ 32) (b.toNat % 2 ^ 32))) ∨
        i = .acas p l sc t ∧ f = (fun o => if o.toNat = b.toNat % 2 ^ 32 then b >>> 32 else o))) →
    Reaches s core x ix a .atomic n mt pa s1 → Allows s1 core x l.toNat s2 → StoresPass s2 core x l.toNat →
    let act := ctxActor core (ctxOf s2 core x)
    let r := release (storesFirst (setIrrev s2 core x) core x l.toNat) core sc.toNat
    homeRead r act mt pa n = (.ok bs, s3) →
    exec i s = tokenMem (acquire (homeWrite s3 act mt pa (leBytes n (f (leWord bs)).toNat)).2 core sc.toNat) core x ix l.toNat [t] (some (leWord bs))

/-- fence, wbar, xfence, sbar, abar and tbar order what their rules name and complete; nwrite is a release and one DEV store
(R175, R271, R272, R273, R274, R275, R276, R279). -/
def Obligations.OrderingForms : Prop :=
  (∀ s core x ix p (l : BitVec 5) (c : BitVec 3) (t : BitVec 9) (f : BitVec 8) (g : BitVec 7) (m : BitVec 8),
    Fires s core x ix p false false (some 0#64) (some 0#64) → Turns s core x l.toNat →
    (c = 0#3 → exec (.fence p l c t) s = tokenMem s core x ix l.toNat [t] (some 0#64) ∧
      exec (.wbar p l c) s = tokenMem s core x ix l.toNat [] none) ∧
    (∀ u, AfterStores s core x l.toNat u →
      (c ≠ 0#3 → exec (.fence p l c t) s = tokenMem (acquire (release u core c.toNat) core c.toNat) core x ix l.toNat [t] (some 0#64) ∧
        exec (.wbar p l c) s = tokenMem (release u core c.toNat) core x ix l.toNat [] none)) ∧
    (∀ u, (engineBusy s core x f || farBusy s core (ctxOf s core x).rid f c.toNat) = false →
      (f.getLsbD 0 = false ∧ u = s ∨ f.getLsbD 0 = true ∧ AfterStores s core x l.toNat u) →
      let rid := (ctxOf s core x).rid
      let act := xfenceActs f g c.toNat
      exec (.xfence p l f g c) s = tokenMem (xfenceTo (xfenceFrom u core rid f act) core rid g act) core x ix l.toNat [] none) ∧
    ((engineBusy s core x f || farBusy s core (ctxOf s core x).rid f c.toNat) = true → exec (.xfence p l f g c) s = .next (ctHold s core x 9 l.toNat)) ∧
    exec (.abar p l m) s = tokenMem s core x ix l.toNat [] none ∧
    (∀ (q : BitVec 2) (k : BitVec 8), q ≠ 3#2 →
      let e := s.st.tiles.at (tileKey core k.toNat)
      let stands := (q = 0#2 ∧ e.st = .empty) ∨ (q = 1#2 ∧ e.st = .filling) ∨ (q = 2#2 ∧ e.st = .ready ∧ e.drq = false)
      (e.isDef = true → e.asid = (ctxOf s core x).asid →
        (stands → exec (.tbar p l q k) s = tokenMem s core x ix l.toNat [] none) ∧
        (¬stands → exec (.tbar p l q k) s = .next (ctHold s core x 5 k.toNat))) ∧
      ((e.isDef = false ∨ e.asid ≠ (ctxOf s core x).asid) → mustCommit s core x = false →
        exec (.tbar p l q k) s = .next (takeTrap s core x (addrFlt 0x14 ix 0#64) (ctxOf s core x).blk none)))) ∧
  (∀ s core x ix p (l : BitVec 5) (all : BitVec 1) (g : BitVec 2) (m : Word),
    Fires s core x ix p (all == 0#1) false (some m) (some 0#64) → Turns s core x l.toNat →
    let rid := (ctxOf s core x).rid
    let named (k : Nat) : Bool := (all == 1#1 || (k / 64 == g.toNat && m.getLsbD (k % 64))) &&
      (s.sm.streams.at (core * 256 + k)).isOpen && (s.sm.streams.at (core * 256 + k)).rid == rid
    let s1 := coreFlush s core (fun u => u.streams.any named)
    let out := ∃ r ∈ s1.eng.far, r.core = core ∧ r.strm ≠ 0 ∧ named (r.strm - 1) = true
    (¬out → exec (.sbar p l all g) s = tokenMem s1 core x ix l.toNat [] none) ∧
    (out → exec (.sbar p l all g) s = .next (ctHold s1 core x 9 l.toNat))) ∧
  (∀ s core x ix p (l : BitVec 5) (z : BitVec 1) (a b : Word) pa s1 s2 mt,
    Fires s core x ix p true true (some a) (some b) → Turns s core x l.toNat →
    let n := if z = 1#1 then 8 else 4
    (bellTranslate s core (ctxOf s core x) ix a n = (.at_ pa mt, s1) → (∀ q o, place pa ≠ .remote q o) → Allows s1 core x l.toNat s2 →
      StoresPass s2 core x l.toNat →
      exec (.nwrite p l z) s = tokenMem (placeWrite (setIrrev (release (storesFirst s2 core x l.toNat) core 4) core x)
        (ctxActor core (ctxOf s core x)) .dev pa (leBytes n b.toNat) false) core x ix l.toNat [] none) ∧
    (∀ r, a.toNat % n = 0 → walkWait s (ctxActor core (ctxOf s core x)) a = false →
      translate s (ctxActor core (ctxOf s core x)) a .store n = (r, s1) → (r.st = .ok ∨ r.st = .nopeer) →
      (r.mt ≠ .dev ∨ ∃ g o, place r.pa = .repl g o) → mustCommit s1 core x = false →
      exec (.nwrite p l z) s = .next (takeTrap s1 core x { cls := 3, code := 0x10, xst := 7, idx := ix, addr := a } (ctxOf s1 core x).blk none)))

/-- Traps, halts, yields and events leave their effect for the commit; system registers and time are read at firing (R13,
R277, R278, R281, R313, R314). -/
def Obligations.SystemForms : Prop :=
  (∀ s core x ix p t u, Fires s core x ix p false false (some 0#64) (some 0#64) →
    exec (.halt p) s = token (atCommit s core x ix .halt) core x ix [] none ∧
    exec (.brk p) s = token (atCommit s core x ix .brk) core x ix [] none ∧
    exec (.yield p t u) s = token (atCommit s core x ix .yield) core x ix [t, u] (some 0#64) ∧
    exec (.wfe p t u) s = token (atCommit s core x ix .wfe) core x ix [t, u] (some 0#64) ∧
    exec (.rdtime p t u) s = token s core x ix [t, u] (some s.dev.gtsc) ∧
    ∀ (n : BitVec 8) (v : Word), (let c := ctxOf s core x
      n = 0#8 ∧ v = s.dev.gtsc ∨
      n = 1#8 ∧ v.extractLsb' 0 8 = c.asid ∧ v.extractLsb' 8 6 = c.ten ∧ v.extractLsb' 14 2 = 0#2 ∧ v.extractLsb' 16 16 = c.gen ∧
        v.extractLsb' 32 32 = 0#32 ∨
      n = 2#8 ∧ v = c.modef.setWidth 64 ∨ n = 3#8 ∧ v = c.astat ∨ n = 4#8 ∧ v = (s.dev.talw.at core).setWidth 64 ∨
      n = 8#8 ∧ v = c.flt0 ∨ n = 9#8 ∧ v = c.flt1 ∨ n = 10#8 ∧ v = c.flt2 ∨ n = 11#8 ∧ v = c.flt3) →
      exec (.rdsr p t n) s = token s core x ix [t] (some v)) ∧
  (∀ s core x ix p t u (a : Word) (n : BitVec 8), Fires s core x ix p true false (some a) (some 0#64) →
    exec (.trap p) s = token (atCommit s core x ix (.trap 4 a)) core x ix [] none ∧
    exec (.sysc p) s = token (atCommit s core x ix (.trap 5 a)) core x ix [] none ∧
    exec (.wrsr p t n) s = token (atCommit s core x ix (.wrsr n.toNat a)) core x ix [t] (some 0#64) ∧
    ((ctxOf s core x).asid = 0#8 →
      exec (.eret p) s = token (atCommit s core x ix (.eret a)) core x ix [] none ∧
      exec (.idle p t u) s = token (atCommit s core x ix (.idle a)) core x ix [t, u] (some 0#64)) ∧
    let c := (a.extractLsb' 0 8).toNat
    let y := (a.extractLsb' 8 3).toNat
    (a.extractLsb' 11 53 ≠ 0#53 → exec (.sev p t u) s = token s core x ix [t, u] (some 2#64)) ∧
    (a.extractLsb' 11 53 = 0#53 → ((ctxOf s c y).st = .free ∨ (ctxOf s c y).ten ≠ (ctxOf s core x).ten) →
      exec (.sev p t u) s = token s core x ix [t, u] (some 1#64)) ∧
    (a.extractLsb' 11 53 = 0#53 → (ctxOf s c y).st ≠ .free → (ctxOf s c y).ten = (ctxOf s core x).ten →
      exec (.sev p t u) s = token (atCommit s core x ix (.sev c y)) core x ix [t, u] (some 0#64)))

/-- A wrsr that commits writes the register it names, in its writable bits, and no other (R98, R256, R313, R377). -/
def Obligations.SystemRegisterWrites : Prop :=
  ∀ s core x (v : Word),
    let c := ctxOf s core x
    let w (n : Nat) : Ctx := ctxOf (sysWrite s core x n v) core x
    w 2 = { c with modef := v.setWidth 6 } ∧
    (w 3 = { c with astat := (w 3).astat } ∧ (w 3).astat.extractLsb' 52 12 = v.extractLsb' 52 12 ∧
      (w 3).astat.extractLsb' 24 28 = 0#28 ∧ (w 3).astat.extractLsb' 0 24 = v.extractLsb' 0 24) ∧
    (w 8 = { c with flt0 := (w 8).flt0 } ∧ (w 8).flt0.extractLsb' 32 32 = v.extractLsb' 32 32 ∧ (w 8).flt0.extractLsb' 0 32 = 0#32) ∧
    (w 9 = { c with flt1 := (w 9).flt1 } ∧ (w 9).flt1.extractLsb' 0 55 = v.extractLsb' 0 55 ∧ (w 9).flt1.extractLsb' 55 9 = 0#9) ∧
    w 10 = { c with flt2 := v } ∧ w 11 = { c with flt3 := v } ∧ (∀ n, n = 0 ∨ n = 1 ∨ n = 4 → w n = c) ∧
    ∀ n, (∀ k, k ≠ ctxKey core x → (sysWrite s core x n v).ctl.ctxs.at k = s.ctl.ctxs.at k) ∧ (sysWrite s core x n v).mem = s.mem

/-- setctx starts a FREE context, inval and kill hold their context for their end, and dsnap takes one word of a bitmap (R29,
R33, R314, R394). -/
def Obligations.SystemCommands : Prop :=
  ∀ s core x ix p t u (l r : Word), (ctxOf s core x).asid = 0#8 → Commands s core x ix →
    (Fires s core x ix p true true (some l) (some r) →
      (let y := (l.extractLsb' 8 3).toNat
       let d := s.xl.asids.at (l.extractLsb' 0 8).toNat
       (l.extractLsb' 11 53 ≠ 0#53 → exec (.setctx p t u) s = performs s core x ix [t, u] none) ∧
       (l.extractLsb' 11 53 = 0#53 → (ctxOf s core y).st ≠ .free → exec (.setctx p t u) s = performs s core x ix [t, u] (some 1#64)) ∧
       (l.extractLsb' 11 53 = 0#53 → (ctxOf s core y).st = .free → (l.extractLsb' 0 8 = 0#8 ∨ d.v = false) →
          exec (.setctx p t u) s = performs s core x ix [t, u] (some 2#64)) ∧
       (l.extractLsb' 11 53 = 0#53 → (ctxOf s core y).st = .free → l.extractLsb' 0 8 ≠ 0#8 → d.v = true →
          ∃ s1, exec (.setctx p t u) s = performs s1 core x ix [t, u] (some 0#64) ∧
            (let c := ctxOf s1 core y
             c.st = .ready ∧ c.asid = l.extractLsb' 0 8 ∧ c.gen = d.gen ∧ c.ten = d.ten ∧ c.blk = r.setWidth 55 ∧ c.h = [] ∧ c.modef = 0#6 ∧
               c.link = [] ∧ c.evf = false ∧ c.rid = 0) ∧
            (∀ k, k ≠ ctxKey core y → s1.ctl.ctxs.at k = s.ctl.ctxs.at k) ∧ s1.mem = s.mem)) ∧
      (l = 3#64 → r = 0#64 → ∃ s1, exec (.inval p t u) s = .next s1 ∧ (ctxOf s1 core x).st = .held ∧ ∀ k, s1.xl.tlbs.at k = []) ∧
      (l.extractLsb' 6 58 = 0#58 → (s.xl.dirty.at l.toNat).on = true → r.toNat * 64 < (s.xl.dirty.at l.toNat).npg.toNat →
        let out := farOut s (fun b => (s.xl.asids.at b.toNat).ten == l.setWidth 6)
        (out = true → exec (.dsnap p t u) s = .next (ctHold s core x 0 0)) ∧
        (out = false → exec (.dsnap p t u) s = performs (dirtySnap s l.toNat r.toNat).2 core x ix [t, u] (some (dirtySnap s l.toNat r.toNat).1))) ∧
      ((l.extractLsb' 6 58 ≠ 0#58 ∨ (s.xl.dirty.at l.toNat).on = false ∨ (s.xl.dirty.at l.toNat).npg.toNat ≤ r.toNat * 64) →
        exec (.dsnap p t u) s = performs s core x ix [t, u] none)) ∧
    (Fires s core x ix p true false (some l) (some 0#64) → l.toNat < 256 →
      ((l = 0#64 ∨ (s.xl.asids.at l.toNat).v = false) → exec (.kill p t u) s = performs s core x ix [t, u] (some 1#64)) ∧
      (l ≠ 0#64 → (s.xl.asids.at l.toNat).v = true →
        exec (.kill p t u) s = .next (pushEv (pendIssue (setIrrev (killBegin s (l.setWidth 8)) core x) core x ix .kill 0 0 l 0#64 0#64)
          .killDrainComplete { (default : EvArg) with core := BitVec.ofNat 8 core, ctx := BitVec.ofNat 3 x })))

/-- The queue forms answer a status, and under OK do what they name (R80, R284, R285, R286, R287). -/
def Obligations.QueueForms : Prop :=
  (∀ s core x ix p (n : BitVec 6) (t : BitVec 9) (a : Word),
    let k := queueKey core n.toNat
    let d := s.qu.queues.at k
    let mine := d.v = true ∧ d.asid = (ctxOf s core x).asid ∧ isProducer s core n.toNat (ctxOf s core x).rid = true
    let ended := qApplyPol (qEnd s core n.toNat x) core n.toNat
    (Fires s core x ix p true false (some a) (some 0#64) → Commands s core x ix →
      (mine → a.toNat < 2 ^ 24 →
        (let r := qRecord s core n.toNat x (ctlTok d.ch 8 a.toNat)
         exec (.qrsv p n t) s = performs (progress r.2 core d.rid) core x ix [t] (some (stVal 0 (if r.1 then 1 else 0)))) ∧
        exec (.qmark p n t) s = performs (progress (qMarker ended core n.toNat [ctlTok d.ch 6 a.toNat]) core d.rid) core x ix [t] (some 0#64)) ∧
      (mine → a.extractLsb' 40 24 ≠ 0#24 →
        exec (.qgap p n t) s = performs (progress (qMarker ended core n.toNat
            [ctlTok d.ch 7 (a.extractLsb' 40 24).toNat, weightTok d.ch (a.extractLsb' 0 40).toNat]) core d.rid) core x ix [t] (some 0#64)) ∧
      (mine → 2 ^ 24 ≤ a.toNat → exec (.qrsv p n t) s = performs s core x ix [t] (some 0x0400000000000000#64)) ∧
      (d.v = false → exec (.qrsv p n t) s = performs s core x ix [t] (some 0x0100000000000000#64)) ∧
      (d.v = true → d.asid ≠ (ctxOf s core x).asid → exec (.qrsv p n t) s = performs s core x ix [t] (some 0x0200000000000000#64)) ∧
      (d.v = true → d.asid = (ctxOf s core x).asid → polBad a d.slim d.llim = false →
        exec (.qpol p n t) s = performs { s with qu.queues := s.qu.queues.set k { d with pol1 := some a } } core x ix [t] (some 0#64))) ∧
    (Fires s core x ix p false false (some 0#64) (some 0#64) → mine →
      ∃ v, exec (.qpush p n t) s = token (atCommit s core x ix (.qpush n.toNat)) core x ix [t] (some (stVal 0 v)))) ∧
  (∀ s core x ix p (w : BitVec 2) (n : BitVec 6) (t : BitVec 9) (a : Word),
    Fires s core x ix p true false (some a) (some 0#64) → consumerSt s core x n.toNat w.toNat false = 0 →
    let d := s.qu.queues.at (queueKey core n.toNat)
    let v := d.views.at w.toNat
    let es := v.readable d.ch
    let claim (c : Nat) : State := viewUpd s core n.toNat w.toNat (fun q => { q with claim := c })
    (a ≠ 0#64 → a.toNat ≤ countMax d →
      (a.toNat ≤ es.length →
        ∃ s1, exec (.qwait p w n t) s = token s1 core x ix [t] (some (stVal 0 es.length)) ∧ s1 = claim (max v.claim a.toNat)) ∧
      (es.length < a.toNat → exec (.qwait p w n t) s = .next (ctWait s core x (some .wait) 3 n.toNat a w.toNat)) ∧
      exec (.qpadv p w n t) s = token (claim (max v.claim (min a.toNat es.length))) core x ix [t] (some (stVal 0 (max v.claim (min a.toNat es.length))))) ∧
    (a ≠ 0#64 → exec (.qadv p w n t) s = token (atCommit s core x ix (.qadv n.toNat w.toNat a.toNat)) core x ix [t] (some (stVal 0 (min a.toNat v.claim)))) ∧
    (a = 0#64 → exec (.qwait p w n t) s = token s core x ix [t] (some 0x0400000000000000#64)) ∧
    (a.toNat ≤ 12 → exec (.qstat p w n t) s = token s core x ix [t] (some (stVal 0 (qstatWord d v a.toNat).toNat))) ∧
    (∀ pa, (a.extractLsb' 21 43 = 0#43 ∧ (a.extractLsb' 0 12).toNat < v.claim ∧ ∃ toks, es[(a.extractLsb' 0 12).toNat]? = some toks ∧
          (a.extractLsb' 12 9).toNat < toks.length) → readPoison s core n.toNat w.toNat (a.extractLsb' 0 12).toNat = some pa →
      exec (.qpop p w n t) s = .next (ctFault s core x (addrFlt 0x13 ix (BitVec.ofNat 64 pa)))) ∧
    (readPoison s core n.toNat w.toNat (a.extractLsb' 0 12).toNat = none → exec (.qpop p w n t) s = token s core x ix [t]
      (if a.extractLsb' 21 43 = 0#43 ∧ (a.extractLsb' 0 12).toNat < v.claim then
        match es[(a.extractLsb' 0 12).toNat]? with
        | none => none
        | some toks => toks[(a.extractLsb' 12 9).toNat]?.map (fun f => BitVec.ofNat 64 (f.toNat + (toks.length - 1) % 512 * 2 ^ 48))
      else none)))

/-- rwait answers RD once n entries stand in its ring, and rrel frees entries at commit (R288, R289). -/
def Obligations.RingForms : Prop :=
  ∀ s core x ix p (n : BitVec 6) (t : BitVec 9) (a : Word), Fires s core x ix p true false (some a) (some 0#64) →
    let r := s.eng.rings.at (ringKey core n.toNat)
    let good := r.v = true ∧ r.asid = (ctxOf s core x).asid ∧ a ≠ 0#64 ∧ a.toNat ≤ 2 ^ r.log.toNat
    (good → a.toNat ≤ (r.wr - r.rd).toNat → exec (.rwait p n t) s = token (acquire s core 3) core x ix [t] (some (r.rd.setWidth 64))) ∧
    (good → (r.wr - r.rd).toNat < a.toNat → exec (.rwait p n t) s = .next (ctWait s core x (some .wait) 4 n.toNat a 0)) ∧
    (good → exec (.rrel p n t) s = token (atCommit s core x ix (.rrel n.toNat a.toNat)) core x ix [t] (some 0#64)) ∧
    (¬good → exec (.rwait p n t) s = token s core x ix [t] none ∧ exec (.rrel p n t) s = token s core x ix [t] none)

/-- sopen opens a stream, sclose closes it with its counts, sseek and shand act at commit, and bankm changes banks (R152,
R291, R292, R293, R299). -/
def Obligations.StreamForms : Prop :=
  (∀ s core x ix p (l : BitVec 5) (k : BitVec 8) (t : BitVec 9) (a : Word) pa mt s1 ws s2,
    Fires s core x ix p true false (some a) (some 0#64) → Turns s core x l.toNat →
    ctTranslate s core (ctxOf s core x) ix a .load 64 = (.at_ pa mt, s1) → (∀ q o, place pa ≠ .remote q o) →
    descRead s1 core x l.toNat mt pa = (some ws, s2) →
    let n : Stream := { (default : Stream) with desc := ws }
    let e := s2.st.tiles.at (tileKey core n.tile)
    let st := openStatus s2 core k.toNat n (ctxOf s core x).asid
    (st ≠ 0 → exec (.sopen p l k t) s = tokenMem s2 core x ix l.toNat [t] (some (stTok st))) ∧
    (st = 0 → (n.til = true → e.badRef (ctxOf s core x).asid = false ∧ openBound s2 core n = false ∧ e.canIssue = true) →
      ∀ s3, Allows s2 core x l.toNat s3 →
      exec (.sopen p l k t) s = tokenMem (streamOpen (if n.til = true then tileUse (setIrrev s3 core x) core n.tile else setIrrev s3 core x)
        core k.toNat ws (ctxOf s core x)) core x ix l.toNat [t] (some 0#64))) ∧
  (∀ s core x ix p (l : BitVec 5) (k : BitVec 8) (t : BitVec 9), Fires s core x ix p false false (some 0#64) (some 0#64) → Turns s core x l.toNat →
    let n := streamOf s core k.toNat
    let s1 := streamSettle s core k.toNat
    let pending := ((streamOf s1 core k.toNat).unsettled || farWrites s1 core k.toNat)
    ((n.isOpen = false ∨ n.rid ≠ (ctxOf s core x).rid) → exec (.sclose p l k t) s = tokenMem s core x ix l.toNat [t] none) ∧
    (n.isOpen = true → n.rid = (ctxOf s core x).rid → pending = true → exec (.sclose p l k t) s = .next (ctHold s1 core x 9 l.toNat)) ∧
    ∀ s2, n.isOpen = true → n.rid = (ctxOf s core x).rid → pending = false → Allows s1 core x l.toNat s2 →
      let s3 := streamShut (setIrrev s2 core x) core k.toNat
      exec (.sclose p l k t) s = tokenMem s3 core x ix l.toNat [t] (some (BitVec.ofNat 64 (streamOf s3 core k.toNat).counts))) ∧
  (∀ s core x ix p (k : BitVec 8) (t : BitVec 9) (a : Word), Fires s core x ix p true false (some a) (some 0#64) →
    let n := streamOf s core k.toNat
    let st := if n.isOpen = false ∨ n.rid ≠ (ctxOf s core x).rid then 1 else if n.count ≤ a.toNat ∨ n.pat = 2 ∨ 2 ≤ n.dir then 2 else 0
    exec (.sseek p k t) s = token (if st = 0 then atCommit s core x ix (.sseek k.toNat a.toNat) else s) core x ix [t] (some (stTok st))) ∧
  (∀ s core x ix p (o : BitVec 4) (t : BitVec 9), Fires s core x ix p false false (some 0#64) (some 0#64) →
    let e := s.sm.own.at (core * 16 + o.toNat)
    let st := if e.v = true ∧ e.asid = (ctxOf s core x).asid then 0 else 1
    exec (.shand p o t) s = token (if st = 0 then atCommit s core x ix (.shand o.toNat) else s) core x ix [t] (some (stTok st))) ∧
  (∀ s core x ix p (l b : BitVec 5) (t : BitVec 9) (a : Word) s1, Fires s core x ix p true false (some a) (some 0#64) → Turns s core x l.toNat →
    let n := (a.extractLsb' 3 5).toNat
    let first := (a.extractLsb' 0 3).toNat * 24 + b.toNat
    let m := a.extractLsb' 8 2
    let c : BankChange :=
      { mode := if m = 0#2 then .cache else if m = 1#2 then .scratch else if m = 2#2 then .fifo else .accum, ilv := a.extractLsb' 10 2 }
    a.extractLsb' 12 52 = 0#52 → b.toNat < 24 →
    (∀ i, i < n → b.toNat + i < 24 → bankAllotted s core (ctxOf s core x).rid (first + i) = true) →
    (bankCheck s core first n c = .ok → Allows s core x l.toNat s1 → StoresPass s1 core x l.toNat →
      let r := bankChange (storesFirst (setIrrev s1 core x) core x l.toNat) core first n c
      exec (.bankm p l b t) s = tokenMem r.2 core x ix l.toNat [t] (some (stTok r.1.code))) ∧
    (bankCheck s core first n c ≠ .ok → exec (.bankm p l b t) s = tokenMem s core x ix l.toNat [t] (some (stTok (bankCheck s core first n c).code))))

/-- The ttset forms move a tile-table entry as its events do, and ttq reads a word of it (R54, R55, R300). -/
def Obligations.TileTableForms : Prop :=
  (∀ s core x ix p (k : BitVec 8) (t : BitVec 9), Fires s core x ix p false false (some 0#64) (some 0#64) →
    let e := s.st.tiles.at (tileKey core k.toNat)
    let forms := [((.ttsetUndefine p k t : Instr), TileSt.empty, tileUndefine s core k.toNat),
      (.ttsetFill p k t, .empty, tileUpd s core k.toNat Tile.fillBegin),
      (.ttsetReady p k t, .filling, tileUpd s core k.toNat (fun e => { e with st := .ready })),
      (.ttsetAbort p k t, .filling, tileUpd s core k.toNat Tile.toEmpty),
      (.ttsetDrain p k t, .ready, tileUpd s core k.toNat (fun e => Tile.settle { e with drq := true })),
      (.ttsetEmpty p k t, .draining, tileUpd s core k.toNat Tile.toEmpty)]
    (Commands s core x ix → ∀ f ∈ forms,
      (e.isDef = true → e.asid = (ctxOf s core x).asid → inZone s core k.toNat = false →
        ((e.st = f.2.1 ∧ (f.1 = .ttsetDrain p k t → e.drq = false) → exec f.1 s = performs f.2.2 core x ix [t] (some 0#64)) ∧
          (e.st ≠ f.2.1 → exec f.1 s = performs s core x ix [t] (some (if f.1 = .ttsetUndefine p k t then 1#64 else 5#64))))) ∧
      ((e.isDef = false ∨ e.asid ≠ (ctxOf s core x).asid) → exec f.1 s = performs s core x ix [t] (some 6#64)) ∧
      (e.isDef = true → e.asid = (ctxOf s core x).asid → inZone s core k.toNat = true → exec f.1 s = performs s core x ix [t] (some 5#64))) ∧
    ∀ w : BitVec 1, exec (.ttq p w k t) s = token s core x ix [t]
      (if e.isDef = true ∧ e.asid ≠ (ctxOf s core x).asid then none else some (e.word w.toNat))) ∧
  (∀ s core x ix p (k : BitVec 8) (t : BitVec 9) (a : Word), Fires s core x ix p true false (some a) (some 0#64) → Commands s core x ix →
    let e := s.st.tiles.at (tileKey core k.toNat)
    let asid := (ctxOf s core x).asid
    (e.isDef = true → e.asid ≠ asid → exec (.ttsetDefine p k t) s = performs s core x ix [t] (some 6#64)) ∧
    ((e.isDef = false ∨ e.asid = asid) → inZone s core k.toNat = false → a.extractLsb' 45 19 = 0#19 → a.extractLsb' 26 13 = 0#13 →
      let st := tileDefCheck s core k.toNat (a.getLsbD 44) (a.extractLsb' 39 5).toNat (a.extractLsb' 0 26).toNat asid
      exec (.ttsetDefine p k t) s = performs (if st = .ok then
        tileDefine s core k.toNat (a.getLsbD 44) (a.extractLsb' 39 5).toNat (a.extractLsb' 0 26).toNat asid else s) core x ix [t] (some (stTok st.code))))

/-- The region forms act on the slot of their own region, and answer NOSLOT elsewhere (R294, R295, R296, R297, R298). -/
def Obligations.RegionForms : Prop :=
  (∀ s core x ix p (g : BitVec 2) (t : BitVec 9) (a : Word),
    let rid := (ctxOf s core x).rid
    let r := regionOf s rid
    let mine := rid ≠ 0 ∧ slotRid s core g.toNat = rid
    let live := (s.rg.slots.at (slotIx core g.toNat)).live
    let arg : EvArg := { (default : EvArg) with core := BitVec.ofNat 8 core, ctx := BitVec.ofNat 3 x }
    let noslot : Word := 0x0A00000000000000#64
    (Fires s core x ix p true false (some a) (some 0#64) →
      (¬mine → exec (.cfgld p g t) s = token s core x ix [t] (some noslot) ∧ exec (.cfgsh p g t) s = token s core x ix [t] (some noslot)) ∧
      (mine → a.toNat % 64 = 0 →
        (live = false → exec (.cfgld p g t) s = .next (pushEv (pendIssue s core x ix .cfgld 0 0 (g.setWidth 64) 0#64 a) .cfgldComplete arg)) ∧
        exec (.cfgsh p g t) s = .next (pushEv (pendIssue s core x ix .cfgsh 0 0 (g.setWidth 64) 0#64 a) .cfgldComplete arg)) ∧
      (mine → a.toNat % 64 ≠ 0 → live = false → mustCommit s core x = false →
        exec (.cfgld p g t) s = .next (takeTrap (ctFired s core x ix) core x (addrFlt 0x12 ix a) (ctxOf s core x).blk none)) ∧
      (Commands s core x ix →
        (¬mine → exec (.rmark p g t) s = performs s core x ix [t] (some noslot)) ∧
        (mine → r.inFlight = true → exec (.rmark p g t) s = performs s core x ix [t] (some 0x0100000000000000#64)) ∧
        (mine → r.inFlight = false → exec (.rmark p g t) s =
          performs (waveStart s rid (a.extractLsb' 0 24).toNat [core] (some (ctxKey core x))) core x ix [t] (some 0#64)))) ∧
    (Fires s core x ix p false false (some 0#64) (some 0#64) →
      (Commands s core x ix →
        (¬mine → exec (.rgo p g t) s = performs s core x ix [t] (some noslot) ∧ exec (.rroll p g t) s = performs s core x ix [t] (some noslot)) ∧
        (mine → live = false → exec (.rgo p g t) s = performs (regionGo s core g.toNat rid) core x ix [t] (some 0#64)) ∧
        (mine → live = true → exec (.rgo p g t) s = performs s core x ix [t] (some 0x0100000000000000#64)) ∧
        (mine → exec (.rroll p g t) s = performs (pushEv (regUpd s rid (fun r => { r with want := true, inFlight := false }))
          .regionRollback { (default : EvArg) with n := rid }) core x ix [t] (some 0#64))) ∧
      (¬mine → exec (.rdrain p g t) s = token s core x ix [t] (some noslot)) ∧
      (mine → ∃ s1, exec (.rdrain p g t) s = .next s1 ∧ (ctxOf s1 core x).st = .held ∧ .ev .regionDrainComplete arg ∈ s1.sim.agenda))) ∧
  (∀ s core x ix p (q : BitVec 6) (k : BitVec 8) (t : BitVec 9), Fires s core x ix p false false (some 0#64) (some 0#64) →
    let rid := (ctxOf s core x).rid
    let r := regionOf s rid
    let n := streamOf s core k.toNat
    let low (v : Word) : Word := v &&& 0x00FFFFFFFFFFFFFF#64
    let own := rid ≠ 0 ∧ n.rid = rid
    let here := rid ≠ 0 ∧ slotRid s core (k.toNat % 4) = rid
    (own → exec (.rstat p 0#6 k t) s = token s core x ix [t] (some (low (BitVec.ofNat 64 n.counts)))) ∧
    (own → ∃ v : Word, exec (.rstat p 1#6 k t) s = token s core x ix [t] (some v) ∧ v.toNat = n.nulln % 65536 * 2 ^ 40 + n.done % 2 ^ 40) ∧
    (here → exec (.rstat p 2#6 k t) s = token s core x ix [t] (some (low r.word6))) ∧
    (here → ∃ v : Word, exec (.rstat p 3#6 k t) s = token s core x ix [t] (some v) ∧
      v.toNat = r.lastId % 2 ^ 24 + if r.inFlight = true then r.waveId % 2 ^ 24 * 2 ^ 24 + 2 ^ 48 else 0) ∧
    (¬own → exec (.rstat p 0#6 k t) s = token s core x ix [t] none ∧ exec (.rstat p 1#6 k t) s = token s core x ix [t] none) ∧
    (¬here → exec (.rstat p 2#6 k t) s = token s core x ix [t] none ∧ exec (.rstat p 3#6 k t) s = token s core x ix [t] none) ∧
    (4 ≤ q.toNat → exec (.rstat p q k t) s = token s core x ix [t] none))

/-- cparm, cpgo and cpdis arm, fire and disarm a template; mxtask, coll and launch queue work; the heap forms move entries
(R198, R199, R200, R281, R303, R305, R306, R308, R309, R310). -/
def Obligations.CopyMatrixAndTaskForms : Prop :=
  (∀ s core x ix p t u (l r : Word), Commands s core x ix →
    let c := ctxOf s core x
    let k := (l.extractLsb' 0 5).toNat
    let d := tmplOf s core k
    let ours := d.v = true ∧ d.asid = c.asid
    let gives (i : Instr) (s1 : State) (st : Nat) : Prop := exec i s = performs s1 core x ix [t, u] (some (BitVec.ofNat 64 st))
    (Fires s core x ix p true true (some l) (some r) →
      (armStatus s core c l r ≠ 0 → gives (.cparm p t u) s (armStatus s core c l r)) ∧
      (armStatus s core c l r = 0 → d.srck = 1#2 → (s.st.tiles.at (tileKey core d.stile.toNat)).canIssue = false →
        exec (.cparm p t u) s = .next (ctHold s core x 5 d.stile.toNat)) ∧
      (armStatus s core c l r = 0 → (d.srck = 1#2 → (s.st.tiles.at (tileKey core d.stile.toNat)).canIssue = true) →
        ∃ s1, gives (.cparm p t u) s1 0 ∧ (tmplOf s1 core k).arm = true ∧ (tmplOf s1 core k).fires = 0 ∧ s1.mem = s.mem) ∧
      (l.extractLsb' 5 59 = 0#59 →
        (¬ours → gives (.cpgo p t u) s 1) ∧ (ours → d.arm = false → gives (.cpgo p t u) s 3) ∧
        (ours → d.arm = true → islandFull s core k = true → gives (.cpgo p t u) s 7) ∧
        (ours → d.arm = true → islandFull s core k = false → gives (.cpgo p t u) (tmplFire s core k (r.extractLsb' 0 32) (x + 1)) 0)) ∧
      (let a : Actor := { core := core, path := .mx, asid := c.asid, gen := c.gen, rid := 0 }
       let m := memWords s a l.toNat 8
       ((l.toNat % 64 ≠ 0 ∨ r.extractLsb' 1 63 ≠ 0#63) → gives (.mxtask p t u) s 2) ∧
       (l.toNat % 64 = 0 → r = 0#64 → (s.rg.schedQ.at c.ten.toNat).aqmax ≤ arbHeld s (core / 64) c.ten → gives (.mxtask p t u) s 1) ∧
       (∀ e s1, l.toNat % 64 = 0 → r = 1#64 → m = (.inl e, s1) → gives (.mxtask p t u) s1 3) ∧
       (∀ ws s1, l.toNat % 64 = 0 → r = 1#64 → m = (.inr ws, s1) → s1.sim.stall = false →
         let task : MxTask := { words := ws, asid := c.asid, gen := c.gen, start := 0#64, owner := ctxKey core x + 1, used := true, rid := c.rid }
         let e := s1.st.tiles.at (tileKey core task.ent)
         (e.badRef c.asid = true → exec (.mxtask p t u) s = .next (ctFault (ctFired s1 core x ix) core x (addrFlt 0x14 ix l))) ∧
         (e.badRef c.asid = false → e.canIssue = false → exec (.mxtask p t u) s = .next (ctHold s1 core x 5 task.ent)) ∧
         (e.badRef c.asid = false → e.canIssue = true →
           gives (.mxtask p t u) (islandNext (islandUpd (tileUse s1 core task.ent) core (fun i => { i with wait := i.wait ++ [task] })) core) 0)) ∧
       (∀ ws s1, l.toNat % 64 = 0 → r = 0#64 → arbHeld s (core / 64) c.ten < (s.rg.schedQ.at c.ten.toNat).aqmax → m = (.inr ws, s1) →
         s1.sim.stall = false →
         let e := tileEntry s1 ws c.asid (if c.rid = 0 then 0 else (regionOf s c.rid).pri) (ctxKey core x + 1) c.rid
         gives (.mxtask p t u) (arbAdd e.2 (core / 64) e.1) 0)) ∧
      (let h := heapPut s (core / 64) c.ten l r
       gives (.tenq p t u) h.2 (if h.1 = true then 0 else 1))) ∧
    (Fires s core x ix p true false (some l) (some 0#64) →
      (l.extractLsb' 5 59 = 0#59 →
        (¬ours → gives (.cpdis p t u) s 1) ∧ (ours → d.arm = false → gives (.cpdis p t u) s 3) ∧
        (ours → d.arm = true →
          gives (.cpdis p t u) (armingEnd (tmplUpd s core k (fun d => { d with arm := false })) core k d.arming) 0)) ∧
      (∀ f s1, memWords s (ctxActor core c) l.toNat 4 = (.inl f, s1) → s1.sim.stall = false → f.kind ≠ .poison →
        exec (.coll p t u) s = .next (ctFault (ctFired s1 core x ix) core x (xlateFlt f.st.code ix f.va))) ∧
      (∀ ws s1, memWords s (ctxActor core c) l.toNat 4 = (.inr ws, s1) → s1.sim.stall = false →
        let q : CollRun := { id := s1.sim.seqNo, core := core, asid := c.asid, gen := c.gen, rid := c.rid, desc := ws, ctx := x + 1 }
        (q.bad = true → gives (.coll p t u) s1 2) ∧
        (q.bad = false → (groupLocal s q.grp = 0x7F ∨ groupCount s q.grp = 0) → gives (.coll p t u) s1 1) ∧
        (q.bad = false → groupLocal s q.grp ≠ 0x7F → groupCount s q.grp ≠ 0 →
          ∃ s2, gives (.coll p t u) s2 0 ∧ s2.eng.colls = s1.eng.colls ++ [q])) ∧
      (∀ st s1, launchCheck s core c l = (st, none, s1) → s1.sim.stall = false → gives (.launch p t u) s1 st ∧ gives (.launchPark p t u) s1 st) ∧
      (∀ q s1, launchCheck s core c l = (0, some q, s1) → s1.sim.stall = false →
        let kind := poolFree s (core / 64) c.ten q.depth (ctxKey core x)
        (kind = 0 → gives (.launch p t u) s1 1 ∧ exec (.launchPark p t u) s = .next (ctWait s1 core x (some .parked) 10 0 l 0)) ∧
        (kind ≠ 0 → StoresPass s1 core x 32 →
          let s2 := poolDrop (regionAdmit (release (storesFirst s1 core x 32) core 3) { q with pool := kind }) core x
          gives (.launch p t u) s2 0 ∧ gives (.launchPark p t u) s2 0))) ∧
    (Fires s core x ix p false false (some 0#64) (some 0#64) →
      (∀ e s1, heapTake s (core / 64) c.ten = (some e, s1) →
        exec (.tdeq p t u) s = .next (ctPerformed s1 core x ix [(0, t, some e.val), (1, u, some e.key)]) ∧
        exec (.tdeqPark p t u) s = .next (ctPerformed s1 core x ix [(0, t, some e.val), (1, u, some e.key)])) ∧
      (s.rg.heaps.at (heapKey (core / 64) c.ten) = [] →
        exec (.tdeq p t u) s = performs s core x ix [t, u] none ∧ exec (.tdeqPark p t u) s = .next (ctWait s core x (some .wait) 11 1 0#64 0)))) ∧
  (∀ s core x ix p t u, Fires s core x ix p false false (some 0#64) (some 0#64) →
    let e := schedAt s core (ctxOf s core x)
    (e.v = true → exec (.schnext p t u) s = .next (ctDone (atCommit s core x ix .schnext) core x ix none [(0, t, some e.arg), (1, u, some 0#64)])) ∧
    (e.v = false → exec (.schnext p t u) s = .next (ctDone s core x ix none [(0, t, none), (1, u, some 1#64)])))

/-- zrel, zbar and zanno answer what their zone operation answers; zres asks for a slot and holds its context (R126, R127,
R132, R136, R307). -/
def Obligations.ZoneForms : Prop :=
  ∀ s core x ix p t u (l r : Word), Fires s core x ix p true true (some l) (some r) → Commands s core x ix →
    let c := ctxOf s core x
    let gives (i : Instr) (s1 : State) (st : Nat) : Prop := exec i s = performs s1 core x ix [t, u] (some (BitVec.ofNat 64 st))
    (let q := zoneRel s core (l.extractLsb' 0 3).toNat (l.extractLsb' 3 6).toNat (l.getLsbD 9) (l.extractLsb' 10 54 != 0#54) c.asid
     gives (.zrel p t u) q.2 q.1.code) ∧
    (let q := zoneBar s core (l.extractLsb' 0 3).toNat (l.extractLsb' 3 6).toNat (r.extractLsb' 52 12).toNat (r.extractLsb' 0 21).toNat
        (l.extractLsb' 9 6).toNat (l.extractLsb' 15 49 != 0#49 || r.extractLsb' 21 31 != 0#31) c.asid
     gives (.zbar p t u) q.2 q.1.code) ∧
    (let z := (r.extractLsb' 0 3).toNat
     let d := zoneOf s core z
     (r.extractLsb' 4 60 ≠ 0#60 → gives (.zanno p t u) s 2) ∧
     (r.extractLsb' 4 60 = 0#60 → r.getLsbD 3 = true →
       (d.v = true → d.asid ≠ c.asid → gives (.zanno p t u) s 1) ∧ (d.v = false → gives (.zanno p t u) s 0) ∧
       (d.v = true → d.asid = c.asid → gives (.zanno p t u) (zoneUndefine s core z).2 (zoneUndefine s core z).1.code)) ∧
     (r.extractLsb' 4 60 = 0#60 → r.getLsbD 3 = false → l.toNat % 64 = 0 → (d.v = true → d.asid = c.asid) →
       ∀ ws s1, memWords s (ctxActor core c) l.toNat 8 = (.inr ws, s1) →
       let n := Zone.ofWords ws c.asid c.rid
       let st := zoneDefCheck s1 core z n.1 n.2
       gives (.zanno p t u) (if st = .ok then zoneDefine s1 core z n.1 else s1) st.code)) ∧
    (let out (st : ResvSt) : Prop := exec (.zres p t u) s = performs s core x ix [t, u] (some (resvWord st 0#16 0))
     let pe := s.xl.peers.at (l.extractLsb' 0 7).toNat
     let asked := (s.zn.resv.at core).length + (s.ctl.pend.filter (fun w => w.core == core && w.kind == .zres)).length
     (l.extractLsb' 19 22 ≠ 0#22 → out .badh) ∧ (l.extractLsb' 19 22 = 0#22 → l.getLsbD 7 = false → pe.v = false → out .nopeer) ∧
     (l.extractLsb' 19 22 = 0#22 → (l.getLsbD 7 = true ∨ pe.v = true) → 64 ≤ asked → out .norec) ∧
     (l.extractLsb' 19 22 = 0#22 → l.getLsbD 7 = true → asked < 64 →
       let q : ResvReq := { zh := l, node := nodeId s, core := BitVec.ofNat 8 core, ctx := BitVec.ofNat 3 x, ring := r.extractLsb' 0 6,
                            inPort := none, outPort := none }
       exec (.zres p t u) s = .next (pushEv (pendIssue (setIrrev s core x) core x ix .zres 18 0 l 0#64 0#64) .reservationRequest
         { (default : EvArg) with load := .resv q })))

/-- The accumulator forms check their set first, wait for a row that is held, and else perform what they name (R110, R111,
R116, R117, R119, R120, R311, R312). -/
def Obligations.AccumulatorForms : Prop :=
  ∀ s core x ix p t u (l r : Word),
    let c := ctxOf s core x
    let a := (l.extractLsb' 60 4).toNat
    let j := (l.extractLsb' 40 16).toNat
    let e := (l.extractLsb' 26 14).toNat
    let sc := (l.extractLsb' 56 4).toNat
    let d := accOf s core a
    let gives (i : Instr) (s1 : State) (st : AccSt) : Prop := exec i s = performs s1 core x ix [t, u] (some (BitVec.ofNat 64 st.code))
    let held : Out := .next (ctHold s core x 8 (a * 65536 + j))
    let mine := d.v = true ∧ d.asid = c.asid
    (Commands s core x ix → Fires s core x ix p true true (some l) (some r) →
      (sc = 0 → l.getLsbD 55 = false → gives (.acopen p t u) (accUndefine s core a c.asid).2 (accUndefine s core a c.asid).1) ∧
      (sc = 0 → l.getLsbD 55 = true →
        let n := { accImage l r with asid := c.asid, rid := c.rid }
        let st := accDefine s core a n (l.extractLsb' 48 7 != 0#7 || l.extractLsb' 30 5 != 0#5 || r.extractLsb' 42 22 != 0#22)
        gives (.acopen p t u) (if st = .ok then accOpenSet s core a n else s) st) ∧
      (d.v = true → d.asid ≠ c.asid → gives (.acadd p t u) s .notowner ∧ gives (.acevict p t u) s .notowner ∧ gives (.acload p t u) s .notowner) ∧
      (mine → l.extractLsb' 0 26 = 0#26 → e < d.n →
        (rowHeld s core a j 0 = true → exec (.acadd p t u) s = .next (ctHold (acaddIssue s core x ix l) core x 8 (a * 65536 + j))) ∧
        (rowHeld s core a j 0 = false →
          let y := rowAdd (acaddEnd s core x ix) core a j e sc [r.setWidth 48 &&& 0x03FFFFFFFFFF#48]
          gives (.acadd p t u) (progress y.2 core d.rid) y.1)) ∧
      (mine → sc = 0 → l.extractLsb' 0 12 = 0#12 → l.extractLsb' 12 14 = 0#14 → e < d.n → r.toNat < 2 ^ 16 →
        (scopesOpen d (r.setWidth 16) = true → exec (.acnorm p t u) s = .next (ctHold s core x 7 (scopeIdx d a (r.setWidth 16)))) ∧
        (scopesOpen d (r.setWidth 16) = false →
          (rowOpen s core a j = false →
            exec (.acnorm p t u) s = .next (ctPerformed s core x ix [(0, t, none), (1, u, some (BitVec.ofNat 64 AccSt.accrow.code))])) ∧
          (rowOpen s core a j = true → rowHeld s core a j 0 = true → exec (.acnorm p t u) s = held) ∧
          (rowOpen s core a j = true → rowHeld s core a j 0 = false →
            exec (.acnorm p t u) s = .next (ctPerformed (progress (temperDone s core a j) core d.rid) core x ix
              [(0, t, some (((temperToks d (s.ac.rows.at (rowKey core a j)) false false e 1).headD 0#48).setWidth 64)), (1, u, some 0#64)])))) ∧
      (mine → sc = 0 → l.extractLsb' 0 38 = 0#38 → r.toNat % 64 = 0 →
        (rowOpen s core a j = false → gives (.acevict p t u) s .accrow) ∧
        (rowOpen s core a j = true → rowHeld s core a j 0 = true → exec (.acevict p t u) s = held) ∧
        (∀ s1, rowOpen s core a j = true → rowHeld s core a j 0 = false →
          memHeld s (d.actor s core) .store r.toNat (evictImage d (s.ac.rows.at (rowKey core a j)) (l.getLsbD 39)).length = false →
          memWrite s (d.actor s core) r.toNat (evictImage d (s.ac.rows.at (rowKey core a j)) (l.getLsbD 39)) = (none, s1) →
          ∃ s2, gives (.acevict p t u) s2 .ok ∧ (l.getLsbD 38 = false → s2 = progress s1 core d.rid) ∧
            (l.getLsbD 38 = true → rowOpen s2 core a j = false))) ∧
      (mine → l.extractLsb' 0 39 = 0#39 → r.toNat % 64 = 0 → j < d.nrow →
        let s1 := scopeOpen s core a sc
        let busy := memHeld s1 (d.actor s1 core) .load r.toNat (imageSize d (l.getLsbD 39))
        ((rowHeld s1 core a j 0 = true ∨ busy = true) → exec (.acload p t u) s = .next (ctHold s1 core x 8 (a * 65536 + j))) ∧
        (∀ img s2, rowHeld s1 core a j 0 = false → busy = false → memRead s1 (d.actor s1 core) r.toNat (imageSize d (l.getLsbD 39)) = (.inr img, s2) →
          (reloadRow d (s2.ac.rows.at (rowKey core a j)) (l.getLsbD 39) img = none → gives (.acload p t u) s2 .badimg) ∧
          (∀ row, reloadRow d (s2.ac.rows.at (rowKey core a j)) (l.getLsbD 39) img = some row →
            gives (.acload p t u) (progress (rowReload s2 core a j (l.getLsbD 39) row) core d.rid) .ok)))) ∧
    (Commands s core x ix → Fires s core x ix p true true (some l) none → mine → l.extractLsb' 0 26 = 0#26 → e < d.n →
      rowHeld s core a j 0 = false →
      let y := rowAdd (acaddEnd s core x ix) core a j e sc [0x040000000000#48]
      gives (.acadd p t u) (progress y.2 core d.rid) y.1) ∧
    (∀ m : BitVec 5, Fires s core x ix p true false (some l) (some 0#64) → Turns s core x m.toNat →
      let one (s1 : State) (st : AccSt) : Prop := exec (.acscope p t m) s = tokenMem s1 core x ix m.toNat [t] (some (BitVec.ofNat 64 st.code))
      (l.extractLsb' 0 56 ≠ 0#56 → (d.v = false ∨ d.asid = c.asid) → one s .badrange) ∧
      let issued := acaddsWait s core (fun w => accSetOf w.a == a && accScopeOf w.a == sc)
      (l.extractLsb' 0 56 = 0#56 → (d.v = false ∨ d.asid = c.asid) → issued = true →
        exec (.acscope p t m) s = .next (ctHold s core x 9 m.toNat)) ∧
      (∀ s1, l.extractLsb' 0 56 = 0#56 → (d.v = false ∨ d.asid = c.asid) → issued = false → Allows s core x m.toNat s1 →
        let y := scopeClose (setIrrev s1 core x) core a sc (ctxOf s1 core x).asid
        one y.2 y.1))

/-- The integer, XF42 and conversion operations send their result; a null operand gives a null, and control tokens are aligned
(R223, R322, R323, R324, R328, R329, R332, R333, R334). -/
def Obligations.ValueOperations : Prop :=
  ∀ s key hnd h,
    let e := elemIn s key
    let hd := handlerIn s key hnd
    let o := Fire.of e hd
    let qs := fireQs h
    let heads := qs.filterMap e.head
    let v (flt : Bool) (c : BitVec 4) : FTok := operand e hd flt c.toNat
    let gives (i : HWord → Instr) (op : Nat) (flt nb nc : Bool) (t : FTok) : Prop :=
      let out (o : Fire) : Prop := exec (i h) s = fired s key hnd op h o
      let null : Bool := tokN (v flt h.a) || (nb && tokN (v flt h.b)) || (nc && tokN (v flt h.c))
      Runs s key hnd op h →
        (OnData s key hnd h → out { o with out := some (if null then tokNull h.och else tokOn (t &&& 0x7FFFFFFFFFFF#48) h.och), res := true, take := qs }) ∧
        (hd.gapPend = true → ∀ t r, heads = t :: r →
          out { o with out := some (tokOn t h.och), take := qs, wt := true, hd := { hd with gapPend := false } }) ∧
        (hd.gapPend = false → ∀ t r, heads = t :: r → heads.any tokC = true →
          let same (u : FTok) : Prop := tokC u = true ∧ (ctlKey u = ctlKey t ∨ (isRec t = true ∧ isRec u = true))
          ((∀ u ∈ heads, same u) →
            out { o with out := some (tokOn t h.och), take := qs, hd := { hd with gapPend := tokCode t == 7 } }) ∧
          (¬(∀ u ∈ heads, same u) → exec (i h) s = .next (elemBlock s key h.graph.toNat 0x15)))
    let int (i : HWord → Instr) (op : Nat) (nc : Bool) (x : BitVec 32) : Prop := gives i op false true nc (x.setWidth 48)
    let a := (v false h.a).extractLsb' 0 32
    let b := (v false h.b).extractLsb' 0 32
    let c := (v false h.c).extractLsb' 0 32
    let rm := RMode.ofCode h.rm.toNat
    let x := Machine.Num.xfOf (v true h.a)
    let y := Machine.Num.xfOf (v true h.b)
    let z := Machine.Num.xfOf (v true h.c)
    let num (i : HWord → Instr) (op : Nat) (nb nc : Bool) (w : FV) : Prop := gives i op true nb nc (Machine.Num.xfRound rm w)
    let same (i : HWord → Instr) (op : Nat) (nb : Bool) (w : FTok) : Prop := gives i op true nb false w
    let test (p : Bool) : FTok := if p then 1#48 else 0#48
    int .iadd 0x01 false (a + b) ∧
    int .isub 0x02 false (a - b) ∧
    int .imul 0x03 false (a * b) ∧
    int .imulh 0x04 false ((a.signExtend 64 * b.signExtend 64).extractLsb' 32 32) ∧
    int .iand 0x05 false (a &&& b) ∧
    int .ior 0x06 false (a ||| b) ∧
    int .ixor 0x07 false (a ^^^ b) ∧
    int .ishl 0x08 false (a <<< (b.extractLsb' 0 5).toNat) ∧
    int .ishr 0x09 false (a >>> (b.extractLsb' 0 5).toNat) ∧
    int .isha 0x0A false (a.sshiftRight (b.extractLsb' 0 5).toNat) ∧
    int .imin 0x0B false (if a.sle b then a else b) ∧
    int .imax 0x0C false (if b.sle a then a else b) ∧
    int .ieq 0x0D false (if a = b then 1#32 else 0#32) ∧
    int .ilt 0x0E false (if a.toInt < b.toInt then 1#32 else 0#32) ∧
    int .iltn 0x0F false (if a.toNat < b.toNat then 1#32 else 0#32) ∧
    int .isel 0x10 true (if c.getLsbD 0 then a else b) ∧
    num .fadd 0x20 true false (Machine.Num.add rm x y) ∧ num .fsub 0x21 true false (Machine.Num.add rm x (Machine.Num.neg y)) ∧
    num .fmul 0x22 true false (Machine.Num.mul x y) ∧ num .fma 0x23 true true (Machine.Num.fma rm x y z) ∧
    same .fmin 0x24 true (if x = .nan ∨ y = .nan then Machine.Num.xfNaN else Machine.Num.xfRound .rne (if Machine.Num.ltz y x then y else x)) ∧
    same .fmax 0x25 true (if x = .nan ∨ y = .nan then Machine.Num.xfNaN else Machine.Num.xfRound .rne (if Machine.Num.ltz x y then y else x)) ∧
    same .fneg 0x26 false (Machine.Num.xfRound .rne (Machine.Num.neg x)) ∧ same .fabs 0x27 false (Machine.Num.xfRound .rne (Machine.Num.abs x)) ∧
    num .frcp 0x28 false false (Machine.Num.rcp x) ∧ num .frsq 0x29 false false (Machine.Num.rsq x) ∧
    num .fexp2 0x2A false false (Machine.Num.exp2 x) ∧ num .flog2 0x2B false false (Machine.Num.log2 x) ∧
    same .feq 0x2C true (test (Machine.Num.eq x y)) ∧ same .flt 0x2D true (test (Machine.Num.lt x y)) ∧
    gives .fsel 0x2E true true true (if z ≠ .nan ∧ Machine.Num.sign z = false then v true h.a else v true h.b) ∧
    gives .cvif 0x30 false false false (Machine.Num.xfRound .rne (Machine.Num.ofInt (if h.param.getLsbD 0 then (a.toNat : Int) else a.toInt) 0)) ∧
    (let lo : Int := if h.param.getLsbD 0 then 0 else -2147483648
     let hi : Int := if h.param.getLsbD 0 then 4294967295 else 2147483647
     same .cvfi 0x31 false (match x with
      | .nan => 0#48
      | .inf n => Machine.Num.intTok (if n then lo else hi)
      | w => Machine.Num.intTok (max lo (min hi (Machine.Num.toInteger rm w)))))

/-- A firing on data consumes its FIRE tokens, writes the result to DST and its register, and leaves all else (R187, R322,
R325). -/
def Obligations.FiringFrame : Prop :=
  ∀ s key hnd op h (o : Fire),
    let e := elemIn s key
    o.e = e → o.block = none → o.also = none → o.errs = [] → o.take.Nodup → (∀ q ∈ o.take, q < 4) →
    (∀ q ∈ o.take, ∀ t, e.head q = some t → tokC t = false) →
    (∀ g, e.seg = some g → ∀ q ∈ o.take, ∀ t, ((e.inq.at q).drop 1).head? = some t → e.tokSlot t.tok = some g) →
    o.hd.word = (handlerIn s key hnd).word → o.hd.present = (handlerIn s key hnd).present →
    let t := fireEnd s key hnd op h o
    let n := elemIn t key
    t = { s with fab.elems := t.fab.elems, sim.seqNo := t.sim.seqNo } ∧
    (∀ k, k ≠ key → elemIn t k = elemIn s k) ∧
    (∀ q, ((n.inq.at q).map (·.tok)) = (((e.inq.at q).map (·.tok)).drop (if q ∈ o.take then 1 else 0))) ∧
    (∀ k, k ≠ hnd → handlerIn t key k = handlerIn s key k) ∧ handlerIn t key hnd = { o.hd with age := 0 } ∧
    n.st0 = (if o.res = true ∧ h.dst = 8#4 then o.out.getD e.st0 else e.st0) ∧
    n.st1 = (if o.res = true ∧ h.dst = 9#4 then o.out.getD e.st1 else e.st1) ∧
    ((o.out.isSome ∧ (h.outmask ≠ 0#4 ∨ h.dsel ≠ 0#3)) → n.res = o.out ∧ n.pend = consumersOf h ∧ n.resSlot = h.graph.toNat) ∧
    (¬(o.out.isSome ∧ (h.outmask ≠ 0#4 ∨ h.dsel ≠ 0#3)) → n.res = e.res ∧ n.pend = e.pend ∧ n.resSlot = e.resSlot) ∧
    n = { e with inq := n.inq, act := n.act, st0 := n.st0, st1 := n.st1, res := n.res, pend := n.pend, resSlot := n.resSlot }

/-- Steering, coordinates, injection and accumulation: what each operation consumes and sends (R322, R323, R324, R335, R336,
R337, R338, R339, R340, R341, R342, R343). -/
def Obligations.StreamOperations : Prop :=
  ∀ s key hnd h,
    let e := elemIn s key
    let hd := handlerIn s key hnd
    let o := Fire.of e hd
    let qs := fireQs h
    let a := h.a.toNat
    let b := h.b.toNat
    let c := h.c.toNat
    let p := h.param
    let rm := RMode.ofCode h.rm.toNat
    let runs (op : Nat) : Prop := Runs s key hnd op h
    let out (i : HWord → Instr) (op : Nat) (o : Fire) : Prop := exec (i h) s = fired s key hnd op h o
    let mis (i : HWord → Instr) : Prop := exec (i h) s = .next (elemBlock s key h.graph.toNat 0x15)
    let onto (t : FTok) : Option FTok := some (tokOn t h.och)
    let value (t : FTok) : Option FTok := some (tokOn (t &&& 0x7FFFFFFFFFFF#48) h.och)
    let ta := operand e hd false a
    let xa := operand e hd true a
    let count (n : Nat) (t : FTok) : FTok := BitVec.ofNat 48 (min (2 ^ 32 - 1) ((t.extractLsb' 0 32).toNat + n))
    let after (prev : Option (BitVec 32)) (x : BitVec 32) : List Nat := if prev.any (fun y => decide (x ≤ y)) then [0x16] else []
    (runs 0x40 → out .pass 0x40 { o with out := onto ta, res := !tokC ta, take := qs }) ∧
    (runs 0x48 → out .stopck 0x48 { o with
      out := onto ta, res := !tokC ta, take := qs,
      errs := if isCode 3 ta && decide (p.toNat % 16 < tokArg ta / 2 ^ 20) then [0x17] else [] }) ∧
    (OnData s key hnd h → tokN ta = false →
      (runs 0x49 → out .swap 0x49 { o with out := some (ctlTok h.och 9 0), take := qs }) ∧
      (runs 0x4A →
        let t := fireEnd s key hnd 0x4A h { o with out := some (ctlTok h.och 6 (tokArg ta)), take := qs }
        exec (.mark h) s = .next (elemSnap t (slotRid t (elemCore key) h.graph.toNat) key)) ∧
      (runs 0x4B → out .hand 0x4B { o with out := some (ctlTok h.och 10 (p.toNat % 16)), take := qs })) ∧
    (OnData s key hnd h → runs 0x41 →
      (hd.ph.toNat < p.toNat % 256 → out .dup 0x41 { o with out := onto ta, res := true, hd := { hd with ph := hd.ph + 1#8, dout := hd.dout + 1 } }) ∧
      (p.toNat % 256 ≤ hd.ph.toNat →
        out .dup 0x41 { o with out := onto ta, res := true, take := qs, hd := { hd with ph := 0#8, din := hd.din + 1, dout := hd.dout + 1 } })) ∧
    (hd.gapPend = false → runs 0x44 → ∀ t, e.head c = some t → tokC t = false →
      let q := if t.getLsbD 0 then a else b
      (tokN t = true → out .tsel 0x44 { o with out := some (tokNull h.och), res := true, take := [c] }) ∧
      (tokN t = false → ∀ v, e.head q = some v →
        (tokC v = false → out .tsel 0x44 { o with out := onto v, res := true, take := [c, q] }) ∧ (tokC v = true → mis .tsel))) ∧
    (hd.gapPend = false → runs 0x43 → ∀ u, e.head b = some u → tokC u = false →
      (tokN u = true → out .gate 0x43 { o with take := [b] }) ∧
      (tokN u = false → p.getLsbD 1 = true → ∀ t, e.head a = some t →
        out .gate 0x43 (if u.getLsbD 0 then { o with out := onto t, res := true, take := [a, b] } else { o with take := [a, b] })) ∧
      (tokN u = false → p.getLsbD 1 = false →
        let adv := u.getLsbD (if p.getLsbD 0 then 1 else 0)
        (adv = false → out .gate 0x43 (if u.getLsbD 2 then { o with out := onto 0#48, res := true, take := [b] } else { o with take := [b] })) ∧
        (adv = true → ∀ t, e.head a = some t → (tokC t = true → mis .gate) ∧
          (tokC t = false → out .gate 0x43
            (if u.getLsbD 2 then { o with out := onto t, res := true, take := [a, b] } else { o with take := [a, b] }))))) ∧
    (hd.gapPend = false → ∀ t u, e.head a = some t → e.head b = some u → tokC t = false → tokN t = false → tokC u = false → tokN u = false →
      let x := t.extractLsb' 0 32
      let y := u.extractLsb' 0 32
      let word (f : BitVec 3) (v : FTok) : Option FTok := value ((v.extractLsb' 0 29).setWidth 48 <<< 3 ||| f.setWidth 48)
      let ea := after hd.prevA x
      let eb := after hd.prevB y
      (runs 0x45 → out .merge 0x45 (if x ≤ y then { o with out := onto t, res := true, take := [a], errs := ea, hd := { hd with prevA := some x } }
        else { o with out := onto u, res := true, take := [b], errs := eb, hd := { hd with prevB := some y } })) ∧
      (∀ i op m, ((i, op, m) = (Instr.isect, 0x46, 0#3) ∨ (i, op, m) = (Instr.union, 0x47, 4#3)) → runs op →
        (x < y → out i op { o with out := word (1#3 ||| m) t, res := true, take := [a], errs := ea, hd := { hd with prevA := some x } }) ∧
        (y < x → out i op { o with out := word (2#3 ||| m) u, res := true, take := [b], errs := eb, hd := { hd with prevB := some y } }) ∧
        (x = y → out i op { o with
          out := word 7#3 t, res := true, take := [a, b], errs := ea ++ eb,
          hd := { hd with prevA := some x, prevB := some y } }))) ∧
    (OnData s key hnd h →
      let w : FTok := operand e hd (!p.getLsbD 2) a
      (runs 0x50 → tokN w = false → out .acc 0x50 { o with
        take := qs, e := { e with
        st0 := if p.getLsbD 2 then (e.st0.extractLsb' 0 32 + w.extractLsb' 0 32).setWidth 48
          else Machine.Num.xfRound rm (Machine.Num.add rm (Machine.Num.xfOf e.st0) (Machine.Num.xfOf w))
        st1 := (e.st1.extractLsb' 0 32 + 1#32).setWidth 48 } }) ∧
      (runs 0x51 → tokN xa = false → out .accw 0x51 { o with
        take := qs, e := { e with
        st0 := Machine.Num.xfRound rm (Machine.Num.fma rm (Machine.Num.xfOf xa) (rwtVal hd) (Machine.Num.xfOf e.st0))
        st1 := count hd.rwt.toNat e.st1 } }) ∧
      (runs 0x42 → tokN ta = false →
        out .cnt 0x42 (if p.getLsbD 0 then { o with take := qs, e := { e with st0 := count 256 e.st0 } } else { o with take := qs })) ∧
      (runs 0x53 → tokN xa = false → out .wmul 0x53 { o with
        out := value (Machine.Num.xfRound rm (Machine.Num.mul (Machine.Num.xfOf xa) (rwtVal hd))), res := true, take := qs }) ∧
      (runs 0x52 →
        let xb := operand e hd true b
        tokN xa = false → tokN xb = false →
        (hd.ph = 0#8 → out .bfly 0x52 { o with
          out := value (Machine.Num.xfRound rm (Machine.Num.add rm (Machine.Num.xfOf xa) (Machine.Num.xfOf xb))), res := true,
          hd := { hd with ph := 1#8, dout := hd.dout + 1 } }) ∧
        (hd.ph ≠ 0#8 → out .bfly 0x52 { o with
          out := some (tokOn (Machine.Num.xfRound rm (Machine.Num.add rm (Machine.Num.xfOf xa) (Machine.Num.neg (Machine.Num.xfOf xb)))
            &&& 0x7FFFFFFFFFFF#48) (p.extractLsb' 0 4)), res := true, take := qs,
          hd := { hd with ph := 0#8, din := hd.din + 2, dout := hd.dout + 1 } }))) ∧
    (∀ q t, qs = [q] → e.head q = some t → tokC t = true → hd.gapPend = false →
      let level := tokArg t / 2 ^ 20
      let trigger : Prop := (p.toNat % 4 = 0 ∧ isCode 4 t = true) ∨ (p.toNat % 4 = 1 ∧ isCode 3 t = true ∧ p.toNat / 16 % 16 ≤ level) ∨
        (p.toNat % 4 = 2 ∧ isCode 2 t = true)
      let first (errs : List Nat) (v : FTok) : Fire := { o with out := value v, errs := errs, hd := { hd with ph := 1#8 } }
      let last : Fire := { o with out := onto t, take := [q], hd := { hd with ph := 0#8, gapPend := false }, e := { e with st0 := 0#48, st1 := 0#48 } }
      (trigger → runs 0x50 →
        (hd.ph = 0#8 → out .acc 0x50
          (first (if isCode 4 t && tokArg t != 0 && tokArg t != (e.st1.extractLsb' 0 32).toNat then [0x18] else []) e.st0)) ∧
        (hd.ph ≠ 0#8 → out .acc 0x50 last)) ∧
      (trigger → runs 0x51 → (hd.ph = 0#8 → out .accw 0x51 (first [] (if p.getLsbD 8 then meanOf rm e else e.st0))) ∧
        (hd.ph ≠ 0#8 → out .accw 0x51 last)) ∧
      (isCode 2 t = true → runs 0x42 → (hd.ph = 0#8 → out .cnt 0x42 (first [] e.st0)) ∧
        (hd.ph ≠ 0#8 → out .cnt 0x42 { last with e := { e with st0 := 0#48 } }))) ∧
    (∀ q t, qs = [q] → e.head q = some t → a = q → runs 0x54 →
      (hd.gapPend = true → out .gapw 0x54 { o with
        out := some (tokOn t (p.extractLsb' 0 4)), res := !tokC t, take := [q], hd := { hd with gapPend := false } }) ∧
      (hd.gapPend = false → isCode 7 t = true → out .gapw 0x54 { o with take := [q], hd := { hd with gapPend := true } }) ∧
      (hd.gapPend = false → isCode 7 t = false → out .gapw 0x54 { o with out := onto t, res := !tokC t, take := [q] }))

/-- widen, cmpd, join, win, mxnode, cpnode and clnode: what each consumes, sends and does outside the fabric (R166, R322,
R345, R346, R347, R348, R349). -/
def Obligations.NodeOperations : Prop :=
  ∀ s key hnd h,
    let e := elemIn s key
    let hd := handlerIn s key hnd
    let o := Fire.of e hd
    let qs := fireQs h
    let a := h.a.toNat
    let b := h.b.toNat
    let p := h.param
    let core := elemCore key
    let rm := RMode.ofCode h.rm.toNat
    let runs (op : Nat) : Prop := Runs s key hnd op h
    let out (i : HWord → Instr) (op : Nat) (o : Fire) : Prop := exec (i h) s = fired s key hnd op h o
    let onto (t : FTok) : Option FTok := some (tokOn t h.och)
    let ta := operand e hd false a
    let xa := operand e hd true a
    let sixteen (n : Nat) (t : FTok) : FTok := BitVec.ofNat 48 (min (2 ^ 32 - 1) ((t.extractLsb' 0 32).toNat + n))
    let after (prev : Option (BitVec 32)) (x : BitVec 32) : List Nat := if prev.any (fun y => decide (x ≤ y)) then [0x16] else []
    (runs 0x58 →
      let t := fireEnd s key hnd 0x58 h { o with out := onto ta, res := !tokC ta, take := qs }
      exec (.widen h) s = .next (release (regionFlush t core (slotRid t core h.graph.toNat)) core p.toNat)) ∧
    (runs 0x59 → ∀ t u, e.head a = some t → e.head b = some u → a < 4 →
      (t = u → out .cmpd 0x59 { o with out := onto t, res := !tokC t, take := qs }) ∧
      (t ≠ u → out .cmpd 0x59 { o with take := qs, errs := [0x19] })) ∧
    (runs 0x60 → hd.gapPend = false → ∀ t u, e.head a = some t → e.head b = some u →
      let ph (n : BitVec 8) : Handler := { hd with ph := n }
      let A := hd.sideA
      let B := hd.sideB
      (hd.ph = 0#8 → A = default → isRec t = true →
        out .join 0x60 { o with take := [a], hd := { hd with sideA := { weight := some (tokArg t), key := none } } }) ∧
      (hd.ph = 0#8 → ∀ w, A.weight = some w → A.key = none →
        (tokC t = false → tokN t = false → out .join 0x60 { o with
          take := [a], errs := after hd.prevA (t.extractLsb' 0 32), hd := { hd with sideA := { A with key := some t }, prevA := some (t.extractLsb' 0 32) } }) ∧
        (tokC t = true → out .join 0x60 { o with errs := [0x1A], hd := { hd with sideA := default } })) ∧
      (∀ w z k l, A.weight = some w → A.key = some k → B.weight = some z → B.key = some l → tokN k = false → tokN l = false →
        (hd.ph = 0#8 → tokC t = false → tokC u = false →
          let x := k.extractLsb' 0 32
          let y := l.extractLsb' 0 32
          (x < y → out .join 0x60 { o with take := [a], hd := { hd with sideA := default } }) ∧
          (y < x → out .join 0x60 { o with take := [b], hd := { hd with sideB := default } }) ∧
          (x = y → out .join 0x60 { o with
            out := some (ctlTok h.och 8 (min 0xFFFFFF (divRne ((w * z : Nat) : Int) 256).toNat)), hd := ph 1#8 })) ∧
        (hd.ph = 1#8 → out .join 0x60 { o with out := onto k, res := true, hd := ph 2#8 }) ∧
        (hd.ph = 2#8 → out .join 0x60 { o with out := onto t, res := true, hd := ph 3#8 }) ∧
        (hd.ph = 3#8 → out .join 0x60 { o with
          out := onto u, res := true, take := [a, b], hd := { hd with ph := 0#8, sideA := default, sideB := default } }))) ∧
    (runs 0x61 → hd.gapPend = false → ∀ q t, qs = [q] → a = q → e.head q = some t → tokC t = false → tokN t = false →
      let count := p.getLsbD 15
      let e' : Elem := { e with
        st0 := if count then Machine.Num.xfRound rm (Machine.Num.add rm (Machine.Num.xfOf e.st0) (Machine.Num.xfOf t))
          else Machine.Num.xfRound rm (Machine.Num.fma rm (Machine.Num.xfOf t) (rwtVal hd) (Machine.Num.xfOf e.st0))
        st1 := if count then sixteen 256 e.st1 else e.st1 }
      let full := (p.extractLsb' 0 15).toNat * 256 ≤ (e'.st1.extractLsb' 0 32).toNat
      (hd.ph = 0#8 → ¬full → out .win 0x61 { o with e := e', take := qs }) ∧
      (hd.ph = 0#8 → full →
        out .win 0x61 { o with e := e', out := some (ctlTok h.och 8 (min 0xFFFFFF (e'.st1.extractLsb' 0 32).toNat)), hd := { hd with ph := 1#8 } }) ∧
      (hd.ph = 1#8 → out .win 0x61 { o with out := onto (e.st0 &&& 0x7FFFFFFFFFFF#48), hd := { hd with ph := 2#8 } }) ∧
      (hd.ph = 2#8 → out .win 0x61 { o with
        out := onto 0#48, take := qs, hd := { hd with ph := 0#8 }, e := { e with st0 := 0#48, st1 := 0#48 } })) ∧
    (let g : HWord := { h with dsel := 0#3 }
     (p.getLsbD 0 = false → Runs s key hnd 0x62 g → OnData s key hnd h →
       exec (.mxnode h) s = .next (feedToken (fireEnd s key hnd 0x62 g { o with out := onto ta, res := !tokC ta, take := qs }) key h false (tokOn ta h.och))) ∧
     (p.getLsbD 0 = true → qs = [] → runs 0x62 → ∀ t r, (s.eng.islands.at core).outq = t :: r →
       exec (.mxnode h) s = .next (islandUpd (fireEnd s key hnd 0x62 h { o with out := onto t, res := !tokC t, also := some t }) core
         (fun i => { i with outq := i.outq.drop 1 }))) ∧
     (runs 0x63 → OnData s key hnd h → tokN ta = false → tokC ta = false →
       let t := fireEnd s key hnd 0x63 h { o with out := some ta, take := qs }
       let d := tmplOf t core p.toNat
       let rid := slotRid t core h.graph.toNat
       let ours := d.v = true ∧ d.arm = true ∧ d.asid = (regionOf t rid).asid
       (ours → exec (.cpnode h) s = .next (tmplFire t core p.toNat (ta.extractLsb' 0 32))) ∧
       (¬ours → exec (.cpnode h) s = .next (regionError t rid 0x1B (keyLoc key) []))) ∧
     (Runs s key hnd 0x64 g → OnData s key hnd h → tokN xa = false →
       let n := groupCount s (p.toNat % 64)
       let me := groupLocal s (p.toNat % 64)
       me < n → me ≠ 0x7F →
       ∃ ts : List FTok, ts.length = n ∧ ts[me]? = some xa ∧
         let v := if ts.any tokN then tokNull h.och else tokOn (collTok (p.toNat / 64 % 4) rm ts &&& 0x7FFFFFFFFFFF#48) h.och
         let t := fireEnd s key hnd 0x64 g { o with out := some v, res := true, take := qs }
         exec (.clnode h) s = .next (acquire { t with sim.freeIdx := t.sim.freeIdx + (n - 1) } core 4)))

/-- The ply forms answer their status in rd, and the mailbox, binding, window and flag of an episode do what the manual says
(R401, R402, R403, R404, R405, R408, R409, R412, R413, R414, R415, R416). -/
def Obligations.HearthForms : Prop :=
  (∀ s hc d v, let t := hartNext s hc d v
    (hartOf t hc).pc = (hartOf s hc).pc + 4#64 ∧ (hartOf t hc).reg d = (if d = 0#5 then 0#64 else v) ∧
    (∀ r, r ≠ d → (hartOf t hc).reg r = (hartOf s hc).reg r) ∧ (∀ k, k ≠ hc → hartOf t k = hartOf s k) ∧ t.mem = s.mem) ∧
  (∀ s hc (b a d : BitVec 5), s.sim.cur = .hart hc → (hartOf s hc).hepcur.getLsbD 4 = false →
    ∀ i, (i = Instr.plySend b a d ∨ i = .plyRecv b a d ∨ i = .plyPoll b a d ∨ i = .plyTag b a d ∨ i = .plyFlag b a d ∨ i = .plyEnd b a d ∨
      i = .plyRwd b a d) → exec i s = .next (hartNext s hc d (plyStatus 1 0))) ∧
  (∀ s hc (b a d : BitVec 5), s.sim.cur = .hart hc → (hartOf s hc).hepcur.getLsbD 4 = true →
    let h := hartOf s hc
    let k := epKey hc (h.hepcur.extractLsb' 0 4).toNat
    let e := s.hth.eps.at k
    let off := (h.reg a).toNat
    let len := ((h.reg b).extractLsb' 0 13).toNat
    let gives (i : Instr) (t : State) (v : Word) : Prop := exec i s = .next (hartNext t hc d v)
    (e.st ≠ .live → gives (.plySend b a d) s (plyStatus 1 0) ∧ gives (.plyRwd b a d) s (plyStatus 1 0) ∧ gives (.plyEnd b a d) s (plyStatus 1 0)) ∧
    (e.st = .live →
      ((4096 < len ∨ e.inWindow off len = false) → gives (.plySend b a d) s (plyStatus 2 0)) ∧
      (len ≤ 4096 → e.inWindow off len = true →
        (len ≠ 0 → e.slots ≤ e.busy.length → gives (.plySend b a d) s (plyStatus 3 0)) ∧
        ((len = 0 ∨ e.busy.length < e.slots) → ∃ val,
          gives (.plySend b a d) (obsPlace (freeN (winRead s k e off len).2).2 k (epi k e) 1 val (winRead s k e off len).1) (plyStatus 0 e.oseq.toNat))) ∧
      gives (.plyRwd b a d) (obsPlace s k (epi k e) 4 ((h.reg a).extractLsb' 0 32) []) (plyStatus 0 e.oseq.toNat) ∧
      (∃ t, gives (.plyEnd b a d) t (plyStatus 0 e.oseq.toNat) ∧ (t.hth.eps.at k).st = .dead ∧ (t.hth.eps.at k).flag = 0#40)) ∧
    gives (.plyPoll b a d) s (BitVec.ofNat 64 e.acts.length) ∧ gives (.plyTag b a d) s (e.ptag.setWidth 64) ∧
    (∃ t, gives (.plyFlag b a d) t 0#64 ∧ (t.hth.eps.at k).bud = (h.reg a).extractLsb' 0 40 ∧
      (∀ j, j ≠ k → t.hth.eps.at j = s.hth.eps.at j) ∧ t.mem = s.mem) ∧
    (e.st = .free → gives (.plyRecv b a d) s (plyStatus 1 0)) ∧
    (e.st ≠ .free →
      ((off % 64 ≠ 0 ∨ e.inWindow off 4160 = false) → gives (.plyRecv b a d) s (plyStatus 2 0)) ∧
      (off % 64 = 0 → e.inWindow off 4160 = true →
        (∀ m, e.trunc = some m → gives (.plyRecv b a d) (recvTrunc s k e off m) (plyStatus 0 (5 * 2 ^ 24))) ∧
        (e.trunc = none → e.st = .dead → gives (.plyRecv b a d) s (plyStatus 1 0)) ∧
        (e.trunc = none → e.st = .live → e.acts = [] →
          (h.user = false → gives (.plyRecv b a d) s (plyStatus 4 0)) ∧
          (h.user = true → ∃ tv, exec (.plyRecv b a d) s = .next (hartTrap (free s).2 hc false 24 tv))) ∧
        (∀ m r, e.trunc = none → e.st = .live → e.acts = m :: r →
          gives (.plyRecv b a d) (recvAction s k e off m) (plyStatus 0 (m.kind * 2 ^ 24 + m.len)) ∧
          (let n := (recvAction s k e off m).hth.eps.at k
           n.ptag = m.ptag ∧ n.dseq = m.seq ∧ n.ivl = true ∧ n.flag = n.bud))))) ∧
  (∀ s,
    let hc := s.sim.arg.core.toNat
    let x := s.sim.arg.unit.toNat % 16
    let k := epKey hc x
    let e := s.hth.eps.at k
    (e.v = false → bindCheck s k ≠ 0 → ∃ t, exec .episodeBind s = .next t ∧
      (t.hth.eps.at k).v = false ∧ (t.hth.eps.at k).berr.toNat = bindCheck s k ∧ (t.hth.eps.at k).kgen = e.kgen) ∧
    (e.v = false → bindCheck s k = 0 → ∃ t, exec .episodeBind s = .next t ∧
      let n := t.hth.eps.at k
      n.v = true ∧ n.st = .live ∧ n.berr = 0#4 ∧ n.aseq = 0#32 ∧ n.oseq = 0#32 ∧ n.flag = 0#40 ∧ n.bud = 0#40 ∧ n.kgen = e.kgen) ∧
    (e.v = true → exec .episodeUnbind s = .next (epUnbind s k)) ∧ (e.v = false → exec .episodeUnbind s = .next s) ∧
    (boxReads s k = true → readPoison s e.core e.aq.toNat 0 0 = none →
      let q := s.qu.queues.at (queueKey e.core e.aq.toNat)
      let ts := ((q.views.at 0).readable q.ch).headD []
      let ds := (ts.drop 1).map (fun t => t.extractLsb' 0 32)
      let t := progress (viewPop s e.core e.aq.toNat 0 1) e.core q.rid
      exec .actionRecordAccept s = .next (if isRec (ts.headD 0#48) = true ∧ actionOk e ds = true then actionTake t k ds else t)) ∧
    (flagDown s k = true →
      let t := obsPlace (epUpd s k (fun e => { e with st := .dead, kgen := e.kgen + 1#16 })) k (epi k e) 6 0#32 []
      exec .flagFall s = .next (hartUpd t hc (fun h => { h with falls := h.falls ++ [BitVec.ofNat 4 x], mip := h.mip ||| 0x10000#64 })))) ∧
  (∀ s kind k, s.sim.arg.load = .hearth kind →
    let g := s.sim.arg
    let hc := g.core.toNat
    let ep := s.hth.eps.at k
    let n := if kind = .store then g.data.length else g.n
    (hartOf s hc).user = true → (hartOf s hc).episode hc = some k →
    (ep.inWindow g.v.toNat n = false → exec .hearthWindowAccess s = .next (hartTrap s hc false (HKind.cause kind) g.v)) ∧
    (ep.inWindow g.v.toNat n = true → kind = .load →
      let r := winRead s k ep g.v.toNat n
      exec .hearthWindowAccess s = .next (hartUpd r.2 hc (fun h => h.setReg (g.unit.setWidth 5) (loadedValue r.1 g.flag)))) ∧
    (ep.inWindow g.v.toNat n = true → kind = .store → g.w.extractLsb' 0 16 = ep.kgen → g.w.extractLsb' 16 16 = ep.key →
      exec .hearthWindowAccess s = .next (winWrite s k ep g.v.toNat g.data)) ∧
    (ep.inWindow g.v.toNat n = true → kind = .store → ¬(g.w.extractLsb' 0 16 = ep.kgen ∧ g.w.extractLsb' 16 16 = ep.key) →
      exec .hearthWindowAccess s = .next s))

/-- The steps of walks, banks, caches, the tile table, queues, streams, copies, the island and region waves (R26, R36, R41,
R45, R57, R72, R111, R112, R117, R153, R156, R170). -/
def Obligations.EngineSteps : Prop :=
  ∀ s,
    let g := s.sim.arg
    let core := g.core.toNat
    let u := g.unit.toNat
    let x := g.ctx.toNat
    let die := g.die.toNat
    let gives (i : Instr) (t : State) : Prop := exec i s = .next t
    (∀ w, walkNext s die = some w → ∃ t, gives .walkSlotGrant t ∧ t = { s with xl.walks := t.xl.walks } ∧
      t.xl.walks.map (·.id) = s.xl.walks.map (·.id) ∧ ∀ y ∈ t.xl.walks, y.id = w.id → y.granted = true) ∧
    (∀ w, s.xl.walks.find? (fun w => w.die == die && w.granted) = some w →
      let r := walk { s with xl.walks := s.xl.walks.filter (fun y => y.id != w.id) } die w.asid w.gen w.va
      let s1 := streamUpd r.2 w.core w.strm (fun t => { t with walking := false })
      (w.stale = true → gives .walkComplete s1) ∧
      (w.stale = false → r.1.st = .ok →
        let i := installLeaf s1 r.1.leaf w.va
        gives .walkComplete (streamUpd i.2 w.core w.strm (fun t => { t with tlb := some i.1 }))) ∧
      (w.stale = false → r.1.st ≠ .ok → gives .walkComplete (agFail s1 w.core w.strm { kind := .xlate, st := r.1.st, va := w.va }))) ∧
    (∀ p ps, (s.st.banks.at (bankKey core u)).queue = p :: ps →
      ∃ t, gives .bankPortGrant t ∧ (t.st.banks.at (bankKey core u)).queue = ps ∧ t.st.cc = s.st.cc ∧
        ((∀ b ∈ p.bytes, b.2.2 = 0xFF#8) →
          t.mem = (p.bytes.map (fun b => (bankAddr core u 0 + b.1, b.2.1))).foldl (fun m b => Mem.put m b.1 b.2) s.mem) ∧
        (∀ o v m, p.bytes = [(o, v, m)] → m ≠ 0xFF#8 →
          t.mem = Mem.put s.mem (bankAddr core u 0 + o) (maskByte (Mem.get s.mem (bankAddr core u 0 + o)) v m))) ∧
    (∀ c r, (s.st.banks.at (bankKey core u)).pend = c :: r → (s.st.banks.at (bankKey core u)).busy = false →
      let s1 := (List.range 64).foldl (fun s n => nodeFlush s core n (fun v => (bankOf s core (v.unit * 64)).1 == u)) s
      let s2 := portDrain (bankUpd s1 core u (fun k => { k with busy := true, change := some c, pend := r })) core u
      gives .bankChangeReach (pushEv s2 .bankChangeComplete { (default : EvArg) with core := BitVec.ofNat 8 core, unit := BitVec.ofNat 12 u })) ∧
    (∀ c, (s.st.banks.at (bankKey core u)).change = some c → ∃ t, gives .bankChangeComplete t ∧
      let b := t.st.banks.at (bankKey core u)
      b.busy = false ∧ b.mode = c.mode ∧ b.ilv = c.ilv ∧ b.change = none ∧
      (¬((s.st.banks.at (bankKey core u)).mode = .scratch ∧ c.mode = .scratch) →
        ∀ i, i < 0x8000 → Mem.get t.mem (bankAddr core u 0 + i) = 0#8)) ∧
    (let a : Actor := { core := core, path := .ct, asid := g.asid, gen := genOf s g.asid, rid := 0 }
     let pa := g.v.toNat
     place pa = .dram →
      (ccHit s a pa = none → ccWays s core (ccSlice pa) ≠ [] → gives .coreCacheFill (ccFill s a pa false)) ∧
      ((ccHit s a pa).isSome = true → gives .coreCacheFill s) ∧
      (l2Holds s pa = false → gives .l2FillComplete (l2Touch (stackRead s pa) pa false true g.asid) ∧
        ((∀ w, let l := (s.st.l2.at (l2Key pa)).ways.at w
          (l.lo.u = false ∨ l.lo.d = true) ∧ (l.hi.u = false ∨ l.hi.d = true)) →
          (l2Touch (stackRead s pa) pa false true g.asid).mem = s.mem)) ∧
      (l2Holds s pa = true → gives .l2FillComplete s)) ∧
    (let a : Actor := { core := core, path := pathOf u, asid := g.asid, gen := genOf s g.asid, rid := g.n }
     (g.flag = true → gives .l2Access (tagLoss s g.data (g.n == 1))) ∧
     (∀ pa d, g.flag = false → place pa.toNat = .dram →
       (∀ n b, g.load = .l2 pa (.read n b) d → gives .l2Access (dramRead s a pa.toNat n b).2) ∧
       (∀ b, g.load = .l2 pa (.write b) d → gateFull s a pa.toNat = false → gives .l2Access (dramWrite s a pa.toNat d b)))) ∧
    (let t0 := s.st.tiles.at (tileKey core u)
     (entryBusy s core u = true → gives .tileEngineWrite (parkEv s .tileEngineWrite)) ∧
     (entryBusy s core u = false → t0.isDef = true ∧ t0.st = .filling ∧ t0.gen = g.sub →
       ∃ t, gives .tileEngineWrite t ∧ (t.st.tiles.at (tileKey core u)).fillb.toNat = min 0xFFFFFFFF (t0.fillb.toNat + g.data.length)) ∧
     (entryBusy s core u = false → ¬(t0.isDef = true ∧ t0.st = .filling ∧ t0.gen = g.sub) →
       ∃ t, gives .tileEngineWrite t ∧ (t.st.tiles.at (tileKey core u)).dropw.toNat = min 255 (t0.dropw.toNat + 1) ∧ t.mem = s.mem)) ∧
    (let c := ctxOf s core x
     c.st = .held → c.wcode = 5 → (s.st.tiles.at (tileKey core c.widx)).canIssue = true →
       ∃ t, gives .tileRefIssue t ∧ ctxOf t core x = { c with st := .run, wcode := 0, widx := 0 } ∧
         t = { s with ctl.ctxs := t.ctl.ctxs } ∧ ∀ k, k ≠ ctxKey core x → t.ctl.ctxs.at k = s.ctl.ctxs.at k) ∧
    (let q := progress (qToken s core u g.sub.toNat g.tok).2 core (s.qu.queues.at (queueKey core u)).rid
     (isRec g.tok = true → gives .queueRecordArrival q) ∧ (tokC g.tok = false → gives .queueDataToken q) ∧
     (tokC g.tok = true → isRec g.tok = false → gives .queueMarkerArrival q)) ∧
    (let d := s.qu.queues.at (queueKey core u)
     let v := d.views.at g.sub.toNat
     (v.spill = [] → ∃ t, gives .spillRefill t ∧ ((t.qu.queues.at (queueKey core u)).views.at g.sub.toNat).spl = false ∧ t.mem = s.mem) ∧
     (∀ r rest, v.spill = r :: rest →
       ((v.spl = false ∨ d.c ≤ v.occ ∨ r.done = false) → gives .spillRefill s) ∧
       (v.spl = true → v.occ < d.c → r.done = true →
         ∀ bs s1, memRead s (d.actor s core true) (d.ringVa g.sub.toNat + r.at_ * d.slotBytes) d.slotBytes = (.inr bs, s1) →
         let toks := imageToks (bs.drop 8) (leNat (bs.take 8) % 65536)
         let left := QView.reseat { v with spill := rest, sph := (r.at_ + 1) % d.ringEnts } d
         gives .spillRefill (viewStore s1 core u g.sub.toNat
           (VOut.of (left.push d (!isRec (toks.headD 0#48)) none { r with toks := toks, at_ := 0 })))))) ∧
    (let t0 := streamOf s core u
     stopped s t0.rid = false →
      (∀ d r, t0.inp = d :: r → t0.isOpen = true → t0.dir = 2 → t0.halted = false → tokC d = false → t0.count ≤ t0.pos →
        gives .rowAdd (streamUpd s core u inpPop)) ∧
      (t0.inp = [] → gives .rowAdd s ∧ gives .handToken s) ∧
      (∀ d r, t0.inp = d :: r → t0.isOpen = true → t0.dir = 2 → t0.halted = false → tokC d = false → t0.pos < t0.count → t0.chn = 0 →
        t0.drop = false →
        let a := t0.set
        let j := t0.row0 + t0.pos / t0.rowLen
        rowHeld s core a j (u + 1) = false → rowOpen s core a j = true → (accOf s core a).asid = t0.asid → rowPoisoned s core a j = false →
          let s1 := rowSnap s core a j
          let s2 := rowAddPart (rowPut s1 core a j { (s1.ac.rows.at (rowKey core a j)) with hold := u + 1 }) core a j
            (t0.e0 + t0.pos % t0.rowLen) [d]
          let s3 := if t0.pos % t0.rowLen + 1 = t0.rowLen then rowAddEnd s2 core a j else s2
          gives .rowAdd (progress (streamUpd s3 core u (fun t => addTake t false)) core t0.rid)) ∧
      (t0.isOpen = true → t0.dir = 3 → t0.halted = false → t0.port = [] → t0.mark = none → t0.pos < t0.count → t0.chn = 0 →
        let a := t0.set
        let j := t0.row0 + t0.pos / t0.rowLen
        ((accOf s core a).v = true → scopesOpen (accOf s core a) t0.mask = true → gives .temperRead s) ∧
        (rowOpen s core a j = true → scopesOpen (accOf s core a) t0.mask = false → rowHeld s core a j 0 = false →
          let toks := temperToks (accOf s core a) (s.ac.rows.at (rowKey core a j)) t0.ln t0.stats t0.e0 t0.rowLen
          let s1 := streamUpd s core u (fun t => { t with
            port := toks, pos := t.pos + t.rowLen, done := t.done + t.rowLen, cin := t.cin + toks.length, round := t.round + 1 })
          gives .temperRead (progress (temperDone s1 core a j) core t0.rid)) ∧
        (((accOf s core a).v = true → scopesOpen (accOf s core a) t0.mask = false) → rowOpen s core a j = false →
          gives .temperRead (regionError (streamUpd s core u (fun t => { t with pos := t.pos + t.rowLen, round := t.round + 1 })) t0.rid 0x0C
            (tileLoc core (u / 32)) (rowDetail a j)))) ∧
      gives .aguStreamAccess (streamAccess s core u) ∧
      (∀ d r, t0.inp = d :: r → t0.isOpen = true → tokC d = true → tokCode d = 10 → (t0.dir = 1 → t0.blockFull = false) →
        let i := tokArg d % 16
        let o := s.sm.own.at (core * 16 + i)
        let s1 := streamUpd s core u inpPop
        (¬(o.v = true ∧ o.owners.getD o.cur 64 = streamNode u ∧ tokArg d < 16) →
          gives .handToken (regionError s1 t0.rid 0x04 (tileLoc core (u / 32)) [d.setWidth 64])) ∧
        (o.v = true → o.owners.getD o.cur 64 = streamNode u → tokArg d < 16 →
          let inRange (v : CoalUnit) : Bool := decide (o.base.toNat ≤ v.unit * 64) && decide (v.unit * 64 < o.lim.toNat)
          let s2 := nodeFlushWait s1 core (streamNode u) inRange
          let s3 := progress { s2 with sm.own := s2.sm.own.upd (core * 16 + i) (fun n => { n with cur := (n.cur + 1) % (n.no + 1) }) } core t0.rid
          (t0.dir ≠ 0 → gives .handToken s3) ∧
          (t0.dir = 0 → gives .handToken (streamUpd s3 core u (fun t => { t with port := t.port ++ [d], cin := t.cin + 1 })))))) ∧
    (let a := u % 16
     let sc := g.sub.toNat % 16
     ((accOf s core a).v = true → (accOf s core a).asid = g.asid → addStreamOpen s core a sc = false →
       ∃ t, gives .addScopeClose t ∧ (accOf t core a).opn.getLsbD sc = false ∧ t.mem = s.mem ∧ t.ac.rows = s.ac.rows) ∧
     (¬((accOf s core a).v = true ∧ (accOf s core a).asid = g.asid ∧ addStreamOpen s core a sc = false) → gives .addScopeClose s)) ∧
    gives .coalesceIdleFlush (nodeFlush s core u (fun v => decide (v.used + 80 ≤ s.dev.gtsc.toNat))) ∧
    (∀ w, remotePend s core x = some w →
      (g.flag = false → gives .remoteReply (replyEnd s w g.n g.v (if g.words.isEmpty then wordsOf (g.data.length / 8) g.data else g.words))) ∧
      (500000 ≤ (s.dev.gtsc - w.time).toNat → w.b ≠ 6#64 → gives .remoteReplyTimeout (replyEnd s w 16 0#64 [])) ∧
      (500000 ≤ (s.dev.gtsc - w.time).toNat → w.b = 6#64 → ldredFar s w ≠ [] →
        ∃ i ∈ ldredFar s w, gives .remoteReplyTimeout (replyEnd (freeN s).2 w 16 (BitVec.ofNat 64 i) [])) ∧
      ((s.dev.gtsc - w.time).toNat < 500000 → gives .remoteReplyTimeout s)) ∧
    (g.flag = true → gives .remoteReply (farEnd s g.v.toNat g.n g.data)) ∧
    (∀ w, pendOf s core x (fun k => k == .cfgld || k == .cfgsh) = some w →
      (slotRid s core (w.a.extractLsb' 0 2).toNat = (ctxOf s core x).rid → gives .cfgldComplete (configEnd s w)) ∧
      (slotRid s core (w.a.extractLsb' 0 2).toNat ≠ (ctxOf s core x).rid →
        gives .cfgldComplete (ctDone (pendEnd s w) core x w.ix none (outsOf (targetsAt (frameOf s core x) w.ix) (some (regTok 10 0#64)))))) ∧
    (∀ w, pendOf s core x (· == .rdrain) = some w →
      let rid := (ctxOf s w.core w.ctx).rid
      let st := (regionOf s rid).rst
      (st = 5 ∨ st = 7 → gives .regionDrainComplete (drainStep s w)) ∧
      (st ≠ 5 → st ≠ 7 → gives .regionDrainComplete (drainStep (drainStreams s rid w.core) w))) ∧
    (pendOf s core x (· == .rdrain) = none → gives .regionDrainComplete s) ∧
    (waveClear s g.n = true → gives .markerWaveComplete (waveDone s g.n)) ∧ (waveClear s g.n = false → gives .markerWaveComplete s) ∧
    ((regionOf s g.n).want = false → gives .regionRollback s) ∧
    ((regionOf s g.n).want = true → gives .regionRollback (regionRollback s g.n u)) ∧
    (let k := u % 32
     let d := tmplOf s core k
     let q := s.qu.queues.at (queueKey core d.trigq.toNat)
     d.v = true → d.tq = true → q.v = true → stopped s d.rid = false → readPoison s core d.trigq.toNat 0 0 = none →
       ∀ ts r, (q.views.at 0).readable q.ch = ts :: r → (isRec (ts.headD 0#48) = true → d.arm = true ∧ islandFull s core k = false) →
         let s1 := progress (viewPop s core d.trigq.toNat 0 1) core d.rid
         gives .copyTriggerRecord (if isRec (ts.headD 0#48) then tmplFire s1 core k ((ts.getD 1 0#48).extractLsb' 0 32) else s1)) ∧
    (∀ r, s.eng.copies.find? (fun c => c.core == core && c.id == g.n) = some r →
      (∀ i j st b l, g.load = .copyReply i j st b l → r.port ≠ none → gives .copyComplete (copyAnswer s r (st.toNat % 8) b l)) ∧
      (g.load = .none → r.sent = false → ((islandCopies s r.core r.tmpl).take 8).any (fun c => c.id == r.id) = true →
        copyHeld s r = false → gives .copyComplete (copyStep s r))) ∧
    ((islandOf s core).task = none → gives .matrixTaskComplete (islandNext s core)) ∧
    (∀ t, (islandOf s core).task = some t →
      (passLeft s core t = true → passDue s core t = true → gives .matrixTaskComplete (taskStep s core t)) ∧
      (passLeft s core t = true → passDue s core t = false → gives .matrixTaskComplete s) ∧
      (passLeft s core t = false → taskDue s core t = true → gives .matrixTaskComplete (taskEnd s core t)) ∧
      (passLeft s core t = false → taskDue s core t = false → gives .matrixTaskComplete s)) ∧
    (∀ r, s.eng.colls.find? (fun c => c.core == core && c.id == g.n) = some r →
      (g.flag = true ∨ g.data.length = (groupCount s r.grp - 1) * r.len) → gives .collectiveComplete (collEnd s r g.data g.flag)) ∧
    (∀ k n t, g.flag = false → u = 4 + k → k < 4 → g.n = n → (elemIn s n).res = some t → (elemIn s n).pend = [u] → (elemIn s n).emit = [] →
      slotActs s (elemCore n) (elemIn s n).resSlot = true → elemRoom s n k t = true → ∃ s1, s1 = resPulled s n u ∧
        (elemIn s1 n).res = none ∧ (elemIn s1 n).pend = [] ∧ gives .channelPull (elemTake s1 n k t)) ∧
    (let e := elemIn s g.n
     let sl := e.shvSlot
     let qs := [0, 1, 2, 3].filter (fun q => e.act.any (fun d =>
       d.2.present && handlerSlot d.2 == sl && (unpackHandler d.2.word).fire.getLsbD q))
     (e.shv = false → gives .elementSwap s) ∧
     (e.shv = true → qs ≠ [] → e.res = none → e.emit = [] → e.blocked.getLsbD sl = false → slotActs s (elemCore g.n) sl = true →
       (∀ q ∈ qs, ∃ t, e.head q = some t ∧ (isCode 5 t || isCode 9 t) = true ∧ e.tokSlot t = some sl) → outChannels e sl = [] →
       let n : Elem := { e.exchange sl with inq := qs.foldl (fun m q => m.upd q (fun l => l.drop 1)) e.inq }
       let s1 : State := { s with fab.elems := s.fab.elems.set g.n n }
       gives .elementSwap (progress (qs.foldl (headNew g.n) s1) (elemCore g.n) (slotRid s (elemCore g.n) sl))))

/-- Landing-zone arrivals, inbound requests, remote atomics, records of notify pages, and the ends of a kill and an inval
(R11, R18, R127, R131, R133, R136, R169, R194, R195, R29, R394). -/
def Obligations.ArrivalsAndAdmission : Prop :=
  ∀ s,
    let g := s.sim.arg
    let core := g.core.toNat
    let u := g.unit.toNat
    let x := g.ctx.toNat
    let die := g.die.toNat
    let gives (i : Instr) (t : State) : Prop := exec i s = .next t
    (∀ rq, g.load = .resv rq →
      let d := resvDecide s ((rq.zh.extractLsb' 8 2).toNat * 64 + (rq.zh.extractLsb' 10 6).toNat) rq
      let r : Payload := .resvReply rq.core rq.ctx (resvWord d.1 d.2.2.1 d.2.1) rq.zh rq.ring rq.outPort
      (rq.inPort = none → gives .reservationRequest (pushEv d.2.2.2 .reservationReply { (default : EvArg) with load := r })) ∧
      (∀ q, rq.inPort = some q → gives .reservationRequest (sendOut d.2.2.2 { port := q, node := rq.node, load := r }))) ∧
    (∀ c y v zh ring p w, g.load = .resvReply c y v zh ring p → pendOf s c.toNat y.toNat (· == .zres) = some w →
      (v.extractLsb' 0 8 ≠ 0#8 → gives .reservationReply (zresEnd s w v)) ∧
      (v.extractLsb' 0 8 = 0#8 →
        let e : Resv := { zh := zh, slot := v.extractLsb' 42 6, gen := v.extractLsb' 48 16, port := p, ring := ring.toNat,
                          asid := (ctxOf s c.toNat y.toNat).asid, rid := (ctxOf s c.toNat y.toNat).rid }
        gives .reservationReply (zresEnd { s with zn.resv := s.zn.resv.upd c.toNat (fun es => es ++ [e]) } w v))) ∧
    (∀ w, g.load = .slotWrite w → entryBusy s w.core.toNat (slotTile (zoneOf s w.core.toNat w.zone.toNat) w.slot.toNat) = false →
      (slotAdmits s w = false → gives .slotWriteArrival (slotAnswer s w .refused 0 false)) ∧
      (slotAdmits s w = true → (slotWrite s w).1 = .ok →
        gives .slotWriteArrival (slotAnswer (slotWrite s w).2 w .ok w.data.length false))) ∧
    (∀ w, g.load = .slotEnd w → entryBusy s w.core.toNat (slotTile (zoneOf s w.core.toNat w.zone.toNat) w.slot.toNat) = false →
      (slotAdmits s w = false → gives .slotEndToken (slotAnswer s w .refused 0 true)) ∧
      (slotAdmits s w = true → gives .slotEndToken (slotAnswer (slotEnd s w).2 w (slotEnd s w).1 0 true))) ∧
    (∃ o t, gives .phaseNoticeArrival t ∧ t = { ringPush s core (u % 64) o g.v g.w with zn := t.zn } ∧
      (∀ r, o = some r → r ∈ s.zn.resv.at core ∧ r.slot = g.v.extractLsb' 21 6 ∧ r.gen = g.v.extractLsb' 0 16) ∧
      ∀ c, c ≠ core → t.zn.resv.at c = (ringPush s core (u % 64) o g.v g.w).zn.resv.at c) ∧
    (let z := u % 8
     let k := g.sub.toNat % 64
     let d := zoneOf s core z
     let late := d.v = true ∧ k ≤ d.ns1.toNat ∧ (slotEnt s core z k).st = .filling ∧ d.tmo ≠ 0#16 ∧
       d.tmo.toNat * 1000 ≤ (s.dev.gtsc - (blkOf s core z k).since).toNat
     (late → gives .reservationTimeout (slotFail s core z k 4 none)) ∧ (¬late → gives .reservationTimeout s)) ∧
    (∀ src addr data, let p := g.port.toNat
      let say (st : Nat) (v : Word) (bs : List Byte) (t : State) : Prop := gives .inboundRequest (replySend t p src g.core g.ctx st v bs)
      (∀ n, g.load = .inbound src (.read n) addr data →
        (winFor s src (·.rd) addr.toNat n = none → say 10 0#64 [] s) ∧
        (∀ w, winFor s src (·.rd) addr.toNat n = some w → inBusy s addr.toNat n = false →
          let r := inRead s w addr.toNat n
          say r.1 (leWord (r.2.1.take 8)) r.2.1 r.2.2)) ∧
      (g.load = .inbound src .write addr data →
        (winFor s src (·.w) addr.toNat data.length = none → say 10 0#64 [] s) ∧
        (∀ w, winFor s src (·.w) addr.toNat data.length = some w → inBusy s addr.toNat data.length = false →
          let r := inWrite s w addr.toNat data
          say (if r.1 then 0 else 10) 0#64 [] r.2)) ∧
      (∀ op n, g.load = .inbound src (.atomic op n) addr data →
        (winFor s src (·.a) addr.toNat (atomicWidth op.toNat) = none → say 10 0#64 [] s) ∧
        (∀ w, winFor s src (·.a) addr.toNat (atomicWidth op.toNat) = some w → inBusy s addr.toNat 8 = false →
          let r := inAtomic s w addr.toNat op.toNat (leWord (data.take 8))
          say r.1 r.2.1 [] r.2.2))) ∧
    (∀ ra, g.load = .remoteAtomic ra →
      let p := g.port.toNat
      let s1 := replayExpire s p
      let say (st : Nat) (v : Word) (t : State) : Prop := gives .remoteAtomicArrival (replySend t p ra.src ra.score ra.sctx st v [])
      let es := s1.ctl.replay.at p
      let ten := (s1.xl.asids.at ra.asid.toNat).ten
      (1000000 ≤ (s.dev.gtsc - ra.time).toNat → gives .remoteAtomicArrival s) ∧
      ((s.dev.gtsc - ra.time).toNat < 1000000 →
        (winFor s1 ra.src (·.a) ra.addr.toNat (atomicWidth ra.op.toNat) = none → say 10 0#64 s1) ∧
        (∀ w, winFor s1 ra.src (·.a) ra.addr.toNat (atomicWidth ra.op.toNat) = some w →
          (∀ e, es.find? (fun e => e.src == ra.src && e.asid == ra.asid && e.tag == ra.tag) = some e →
            (e.op = ra.op ∧ e.addr = ra.addr ∧ e.v = ra.v → say 17 e.result s1) ∧
            (¬(e.op = ra.op ∧ e.addr = ra.addr ∧ e.v = ra.v) → say 20 0#64 s1)) ∧
          (es.find? (fun e => e.src == ra.src && e.asid == ra.asid && e.tag == ra.tag) = none →
            let held := (es.filter (fun e => (s1.xl.asids.at e.asid.toNat).ten == ten)).length
            ((s1.ctl.replayQ.at ten.toNat).rmax ≤ held → say 19 0#64 s1) ∧
            (held < (s1.ctl.replayQ.at ten.toNat).rmax → inBusy s1 ra.addr.toNat 8 = false →
              let r := inAtomic s1 w ra.addr.toNat ra.op.toNat ra.v
              (r.1 ≠ 0 → say r.1 0#64 r.2.2) ∧
              (r.1 = 0 → ∃ t, say 0 r.2.1 t ∧ t = { r.2.2 with ctl.replay := t.ctl.replay })))))) ∧
    (let p := g.port.toNat
     ∃ t, gives .replayEntryExpiry t ∧ t = { s with ctl.replay := t.ctl.replay } ∧
       t.ctl.replay.at p = (s.ctl.replay.at p).filter (fun e => !e.dead s.dev.gtsc) ∧ ∀ q, q ≠ p → t.ctl.replay.at q = s.ctl.replay.at q) ∧
    (let k := die * 4096 + u
     let p := s.rg.notify.at k
     let v := g.v.extractLsb' 0 32
     ∃ t, gives .doorbellWrite t ∧ t = { s with rg.notify := t.rg.notify } ∧ (∀ j, j ≠ k → t.rg.notify.at j = s.rg.notify.at j) ∧
       t.rg.notify.at k =
         (if p.v = false then { p with nst := 1#8 }
          else if v = p.tail then { p with nst := 0#8 }
          else if (v - p.head).toNat < (p.tail - p.head).toNat then { p with nst := 2#8, ovr := true }
          else if 2 ^ p.logn.toNat < (v - p.head).toNat then { p with nst := 3#8, ovr := true }
          else { p with nst := 0#8, tail := v })) ∧
    (let asid := (s.rg.notify.at (pageKey die u)).asid
     let a := admitActor s die asid
     let heads (va : Nat) (ws : List Word) (s1 : State) : Prop := recordNext s die u = (some (va, .inr ws), s1)
     (recordNext s die u = (none, s) → gives .admitRegion s ∧ gives .admitTile s ∧ gives .admitHeap s ∧ gives .admitEvent s) ∧
     (∀ va e s1, recordNext s die u = (some (va, .inl e), s1) →
       gives .admitRegion (recordSkip s1 die u) ∧ gives .admitTile (recordSkip s1 die u) ∧ gives .admitHeap (recordSkip s1 die u) ∧
       gives .admitEvent (recordSkip s1 die u)) ∧
     (∀ va ws s1, heads va ws s1 → recordKind ws = 0 → gives .admitRegion (recordDone s1 die u va 1 0)) ∧
     (∀ va ws s1, heads va ws s1 → s1.rg.notify = s.rg.notify →
       s1.xl.asids = s.xl.asids → genOf s1 asid = genOf s asid →
       let w := ws.getD 1 0#64
       (recordKind ws = 1 → arbFull s1 die (s1.xl.asids.at asid.toNat).ten = false → w.extractLsb' 55 9 = 0#9 →
         ∀ q s2, rcbResolve s1 (admitActor s1 die asid) w.toNat die 0 = (some q, s2) →
           gives .admitRegion (recordDone (regionAdmit s2 q) die u va 0 0)) ∧
       (recordKind ws = 2 → arbFull s1 die (s1.xl.asids.at asid.toNat).ten = false → w.toNat % 64 = 0 →
         ∀ t s2, memWords s1 { admitActor s1 die asid with path := .mx } w.toNat 8 = (.inr t, s2) →
           gives .admitTile (recordDone (arbAdd (tileEntry s2 t asid 0 0 0).2 die (tileEntry s2 t asid 0 0 0).1) die u va 0 0)) ∧
       (recordKind ws = 3 →
         let h := heapPut s1 ((ws.getD 0 0#64).extractLsb' 0 2).toNat (s1.xl.asids.at asid.toNat).ten w (ws.getD 2 0#64)
         gives .admitHeap (recordDone h.2 die u va (if h.1 then 0 else 3) 0)) ∧
       (recordKind ws = 4 →
         let c := ((ws.getD 0 0#64).extractLsb' 0 8).toNat
         let y := ((ws.getD 0 0#64).extractLsb' 8 3).toNat
         let own := (ctxOf s1 c y).st ≠ .free ∧ (ctxOf s1 c y).ten = (s1.xl.asids.at asid.toNat).ten
         (own → gives .admitEvent (recordDone (eventTo s1 c y) die u va 0 0)) ∧ (¬own → gives .admitEvent (recordDone s1 die u va 0 0))))) ∧
    (∀ w, pendOf s core x (· == .kill) = some w →
      (linksDrained s (w.a.setWidth 8) w.time = true → gives .killDrainComplete (pendAnswer (killEnd s core x (w.a.setWidth 8)) w 0#64)) ∧
      (linksDrained s (w.a.setWidth 8) w.time = false → gives .killDrainComplete s)) ∧
    (∀ w, pendOf s core x (· == .inval) = some w →
      let out := farOut s ((invKind w.a w.va).asids s)
      (out = true → gives .invalidationComplete s) ∧ (out = false → gives .invalidationComplete (pendAnswer (drainWrites s) w 0#64))) ∧
    (let d := s.xl.asids.at g.asid.toNat
     (d.clearing = false → gives .asidDisableDrained s) ∧
     let links := farOut s (· == g.asid) && !linksDrained s g.asid d.since
     (d.clearing = true → (storesUnder s g.asid = true ∨ links = true) → gives .asidDisableDrained s) ∧
     (d.clearing = true → storesUnder s g.asid = false → links = false →
       ∃ t, gives .asidDisableDrained t ∧ t.xl.asids.at g.asid.toNat = { d with clearing := false }))

/-- Writes of the device registers: address-space descriptors, quotas, dirty tracking, NODEID, fault windows and notify pages
(R11, R12, R27, R31, R130, R171, R193, R196, R380, R418, R425). -/
def Obligations.RegisterWrites : Prop :=
  ∀ s,
    let g := s.sim.arg
    let w := g.v
    let k := g.unit.toNat % 64
    let gives (i : Instr) (t : State) : Prop := exec i s = .next t
    let sum (f : Nat → Nat) (v : Nat) : Nat := ((List.range 64).map (fun i => if i = k then v else f i)).sum
    (let i := g.asid.toNat
     let d := s.xl.asids.at i
     (d.v = false → w.getLsbD 0 = true → ∃ t, gives .asidEnable t ∧ t.mem = s.mem ∧
       t.xl.asids.at i = { root := w.extractLsb' 16 36, ten := w.extractLsb' 2 6, v := true, gen := d.gen + 1#16, clearing := false, since := d.since }) ∧
     (d.v = true → w.getLsbD 0 = false → ∃ t, gives .asidDisable t ∧ t.xl.asids.at i = { d with v := false, clearing := true, since := s.dev.gtsc } ∧ t.mem = s.mem) ∧
     ((d.v = true ∨ w.getLsbD 0 = false) → gives .asidEnable s) ∧ ((d.v = false ∨ w.getLsbD 0 = true) → gives .asidDisable s)) ∧
    (∃ t, gives .walkerQuotaWrite t ∧ t = { s with xl.walkQ := t.xl.walkQ } ∧ (∀ j, j ≠ k → t.xl.walkQ.at j = s.xl.walkQ.at j) ∧
      let q := s.xl.walkQ.at k
      let n := t.xl.walkQ.at k
      let mx := (w.extractLsb' 8 7).toNat
      let mn := (w.extractLsb' 0 7).toNat
      let ok := sum (fun i => (s.xl.walkQ.at i).min) mn ≤ 64 ∧ mn ≤ mx ∧ 1 ≤ mx ∧ mx ≤ 64
      (ok → n.min = mn ∧ 64 - n.maxC = mx ∧ n.qerr = (q.qerr && !w.getLsbD 16)) ∧ (¬ok → n = { q with qerr := true })) ∧
    (∃ t, gives .landingQuotaWrite t ∧ t.mem = s.mem ∧ (∀ j, j ≠ k → t.zn.landQ.at j = s.zn.landQ.at j) ∧
      let q := s.zn.landQ.at k
      let n := t.zn.landQ.at k
      let ok := sum (fun i => (s.zn.landQ.at i).rmax) (w.extractLsb' 0 13).toNat ≤ 4096
      (ok → n.rmax = (w.extractLsb' 0 13).toNat ∧ n.qerr = (q.qerr && !w.getLsbD 48) ∧
        ((w.extractLsb' 16 13).toNat ≤ 4096 → 4096 - n.smaxC = (w.extractLsb' 16 13).toNat)) ∧ (¬ok → n = { q with qerr := true })) ∧
    (∃ t, gives .replayQuotaWrite t ∧ t = { s with ctl.replayQ := t.ctl.replayQ } ∧ (∀ j, j ≠ k → t.ctl.replayQ.at j = s.ctl.replayQ.at j) ∧
      let q := s.ctl.replayQ.at k
      let n := t.ctl.replayQ.at k
      let ok := sum (fun i => (s.ctl.replayQ.at i).rmax) (w.extractLsb' 0 13).toNat ≤ 4096
      (ok → n.rmax = (w.extractLsb' 0 13).toNat ∧ n.qerr = (q.qerr && !w.getLsbD 16)) ∧ (¬ok → n = { q with qerr := true })) ∧
    (∃ t, gives .schedQuotaWrite t ∧ t = { s with rg.schedQ := t.rg.schedQ } ∧ (∀ j, j ≠ k → t.rg.schedQ.at j = s.rg.schedQ.at j) ∧
      let q := s.rg.schedQ.at k
      let n := t.rg.schedQ.at k
      let aq := (w.extractLsb' 36 12).toNat
      let hm := (w.extractLsb' 16 16).toNat
      let lm := (w.extractLsb' 0 11).toNat
      let ok := sum (fun i => (s.rg.schedQ.at i).aqmax) aq ≤ 4096 ∧ sum (fun i => (s.rg.schedQ.at i).hmax) hm ≤ 65536 ∧
        sum (fun i => (s.rg.schedQ.at i).lmax) lm ≤ 1024 ∧ (lm = 0 ∨ 8 ≤ lm)
      (ok → n.aqmax = aq ∧ n.hmax = hm ∧ n.lmax = lm ∧ n.qerr = (q.qerr && !w.getLsbD 48)) ∧ (¬ok → n = { q with qerr := true })) ∧
    (let d := s.xl.dirty.at k
     let n (t : State) := t.xl.dirty.at k
     (g.sub.toNat % 4 = 0 → ∃ t, gives .dirtyTrackingWrite t ∧ (n t).base = w.extractLsb' 16 36 ∧
       (n t).on = (w.getLsbD 0 && d.npg != 0#27 && decide (d.npg.toNat ≤ 2 ^ 26)) ∧ (n t).vlo = d.vlo ∧ (n t).npg = d.npg) ∧
     (g.sub.toNat % 4 = 1 → ∃ t, gives .dirtyTrackingWrite t ∧ n t = { d with vlo := w.extractLsb' 0 39 }) ∧
     (g.sub.toNat % 4 = 2 → ∃ t, gives .dirtyTrackingWrite t ∧ n t = { d with npg := w.extractLsb' 0 27 }) ∧
     (g.sub.toNat % 4 = 3 → gives .dirtyTrackingWrite s)) ∧
    (w.extractLsb' 0 10 ≠ 0x3FF#10 → ∃ t, gives .nodeidWrite t ∧ nodeId t = w.extractLsb' 0 10 ∧ t.mem = s.mem) ∧
    (w.extractLsb' 0 10 = 0x3FF#10 → gives .nodeidWrite s) ∧
    (let core := g.core.toNat
     let x := g.ctx.toNat
     let c := ctxOf s core x
     let n := g.sub.toNat % 4
     (c.trapped = false → gives .faultWindowWrite s) ∧
     (c.trapped = true → ∃ t, gives .faultWindowWrite t ∧ (∀ j, j ≠ ctxKey core x → t.ctl.ctxs.at j = s.ctl.ctxs.at j) ∧
       ctxOf t core x =
         (if n = 0 then { c with flt0 := w &&& 0xFFFFFFFF00000000#64 }
          else if n = 1 then { c with flt1 := w &&& 0x007FFFFFFFFFFFFF#64, flt0 := c.flt0 &&& ~~~(1#64 <<< 37) }
          else if n = 2 then { c with flt2 := w } else { c with flt3 := w }))) ∧
    (let j := g.die.toNat * 4096 + g.unit.toNat
     let p := s.rg.notify.at j
     let ok := w.getLsbD 55 = true ∧ (s.xl.asids.at (w.extractLsb' 56 8).toNat).ten = BitVec.ofNat 6 (g.unit.toNat / 64) ∧
       4 ≤ (w.extractLsb' 48 5).toNat ∧ (w.extractLsb' 48 5).toNat ≤ 16
     (g.asid ≠ 0#8 → gives .notifyPageEnable s) ∧
     (g.asid = 0#8 → ∃ t, gives .notifyPageEnable t ∧
       let n := t.rg.notify.at j
       n.asid = w.extractLsb' 56 8 ∧ n.logn = w.extractLsb' 48 5 ∧ (n.v = true ↔ ok) ∧ n.rbase = p.rbase ∧
       (ok → p.v = false → n.head = 0#32 ∧ n.tail = 0#32) ∧ (¬ok ∨ p.v = true → n.head = p.head ∧ n.tail = p.tail))) ∧
    gives .registerWrite (deviceWrite s g.v.toNat g.asid ((leBytes 8 g.w.toNat).take g.n)) ∧
    (∀ d o, place g.v.toNat = .regs d o →
      (g.asid ≠ 0#8 → gives .registerWrite s) ∧
      (g.n < 8 → gives .registerWrite s) ∧
      (g.asid = 0#8 → 8 ≤ g.n → gives .registerWrite (regWrite s d (o / 8 * 8) g.w)))

/-- Frames, fetch and commit of blocks, waiting contexts, the Arbiter, segment budgets, the stalemate detector and the
debugger (R191, R192, R197, R202, R205, R207, R208, R247, R278, R391, R393, R395). -/
def Obligations.BlocksAndPlacement : Prop :=
  ∀ s,
    let g := s.sim.arg
    let core := g.core.toNat
    let x := g.ctx.toNat
    let die := g.die.toNat
    let c := ctxOf s core x
    let f := frameOf s core x
    let gives (i : Instr) (t : State) : Prop := exec i s = .next t
    (∀ n y, frameFree s core = some n → readyFirst s core = some y → ∃ t, gives .frameAllocate t ∧
      t.ctl.frames.at (frameKey core n) = Frame.empty y ∧ ctxOf t core y = { ctxOf s core y with st := .run, frm := n, wcode := 0, widx := 0 } ∧
      t = { s with ctl.frames := t.ctl.frames, ctl.ctxs := t.ctl.ctxs } ∧ ∀ k, k ≠ ctxKey core y → t.ctl.ctxs.at k = s.ctl.ctxs.at k) ∧
    ((frameFree s core = none ∨ readyFirst s core = none) → gives .frameAllocate s) ∧
    (maySurrender s core x = true → gives .frameSurrender (ctAbandon s core x .ready 0 0)) ∧
    (maySurrender s core x = false → gives .frameSurrender s) ∧
    (c.st = .run → f.own = x + 1 → f.loaded = false →
      (ctxBarred s core c = true → gives .blockFetch (ctxYield s core x)) ∧
      (ctxBarred s core c = false →
        let s0 := if c.acq then ctxUpd (acquire s core 3) core x (fun c => { c with acq := false }) else s
        (∀ e s1, blockRead s0 core x c.blkAddr = (.error e, s1) → gives .blockFetch (takeTrap s1 core x e c.blk none)) ∧
        (∀ hdr ws s1, blockRead s0 core x c.blkAddr = (.ok (hdr, ws), s1) → ∃ t, gives .blockFetch t ∧ t = { s1 with ctl.frames := t.ctl.frames } ∧
          t.ctl.frames.at (frameKey core c.frm) = { Frame.empty x with loaded := true, hdr := hdr, words := ws }))) ∧
    (∀ ix tgt, (c.st = .run ∨ c.st = .held) → f.own = x + 1 → f.loaded = true → f.complete = true → f.exit = some (ix, tgt) →
      let n := exitOutcome c f ix tgt
      (n.flt = none → StoresPass s core x 32 → gives .blockCommit (blockCommit s core x n ix)) ∧
      (∀ e, n.flt = some e → mustCommit s core x = false → gives .blockCommit (takeTrap s core x e c.blk none)) ∧
      (n.flt = none → f.stores = [] → f.qwrites = [] → f.commits = [] → f.defer = none → Hdr.kind f.hdr ≠ 1 →
        ∃ t, gives .blockCommit t ∧ t.mem = s.mem ∧ t.ctl.frames.at (frameKey core c.frm) = Frame.empty x ∧
          ctxOf t core x = { c with
            h := f.holds.foldl (fun h w => match w.2 with
              | some v => h.set w.1 v
              | none => h) c.h
            blk := n.addr.setWidth 55, blkHi := n.addr.extractLsb' 55 9, link := n.link, exitIx := f.exitIndex ix, resume := none,
            st := .run, wcode := 0, widx := 0 })) ∧
    (c.st = .wait → c.wcode ≠ 0 →
      (waitHolds s core x = false → gives .waitRelease s) ∧
      (waitHolds s core x = true → ¬(c.wcode = 11 ∧ c.widx = 0) → gives .waitRelease (ctxReady s core x)) ∧
      (waitHolds s core x = true → c.wcode = 11 → c.widx = 0 → ∃ t, gives .waitRelease t ∧ (ctxOf t core x).st = .ready ∧
        (ctxOf t core x).evf = false)) ∧
    (c.st = .wait → c.wcode = 11 → c.deadline ≠ 0#64 → c.deadline.toNat ≤ s.dev.gtsc.toNat →
      ∃ t, gives .idleTimeout t ∧ ctxOf t core x = { c with st := .ready, wcode := 0, widx := 0, deadline := 0#64, since := s.sim.seqNo }) ∧
    (∀ t, regionsTry die (arbOrder s die false) s = some t → gives .arbiterPlaceRegion t) ∧
    (regionsTry die (arbOrder s die false) s = none →
      gives .arbiterPlaceRegion ((preemptFor s die (arbOrder s die false)).foldl preemptAsk s)) ∧
    (∀ e r k, arbOrder s die true = e :: r → tileCore s die (e.task s) = some k →
      gives .arbiterPlaceTile (taskBegin (arbRemove s die e) k (e.task s))) ∧
    gives .arbiterCounterPoll ((s.rg.arb.at die).foldl (counterPoll die) s) ∧
    (g.n ≠ 0 → maySave s g.n = true → gives .regionPreempt (regionSave s g.n)) ∧
    ((g.n = 0 ∨ maySave s g.n = false) → gives .regionPreempt s) ∧
    (let k := s.rg.slots.at (slotIx core (g.unit.toNat % 4))
     let r := regionOf s k.rid
     let due := k.rid ≠ 0 ∧ k.live = true ∧ k.halted = false ∧ k.segN ≠ 0 ∧ stopped s k.rid = false ∧
       5 * r.segb.toNat ≤ 4 * (s.dev.gtsc - k.segAt).toNat
     (¬due → gives .segmentBudgetExpiry s) ∧
     (due →
       let s1 := eventRecord s 5 r.err r.asid r.fd core 0 r.rcba [0#64, 0#64, 0#64, coreLoc core, BitVec.ofNat 64 r.waveId]
       let s2 := regUpd (preemptAsk s1 k.rid) k.rid (fun r => { r with want := true, inFlight := false })
       gives .segmentBudgetExpiry (pushFirst s2 .regionRollback { (default : EvArg) with n := k.rid, unit := 0x100#12 }))) ∧
    (let sl := g.unit.toNat % 4
     let bs := blockedNodes s core sl
     (watchDue s core sl = false → gives .stalemateCheck s) ∧
     (watchDue s core sl = true → bs.all (fun b => !b.outward) = true →
       gives .stalemateCheck (watchReport s core (slotRid s core sl) 0x1D bs)) ∧
     (watchDue s core sl = true → bs.any (fun b => b.outward && b.bounded s core) = true → ∃ t, gives .stalemateCheck t ∧
       t = { s with rg.slots := t.rg.slots } ∧ (t.rg.slots.at (slotIx core sl)).prog = s.dev.gtsc ∧
       (t.rg.slots.at (slotIx core sl)).prog2 = s.dev.gtsc) ∧
     (watched s core sl = true → 20971520 ≤ (s.dev.gtsc - (s.rg.slots.at (slotIx core sl)).prog2).toNat →
       bs.any (fun b => b.outward && !b.bounded s core) = true →
       gives .stallout (watchReport { s with rg.slots := s.rg.slots.upd (slotIx core sl) (fun y => { y with prog2 := s.dev.gtsc }) }
         core (slotRid s core sl) 0x21 bs)) ∧
     (watched s core sl = false → gives .stallout s)) ∧
    (let d := s.ctl.dbga.at core
     ∃ t, gives .debugHalt t ∧ (t.ctl.dbga.at core) = { d with halt := true } ∧ t.mem = s.mem ∧
       (d.v = true → (t.rg.slots.at (slotIx core d.slot.toNat)).halted = true) ∧ (d.v = false → t.rg.slots = s.rg.slots)) ∧
    (∃ t, gives .debugResume t ∧ (t.ctl.dbga.at core).halt = false ∧ t.mem = s.mem ∧
      ∀ e ∈ t.rg.slots, e.1 / 4 = core → e.2.halted = false) ∧
    (let held := (s.rg.slots.at (slotIx core (s.ctl.dbga.at core).slot.toNat)).halted
     (held = true → gives .debugAreaRefill s) ∧ (held = false → dbgNext s core = none → gives .debugAreaRefill s) ∧
     (∀ e, held = false → dbgNext s core = some e → gives .debugAreaRefill (dbgReturn s core e)))

/-- Scale-up ports, flits and re-sequencing, time, start-up, firmware, sensors, cooling and reset (R6, R137, R397, R418, R419,
R420, R421, R423, R426, R427, R429, R432). -/
def Obligations.PortsAndModule : Prop :=
  ∀ s,
    let g := s.sim.arg
    let p := g.port.toNat
    let q := portOf s p
    let gives (i : Instr) (t : State) : Prop := exec i s = .next t
    let only (t : State) (n : Port) : Prop := t = { s with lnk := t.lnk } ∧ portOf t p = n ∧ ∀ k, k ≠ p → portOf t k = portOf s k
    (q.up = true → ∃ t, gives .linkDown t ∧ only t { q with up := false, lanes := 0#4, retrain := some s.dev.gtsc }) ∧
    (q.up = false → gives .linkDown s) ∧
    (∀ b, q.retrain = some b →
      ((s.dev.gtsc - b).toNat < 50000 → gives .retrainWindowExpiry s) ∧
      (50000 ≤ (s.dev.gtsc - b).toNat → gives .retrainWindowExpiry (linkLost (portDown s p) p none)) ∧
      (50000 < (s.dev.gtsc - b).toNat → gives .linkRetrained s) ∧
      ((s.dev.gtsc - b).toNat ≤ 50000 → ∃ t, gives .linkRetrained t ∧ (portOf t p).up = true ∧ (portOf t p).lanes = 4#4 ∧
        (portOf t p).retrain = none ∧ (portOf t p).kept = q.kept ∧
        t.sim.out = s.sim.out ++ q.kept.map (fun h => { port := p, node := h.node, load := h.load }))) ∧
    (q.retrain = none → gives .retrainWindowExpiry s ∧ gives .linkRetrained s) ∧
    (g.v.getLsbD 60 = true → q.en = false → ∃ t, gives .portEnable t ∧ only t { q with en := true }) ∧
    ((g.v.getLsbD 60 = false ∨ q.en = true) → gives .portEnable s) ∧
    (g.v.getLsbD 60 = false → q.en = true → q.up = false → q.retrain = none →
      ∃ t, gives .portDisable t ∧ only t { q with en := false, kept := [] }) ∧
    (g.v.getLsbD 60 = false → q.en = true → (q.up = true ∨ q.retrain ≠ none) →
      gives .portDisable (linkLost (portDown (portUpd s p (fun q => { q with en := false, kept := [] })) p) p none)) ∧
    ((g.v.getLsbD 60 = true ∨ q.en = false) → gives .portDisable s) ∧
    (q.en = false → g.v.extractLsb' 61 2 ≠ 3#2 → ∃ t, gives .portModeSet t ∧ only t { q with mode := g.v.extractLsb' 61 2 }) ∧
    ((q.en = true ∨ g.v.extractLsb' 61 2 = 3#2) → gives .portModeSet s) ∧
    (q.en = true → q.up = false → q.retrain = none → nodeId s ≠ 0x3FF#10 → s.dev.phase ≠ .safe → q.kept = [] →
      ∃ t, gives .linkTrained t ∧ (portOf t p).up = true ∧ (portOf t p).lanes = 4#4 ∧ (portOf t p).peer = g.node ∧
        (portOf t p).rxSeq = 0#32 ∧ (portOf t p).txSeq = 0#32 ∧ t.sim.out = s.sim.out) ∧
    (q.en = false → gives .linkTrained s) ∧
    (q.up = true → q.mode = 0#2 → s.dev.phase = .ready → g.w.getLsbD 32 = false → (∀ n, g.load ≠ .replay n) →
      (g.flag = true → g.v.extractLsb' 0 32 = q.rxSeq →
        gives .flitReceive (deliver (portUpd s p (fun q => { q with rxSeq := q.rxSeq + 1#32 })) p g.node g.core g.ctx g.words g.load)) ∧
      ((g.flag = false ∨ g.v.extractLsb' 0 32 ≠ q.rxSeq) → ∃ t, gives .flitReceive t ∧ t.lnk = s.lnk ∧ t.sim.agenda = s.sim.agenda ∧
        t.sim.out = s.sim.out ++ [{ port := p, node := q.peer, load := .replay q.rxSeq }])) ∧
    (q.up = false → gives .flitReceive s ∧ gives .reseqPacketArrival s) ∧
    (q.up = true → (q.mode = 1#2 ∨ q.mode = 2#2) → s.dev.phase = .ready →
      let r : Reseq := { q.seqOf g.node with seen := s.dev.gtsc }
      let n := g.v.toNat
      (r.next + 1024 ≤ n → ∃ t, gives .reseqPacketArrival t ∧ t.sim = s.sim ∧
        (portOf t p).rsqd.toNat = min 0xFFFFFFFF (q.rsqd.toNat + 1)) ∧
      (n < r.next → gives .reseqPacketArrival (portUpd s p (fun q => q.setSeq r))) ∧
      (n = r.next → r.held = [] →
        gives .reseqPacketArrival (deliver (portUpd s p (fun q => q.setSeq { r with next := r.next + 1 })) p g.node g.core g.ctx [] g.load))) ∧
    (let r := q.seqOf g.node
     (r.held ≠ [] → 500000 ≤ (s.dev.gtsc - r.seen).toNat →
       gives .reseqSourceTimeout (linkLost (portUpd s p (fun q => q.setSeq { r with held := [] })) p (some g.node))) ∧
     (r.held = [] → gives .reseqSourceTimeout s)) ∧
    (let slews := s.dev.phase = .ready ∧ s.dev.isRef = false ∧ g.flag = true ∧ ∃ k, k < 24 ∧ (portOf s k).up = true
     (slews → gives .timeSyncTick { s with dev.gtsc := s.dev.gtsc + 1#64 }) ∧ (¬slews → gives .timeSyncTick s)) ∧
    (let due := s.dev.phase = .off ∧ s.dev.aligned = false ∧ nodeId s ≠ 0x3FF#10
     (due → gives .gtscAlign { s with
       dev.gtsc := if s.dev.isRef then s.dev.gtsc else g.v, dev.aligned := true, dev.phase := .ready }) ∧ (¬due → gives .gtscAlign s)) ∧
    (let k := g.unit.toNat
     let i : Firmware := { version := g.v.extractLsb' 0 32, digest := digestOf g.data, signed := g.flag }
     let good := g.flag = true ∧ (s.dev.minVer.at k).toNat ≤ (g.v.extractLsb' 0 32).toNat
     (¬good → gives .firmwareInstall s) ∧
     (good → ∃ t, gives .firmwareInstall t ∧ t.dev.images.at k = i ∧ t.dev.minVer.at k = i.version ∧ t.mem = s.mem)) ∧
    (∃ t, gives .attestationRequest t ∧ ∃ a, t.dev.attest = s.dev.attest ++ [a] ∧ a.nonce = g.v ∧ a.key = s.dev.keyHash ∧
      a.images = s.dev.images.map (fun x => (x.2.digest, x.2.version)) ∧ a.retired = s.dev.retired.length) ∧
    (∃ t, gives .histogramSave t ∧ t = { s with dev.histNv := s.dev.hist }) ∧
    (g.flag = false →
      let v := (g.v.extractLsb' 0 16).toInt
      (v < 460 → ∃ t, gives .sensorSample t ∧ (t.dev.talw.at g.core.toNat).toNat = (420 - v).toNat % 2 ^ 16 ∧ t.dev.phase = s.dev.phase) ∧
      (460 ≤ v → s.dev.phase ≠ .safe → ∃ t, gives .sensorSample t ∧ t.dev.phase = .safe ∧ t.mem = s.mem ∧
        t.dev.diags.length = s.dev.diags.length + 1 ∧ ∀ e ∈ t.lnk.ports, e.2.up = false)) ∧
    (g.flag = true →
      let k := g.unit.toNat % 8
      let v := (g.v.extractLsb' 0 16).toInt
      ∃ t, gives .sensorSample t ∧ (t.dev.hbm.at k).temp = g.v.extractLsb' 0 16 ∧ (340 < v → (t.dev.hbm.at k).dbl = true) ∧
        (v ≤ 332 → (t.dev.hbm.at k).dbl = false) ∧ (332 < v → v ≤ 340 → (t.dev.hbm.at k).dbl = (s.dev.hbm.at k).dbl)) ∧
    (∃ t, gives .coolantReport t ∧ t.dev.cool.inlet = g.v.extractLsb' 0 16 ∧ t.dev.cool.flow = g.w.extractLsb' 0 16 ∧
      ((g.w.extractLsb' 0 16).toNat < 6000 ↔ t.dev.cool.lowSince ≠ none)) ∧
    (∀ b, s.dev.cool.lowSince = some b →
      (s.dev.phase ≠ .safe → 10 ^ 9 ≤ (s.dev.gtsc - b).toNat → ∃ t, gives .flowLoss t ∧ t.dev.phase = .safe ∧ t.mem = s.mem) ∧
      ((s.dev.gtsc - b).toNat < 10 ^ 9 → gives .flowLoss s)) ∧
    (s.dev.phase = .ready → gives .powerOn s) ∧
    (s.dev.phase = .off → nodeId s = 0x3FF#10 → imagesBad { State.reset with dev.images := s.dev.images, dev.minVer := s.dev.minVer } ≠ none →
      ∃ t, gives .powerOn t ∧ t.dev.phase = .safe ∧ t.mem = s.mem) ∧
    (s.dev.phase = .safe → imagesBad { State.reset with dev.images := s.dev.images, dev.minVer := s.dev.minVer } ≠ none →
      ∃ t, gives .powerOn t ∧ t.dev.phase = .safe ∧ t.mem = []) ∧
    (s.dev.phase = .off → nodeId s = 0x3FF#10 → s.dev.images = [] → s.dev.histNv = [] → g.data.length < 7 → g.node ≠ 0x3FF#10 →
      g.words = List.replicate 264 0#64 →
      ∃ t, gives .powerOn t ∧ t.dev.phase = .off ∧ nodeId t = g.node ∧ t.dev.isRef = g.flag ∧ (portOf t 0).en = true ∧ (portOf t 23).en = true ∧
        t.mem = s.mem) ∧
    (∃ t, gives .moduleReset t ∧ t.mem = s.mem ∧ t.dev.gtsc = s.dev.gtsc ∧ t.dev.images = s.dev.images ∧ t.dev.histNv = s.dev.hist ∧
      t.ctl = State.reset.ctl ∧ t.xl = State.reset.xl ∧ t.qu = State.reset.qu ∧ t.fab = State.reset.fab ∧ t.lnk = State.reset.lnk)
end

