-- ==== Sys2Proof/Laws/Map.lean ====
section
/-! SUPPORT. Keyed maps: reading an entry after it is written, and every other entry after it. -/

namespace Sys2Proof

variable {α : Type} [Inhabited α]

@[simp] theorem SMap.at_nil (k : Nat) : SMap.at ([] : SMap α) k = default := rfl

/-- An entry that was written is read back, in any map. -/
@[simp] theorem SMap.at_set_same (m : SMap α) (k : Nat) (v : α) : (m.set k v).at k = v := by
  induction m with
  | nil => simp [SMap.set, SMap.at, SMap.getD]
  | cons e m ih =>
    obtain ⟨j, w⟩ := e
    unfold SMap.set
    split
    · simp [SMap.at, SMap.getD]
    · split
      · simp [SMap.at, SMap.getD]
      · rename_i h
        simp only [SMap.at, SMap.getD] at ih ⊢
        rw [if_neg (fun e => h e.symm)]
        exact ih

/-- Every other entry reads as before, in any map. -/
theorem SMap.at_set_other (m : SMap α) {k j : Nat} (v : α) (h : j ≠ k) : (m.set k v).at j = m.at j := by
  induction m with
  | nil => simp [SMap.set, SMap.at, SMap.getD, Ne.symm h]
  | cons e m ih =>
    obtain ⟨i, w⟩ := e
    unfold SMap.set
    split
    · simp [SMap.at, SMap.getD, Ne.symm h]
    · split
      · rename_i e
        subst e
        simp [SMap.at, SMap.getD, Ne.symm h]
      · simp only [SMap.at, SMap.getD] at ih ⊢
        split
        · rfl
        · exact ih

@[simp] theorem SMap.at_upd_same (m : SMap α) (k : Nat) (f : α → α) : (m.upd k f).at k = f (m.at k) := SMap.at_set_same m k _

theorem SMap.at_upd_other (m : SMap α) {k j : Nat} (f : α → α) (h : j ≠ k) : (m.upd k f).at j = m.at j :=
  SMap.at_set_other m _ h

end Sys2Proof
end

