-- ==== Sys2Proof/Laws/State.lean ====
section
/-! SUPPORT. What each update of one field of State does to every field: one lemma per field per update, all by rfl, so that no proof
unfolds a record update. -/

namespace Sys2Proof.Machine

/-! ### ctxUpd -/

@[simp] theorem ctxUpd_sim (s : State) (core x : Nat) (f : Ctx → Ctx) : (ctxUpd s core x f).sim = s.sim := rfl
@[simp] theorem ctxUpd_dev (s : State) (core x : Nat) (f : Ctx → Ctx) : (ctxUpd s core x f).dev = s.dev := rfl
@[simp] theorem ctxUpd_xl (s : State) (core x : Nat) (f : Ctx → Ctx) : (ctxUpd s core x f).xl = s.xl := rfl
@[simp] theorem ctxUpd_mem (s : State) (core x : Nat) (f : Ctx → Ctx) : (ctxUpd s core x f).mem = s.mem := rfl
@[simp] theorem ctxUpd_st (s : State) (core x : Nat) (f : Ctx → Ctx) : (ctxUpd s core x f).st = s.st := rfl
@[simp] theorem ctxUpd_qu (s : State) (core x : Nat) (f : Ctx → Ctx) : (ctxUpd s core x f).qu = s.qu := rfl
@[simp] theorem ctxUpd_ac (s : State) (core x : Nat) (f : Ctx → Ctx) : (ctxUpd s core x f).ac = s.ac := rfl
@[simp] theorem ctxUpd_zn (s : State) (core x : Nat) (f : Ctx → Ctx) : (ctxUpd s core x f).zn = s.zn := rfl
@[simp] theorem ctxUpd_sm (s : State) (core x : Nat) (f : Ctx → Ctx) : (ctxUpd s core x f).sm = s.sm := rfl
@[simp] theorem ctxUpd_eng (s : State) (core x : Nat) (f : Ctx → Ctx) : (ctxUpd s core x f).eng = s.eng := rfl
@[simp] theorem ctxUpd_fab (s : State) (core x : Nat) (f : Ctx → Ctx) : (ctxUpd s core x f).fab = s.fab := rfl
@[simp] theorem ctxUpd_rg (s : State) (core x : Nat) (f : Ctx → Ctx) : (ctxUpd s core x f).rg = s.rg := rfl
@[simp] theorem ctxUpd_lnk (s : State) (core x : Nat) (f : Ctx → Ctx) : (ctxUpd s core x f).lnk = s.lnk := rfl
@[simp] theorem ctxUpd_hth (s : State) (core x : Nat) (f : Ctx → Ctx) : (ctxUpd s core x f).hth = s.hth := rfl
@[simp] theorem ctxUpd_ctl_ctxs (s : State) (core x : Nat) (f : Ctx → Ctx) : (ctxUpd s core x f).ctl.ctxs = s.ctl.ctxs.upd (ctxKey core x) f := rfl
@[simp] theorem ctxUpd_ctl_frames (s : State) (core x : Nat) (f : Ctx → Ctx) : (ctxUpd s core x f).ctl.frames = s.ctl.frames := rfl
@[simp] theorem ctxUpd_ctl_pend (s : State) (core x : Nat) (f : Ctx → Ctx) : (ctxUpd s core x f).ctl.pend = s.ctl.pend := rfl
@[simp] theorem ctxUpd_ctl_tags (s : State) (core x : Nat) (f : Ctx → Ctx) : (ctxUpd s core x f).ctl.tags = s.ctl.tags := rfl
@[simp] theorem ctxUpd_ctl_indet (s : State) (core x : Nat) (f : Ctx → Ctx) : (ctxUpd s core x f).ctl.indet = s.ctl.indet := rfl
@[simp] theorem ctxUpd_ctl_replay (s : State) (core x : Nat) (f : Ctx → Ctx) : (ctxUpd s core x f).ctl.replay = s.ctl.replay := rfl
@[simp] theorem ctxUpd_ctl_replayQ (s : State) (core x : Nat) (f : Ctx → Ctx) : (ctxUpd s core x f).ctl.replayQ = s.ctl.replayQ := rfl
@[simp] theorem ctxUpd_ctl_tsup (s : State) (core x : Nat) (f : Ctx → Ctx) : (ctxUpd s core x f).ctl.tsup = s.ctl.tsup := rfl
@[simp] theorem ctxUpd_ctl_dbga (s : State) (core x : Nat) (f : Ctx → Ctx) : (ctxUpd s core x f).ctl.dbga = s.ctl.dbga := rfl
@[simp] theorem ctxUpd_ctl_logs (s : State) (core x : Nat) (f : Ctx → Ctx) : (ctxUpd s core x f).ctl.logs = s.ctl.logs := rfl

/-! ### frameUpd -/

@[simp] theorem frameUpd_sim (s : State) (core x : Nat) (f : Frame → Frame) : (frameUpd s core x f).sim = s.sim := rfl
@[simp] theorem frameUpd_dev (s : State) (core x : Nat) (f : Frame → Frame) : (frameUpd s core x f).dev = s.dev := rfl
@[simp] theorem frameUpd_xl (s : State) (core x : Nat) (f : Frame → Frame) : (frameUpd s core x f).xl = s.xl := rfl
@[simp] theorem frameUpd_mem (s : State) (core x : Nat) (f : Frame → Frame) : (frameUpd s core x f).mem = s.mem := rfl
@[simp] theorem frameUpd_st (s : State) (core x : Nat) (f : Frame → Frame) : (frameUpd s core x f).st = s.st := rfl
@[simp] theorem frameUpd_qu (s : State) (core x : Nat) (f : Frame → Frame) : (frameUpd s core x f).qu = s.qu := rfl
@[simp] theorem frameUpd_ac (s : State) (core x : Nat) (f : Frame → Frame) : (frameUpd s core x f).ac = s.ac := rfl
@[simp] theorem frameUpd_zn (s : State) (core x : Nat) (f : Frame → Frame) : (frameUpd s core x f).zn = s.zn := rfl
@[simp] theorem frameUpd_sm (s : State) (core x : Nat) (f : Frame → Frame) : (frameUpd s core x f).sm = s.sm := rfl
@[simp] theorem frameUpd_eng (s : State) (core x : Nat) (f : Frame → Frame) : (frameUpd s core x f).eng = s.eng := rfl
@[simp] theorem frameUpd_fab (s : State) (core x : Nat) (f : Frame → Frame) : (frameUpd s core x f).fab = s.fab := rfl
@[simp] theorem frameUpd_rg (s : State) (core x : Nat) (f : Frame → Frame) : (frameUpd s core x f).rg = s.rg := rfl
@[simp] theorem frameUpd_lnk (s : State) (core x : Nat) (f : Frame → Frame) : (frameUpd s core x f).lnk = s.lnk := rfl
@[simp] theorem frameUpd_hth (s : State) (core x : Nat) (f : Frame → Frame) : (frameUpd s core x f).hth = s.hth := rfl
@[simp] theorem frameUpd_ctl_ctxs (s : State) (core x : Nat) (f : Frame → Frame) : (frameUpd s core x f).ctl.ctxs = s.ctl.ctxs := rfl
@[simp] theorem frameUpd_ctl_frames (s : State) (core x : Nat) (f : Frame → Frame) : (frameUpd s core x f).ctl.frames = s.ctl.frames.upd (frameKey core (ctxOf s core x).frm) f := rfl
@[simp] theorem frameUpd_ctl_pend (s : State) (core x : Nat) (f : Frame → Frame) : (frameUpd s core x f).ctl.pend = s.ctl.pend := rfl
@[simp] theorem frameUpd_ctl_tags (s : State) (core x : Nat) (f : Frame → Frame) : (frameUpd s core x f).ctl.tags = s.ctl.tags := rfl
@[simp] theorem frameUpd_ctl_indet (s : State) (core x : Nat) (f : Frame → Frame) : (frameUpd s core x f).ctl.indet = s.ctl.indet := rfl
@[simp] theorem frameUpd_ctl_replay (s : State) (core x : Nat) (f : Frame → Frame) : (frameUpd s core x f).ctl.replay = s.ctl.replay := rfl
@[simp] theorem frameUpd_ctl_replayQ (s : State) (core x : Nat) (f : Frame → Frame) : (frameUpd s core x f).ctl.replayQ = s.ctl.replayQ := rfl
@[simp] theorem frameUpd_ctl_tsup (s : State) (core x : Nat) (f : Frame → Frame) : (frameUpd s core x f).ctl.tsup = s.ctl.tsup := rfl
@[simp] theorem frameUpd_ctl_dbga (s : State) (core x : Nat) (f : Frame → Frame) : (frameUpd s core x f).ctl.dbga = s.ctl.dbga := rfl
@[simp] theorem frameUpd_ctl_logs (s : State) (core x : Nat) (f : Frame → Frame) : (frameUpd s core x f).ctl.logs = s.ctl.logs := rfl

/-! ### frameDrop -/

@[simp] theorem frameDrop_sim (s : State) (core x : Nat) : (frameDrop s core x).sim = s.sim := rfl
@[simp] theorem frameDrop_dev (s : State) (core x : Nat) : (frameDrop s core x).dev = s.dev := rfl
@[simp] theorem frameDrop_xl (s : State) (core x : Nat) : (frameDrop s core x).xl = s.xl := rfl
@[simp] theorem frameDrop_mem (s : State) (core x : Nat) : (frameDrop s core x).mem = s.mem := rfl
@[simp] theorem frameDrop_st (s : State) (core x : Nat) : (frameDrop s core x).st = s.st := rfl
@[simp] theorem frameDrop_qu (s : State) (core x : Nat) : (frameDrop s core x).qu = s.qu := rfl
@[simp] theorem frameDrop_ac (s : State) (core x : Nat) : (frameDrop s core x).ac = s.ac := rfl
@[simp] theorem frameDrop_zn (s : State) (core x : Nat) : (frameDrop s core x).zn = s.zn := rfl
@[simp] theorem frameDrop_sm (s : State) (core x : Nat) : (frameDrop s core x).sm = s.sm := rfl
@[simp] theorem frameDrop_eng (s : State) (core x : Nat) : (frameDrop s core x).eng = s.eng := rfl
@[simp] theorem frameDrop_fab (s : State) (core x : Nat) : (frameDrop s core x).fab = s.fab := rfl
@[simp] theorem frameDrop_rg (s : State) (core x : Nat) : (frameDrop s core x).rg = s.rg := rfl
@[simp] theorem frameDrop_lnk (s : State) (core x : Nat) : (frameDrop s core x).lnk = s.lnk := rfl
@[simp] theorem frameDrop_hth (s : State) (core x : Nat) : (frameDrop s core x).hth = s.hth := rfl
@[simp] theorem frameDrop_ctl_ctxs (s : State) (core x : Nat) : (frameDrop s core x).ctl.ctxs = s.ctl.ctxs := rfl
@[simp] theorem frameDrop_ctl_pend (s : State) (core x : Nat) : (frameDrop s core x).ctl.pend = s.ctl.pend := rfl
@[simp] theorem frameDrop_ctl_tags (s : State) (core x : Nat) : (frameDrop s core x).ctl.tags = s.ctl.tags := rfl
@[simp] theorem frameDrop_ctl_indet (s : State) (core x : Nat) : (frameDrop s core x).ctl.indet = s.ctl.indet := rfl
@[simp] theorem frameDrop_ctl_replay (s : State) (core x : Nat) : (frameDrop s core x).ctl.replay = s.ctl.replay := rfl
@[simp] theorem frameDrop_ctl_replayQ (s : State) (core x : Nat) : (frameDrop s core x).ctl.replayQ = s.ctl.replayQ := rfl
@[simp] theorem frameDrop_ctl_tsup (s : State) (core x : Nat) : (frameDrop s core x).ctl.tsup = s.ctl.tsup := rfl
@[simp] theorem frameDrop_ctl_dbga (s : State) (core x : Nat) : (frameDrop s core x).ctl.dbga = s.ctl.dbga := rfl
@[simp] theorem frameDrop_ctl_logs (s : State) (core x : Nat) : (frameDrop s core x).ctl.logs = s.ctl.logs := rfl

/-! ### pendDrop -/

@[simp] theorem pendDrop_sim (s : State) (core x : Nat) : (pendDrop s core x).sim = s.sim := rfl
@[simp] theorem pendDrop_dev (s : State) (core x : Nat) : (pendDrop s core x).dev = s.dev := rfl
@[simp] theorem pendDrop_xl (s : State) (core x : Nat) : (pendDrop s core x).xl = s.xl := rfl
@[simp] theorem pendDrop_mem (s : State) (core x : Nat) : (pendDrop s core x).mem = s.mem := rfl
@[simp] theorem pendDrop_st (s : State) (core x : Nat) : (pendDrop s core x).st = s.st := rfl
@[simp] theorem pendDrop_qu (s : State) (core x : Nat) : (pendDrop s core x).qu = s.qu := rfl
@[simp] theorem pendDrop_ac (s : State) (core x : Nat) : (pendDrop s core x).ac = s.ac := rfl
@[simp] theorem pendDrop_zn (s : State) (core x : Nat) : (pendDrop s core x).zn = s.zn := rfl
@[simp] theorem pendDrop_sm (s : State) (core x : Nat) : (pendDrop s core x).sm = s.sm := rfl
@[simp] theorem pendDrop_eng (s : State) (core x : Nat) : (pendDrop s core x).eng = s.eng := rfl
@[simp] theorem pendDrop_fab (s : State) (core x : Nat) : (pendDrop s core x).fab = s.fab := rfl
@[simp] theorem pendDrop_rg (s : State) (core x : Nat) : (pendDrop s core x).rg = s.rg := rfl
@[simp] theorem pendDrop_lnk (s : State) (core x : Nat) : (pendDrop s core x).lnk = s.lnk := rfl
@[simp] theorem pendDrop_hth (s : State) (core x : Nat) : (pendDrop s core x).hth = s.hth := rfl
@[simp] theorem pendDrop_ctl_ctxs (s : State) (core x : Nat) : (pendDrop s core x).ctl.ctxs = s.ctl.ctxs := rfl
@[simp] theorem pendDrop_ctl_frames (s : State) (core x : Nat) : (pendDrop s core x).ctl.frames = s.ctl.frames := rfl
@[simp] theorem pendDrop_ctl_tags (s : State) (core x : Nat) : (pendDrop s core x).ctl.tags = s.ctl.tags := rfl
@[simp] theorem pendDrop_ctl_indet (s : State) (core x : Nat) : (pendDrop s core x).ctl.indet = s.ctl.indet := rfl
@[simp] theorem pendDrop_ctl_replay (s : State) (core x : Nat) : (pendDrop s core x).ctl.replay = s.ctl.replay := rfl
@[simp] theorem pendDrop_ctl_replayQ (s : State) (core x : Nat) : (pendDrop s core x).ctl.replayQ = s.ctl.replayQ := rfl
@[simp] theorem pendDrop_ctl_tsup (s : State) (core x : Nat) : (pendDrop s core x).ctl.tsup = s.ctl.tsup := rfl
@[simp] theorem pendDrop_ctl_dbga (s : State) (core x : Nat) : (pendDrop s core x).ctl.dbga = s.ctl.dbga := rfl
@[simp] theorem pendDrop_ctl_logs (s : State) (core x : Nat) : (pendDrop s core x).ctl.logs = s.ctl.logs := rfl

/-! ### dbgUpd -/

@[simp] theorem dbgUpd_sim (s : State) (core : Nat) (f : List DbgEnt → List DbgEnt) : (dbgUpd s core f).sim = s.sim := rfl
@[simp] theorem dbgUpd_dev (s : State) (core : Nat) (f : List DbgEnt → List DbgEnt) : (dbgUpd s core f).dev = s.dev := rfl
@[simp] theorem dbgUpd_xl (s : State) (core : Nat) (f : List DbgEnt → List DbgEnt) : (dbgUpd s core f).xl = s.xl := rfl
@[simp] theorem dbgUpd_mem (s : State) (core : Nat) (f : List DbgEnt → List DbgEnt) : (dbgUpd s core f).mem = s.mem := rfl
@[simp] theorem dbgUpd_st (s : State) (core : Nat) (f : List DbgEnt → List DbgEnt) : (dbgUpd s core f).st = s.st := rfl
@[simp] theorem dbgUpd_qu (s : State) (core : Nat) (f : List DbgEnt → List DbgEnt) : (dbgUpd s core f).qu = s.qu := rfl
@[simp] theorem dbgUpd_ac (s : State) (core : Nat) (f : List DbgEnt → List DbgEnt) : (dbgUpd s core f).ac = s.ac := rfl
@[simp] theorem dbgUpd_zn (s : State) (core : Nat) (f : List DbgEnt → List DbgEnt) : (dbgUpd s core f).zn = s.zn := rfl
@[simp] theorem dbgUpd_sm (s : State) (core : Nat) (f : List DbgEnt → List DbgEnt) : (dbgUpd s core f).sm = s.sm := rfl
@[simp] theorem dbgUpd_eng (s : State) (core : Nat) (f : List DbgEnt → List DbgEnt) : (dbgUpd s core f).eng = s.eng := rfl
@[simp] theorem dbgUpd_fab (s : State) (core : Nat) (f : List DbgEnt → List DbgEnt) : (dbgUpd s core f).fab = s.fab := rfl
@[simp] theorem dbgUpd_rg (s : State) (core : Nat) (f : List DbgEnt → List DbgEnt) : (dbgUpd s core f).rg = s.rg := rfl
@[simp] theorem dbgUpd_lnk (s : State) (core : Nat) (f : List DbgEnt → List DbgEnt) : (dbgUpd s core f).lnk = s.lnk := rfl
@[simp] theorem dbgUpd_hth (s : State) (core : Nat) (f : List DbgEnt → List DbgEnt) : (dbgUpd s core f).hth = s.hth := rfl
@[simp] theorem dbgUpd_ctl_ctxs (s : State) (core : Nat) (f : List DbgEnt → List DbgEnt) : (dbgUpd s core f).ctl.ctxs = s.ctl.ctxs := rfl
@[simp] theorem dbgUpd_ctl_frames (s : State) (core : Nat) (f : List DbgEnt → List DbgEnt) : (dbgUpd s core f).ctl.frames = s.ctl.frames := rfl
@[simp] theorem dbgUpd_ctl_pend (s : State) (core : Nat) (f : List DbgEnt → List DbgEnt) : (dbgUpd s core f).ctl.pend = s.ctl.pend := rfl
@[simp] theorem dbgUpd_ctl_tags (s : State) (core : Nat) (f : List DbgEnt → List DbgEnt) : (dbgUpd s core f).ctl.tags = s.ctl.tags := rfl
@[simp] theorem dbgUpd_ctl_indet (s : State) (core : Nat) (f : List DbgEnt → List DbgEnt) : (dbgUpd s core f).ctl.indet = s.ctl.indet := rfl
@[simp] theorem dbgUpd_ctl_replay (s : State) (core : Nat) (f : List DbgEnt → List DbgEnt) : (dbgUpd s core f).ctl.replay = s.ctl.replay := rfl
@[simp] theorem dbgUpd_ctl_replayQ (s : State) (core : Nat) (f : List DbgEnt → List DbgEnt) : (dbgUpd s core f).ctl.replayQ = s.ctl.replayQ := rfl
@[simp] theorem dbgUpd_ctl_tsup (s : State) (core : Nat) (f : List DbgEnt → List DbgEnt) : (dbgUpd s core f).ctl.tsup = s.ctl.tsup := rfl
@[simp] theorem dbgUpd_ctl_logs (s : State) (core : Nat) (f : List DbgEnt → List DbgEnt) : (dbgUpd s core f).ctl.logs = s.ctl.logs := rfl

/-! ### regUpd -/

@[simp] theorem regUpd_sim (s : State) (rid : Nat) (f : Region → Region) : (regUpd s rid f).sim = s.sim := rfl
@[simp] theorem regUpd_dev (s : State) (rid : Nat) (f : Region → Region) : (regUpd s rid f).dev = s.dev := rfl
@[simp] theorem regUpd_xl (s : State) (rid : Nat) (f : Region → Region) : (regUpd s rid f).xl = s.xl := rfl
@[simp] theorem regUpd_mem (s : State) (rid : Nat) (f : Region → Region) : (regUpd s rid f).mem = s.mem := rfl
@[simp] theorem regUpd_st (s : State) (rid : Nat) (f : Region → Region) : (regUpd s rid f).st = s.st := rfl
@[simp] theorem regUpd_qu (s : State) (rid : Nat) (f : Region → Region) : (regUpd s rid f).qu = s.qu := rfl
@[simp] theorem regUpd_ac (s : State) (rid : Nat) (f : Region → Region) : (regUpd s rid f).ac = s.ac := rfl
@[simp] theorem regUpd_zn (s : State) (rid : Nat) (f : Region → Region) : (regUpd s rid f).zn = s.zn := rfl
@[simp] theorem regUpd_sm (s : State) (rid : Nat) (f : Region → Region) : (regUpd s rid f).sm = s.sm := rfl
@[simp] theorem regUpd_eng (s : State) (rid : Nat) (f : Region → Region) : (regUpd s rid f).eng = s.eng := rfl
@[simp] theorem regUpd_fab (s : State) (rid : Nat) (f : Region → Region) : (regUpd s rid f).fab = s.fab := rfl
@[simp] theorem regUpd_ctl (s : State) (rid : Nat) (f : Region → Region) : (regUpd s rid f).ctl = s.ctl := rfl
@[simp] theorem regUpd_lnk (s : State) (rid : Nat) (f : Region → Region) : (regUpd s rid f).lnk = s.lnk := rfl
@[simp] theorem regUpd_hth (s : State) (rid : Nat) (f : Region → Region) : (regUpd s rid f).hth = s.hth := rfl
@[simp] theorem regUpd_rg_regions (s : State) (rid : Nat) (f : Region → Region) : (regUpd s rid f).rg.regions = s.rg.regions.upd (rid - 1) f := rfl
@[simp] theorem regUpd_rg_slots (s : State) (rid : Nat) (f : Region → Region) : (regUpd s rid f).rg.slots = s.rg.slots := rfl
@[simp] theorem regUpd_rg_nextRid (s : State) (rid : Nat) (f : Region → Region) : (regUpd s rid f).rg.nextRid = s.rg.nextRid := rfl
@[simp] theorem regUpd_rg_sched (s : State) (rid : Nat) (f : Region → Region) : (regUpd s rid f).rg.sched = s.rg.sched := rfl
@[simp] theorem regUpd_rg_notify (s : State) (rid : Nat) (f : Region → Region) : (regUpd s rid f).rg.notify = s.rg.notify := rfl
@[simp] theorem regUpd_rg_schedQ (s : State) (rid : Nat) (f : Region → Region) : (regUpd s rid f).rg.schedQ = s.rg.schedQ := rfl
@[simp] theorem regUpd_rg_arb (s : State) (rid : Nat) (f : Region → Region) : (regUpd s rid f).rg.arb = s.rg.arb := rfl
@[simp] theorem regUpd_rg_heaps (s : State) (rid : Nat) (f : Region → Region) : (regUpd s rid f).rg.heaps = s.rg.heaps := rfl
@[simp] theorem regUpd_rg_poolHold (s : State) (rid : Nat) (f : Region → Region) : (regUpd s rid f).rg.poolHold = s.rg.poolHold := rfl

/-! ### streamUpd -/

@[simp] theorem streamUpd_sim (s : State) (core k : Nat) (f : Stream → Stream) : (streamUpd s core k f).sim = s.sim := rfl
@[simp] theorem streamUpd_dev (s : State) (core k : Nat) (f : Stream → Stream) : (streamUpd s core k f).dev = s.dev := rfl
@[simp] theorem streamUpd_xl (s : State) (core k : Nat) (f : Stream → Stream) : (streamUpd s core k f).xl = s.xl := rfl
@[simp] theorem streamUpd_mem (s : State) (core k : Nat) (f : Stream → Stream) : (streamUpd s core k f).mem = s.mem := rfl
@[simp] theorem streamUpd_st (s : State) (core k : Nat) (f : Stream → Stream) : (streamUpd s core k f).st = s.st := rfl
@[simp] theorem streamUpd_qu (s : State) (core k : Nat) (f : Stream → Stream) : (streamUpd s core k f).qu = s.qu := rfl
@[simp] theorem streamUpd_ac (s : State) (core k : Nat) (f : Stream → Stream) : (streamUpd s core k f).ac = s.ac := rfl
@[simp] theorem streamUpd_zn (s : State) (core k : Nat) (f : Stream → Stream) : (streamUpd s core k f).zn = s.zn := rfl
@[simp] theorem streamUpd_eng (s : State) (core k : Nat) (f : Stream → Stream) : (streamUpd s core k f).eng = s.eng := rfl
@[simp] theorem streamUpd_fab (s : State) (core k : Nat) (f : Stream → Stream) : (streamUpd s core k f).fab = s.fab := rfl
@[simp] theorem streamUpd_rg (s : State) (core k : Nat) (f : Stream → Stream) : (streamUpd s core k f).rg = s.rg := rfl
@[simp] theorem streamUpd_ctl (s : State) (core k : Nat) (f : Stream → Stream) : (streamUpd s core k f).ctl = s.ctl := rfl
@[simp] theorem streamUpd_lnk (s : State) (core k : Nat) (f : Stream → Stream) : (streamUpd s core k f).lnk = s.lnk := rfl
@[simp] theorem streamUpd_hth (s : State) (core k : Nat) (f : Stream → Stream) : (streamUpd s core k f).hth = s.hth := rfl
@[simp] theorem streamUpd_sm_streams (s : State) (core k : Nat) (f : Stream → Stream) : (streamUpd s core k f).sm.streams = s.sm.streams.upd (streamKey core k) f := rfl
@[simp] theorem streamUpd_sm_coal (s : State) (core k : Nat) (f : Stream → Stream) : (streamUpd s core k f).sm.coal = s.sm.coal := rfl
@[simp] theorem streamUpd_sm_own (s : State) (core k : Nat) (f : Stream → Stream) : (streamUpd s core k f).sm.own = s.sm.own := rfl

/-! ### elemUpd -/

@[simp] theorem elemUpd_sim (s : State) (e : Nat) (f : Elem → Elem) : (elemUpd s e f).sim = s.sim := rfl
@[simp] theorem elemUpd_dev (s : State) (e : Nat) (f : Elem → Elem) : (elemUpd s e f).dev = s.dev := rfl
@[simp] theorem elemUpd_xl (s : State) (e : Nat) (f : Elem → Elem) : (elemUpd s e f).xl = s.xl := rfl
@[simp] theorem elemUpd_mem (s : State) (e : Nat) (f : Elem → Elem) : (elemUpd s e f).mem = s.mem := rfl
@[simp] theorem elemUpd_st (s : State) (e : Nat) (f : Elem → Elem) : (elemUpd s e f).st = s.st := rfl
@[simp] theorem elemUpd_qu (s : State) (e : Nat) (f : Elem → Elem) : (elemUpd s e f).qu = s.qu := rfl
@[simp] theorem elemUpd_ac (s : State) (e : Nat) (f : Elem → Elem) : (elemUpd s e f).ac = s.ac := rfl
@[simp] theorem elemUpd_zn (s : State) (e : Nat) (f : Elem → Elem) : (elemUpd s e f).zn = s.zn := rfl
@[simp] theorem elemUpd_sm (s : State) (e : Nat) (f : Elem → Elem) : (elemUpd s e f).sm = s.sm := rfl
@[simp] theorem elemUpd_eng (s : State) (e : Nat) (f : Elem → Elem) : (elemUpd s e f).eng = s.eng := rfl
@[simp] theorem elemUpd_rg (s : State) (e : Nat) (f : Elem → Elem) : (elemUpd s e f).rg = s.rg := rfl
@[simp] theorem elemUpd_ctl (s : State) (e : Nat) (f : Elem → Elem) : (elemUpd s e f).ctl = s.ctl := rfl
@[simp] theorem elemUpd_lnk (s : State) (e : Nat) (f : Elem → Elem) : (elemUpd s e f).lnk = s.lnk := rfl
@[simp] theorem elemUpd_hth (s : State) (e : Nat) (f : Elem → Elem) : (elemUpd s e f).hth = s.hth := rfl
@[simp] theorem elemUpd_fab_elems (s : State) (e : Nat) (f : Elem → Elem) : (elemUpd s e f).fab.elems = s.fab.elems.upd e f := rfl

/-! ### tileUpd -/

@[simp] theorem tileUpd_sim (s : State) (core i : Nat) (f : Tile → Tile) : (tileUpd s core i f).sim = s.sim := rfl
@[simp] theorem tileUpd_dev (s : State) (core i : Nat) (f : Tile → Tile) : (tileUpd s core i f).dev = s.dev := rfl
@[simp] theorem tileUpd_xl (s : State) (core i : Nat) (f : Tile → Tile) : (tileUpd s core i f).xl = s.xl := rfl
@[simp] theorem tileUpd_mem (s : State) (core i : Nat) (f : Tile → Tile) : (tileUpd s core i f).mem = s.mem := rfl
@[simp] theorem tileUpd_qu (s : State) (core i : Nat) (f : Tile → Tile) : (tileUpd s core i f).qu = s.qu := rfl
@[simp] theorem tileUpd_ac (s : State) (core i : Nat) (f : Tile → Tile) : (tileUpd s core i f).ac = s.ac := rfl
@[simp] theorem tileUpd_zn (s : State) (core i : Nat) (f : Tile → Tile) : (tileUpd s core i f).zn = s.zn := rfl
@[simp] theorem tileUpd_sm (s : State) (core i : Nat) (f : Tile → Tile) : (tileUpd s core i f).sm = s.sm := rfl
@[simp] theorem tileUpd_eng (s : State) (core i : Nat) (f : Tile → Tile) : (tileUpd s core i f).eng = s.eng := rfl
@[simp] theorem tileUpd_fab (s : State) (core i : Nat) (f : Tile → Tile) : (tileUpd s core i f).fab = s.fab := rfl
@[simp] theorem tileUpd_rg (s : State) (core i : Nat) (f : Tile → Tile) : (tileUpd s core i f).rg = s.rg := rfl
@[simp] theorem tileUpd_ctl (s : State) (core i : Nat) (f : Tile → Tile) : (tileUpd s core i f).ctl = s.ctl := rfl
@[simp] theorem tileUpd_lnk (s : State) (core i : Nat) (f : Tile → Tile) : (tileUpd s core i f).lnk = s.lnk := rfl
@[simp] theorem tileUpd_hth (s : State) (core i : Nat) (f : Tile → Tile) : (tileUpd s core i f).hth = s.hth := rfl
@[simp] theorem tileUpd_st_banks (s : State) (core i : Nat) (f : Tile → Tile) : (tileUpd s core i f).st.banks = s.st.banks := rfl
@[simp] theorem tileUpd_st_poison (s : State) (core i : Nat) (f : Tile → Tile) : (tileUpd s core i f).st.poison = s.st.poison := rfl
@[simp] theorem tileUpd_st_cc (s : State) (core i : Nat) (f : Tile → Tile) : (tileUpd s core i f).st.cc = s.st.cc := rfl
@[simp] theorem tileUpd_st_l2 (s : State) (core i : Nat) (f : Tile → Tile) : (tileUpd s core i f).st.l2 = s.st.l2 := rfl
@[simp] theorem tileUpd_st_gated (s : State) (core i : Nat) (f : Tile → Tile) : (tileUpd s core i f).st.gated = s.st.gated := rfl
@[simp] theorem tileUpd_st_tiles (s : State) (core i : Nat) (f : Tile → Tile) : (tileUpd s core i f).st.tiles = s.st.tiles.upd (tileKey core i) f := rfl
@[simp] theorem tileUpd_st_lrs (s : State) (core i : Nat) (f : Tile → Tile) : (tileUpd s core i f).st.lrs = s.st.lrs := rfl

/-! ### bankUpd -/

@[simp] theorem bankUpd_sim (s : State) (core bank : Nat) (f : Bank → Bank) : (bankUpd s core bank f).sim = s.sim := rfl
@[simp] theorem bankUpd_dev (s : State) (core bank : Nat) (f : Bank → Bank) : (bankUpd s core bank f).dev = s.dev := rfl
@[simp] theorem bankUpd_xl (s : State) (core bank : Nat) (f : Bank → Bank) : (bankUpd s core bank f).xl = s.xl := rfl
@[simp] theorem bankUpd_mem (s : State) (core bank : Nat) (f : Bank → Bank) : (bankUpd s core bank f).mem = s.mem := rfl
@[simp] theorem bankUpd_qu (s : State) (core bank : Nat) (f : Bank → Bank) : (bankUpd s core bank f).qu = s.qu := rfl
@[simp] theorem bankUpd_ac (s : State) (core bank : Nat) (f : Bank → Bank) : (bankUpd s core bank f).ac = s.ac := rfl
@[simp] theorem bankUpd_zn (s : State) (core bank : Nat) (f : Bank → Bank) : (bankUpd s core bank f).zn = s.zn := rfl
@[simp] theorem bankUpd_sm (s : State) (core bank : Nat) (f : Bank → Bank) : (bankUpd s core bank f).sm = s.sm := rfl
@[simp] theorem bankUpd_eng (s : State) (core bank : Nat) (f : Bank → Bank) : (bankUpd s core bank f).eng = s.eng := rfl
@[simp] theorem bankUpd_fab (s : State) (core bank : Nat) (f : Bank → Bank) : (bankUpd s core bank f).fab = s.fab := rfl
@[simp] theorem bankUpd_rg (s : State) (core bank : Nat) (f : Bank → Bank) : (bankUpd s core bank f).rg = s.rg := rfl
@[simp] theorem bankUpd_ctl (s : State) (core bank : Nat) (f : Bank → Bank) : (bankUpd s core bank f).ctl = s.ctl := rfl
@[simp] theorem bankUpd_lnk (s : State) (core bank : Nat) (f : Bank → Bank) : (bankUpd s core bank f).lnk = s.lnk := rfl
@[simp] theorem bankUpd_hth (s : State) (core bank : Nat) (f : Bank → Bank) : (bankUpd s core bank f).hth = s.hth := rfl
@[simp] theorem bankUpd_st_banks (s : State) (core bank : Nat) (f : Bank → Bank) : (bankUpd s core bank f).st.banks = s.st.banks.upd (bankKey core bank) f := rfl
@[simp] theorem bankUpd_st_poison (s : State) (core bank : Nat) (f : Bank → Bank) : (bankUpd s core bank f).st.poison = s.st.poison := rfl
@[simp] theorem bankUpd_st_cc (s : State) (core bank : Nat) (f : Bank → Bank) : (bankUpd s core bank f).st.cc = s.st.cc := rfl
@[simp] theorem bankUpd_st_l2 (s : State) (core bank : Nat) (f : Bank → Bank) : (bankUpd s core bank f).st.l2 = s.st.l2 := rfl
@[simp] theorem bankUpd_st_gated (s : State) (core bank : Nat) (f : Bank → Bank) : (bankUpd s core bank f).st.gated = s.st.gated := rfl
@[simp] theorem bankUpd_st_tiles (s : State) (core bank : Nat) (f : Bank → Bank) : (bankUpd s core bank f).st.tiles = s.st.tiles := rfl
@[simp] theorem bankUpd_st_lrs (s : State) (core bank : Nat) (f : Bank → Bank) : (bankUpd s core bank f).st.lrs = s.st.lrs := rfl

/-! ### viewUpd -/

@[simp] theorem viewUpd_sim (s : State) (core n view : Nat) (f : QView → QView) : (viewUpd s core n view f).sim = s.sim := rfl
@[simp] theorem viewUpd_dev (s : State) (core n view : Nat) (f : QView → QView) : (viewUpd s core n view f).dev = s.dev := rfl
@[simp] theorem viewUpd_xl (s : State) (core n view : Nat) (f : QView → QView) : (viewUpd s core n view f).xl = s.xl := rfl
@[simp] theorem viewUpd_mem (s : State) (core n view : Nat) (f : QView → QView) : (viewUpd s core n view f).mem = s.mem := rfl
@[simp] theorem viewUpd_st (s : State) (core n view : Nat) (f : QView → QView) : (viewUpd s core n view f).st = s.st := rfl
@[simp] theorem viewUpd_ac (s : State) (core n view : Nat) (f : QView → QView) : (viewUpd s core n view f).ac = s.ac := rfl
@[simp] theorem viewUpd_zn (s : State) (core n view : Nat) (f : QView → QView) : (viewUpd s core n view f).zn = s.zn := rfl
@[simp] theorem viewUpd_sm (s : State) (core n view : Nat) (f : QView → QView) : (viewUpd s core n view f).sm = s.sm := rfl
@[simp] theorem viewUpd_eng (s : State) (core n view : Nat) (f : QView → QView) : (viewUpd s core n view f).eng = s.eng := rfl
@[simp] theorem viewUpd_fab (s : State) (core n view : Nat) (f : QView → QView) : (viewUpd s core n view f).fab = s.fab := rfl
@[simp] theorem viewUpd_rg (s : State) (core n view : Nat) (f : QView → QView) : (viewUpd s core n view f).rg = s.rg := rfl
@[simp] theorem viewUpd_ctl (s : State) (core n view : Nat) (f : QView → QView) : (viewUpd s core n view f).ctl = s.ctl := rfl
@[simp] theorem viewUpd_lnk (s : State) (core n view : Nat) (f : QView → QView) : (viewUpd s core n view f).lnk = s.lnk := rfl
@[simp] theorem viewUpd_hth (s : State) (core n view : Nat) (f : QView → QView) : (viewUpd s core n view f).hth = s.hth := rfl

/-! ### accUpd -/

@[simp] theorem accUpd_sim (s : State) (core a : Nat) (f : AccSet → AccSet) : (accUpd s core a f).sim = s.sim := rfl
@[simp] theorem accUpd_dev (s : State) (core a : Nat) (f : AccSet → AccSet) : (accUpd s core a f).dev = s.dev := rfl
@[simp] theorem accUpd_xl (s : State) (core a : Nat) (f : AccSet → AccSet) : (accUpd s core a f).xl = s.xl := rfl
@[simp] theorem accUpd_mem (s : State) (core a : Nat) (f : AccSet → AccSet) : (accUpd s core a f).mem = s.mem := rfl
@[simp] theorem accUpd_st (s : State) (core a : Nat) (f : AccSet → AccSet) : (accUpd s core a f).st = s.st := rfl
@[simp] theorem accUpd_qu (s : State) (core a : Nat) (f : AccSet → AccSet) : (accUpd s core a f).qu = s.qu := rfl
@[simp] theorem accUpd_zn (s : State) (core a : Nat) (f : AccSet → AccSet) : (accUpd s core a f).zn = s.zn := rfl
@[simp] theorem accUpd_sm (s : State) (core a : Nat) (f : AccSet → AccSet) : (accUpd s core a f).sm = s.sm := rfl
@[simp] theorem accUpd_eng (s : State) (core a : Nat) (f : AccSet → AccSet) : (accUpd s core a f).eng = s.eng := rfl
@[simp] theorem accUpd_fab (s : State) (core a : Nat) (f : AccSet → AccSet) : (accUpd s core a f).fab = s.fab := rfl
@[simp] theorem accUpd_rg (s : State) (core a : Nat) (f : AccSet → AccSet) : (accUpd s core a f).rg = s.rg := rfl
@[simp] theorem accUpd_ctl (s : State) (core a : Nat) (f : AccSet → AccSet) : (accUpd s core a f).ctl = s.ctl := rfl
@[simp] theorem accUpd_lnk (s : State) (core a : Nat) (f : AccSet → AccSet) : (accUpd s core a f).lnk = s.lnk := rfl
@[simp] theorem accUpd_hth (s : State) (core a : Nat) (f : AccSet → AccSet) : (accUpd s core a f).hth = s.hth := rfl
@[simp] theorem accUpd_ac_sets (s : State) (core a : Nat) (f : AccSet → AccSet) : (accUpd s core a f).ac.sets = s.ac.sets.upd (setKey core a) f := rfl
@[simp] theorem accUpd_ac_rows (s : State) (core a : Nat) (f : AccSet → AccSet) : (accUpd s core a f).ac.rows = s.ac.rows := rfl

/-! ### blkUpd -/

@[simp] theorem blkUpd_sim (s : State) (core z k : Nat) (f : SlotBlk → SlotBlk) : (blkUpd s core z k f).sim = s.sim := rfl
@[simp] theorem blkUpd_dev (s : State) (core z k : Nat) (f : SlotBlk → SlotBlk) : (blkUpd s core z k f).dev = s.dev := rfl
@[simp] theorem blkUpd_xl (s : State) (core z k : Nat) (f : SlotBlk → SlotBlk) : (blkUpd s core z k f).xl = s.xl := rfl
@[simp] theorem blkUpd_mem (s : State) (core z k : Nat) (f : SlotBlk → SlotBlk) : (blkUpd s core z k f).mem = s.mem := rfl
@[simp] theorem blkUpd_st (s : State) (core z k : Nat) (f : SlotBlk → SlotBlk) : (blkUpd s core z k f).st = s.st := rfl
@[simp] theorem blkUpd_qu (s : State) (core z k : Nat) (f : SlotBlk → SlotBlk) : (blkUpd s core z k f).qu = s.qu := rfl
@[simp] theorem blkUpd_ac (s : State) (core z k : Nat) (f : SlotBlk → SlotBlk) : (blkUpd s core z k f).ac = s.ac := rfl
@[simp] theorem blkUpd_sm (s : State) (core z k : Nat) (f : SlotBlk → SlotBlk) : (blkUpd s core z k f).sm = s.sm := rfl
@[simp] theorem blkUpd_eng (s : State) (core z k : Nat) (f : SlotBlk → SlotBlk) : (blkUpd s core z k f).eng = s.eng := rfl
@[simp] theorem blkUpd_fab (s : State) (core z k : Nat) (f : SlotBlk → SlotBlk) : (blkUpd s core z k f).fab = s.fab := rfl
@[simp] theorem blkUpd_rg (s : State) (core z k : Nat) (f : SlotBlk → SlotBlk) : (blkUpd s core z k f).rg = s.rg := rfl
@[simp] theorem blkUpd_ctl (s : State) (core z k : Nat) (f : SlotBlk → SlotBlk) : (blkUpd s core z k f).ctl = s.ctl := rfl
@[simp] theorem blkUpd_lnk (s : State) (core z k : Nat) (f : SlotBlk → SlotBlk) : (blkUpd s core z k f).lnk = s.lnk := rfl
@[simp] theorem blkUpd_hth (s : State) (core z k : Nat) (f : SlotBlk → SlotBlk) : (blkUpd s core z k f).hth = s.hth := rfl
@[simp] theorem blkUpd_zn_zones (s : State) (core z k : Nat) (f : SlotBlk → SlotBlk) : (blkUpd s core z k f).zn.zones = s.zn.zones := rfl
@[simp] theorem blkUpd_zn_blks (s : State) (core z k : Nat) (f : SlotBlk → SlotBlk) : (blkUpd s core z k f).zn.blks = s.zn.blks.upd (slotKey core z k) f := rfl
@[simp] theorem blkUpd_zn_resv (s : State) (core z k : Nat) (f : SlotBlk → SlotBlk) : (blkUpd s core z k f).zn.resv = s.zn.resv := rfl
@[simp] theorem blkUpd_zn_reorder (s : State) (core z k : Nat) (f : SlotBlk → SlotBlk) : (blkUpd s core z k f).zn.reorder = s.zn.reorder := rfl
@[simp] theorem blkUpd_zn_landQ (s : State) (core z k : Nat) (f : SlotBlk → SlotBlk) : (blkUpd s core z k f).zn.landQ = s.zn.landQ := rfl

/-! ### tmplUpd -/

@[simp] theorem tmplUpd_sim (s : State) (core t : Nat) (f : Template → Template) : (tmplUpd s core t f).sim = s.sim := rfl
@[simp] theorem tmplUpd_dev (s : State) (core t : Nat) (f : Template → Template) : (tmplUpd s core t f).dev = s.dev := rfl
@[simp] theorem tmplUpd_xl (s : State) (core t : Nat) (f : Template → Template) : (tmplUpd s core t f).xl = s.xl := rfl
@[simp] theorem tmplUpd_mem (s : State) (core t : Nat) (f : Template → Template) : (tmplUpd s core t f).mem = s.mem := rfl
@[simp] theorem tmplUpd_st (s : State) (core t : Nat) (f : Template → Template) : (tmplUpd s core t f).st = s.st := rfl
@[simp] theorem tmplUpd_qu (s : State) (core t : Nat) (f : Template → Template) : (tmplUpd s core t f).qu = s.qu := rfl
@[simp] theorem tmplUpd_ac (s : State) (core t : Nat) (f : Template → Template) : (tmplUpd s core t f).ac = s.ac := rfl
@[simp] theorem tmplUpd_zn (s : State) (core t : Nat) (f : Template → Template) : (tmplUpd s core t f).zn = s.zn := rfl
@[simp] theorem tmplUpd_sm (s : State) (core t : Nat) (f : Template → Template) : (tmplUpd s core t f).sm = s.sm := rfl
@[simp] theorem tmplUpd_fab (s : State) (core t : Nat) (f : Template → Template) : (tmplUpd s core t f).fab = s.fab := rfl
@[simp] theorem tmplUpd_rg (s : State) (core t : Nat) (f : Template → Template) : (tmplUpd s core t f).rg = s.rg := rfl
@[simp] theorem tmplUpd_ctl (s : State) (core t : Nat) (f : Template → Template) : (tmplUpd s core t f).ctl = s.ctl := rfl
@[simp] theorem tmplUpd_lnk (s : State) (core t : Nat) (f : Template → Template) : (tmplUpd s core t f).lnk = s.lnk := rfl
@[simp] theorem tmplUpd_hth (s : State) (core t : Nat) (f : Template → Template) : (tmplUpd s core t f).hth = s.hth := rfl
@[simp] theorem tmplUpd_eng_rings (s : State) (core t : Nat) (f : Template → Template) : (tmplUpd s core t f).eng.rings = s.eng.rings := rfl
@[simp] theorem tmplUpd_eng_tmpls (s : State) (core t : Nat) (f : Template → Template) : (tmplUpd s core t f).eng.tmpls = s.eng.tmpls.upd (tmplKey core t) f := rfl
@[simp] theorem tmplUpd_eng_copies (s : State) (core t : Nat) (f : Template → Template) : (tmplUpd s core t f).eng.copies = s.eng.copies := rfl
@[simp] theorem tmplUpd_eng_islands (s : State) (core t : Nat) (f : Template → Template) : (tmplUpd s core t f).eng.islands = s.eng.islands := rfl
@[simp] theorem tmplUpd_eng_colls (s : State) (core t : Nat) (f : Template → Template) : (tmplUpd s core t f).eng.colls = s.eng.colls := rfl
@[simp] theorem tmplUpd_eng_far (s : State) (core t : Nat) (f : Template → Template) : (tmplUpd s core t f).eng.far = s.eng.far := rfl

/-! ### islandUpd -/

@[simp] theorem islandUpd_sim (s : State) (core : Nat) (f : Island → Island) : (islandUpd s core f).sim = s.sim := rfl
@[simp] theorem islandUpd_dev (s : State) (core : Nat) (f : Island → Island) : (islandUpd s core f).dev = s.dev := rfl
@[simp] theorem islandUpd_xl (s : State) (core : Nat) (f : Island → Island) : (islandUpd s core f).xl = s.xl := rfl
@[simp] theorem islandUpd_mem (s : State) (core : Nat) (f : Island → Island) : (islandUpd s core f).mem = s.mem := rfl
@[simp] theorem islandUpd_st (s : State) (core : Nat) (f : Island → Island) : (islandUpd s core f).st = s.st := rfl
@[simp] theorem islandUpd_qu (s : State) (core : Nat) (f : Island → Island) : (islandUpd s core f).qu = s.qu := rfl
@[simp] theorem islandUpd_ac (s : State) (core : Nat) (f : Island → Island) : (islandUpd s core f).ac = s.ac := rfl
@[simp] theorem islandUpd_zn (s : State) (core : Nat) (f : Island → Island) : (islandUpd s core f).zn = s.zn := rfl
@[simp] theorem islandUpd_sm (s : State) (core : Nat) (f : Island → Island) : (islandUpd s core f).sm = s.sm := rfl
@[simp] theorem islandUpd_fab (s : State) (core : Nat) (f : Island → Island) : (islandUpd s core f).fab = s.fab := rfl
@[simp] theorem islandUpd_rg (s : State) (core : Nat) (f : Island → Island) : (islandUpd s core f).rg = s.rg := rfl
@[simp] theorem islandUpd_ctl (s : State) (core : Nat) (f : Island → Island) : (islandUpd s core f).ctl = s.ctl := rfl
@[simp] theorem islandUpd_lnk (s : State) (core : Nat) (f : Island → Island) : (islandUpd s core f).lnk = s.lnk := rfl
@[simp] theorem islandUpd_hth (s : State) (core : Nat) (f : Island → Island) : (islandUpd s core f).hth = s.hth := rfl
@[simp] theorem islandUpd_eng_rings (s : State) (core : Nat) (f : Island → Island) : (islandUpd s core f).eng.rings = s.eng.rings := rfl
@[simp] theorem islandUpd_eng_tmpls (s : State) (core : Nat) (f : Island → Island) : (islandUpd s core f).eng.tmpls = s.eng.tmpls := rfl
@[simp] theorem islandUpd_eng_copies (s : State) (core : Nat) (f : Island → Island) : (islandUpd s core f).eng.copies = s.eng.copies := rfl
@[simp] theorem islandUpd_eng_islands (s : State) (core : Nat) (f : Island → Island) : (islandUpd s core f).eng.islands = s.eng.islands.upd core f := rfl
@[simp] theorem islandUpd_eng_colls (s : State) (core : Nat) (f : Island → Island) : (islandUpd s core f).eng.colls = s.eng.colls := rfl
@[simp] theorem islandUpd_eng_far (s : State) (core : Nat) (f : Island → Island) : (islandUpd s core f).eng.far = s.eng.far := rfl

/-! ### portUpd -/

@[simp] theorem portUpd_sim (s : State) (p : Nat) (f : Port → Port) : (portUpd s p f).sim = s.sim := rfl
@[simp] theorem portUpd_dev (s : State) (p : Nat) (f : Port → Port) : (portUpd s p f).dev = s.dev := rfl
@[simp] theorem portUpd_xl (s : State) (p : Nat) (f : Port → Port) : (portUpd s p f).xl = s.xl := rfl
@[simp] theorem portUpd_mem (s : State) (p : Nat) (f : Port → Port) : (portUpd s p f).mem = s.mem := rfl
@[simp] theorem portUpd_st (s : State) (p : Nat) (f : Port → Port) : (portUpd s p f).st = s.st := rfl
@[simp] theorem portUpd_qu (s : State) (p : Nat) (f : Port → Port) : (portUpd s p f).qu = s.qu := rfl
@[simp] theorem portUpd_ac (s : State) (p : Nat) (f : Port → Port) : (portUpd s p f).ac = s.ac := rfl
@[simp] theorem portUpd_zn (s : State) (p : Nat) (f : Port → Port) : (portUpd s p f).zn = s.zn := rfl
@[simp] theorem portUpd_sm (s : State) (p : Nat) (f : Port → Port) : (portUpd s p f).sm = s.sm := rfl
@[simp] theorem portUpd_eng (s : State) (p : Nat) (f : Port → Port) : (portUpd s p f).eng = s.eng := rfl
@[simp] theorem portUpd_fab (s : State) (p : Nat) (f : Port → Port) : (portUpd s p f).fab = s.fab := rfl
@[simp] theorem portUpd_rg (s : State) (p : Nat) (f : Port → Port) : (portUpd s p f).rg = s.rg := rfl
@[simp] theorem portUpd_ctl (s : State) (p : Nat) (f : Port → Port) : (portUpd s p f).ctl = s.ctl := rfl
@[simp] theorem portUpd_hth (s : State) (p : Nat) (f : Port → Port) : (portUpd s p f).hth = s.hth := rfl
@[simp] theorem portUpd_lnk_ports (s : State) (p : Nat) (f : Port → Port) : (portUpd s p f).lnk.ports = s.lnk.ports.upd p f := rfl

/-! ### hartUpd -/

@[simp] theorem hartUpd_sim (s : State) (hc : Nat) (f : Hart → Hart) : (hartUpd s hc f).sim = s.sim := rfl
@[simp] theorem hartUpd_dev (s : State) (hc : Nat) (f : Hart → Hart) : (hartUpd s hc f).dev = s.dev := rfl
@[simp] theorem hartUpd_xl (s : State) (hc : Nat) (f : Hart → Hart) : (hartUpd s hc f).xl = s.xl := rfl
@[simp] theorem hartUpd_mem (s : State) (hc : Nat) (f : Hart → Hart) : (hartUpd s hc f).mem = s.mem := rfl
@[simp] theorem hartUpd_st (s : State) (hc : Nat) (f : Hart → Hart) : (hartUpd s hc f).st = s.st := rfl
@[simp] theorem hartUpd_qu (s : State) (hc : Nat) (f : Hart → Hart) : (hartUpd s hc f).qu = s.qu := rfl
@[simp] theorem hartUpd_ac (s : State) (hc : Nat) (f : Hart → Hart) : (hartUpd s hc f).ac = s.ac := rfl
@[simp] theorem hartUpd_zn (s : State) (hc : Nat) (f : Hart → Hart) : (hartUpd s hc f).zn = s.zn := rfl
@[simp] theorem hartUpd_sm (s : State) (hc : Nat) (f : Hart → Hart) : (hartUpd s hc f).sm = s.sm := rfl
@[simp] theorem hartUpd_eng (s : State) (hc : Nat) (f : Hart → Hart) : (hartUpd s hc f).eng = s.eng := rfl
@[simp] theorem hartUpd_fab (s : State) (hc : Nat) (f : Hart → Hart) : (hartUpd s hc f).fab = s.fab := rfl
@[simp] theorem hartUpd_rg (s : State) (hc : Nat) (f : Hart → Hart) : (hartUpd s hc f).rg = s.rg := rfl
@[simp] theorem hartUpd_ctl (s : State) (hc : Nat) (f : Hart → Hart) : (hartUpd s hc f).ctl = s.ctl := rfl
@[simp] theorem hartUpd_lnk (s : State) (hc : Nat) (f : Hart → Hart) : (hartUpd s hc f).lnk = s.lnk := rfl
@[simp] theorem hartUpd_hth_harts (s : State) (hc : Nat) (f : Hart → Hart) : (hartUpd s hc f).hth.harts = s.hth.harts.upd hc f := rfl
@[simp] theorem hartUpd_hth_eps (s : State) (hc : Nat) (f : Hart → Hart) : (hartUpd s hc f).hth.eps = s.hth.eps := rfl

/-! ### epUpd -/

@[simp] theorem epUpd_sim (s : State) (k : Nat) (f : Episode → Episode) : (epUpd s k f).sim = s.sim := rfl
@[simp] theorem epUpd_dev (s : State) (k : Nat) (f : Episode → Episode) : (epUpd s k f).dev = s.dev := rfl
@[simp] theorem epUpd_xl (s : State) (k : Nat) (f : Episode → Episode) : (epUpd s k f).xl = s.xl := rfl
@[simp] theorem epUpd_mem (s : State) (k : Nat) (f : Episode → Episode) : (epUpd s k f).mem = s.mem := rfl
@[simp] theorem epUpd_st (s : State) (k : Nat) (f : Episode → Episode) : (epUpd s k f).st = s.st := rfl
@[simp] theorem epUpd_qu (s : State) (k : Nat) (f : Episode → Episode) : (epUpd s k f).qu = s.qu := rfl
@[simp] theorem epUpd_ac (s : State) (k : Nat) (f : Episode → Episode) : (epUpd s k f).ac = s.ac := rfl
@[simp] theorem epUpd_zn (s : State) (k : Nat) (f : Episode → Episode) : (epUpd s k f).zn = s.zn := rfl
@[simp] theorem epUpd_sm (s : State) (k : Nat) (f : Episode → Episode) : (epUpd s k f).sm = s.sm := rfl
@[simp] theorem epUpd_eng (s : State) (k : Nat) (f : Episode → Episode) : (epUpd s k f).eng = s.eng := rfl
@[simp] theorem epUpd_fab (s : State) (k : Nat) (f : Episode → Episode) : (epUpd s k f).fab = s.fab := rfl
@[simp] theorem epUpd_rg (s : State) (k : Nat) (f : Episode → Episode) : (epUpd s k f).rg = s.rg := rfl
@[simp] theorem epUpd_ctl (s : State) (k : Nat) (f : Episode → Episode) : (epUpd s k f).ctl = s.ctl := rfl
@[simp] theorem epUpd_lnk (s : State) (k : Nat) (f : Episode → Episode) : (epUpd s k f).lnk = s.lnk := rfl
@[simp] theorem epUpd_hth_harts (s : State) (k : Nat) (f : Episode → Episode) : (epUpd s k f).hth.harts = s.hth.harts := rfl
@[simp] theorem epUpd_hth_eps (s : State) (k : Nat) (f : Episode → Episode) : (epUpd s k f).hth.eps = s.hth.eps.upd k f := rfl

/-! ### pushEv -/

@[simp] theorem pushEv_dev (s : State) (i : Instr) (a : EvArg) : (pushEv s i a).dev = s.dev := rfl
@[simp] theorem pushEv_xl (s : State) (i : Instr) (a : EvArg) : (pushEv s i a).xl = s.xl := rfl
@[simp] theorem pushEv_mem (s : State) (i : Instr) (a : EvArg) : (pushEv s i a).mem = s.mem := rfl
@[simp] theorem pushEv_st (s : State) (i : Instr) (a : EvArg) : (pushEv s i a).st = s.st := rfl
@[simp] theorem pushEv_qu (s : State) (i : Instr) (a : EvArg) : (pushEv s i a).qu = s.qu := rfl
@[simp] theorem pushEv_ac (s : State) (i : Instr) (a : EvArg) : (pushEv s i a).ac = s.ac := rfl
@[simp] theorem pushEv_zn (s : State) (i : Instr) (a : EvArg) : (pushEv s i a).zn = s.zn := rfl
@[simp] theorem pushEv_sm (s : State) (i : Instr) (a : EvArg) : (pushEv s i a).sm = s.sm := rfl
@[simp] theorem pushEv_eng (s : State) (i : Instr) (a : EvArg) : (pushEv s i a).eng = s.eng := rfl
@[simp] theorem pushEv_fab (s : State) (i : Instr) (a : EvArg) : (pushEv s i a).fab = s.fab := rfl
@[simp] theorem pushEv_rg (s : State) (i : Instr) (a : EvArg) : (pushEv s i a).rg = s.rg := rfl
@[simp] theorem pushEv_ctl (s : State) (i : Instr) (a : EvArg) : (pushEv s i a).ctl = s.ctl := rfl
@[simp] theorem pushEv_lnk (s : State) (i : Instr) (a : EvArg) : (pushEv s i a).lnk = s.lnk := rfl
@[simp] theorem pushEv_hth (s : State) (i : Instr) (a : EvArg) : (pushEv s i a).hth = s.hth := rfl
@[simp] theorem pushEv_sim_agenda (s : State) (i : Instr) (a : EvArg) : (pushEv s i a).sim.agenda = s.sim.agenda ++ [.ev i a] := rfl
@[simp] theorem pushEv_sim_parked (s : State) (i : Instr) (a : EvArg) : (pushEv s i a).sim.parked = s.sim.parked := rfl
@[simp] theorem pushEv_sim_stall (s : State) (i : Instr) (a : EvArg) : (pushEv s i a).sim.stall = s.sim.stall := rfl
@[simp] theorem pushEv_sim_cur (s : State) (i : Instr) (a : EvArg) : (pushEv s i a).sim.cur = s.sim.cur := rfl
@[simp] theorem pushEv_sim_arg (s : State) (i : Instr) (a : EvArg) : (pushEv s i a).sim.arg = s.sim.arg := rfl
@[simp] theorem pushEv_sim_freeIdx (s : State) (i : Instr) (a : EvArg) : (pushEv s i a).sim.freeIdx = s.sim.freeIdx := rfl
@[simp] theorem pushEv_sim_seqNo (s : State) (i : Instr) (a : EvArg) : (pushEv s i a).sim.seqNo = s.sim.seqNo := rfl
@[simp] theorem pushEv_sim_out (s : State) (i : Instr) (a : EvArg) : (pushEv s i a).sim.out = s.sim.out := rfl

/-! ### pushFirst -/

@[simp] theorem pushFirst_dev (s : State) (i : Instr) (a : EvArg) : (pushFirst s i a).dev = s.dev := rfl
@[simp] theorem pushFirst_xl (s : State) (i : Instr) (a : EvArg) : (pushFirst s i a).xl = s.xl := rfl
@[simp] theorem pushFirst_mem (s : State) (i : Instr) (a : EvArg) : (pushFirst s i a).mem = s.mem := rfl
@[simp] theorem pushFirst_st (s : State) (i : Instr) (a : EvArg) : (pushFirst s i a).st = s.st := rfl
@[simp] theorem pushFirst_qu (s : State) (i : Instr) (a : EvArg) : (pushFirst s i a).qu = s.qu := rfl
@[simp] theorem pushFirst_ac (s : State) (i : Instr) (a : EvArg) : (pushFirst s i a).ac = s.ac := rfl
@[simp] theorem pushFirst_zn (s : State) (i : Instr) (a : EvArg) : (pushFirst s i a).zn = s.zn := rfl
@[simp] theorem pushFirst_sm (s : State) (i : Instr) (a : EvArg) : (pushFirst s i a).sm = s.sm := rfl
@[simp] theorem pushFirst_eng (s : State) (i : Instr) (a : EvArg) : (pushFirst s i a).eng = s.eng := rfl
@[simp] theorem pushFirst_fab (s : State) (i : Instr) (a : EvArg) : (pushFirst s i a).fab = s.fab := rfl
@[simp] theorem pushFirst_rg (s : State) (i : Instr) (a : EvArg) : (pushFirst s i a).rg = s.rg := rfl
@[simp] theorem pushFirst_ctl (s : State) (i : Instr) (a : EvArg) : (pushFirst s i a).ctl = s.ctl := rfl
@[simp] theorem pushFirst_lnk (s : State) (i : Instr) (a : EvArg) : (pushFirst s i a).lnk = s.lnk := rfl
@[simp] theorem pushFirst_hth (s : State) (i : Instr) (a : EvArg) : (pushFirst s i a).hth = s.hth := rfl
@[simp] theorem pushFirst_sim_agenda (s : State) (i : Instr) (a : EvArg) : (pushFirst s i a).sim.agenda = .ev i a :: s.sim.agenda := rfl
@[simp] theorem pushFirst_sim_parked (s : State) (i : Instr) (a : EvArg) : (pushFirst s i a).sim.parked = s.sim.parked := rfl
@[simp] theorem pushFirst_sim_stall (s : State) (i : Instr) (a : EvArg) : (pushFirst s i a).sim.stall = s.sim.stall := rfl
@[simp] theorem pushFirst_sim_cur (s : State) (i : Instr) (a : EvArg) : (pushFirst s i a).sim.cur = s.sim.cur := rfl
@[simp] theorem pushFirst_sim_arg (s : State) (i : Instr) (a : EvArg) : (pushFirst s i a).sim.arg = s.sim.arg := rfl
@[simp] theorem pushFirst_sim_freeIdx (s : State) (i : Instr) (a : EvArg) : (pushFirst s i a).sim.freeIdx = s.sim.freeIdx := rfl
@[simp] theorem pushFirst_sim_seqNo (s : State) (i : Instr) (a : EvArg) : (pushFirst s i a).sim.seqNo = s.sim.seqNo := rfl
@[simp] theorem pushFirst_sim_out (s : State) (i : Instr) (a : EvArg) : (pushFirst s i a).sim.out = s.sim.out := rfl

/-! ### Stamps and free values -/

@[simp] theorem stamp_dev (s : State) : (stamp s).2.dev = s.dev := rfl
@[simp] theorem stamp_xl (s : State) : (stamp s).2.xl = s.xl := rfl
@[simp] theorem stamp_mem (s : State) : (stamp s).2.mem = s.mem := rfl
@[simp] theorem stamp_st (s : State) : (stamp s).2.st = s.st := rfl
@[simp] theorem stamp_qu (s : State) : (stamp s).2.qu = s.qu := rfl
@[simp] theorem stamp_ac (s : State) : (stamp s).2.ac = s.ac := rfl
@[simp] theorem stamp_zn (s : State) : (stamp s).2.zn = s.zn := rfl
@[simp] theorem stamp_sm (s : State) : (stamp s).2.sm = s.sm := rfl
@[simp] theorem stamp_eng (s : State) : (stamp s).2.eng = s.eng := rfl
@[simp] theorem stamp_fab (s : State) : (stamp s).2.fab = s.fab := rfl
@[simp] theorem stamp_rg (s : State) : (stamp s).2.rg = s.rg := rfl
@[simp] theorem stamp_ctl (s : State) : (stamp s).2.ctl = s.ctl := rfl
@[simp] theorem stamp_lnk (s : State) : (stamp s).2.lnk = s.lnk := rfl
@[simp] theorem stamp_hth (s : State) : (stamp s).2.hth = s.hth := rfl
@[simp] theorem stamp_sim_agenda (s : State) : (stamp s).2.sim.agenda = s.sim.agenda := rfl
@[simp] theorem stamp_sim_parked (s : State) : (stamp s).2.sim.parked = s.sim.parked := rfl
@[simp] theorem stamp_sim_stall (s : State) : (stamp s).2.sim.stall = s.sim.stall := rfl
@[simp] theorem stamp_sim_cur (s : State) : (stamp s).2.sim.cur = s.sim.cur := rfl
@[simp] theorem stamp_sim_arg (s : State) : (stamp s).2.sim.arg = s.sim.arg := rfl
@[simp] theorem stamp_sim_freeIdx (s : State) : (stamp s).2.sim.freeIdx = s.sim.freeIdx := rfl
@[simp] theorem stamp_sim_seqNo (s : State) : (stamp s).2.sim.seqNo = s.sim.seqNo + 1 := rfl
@[simp] theorem stamp_sim_out (s : State) : (stamp s).2.sim.out = s.sim.out := rfl

@[simp] theorem free_dev (s : State) : (free s).2.dev = s.dev := rfl
@[simp] theorem free_xl (s : State) : (free s).2.xl = s.xl := rfl
@[simp] theorem free_mem (s : State) : (free s).2.mem = s.mem := rfl
@[simp] theorem free_st (s : State) : (free s).2.st = s.st := rfl
@[simp] theorem free_qu (s : State) : (free s).2.qu = s.qu := rfl
@[simp] theorem free_ac (s : State) : (free s).2.ac = s.ac := rfl
@[simp] theorem free_zn (s : State) : (free s).2.zn = s.zn := rfl
@[simp] theorem free_sm (s : State) : (free s).2.sm = s.sm := rfl
@[simp] theorem free_eng (s : State) : (free s).2.eng = s.eng := rfl
@[simp] theorem free_fab (s : State) : (free s).2.fab = s.fab := rfl
@[simp] theorem free_rg (s : State) : (free s).2.rg = s.rg := rfl
@[simp] theorem free_ctl (s : State) : (free s).2.ctl = s.ctl := rfl
@[simp] theorem free_lnk (s : State) : (free s).2.lnk = s.lnk := rfl
@[simp] theorem free_hth (s : State) : (free s).2.hth = s.hth := rfl
@[simp] theorem free_sim_agenda (s : State) : (free s).2.sim.agenda = s.sim.agenda := rfl
@[simp] theorem free_sim_parked (s : State) : (free s).2.sim.parked = s.sim.parked := rfl
@[simp] theorem free_sim_stall (s : State) : (free s).2.sim.stall = s.sim.stall := rfl
@[simp] theorem free_sim_cur (s : State) : (free s).2.sim.cur = s.sim.cur := rfl
@[simp] theorem free_sim_arg (s : State) : (free s).2.sim.arg = s.sim.arg := rfl
@[simp] theorem free_sim_freeIdx (s : State) : (free s).2.sim.freeIdx = s.sim.freeIdx + 1 := rfl
@[simp] theorem free_sim_seqNo (s : State) : (free s).2.sim.seqNo = s.sim.seqNo := rfl
@[simp] theorem free_sim_out (s : State) : (free s).2.sim.out = s.sim.out := rfl

@[simp] theorem freeN_dev (s : State) : (freeN s).2.dev = s.dev := rfl
@[simp] theorem freeN_xl (s : State) : (freeN s).2.xl = s.xl := rfl
@[simp] theorem freeN_mem (s : State) : (freeN s).2.mem = s.mem := rfl
@[simp] theorem freeN_st (s : State) : (freeN s).2.st = s.st := rfl
@[simp] theorem freeN_qu (s : State) : (freeN s).2.qu = s.qu := rfl
@[simp] theorem freeN_ac (s : State) : (freeN s).2.ac = s.ac := rfl
@[simp] theorem freeN_zn (s : State) : (freeN s).2.zn = s.zn := rfl
@[simp] theorem freeN_sm (s : State) : (freeN s).2.sm = s.sm := rfl
@[simp] theorem freeN_eng (s : State) : (freeN s).2.eng = s.eng := rfl
@[simp] theorem freeN_fab (s : State) : (freeN s).2.fab = s.fab := rfl
@[simp] theorem freeN_rg (s : State) : (freeN s).2.rg = s.rg := rfl
@[simp] theorem freeN_ctl (s : State) : (freeN s).2.ctl = s.ctl := rfl
@[simp] theorem freeN_lnk (s : State) : (freeN s).2.lnk = s.lnk := rfl
@[simp] theorem freeN_hth (s : State) : (freeN s).2.hth = s.hth := rfl
@[simp] theorem freeN_sim_agenda (s : State) : (freeN s).2.sim.agenda = s.sim.agenda := rfl
@[simp] theorem freeN_sim_parked (s : State) : (freeN s).2.sim.parked = s.sim.parked := rfl
@[simp] theorem freeN_sim_stall (s : State) : (freeN s).2.sim.stall = s.sim.stall := rfl
@[simp] theorem freeN_sim_cur (s : State) : (freeN s).2.sim.cur = s.sim.cur := rfl
@[simp] theorem freeN_sim_arg (s : State) : (freeN s).2.sim.arg = s.sim.arg := rfl
@[simp] theorem freeN_sim_freeIdx (s : State) : (freeN s).2.sim.freeIdx = s.sim.freeIdx + 1 := rfl
@[simp] theorem freeN_sim_seqNo (s : State) : (freeN s).2.sim.seqNo = s.sim.seqNo := rfl
@[simp] theorem freeN_sim_out (s : State) : (freeN s).2.sim.out = s.sim.out := rfl

end Sys2Proof.Machine
end

