-- ==== Sys2Proof/Laws/Control.lean ====
section
/-! SUPPORT. The shared operations of control-thread instructions, each said once: what a form does where its instruction fires, where
it is predicated off, where it waits, and where an operand is null. -/

namespace Sys2Proof.Safety
open Sys2Proof.Machine

variable {s : State} {core x ix : Nat} {p : BitVec 2} {left right : Bool} {l r : Tok} {a b : Word} {ts : List (BitVec 9)}

/-- On the frame of the current context a form runs its meaning. -/
theorem CtAt.withCt (h : CtAt s core x ix) (k : Nat → Nat → Nat → Frame → State) : withCt s k = k core x ix (frameOf s core x) := by
  have hr : ((ctxOf s core x).st == CtxSt.run || (ctxOf s core x).st == CtxSt.held) = true := by
    rcases h.active with e | e <;> simp [e]
  simp [Machine.withCt, h.cur, hr, h.own, h.loaded, h.fresh]

/-- Where no context is current, a form leaves the state. -/
theorem withCt_none (h : ∀ core x ix, s.sim.cur ≠ .ct core x ix) (k : Nat → Nat → Nat → Frame → State) : Machine.withCt s k = s := by
  unfold Machine.withCt
  split
  · exact absurd ‹_› (h _ _ _)
  · rfl

/-! ### Forms that act on their operands alone -/

theorem Fires.pure (h : Fires s core x ix p left right (some a) (some b)) (g : Word → Word → Word) :
    ctPure s p left right ts g = ctDone s core x ix none (outsOf ts (some (g a b))) := by
  simp [ctPure, h.toCtAt.withCt, h.ready]

theorem Fires.pure_null (h : Fires s core x ix p left right l r) (hn : l = none ∨ r = none) (g : Word → Word → Word) :
    ctPure s p left right ts g = ctDone s core x ix none (outsOf ts none) := by
  cases l <;> cases r <;> simp_all [ctPure, h.toCtAt.withCt, h.ready]

theorem PredOff.pure (h : PredOff s core x ix p left right) (g : Word → Word → Word) :
    ctPure s p left right ts g = ctOff s core x ix none ts := by
  simp [ctPure, h.toCtAt.withCt, h.ready]

/-! ### Forms that read state or leave an effect for the commit -/

theorem Fires.form (h : Fires s core x ix p left right (some a) (some b)) (k : Nat → Nat → Nat → Word → Word → State) :
    ctForm s p left right ts k = k core x ix a b := by
  simp [ctForm, h.toCtAt.withCt, h.ready]

theorem Fires.form_null (h : Fires s core x ix p left right l r) (hn : l = none ∨ r = none)
    (k : Nat → Nat → Nat → Word → Word → State) : ctForm s p left right ts k = ctDone s core x ix none (outsOf ts none) := by
  cases l <;> cases r <;> simp_all [ctForm, h.toCtAt.withCt, h.ready]

theorem PredOff.form (h : PredOff s core x ix p left right) (k : Nat → Nat → Nat → Word → Word → State) :
    ctForm s p left right ts k = ctOff s core x ix none ts := by
  simp [ctForm, h.toCtAt.withCt, h.ready]

/-! ### Memory tokens -/

theorem Fires.mem {n : BitVec 5} (h : Fires s core x ix p left right (some a) (some b)) (t : Turns s core x n.toNat)
    (k : Nat → Nat → Nat → Word → Word → State) : ctMem s p left right n ts k = k core x ix a b := by
  simp [ctMem, h.toCtAt.withCt, h.ready, t.below, t.own]

theorem Fires.mem_null {n : BitVec 5} (h : Fires s core x ix p left right l r) (hn : l = none ∨ r = none)
    (k : Nat → Nat → Nat → Word → Word → State) :
    ctMem s p left right n ts k = ctDone s core x ix (some n.toNat) (outsOf ts none) := by
  cases l <;> cases r <;> simp_all [ctMem, h.toCtAt.withCt, h.ready]

theorem PredOff.mem {n : BitVec 5} (h : PredOff s core x ix p left right) (k : Nat → Nat → Nat → Word → Word → State) :
    ctMem s p left right n ts k = ctOff s core x ix (some n.toNat) ts := by
  simp [ctMem, h.toCtAt.withCt, h.ready]

/-! ### Commands -/

theorem Fires.command {priv : Bool} (h : Fires s core x ix p left right (some a) (some b)) (c : Commands s core x ix)
    (hp : priv = true → (ctxOf s core x).asid = 0#8) (k : Nat → Nat → Nat → Word → Word → State) :
    ctCommand s p left right priv ts k = k core x ix a b := by
  cases priv <;> simp_all [ctCommand, h.toCtAt.withCt, h.ready, c.mem, c.first]

/-- A command that any ASID may issue. -/
theorem Fires.cmd (h : Fires s core x ix p left right (some a) (some b)) (c : Commands s core x ix)
    (k : Nat → Nat → Nat → Word → Word → State) : ctCommand s p left right false ts k = k core x ix a b :=
  h.command (priv := false) c (by simp) k

/-- Where R144 lets an irrevocable access be performed, it is. -/
theorem Allows.irrev {l : Nat} {t : State} (h : Allows s core x l t) (k : State → State) : ctIrrev s core x l k = k t := by
  obtain ⟨h, e, rfl | ⟨f, rfl, g⟩⟩ := h
  · simp [ctIrrev, ctHigher, e]
  · simp [ctIrrev, ctHigher, e, g]

/-- Stores that can be performed are not waited for. -/
theorem StoresPass.ready {l : Nat} (h : StoresPass s core x l) (k : State → State) : storesReady s core x l k = k s := by
  have hn : ((frameOf s core x).stores.filter (fun p => decide (p.lsid < l))).find? (storeHeld s core (ctxOf s core x)) = none := by
    rw [List.find?_eq_none]
    intro p hp
    rw [List.mem_filter, decide_eq_true_eq] at hp
    simp [(h p hp.1 hp.2).1]
  have hs : ((frameOf s core x).stores.filter (fun p => decide (p.lsid < l))).any (storeShut s) = false := by
    rw [List.any_eq_false]
    intro p hp
    rw [List.mem_filter, decide_eq_true_eq] at hp
    simp [(h p hp.1 hp.2).2]
  simp only [storesReady, hn, hs, Bool.false_eq_true, if_false]

/-- What comes after the stores of the block runs on them. -/
theorem AfterStores.run {l : Nat} {u : State} (h : AfterStores s core x l u) (k : State → State) : ctAfterStores s core x l k = k u := by
  unfold ctAfterStores
  rcases h with ⟨h, rfl⟩ | ⟨h, v, e, hp, rfl⟩
  · simp [h]
  · simp only [h, if_true, ctHigher, e]
    exact hp.ready _

/-- A memory token that faults in a block that can be abandoned traps its context at the block. -/
theorem memFault_trap {l : Nat} {f : Flt} {prog : Option Nat} (h : mustCommit s core x = false) :
    ctMemFault s core x ix l ts f prog = takeTrap s core x f (ctxOf s core x).blk prog := by
  simp [ctMemFault, ctFault, h]

/-- A privileged command of another ASID faults (R282). -/
theorem Fires.command_priv (h : Fires s core x ix p left right (some a) (some b)) (hp : (ctxOf s core x).asid ≠ 0#8)
    (k : Nat → Nat → Nat → Word → Word → State) :
    ctCommand s p left right true ts k = ctFault (ctFired s core x ix) core x (dataFlt 0x1B ix) := by
  simp [ctCommand, h.toCtAt.withCt, h.ready, hp]

theorem Fires.command_null {priv : Bool} (h : Fires s core x ix p left right l r) (hn : l = none ∨ r = none)
    (k : Nat → Nat → Nat → Word → Word → State) :
    ctCommand s p left right priv ts k = ctDone s core x ix none (outsOf ts none) := by
  cases l <;> cases r <;> simp_all [ctCommand, h.toCtAt.withCt, h.ready]

theorem PredOff.command {priv : Bool} (h : PredOff s core x ix p left right) (k : Nat → Nat → Nat → Word → Word → State) :
    ctCommand s p left right priv ts k = ctOff s core x ix none ts := by
  simp [ctCommand, h.toCtAt.withCt, h.ready]

end Sys2Proof.Safety
end

