-- ==== Sys2Proof/Laws/Element.lean ====
section
/-! SUPPORT. What an element's operation does once it runs (R209, R324, R331): every statement about an operation on data tokens cites
these instead of unfolding the firing. -/

namespace Sys2Proof.Safety
open Sys2Proof Sys2Proof.Machine

/-- An operation that runs takes its tokens and puts its result where `after` says. -/
theorem Runs.fire {s : State} {key hnd op : Nat} {h : HWord} (r : Runs s key hnd op h)
    (f : Elem → Handler → Fire) (after : Nat → Fire → State → State) :
    handlerFire s op h f after =
      after key (f (elemIn s key) (handlerIn s key hnd)) (fireEnd s key hnd op h (f (elemIn s key) (handlerIn s key hnd))) := by
  obtain ⟨hc, need, hn, hcan⟩ := r
  have hk : elemCore key * 4096 + key % 4096 % 4096 = key := by unfold elemCore; omega
  unfold handlerFire withElem
  rw [hc]
  simp only [hk]
  simp only [elemIn, handlerIn] at hn hcan ⊢
  rw [hn]
  simp only [hcan, if_true]

/-- The queues that FIRE names are those of the four that it names. -/
theorem fireQs_filter (h : HWord) : [0, 1, 2, 3].filter (fun q => (fireQs h).contains q) = fireQs h := by
  unfold fireQs
  rw [List.filter_congr]
  intro q hq
  simp at hq ⊢
  rcases hq with rfl | rfl | rfl | rfl <;> simp

/-- Data at every head: the function of the operands, or a null where an operand is null. -/
theorem dataFire_data {h : HWord} {op : Nat} {flt : Bool} {f : FTok → FTok → FTok → FTok} {e : Elem} {hd : Handler}
    (hg : hd.gapPend = false) (hq : ∀ q ∈ fireQs h, ∀ t, e.head q = some t → tokC t = false) :
    dataFire h op flt f e hd = { Fire.of e hd with
      out := some (
        if tokN (operand e hd flt h.a.toNat) || (hUsesB op && tokN (operand e hd flt h.b.toNat)) ||
            (hUsesC op && tokN (operand e hd flt h.c.toNat)) then tokNull h.och
        else tokOn (f (operand e hd flt h.a.toNat) (operand e hd flt h.b.toNat) (operand e hd flt h.c.toNat) &&&
          0x7FFFFFFFFFFF#48) h.och)
      res := true
      take := fireQs h } := by
  have : ((fireQs h).filterMap e.head).any tokC = false := by
    rw [List.any_eq_false]
    intro t ht
    rw [List.mem_filterMap] at ht
    obtain ⟨q, hq1, hq2⟩ := ht
    simp [hq q hq1 t hq2]
  simp only [dataFire, hg, this, Bool.false_eq_true, if_false, Fire.of, Fire.result, nullRule]
  split <;> rfl

/-- The weight token of a GAP goes on as it came. -/
theorem dataFire_gap {h : HWord} {op : Nat} {flt : Bool} {f : FTok → FTok → FTok → FTok} {e : Elem} {hd : Handler} {t : FTok}
    {r : List FTok} (hg : hd.gapPend = true) (hq : (fireQs h).filterMap e.head = t :: r) :
    dataFire h op flt f e hd = { Fire.of e hd with
      out := some (tokOn t h.och), take := fireQs h, wt := true, hd := { hd with gapPend := false } } := by
  simp only [dataFire, hg, if_true, weightRule, fireQs_filter, Fire.of, hq, Fire.forward]

end Sys2Proof.Safety
end

