-- ==== Sys2Proof/Laws/Fields.lean ====
section
/-! SUPPORT. The fields of an encoded word: each field of each layout is read back where the decoder reads it. -/

namespace Sys2Proof

theorem Enc.extHi {m n : Nat} (x : BitVec m) (y : BitVec n) (s l : Nat) (h : n ≤ s) : (x ++ y).extractLsb' s l = x.extractLsb' (s - n) l := by
  ext i hi
  simp only [BitVec.getElem_extractLsb', BitVec.getLsbD_append]
  rw [if_neg (by omega)]
  congr 1
  omega

theorem Enc.extLo {m n : Nat} (x : BitVec m) (y : BitVec n) (s l : Nat) (h : s + l ≤ n) : (x ++ y).extractLsb' s l = y.extractLsb' s l := by
  ext i hi
  simp only [BitVec.getElem_extractLsb', BitVec.getLsbD_append]
  rw [if_pos (by omega)]

theorem Enc.extAll {m : Nat} (x : BitVec m) : x.extractLsb' 0 m = x := by
  ext i hi
  simp

theorem Enc.extJoin {w : Nat} (x : BitVec w) (b n m : Nat) : x.extractLsb' (b + m) n ++ x.extractLsb' b m = x.extractLsb' b (n + m) := by
  ext i hi
  simp only [BitVec.getElem_append, BitVec.getElem_extractLsb']
  split
  · rfl
  · congr 1
    omega

/-- A word is its bytes (R3). -/
theorem wordOfBytes_bytes (w : BitVec 32) :
    wordOfBytes (w.extractLsb' 0 8) (w.extractLsb' 8 8) (w.extractLsb' 16 8) (w.extractLsb' 24 8) = w := by
  unfold wordOfBytes
  rw [show w.extractLsb' 24 8 ++ w.extractLsb' 16 8 = w.extractLsb' 16 16 from Enc.extJoin w 16 8 8,
    show w.extractLsb' 16 16 ++ w.extractLsb' 8 8 = w.extractLsb' 8 24 from Enc.extJoin w 8 16 8]
  exact (Enc.extJoin w 0 24 8).trans (Enc.extAll w)

theorem Enc.fmtAdd_25_7 (x0 : BitVec 7) (x1 : BitVec 2) (x2 : BitVec 5) (x3 : BitVec 9) (x4 : BitVec 9) : (Enc.fmtAdd x0 x1 x2 x3 x4).extractLsb' 25 7 = x0 :=
  (extHi (x0 ++ x1 ++ x2 ++ x3) x4 25 7 (by decide)).trans <|
  (extHi (x0 ++ x1 ++ x2) x3 16 7 (by decide)).trans <|
  (extHi (x0 ++ x1) x2 7 7 (by decide)).trans <|
  (extHi x0 x1 2 7 (by decide)).trans <|
  (extAll x0)
theorem Enc.fmtAdd_23_2 (x0 : BitVec 7) (x1 : BitVec 2) (x2 : BitVec 5) (x3 : BitVec 9) (x4 : BitVec 9) : (Enc.fmtAdd x0 x1 x2 x3 x4).extractLsb' 23 2 = x1 :=
  (extHi (x0 ++ x1 ++ x2 ++ x3) x4 23 2 (by decide)).trans <|
  (extHi (x0 ++ x1 ++ x2) x3 14 2 (by decide)).trans <|
  (extHi (x0 ++ x1) x2 5 2 (by decide)).trans <|
  (extLo x0 x1 0 2 (by decide)).trans <|
  (extAll x1)
theorem Enc.fmtAdd_18_5 (x0 : BitVec 7) (x1 : BitVec 2) (x2 : BitVec 5) (x3 : BitVec 9) (x4 : BitVec 9) : (Enc.fmtAdd x0 x1 x2 x3 x4).extractLsb' 18 5 = x2 :=
  (extHi (x0 ++ x1 ++ x2 ++ x3) x4 18 5 (by decide)).trans <|
  (extHi (x0 ++ x1 ++ x2) x3 9 5 (by decide)).trans <|
  (extLo (x0 ++ x1) x2 0 5 (by decide)).trans <|
  (extAll x2)
theorem Enc.fmtAdd_9_9 (x0 : BitVec 7) (x1 : BitVec 2) (x2 : BitVec 5) (x3 : BitVec 9) (x4 : BitVec 9) : (Enc.fmtAdd x0 x1 x2 x3 x4).extractLsb' 9 9 = x3 :=
  (extHi (x0 ++ x1 ++ x2 ++ x3) x4 9 9 (by decide)).trans <|
  (extLo (x0 ++ x1 ++ x2) x3 0 9 (by decide)).trans <|
  (extAll x3)
theorem Enc.fmtAdd_0_9 (x0 : BitVec 7) (x1 : BitVec 2) (x2 : BitVec 5) (x3 : BitVec 9) (x4 : BitVec 9) : (Enc.fmtAdd x0 x1 x2 x3 x4).extractLsb' 0 9 = x4 :=
  (extLo (x0 ++ x1 ++ x2 ++ x3) x4 0 9 (by decide)).trans <|
  (extAll x4)

theorem Enc.fmtSext_25_7 (x0 : BitVec 7) (x1 : BitVec 2) (x2 : BitVec 3) (x3 : BitVec 2) (x4 : BitVec 9) (x5 : BitVec 9) : (Enc.fmtSext x0 x1 x2 x3 x4 x5).extractLsb' 25 7 = x0 :=
  (extHi (x0 ++ x1 ++ x2 ++ x3 ++ x4) x5 25 7 (by decide)).trans <|
  (extHi (x0 ++ x1 ++ x2 ++ x3) x4 16 7 (by decide)).trans <|
  (extHi (x0 ++ x1 ++ x2) x3 7 7 (by decide)).trans <|
  (extHi (x0 ++ x1) x2 5 7 (by decide)).trans <|
  (extHi x0 x1 2 7 (by decide)).trans <|
  (extAll x0)
theorem Enc.fmtSext_23_2 (x0 : BitVec 7) (x1 : BitVec 2) (x2 : BitVec 3) (x3 : BitVec 2) (x4 : BitVec 9) (x5 : BitVec 9) : (Enc.fmtSext x0 x1 x2 x3 x4 x5).extractLsb' 23 2 = x1 :=
  (extHi (x0 ++ x1 ++ x2 ++ x3 ++ x4) x5 23 2 (by decide)).trans <|
  (extHi (x0 ++ x1 ++ x2 ++ x3) x4 14 2 (by decide)).trans <|
  (extHi (x0 ++ x1 ++ x2) x3 5 2 (by decide)).trans <|
  (extHi (x0 ++ x1) x2 3 2 (by decide)).trans <|
  (extLo x0 x1 0 2 (by decide)).trans <|
  (extAll x1)
theorem Enc.fmtSext_20_3 (x0 : BitVec 7) (x1 : BitVec 2) (x2 : BitVec 3) (x3 : BitVec 2) (x4 : BitVec 9) (x5 : BitVec 9) : (Enc.fmtSext x0 x1 x2 x3 x4 x5).extractLsb' 20 3 = x2 :=
  (extHi (x0 ++ x1 ++ x2 ++ x3 ++ x4) x5 20 3 (by decide)).trans <|
  (extHi (x0 ++ x1 ++ x2 ++ x3) x4 11 3 (by decide)).trans <|
  (extHi (x0 ++ x1 ++ x2) x3 2 3 (by decide)).trans <|
  (extLo (x0 ++ x1) x2 0 3 (by decide)).trans <|
  (extAll x2)
theorem Enc.fmtSext_18_2 (x0 : BitVec 7) (x1 : BitVec 2) (x2 : BitVec 3) (x3 : BitVec 2) (x4 : BitVec 9) (x5 : BitVec 9) : (Enc.fmtSext x0 x1 x2 x3 x4 x5).extractLsb' 18 2 = x3 :=
  (extHi (x0 ++ x1 ++ x2 ++ x3 ++ x4) x5 18 2 (by decide)).trans <|
  (extHi (x0 ++ x1 ++ x2 ++ x3) x4 9 2 (by decide)).trans <|
  (extLo (x0 ++ x1 ++ x2) x3 0 2 (by decide)).trans <|
  (extAll x3)
theorem Enc.fmtSext_9_9 (x0 : BitVec 7) (x1 : BitVec 2) (x2 : BitVec 3) (x3 : BitVec 2) (x4 : BitVec 9) (x5 : BitVec 9) : (Enc.fmtSext x0 x1 x2 x3 x4 x5).extractLsb' 9 9 = x4 :=
  (extHi (x0 ++ x1 ++ x2 ++ x3 ++ x4) x5 9 9 (by decide)).trans <|
  (extLo (x0 ++ x1 ++ x2 ++ x3) x4 0 9 (by decide)).trans <|
  (extAll x4)
theorem Enc.fmtSext_0_9 (x0 : BitVec 7) (x1 : BitVec 2) (x2 : BitVec 3) (x3 : BitVec 2) (x4 : BitVec 9) (x5 : BitVec 9) : (Enc.fmtSext x0 x1 x2 x3 x4 x5).extractLsb' 0 9 = x5 :=
  (extLo (x0 ++ x1 ++ x2 ++ x3 ++ x4) x5 0 9 (by decide)).trans <|
  (extAll x5)

theorem Enc.fmtAddi_25_7 (x0 : BitVec 7) (x1 : BitVec 2) (x2 : BitVec 14) (x3 : BitVec 9) : (Enc.fmtAddi x0 x1 x2 x3).extractLsb' 25 7 = x0 :=
  (extHi (x0 ++ x1 ++ x2) x3 25 7 (by decide)).trans <|
  (extHi (x0 ++ x1) x2 16 7 (by decide)).trans <|
  (extHi x0 x1 2 7 (by decide)).trans <|
  (extAll x0)
theorem Enc.fmtAddi_23_2 (x0 : BitVec 7) (x1 : BitVec 2) (x2 : BitVec 14) (x3 : BitVec 9) : (Enc.fmtAddi x0 x1 x2 x3).extractLsb' 23 2 = x1 :=
  (extHi (x0 ++ x1 ++ x2) x3 23 2 (by decide)).trans <|
  (extHi (x0 ++ x1) x2 14 2 (by decide)).trans <|
  (extLo x0 x1 0 2 (by decide)).trans <|
  (extAll x1)
theorem Enc.fmtAddi_9_14 (x0 : BitVec 7) (x1 : BitVec 2) (x2 : BitVec 14) (x3 : BitVec 9) : (Enc.fmtAddi x0 x1 x2 x3).extractLsb' 9 14 = x2 :=
  (extHi (x0 ++ x1 ++ x2) x3 9 14 (by decide)).trans <|
  (extLo (x0 ++ x1) x2 0 14 (by decide)).trans <|
  (extAll x2)
theorem Enc.fmtAddi_0_9 (x0 : BitVec 7) (x1 : BitVec 2) (x2 : BitVec 14) (x3 : BitVec 9) : (Enc.fmtAddi x0 x1 x2 x3).extractLsb' 0 9 = x3 :=
  (extLo (x0 ++ x1 ++ x2) x3 0 9 (by decide)).trans <|
  (extAll x3)

theorem Enc.fmtShli_25_7 (x0 : BitVec 7) (x1 : BitVec 2) (x2 : BitVec 8) (x3 : BitVec 6) (x4 : BitVec 9) : (Enc.fmtShli x0 x1 x2 x3 x4).extractLsb' 25 7 = x0 :=
  (extHi (x0 ++ x1 ++ x2 ++ x3) x4 25 7 (by decide)).trans <|
  (extHi (x0 ++ x1 ++ x2) x3 16 7 (by decide)).trans <|
  (extHi (x0 ++ x1) x2 10 7 (by decide)).trans <|
  (extHi x0 x1 2 7 (by decide)).trans <|
  (extAll x0)
theorem Enc.fmtShli_23_2 (x0 : BitVec 7) (x1 : BitVec 2) (x2 : BitVec 8) (x3 : BitVec 6) (x4 : BitVec 9) : (Enc.fmtShli x0 x1 x2 x3 x4).extractLsb' 23 2 = x1 :=
  (extHi (x0 ++ x1 ++ x2 ++ x3) x4 23 2 (by decide)).trans <|
  (extHi (x0 ++ x1 ++ x2) x3 14 2 (by decide)).trans <|
  (extHi (x0 ++ x1) x2 8 2 (by decide)).trans <|
  (extLo x0 x1 0 2 (by decide)).trans <|
  (extAll x1)
theorem Enc.fmtShli_15_8 (x0 : BitVec 7) (x1 : BitVec 2) (x2 : BitVec 8) (x3 : BitVec 6) (x4 : BitVec 9) : (Enc.fmtShli x0 x1 x2 x3 x4).extractLsb' 15 8 = x2 :=
  (extHi (x0 ++ x1 ++ x2 ++ x3) x4 15 8 (by decide)).trans <|
  (extHi (x0 ++ x1 ++ x2) x3 6 8 (by decide)).trans <|
  (extLo (x0 ++ x1) x2 0 8 (by decide)).trans <|
  (extAll x2)
theorem Enc.fmtShli_9_6 (x0 : BitVec 7) (x1 : BitVec 2) (x2 : BitVec 8) (x3 : BitVec 6) (x4 : BitVec 9) : (Enc.fmtShli x0 x1 x2 x3 x4).extractLsb' 9 6 = x3 :=
  (extHi (x0 ++ x1 ++ x2 ++ x3) x4 9 6 (by decide)).trans <|
  (extLo (x0 ++ x1 ++ x2) x3 0 6 (by decide)).trans <|
  (extAll x3)
theorem Enc.fmtShli_0_9 (x0 : BitVec 7) (x1 : BitVec 2) (x2 : BitVec 8) (x3 : BitVec 6) (x4 : BitVec 9) : (Enc.fmtShli x0 x1 x2 x3 x4).extractLsb' 0 9 = x4 :=
  (extLo (x0 ++ x1 ++ x2 ++ x3) x4 0 9 (by decide)).trans <|
  (extAll x4)

theorem Enc.fmtBfx_25_7 (x0 : BitVec 7) (x1 : BitVec 2) (x2 : BitVec 2) (x3 : BitVec 6) (x4 : BitVec 6) (x5 : BitVec 9) : (Enc.fmtBfx x0 x1 x2 x3 x4 x5).extractLsb' 25 7 = x0 :=
  (extHi (x0 ++ x1 ++ x2 ++ x3 ++ x4) x5 25 7 (by decide)).trans <|
  (extHi (x0 ++ x1 ++ x2 ++ x3) x4 16 7 (by decide)).trans <|
  (extHi (x0 ++ x1 ++ x2) x3 10 7 (by decide)).trans <|
  (extHi (x0 ++ x1) x2 4 7 (by decide)).trans <|
  (extHi x0 x1 2 7 (by decide)).trans <|
  (extAll x0)
theorem Enc.fmtBfx_23_2 (x0 : BitVec 7) (x1 : BitVec 2) (x2 : BitVec 2) (x3 : BitVec 6) (x4 : BitVec 6) (x5 : BitVec 9) : (Enc.fmtBfx x0 x1 x2 x3 x4 x5).extractLsb' 23 2 = x1 :=
  (extHi (x0 ++ x1 ++ x2 ++ x3 ++ x4) x5 23 2 (by decide)).trans <|
  (extHi (x0 ++ x1 ++ x2 ++ x3) x4 14 2 (by decide)).trans <|
  (extHi (x0 ++ x1 ++ x2) x3 8 2 (by decide)).trans <|
  (extHi (x0 ++ x1) x2 2 2 (by decide)).trans <|
  (extLo x0 x1 0 2 (by decide)).trans <|
  (extAll x1)
theorem Enc.fmtBfx_21_2 (x0 : BitVec 7) (x1 : BitVec 2) (x2 : BitVec 2) (x3 : BitVec 6) (x4 : BitVec 6) (x5 : BitVec 9) : (Enc.fmtBfx x0 x1 x2 x3 x4 x5).extractLsb' 21 2 = x2 :=
  (extHi (x0 ++ x1 ++ x2 ++ x3 ++ x4) x5 21 2 (by decide)).trans <|
  (extHi (x0 ++ x1 ++ x2 ++ x3) x4 12 2 (by decide)).trans <|
  (extHi (x0 ++ x1 ++ x2) x3 6 2 (by decide)).trans <|
  (extLo (x0 ++ x1) x2 0 2 (by decide)).trans <|
  (extAll x2)
theorem Enc.fmtBfx_15_6 (x0 : BitVec 7) (x1 : BitVec 2) (x2 : BitVec 2) (x3 : BitVec 6) (x4 : BitVec 6) (x5 : BitVec 9) : (Enc.fmtBfx x0 x1 x2 x3 x4 x5).extractLsb' 15 6 = x3 :=
  (extHi (x0 ++ x1 ++ x2 ++ x3 ++ x4) x5 15 6 (by decide)).trans <|
  (extHi (x0 ++ x1 ++ x2 ++ x3) x4 6 6 (by decide)).trans <|
  (extLo (x0 ++ x1 ++ x2) x3 0 6 (by decide)).trans <|
  (extAll x3)
theorem Enc.fmtBfx_9_6 (x0 : BitVec 7) (x1 : BitVec 2) (x2 : BitVec 2) (x3 : BitVec 6) (x4 : BitVec 6) (x5 : BitVec 9) : (Enc.fmtBfx x0 x1 x2 x3 x4 x5).extractLsb' 9 6 = x4 :=
  (extHi (x0 ++ x1 ++ x2 ++ x3 ++ x4) x5 9 6 (by decide)).trans <|
  (extLo (x0 ++ x1 ++ x2 ++ x3) x4 0 6 (by decide)).trans <|
  (extAll x4)
theorem Enc.fmtBfx_0_9 (x0 : BitVec 7) (x1 : BitVec 2) (x2 : BitVec 2) (x3 : BitVec 6) (x4 : BitVec 6) (x5 : BitVec 9) : (Enc.fmtBfx x0 x1 x2 x3 x4 x5).extractLsb' 0 9 = x5 :=
  (extLo (x0 ++ x1 ++ x2 ++ x3 ++ x4) x5 0 9 (by decide)).trans <|
  (extAll x5)

theorem Enc.fmtMovc_25_7 (x0 : BitVec 7) (x1 : BitVec 16) (x2 : BitVec 9) : (Enc.fmtMovc x0 x1 x2).extractLsb' 25 7 = x0 :=
  (extHi (x0 ++ x1) x2 25 7 (by decide)).trans <|
  (extHi x0 x1 16 7 (by decide)).trans <|
  (extAll x0)
theorem Enc.fmtMovc_9_16 (x0 : BitVec 7) (x1 : BitVec 16) (x2 : BitVec 9) : (Enc.fmtMovc x0 x1 x2).extractLsb' 9 16 = x1 :=
  (extHi (x0 ++ x1) x2 9 16 (by decide)).trans <|
  (extLo x0 x1 0 16 (by decide)).trans <|
  (extAll x1)
theorem Enc.fmtMovc_0_9 (x0 : BitVec 7) (x1 : BitVec 16) (x2 : BitVec 9) : (Enc.fmtMovc x0 x1 x2).extractLsb' 0 9 = x2 :=
  (extLo (x0 ++ x1) x2 0 9 (by decide)).trans <|
  (extAll x2)

theorem Enc.fmtRdh_25_7 (x0 : BitVec 7) (x1 : BitVec 2) (x2 : BitVec 5) (x3 : BitVec 9) (x4 : BitVec 9) : (Enc.fmtRdh x0 x1 x2 x3 x4).extractLsb' 25 7 = x0 :=
  (extHi (x0 ++ x1 ++ x2 ++ x3) x4 25 7 (by decide)).trans <|
  (extHi (x0 ++ x1 ++ x2) x3 16 7 (by decide)).trans <|
  (extHi (x0 ++ x1) x2 7 7 (by decide)).trans <|
  (extHi x0 x1 2 7 (by decide)).trans <|
  (extAll x0)
theorem Enc.fmtRdh_23_2 (x0 : BitVec 7) (x1 : BitVec 2) (x2 : BitVec 5) (x3 : BitVec 9) (x4 : BitVec 9) : (Enc.fmtRdh x0 x1 x2 x3 x4).extractLsb' 23 2 = x1 :=
  (extHi (x0 ++ x1 ++ x2 ++ x3) x4 23 2 (by decide)).trans <|
  (extHi (x0 ++ x1 ++ x2) x3 14 2 (by decide)).trans <|
  (extHi (x0 ++ x1) x2 5 2 (by decide)).trans <|
  (extLo x0 x1 0 2 (by decide)).trans <|
  (extAll x1)
theorem Enc.fmtRdh_18_5 (x0 : BitVec 7) (x1 : BitVec 2) (x2 : BitVec 5) (x3 : BitVec 9) (x4 : BitVec 9) : (Enc.fmtRdh x0 x1 x2 x3 x4).extractLsb' 18 5 = x2 :=
  (extHi (x0 ++ x1 ++ x2 ++ x3) x4 18 5 (by decide)).trans <|
  (extHi (x0 ++ x1 ++ x2) x3 9 5 (by decide)).trans <|
  (extLo (x0 ++ x1) x2 0 5 (by decide)).trans <|
  (extAll x2)
theorem Enc.fmtRdh_9_9 (x0 : BitVec 7) (x1 : BitVec 2) (x2 : BitVec 5) (x3 : BitVec 9) (x4 : BitVec 9) : (Enc.fmtRdh x0 x1 x2 x3 x4).extractLsb' 9 9 = x3 :=
  (extHi (x0 ++ x1 ++ x2 ++ x3) x4 9 9 (by decide)).trans <|
  (extLo (x0 ++ x1 ++ x2) x3 0 9 (by decide)).trans <|
  (extAll x3)
theorem Enc.fmtRdh_0_9 (x0 : BitVec 7) (x1 : BitVec 2) (x2 : BitVec 5) (x3 : BitVec 9) (x4 : BitVec 9) : (Enc.fmtRdh x0 x1 x2 x3 x4).extractLsb' 0 9 = x4 :=
  (extLo (x0 ++ x1 ++ x2 ++ x3) x4 0 9 (by decide)).trans <|
  (extAll x4)

theorem Enc.fmtLda_25_7 (x0 : BitVec 7) (x1 : BitVec 2) (x2 : BitVec 5) (x3 : BitVec 5) (x4 : BitVec 3) (x5 : BitVec 1) (x6 : BitVec 9) : (Enc.fmtLda x0 x1 x2 x3 x4 x5 x6).extractLsb' 25 7 = x0 :=
  (extHi (x0 ++ x1 ++ x2 ++ x3 ++ x4 ++ x5) x6 25 7 (by decide)).trans <|
  (extHi (x0 ++ x1 ++ x2 ++ x3 ++ x4) x5 16 7 (by decide)).trans <|
  (extHi (x0 ++ x1 ++ x2 ++ x3) x4 15 7 (by decide)).trans <|
  (extHi (x0 ++ x1 ++ x2) x3 12 7 (by decide)).trans <|
  (extHi (x0 ++ x1) x2 7 7 (by decide)).trans <|
  (extHi x0 x1 2 7 (by decide)).trans <|
  (extAll x0)
theorem Enc.fmtLda_23_2 (x0 : BitVec 7) (x1 : BitVec 2) (x2 : BitVec 5) (x3 : BitVec 5) (x4 : BitVec 3) (x5 : BitVec 1) (x6 : BitVec 9) : (Enc.fmtLda x0 x1 x2 x3 x4 x5 x6).extractLsb' 23 2 = x1 :=
  (extHi (x0 ++ x1 ++ x2 ++ x3 ++ x4 ++ x5) x6 23 2 (by decide)).trans <|
  (extHi (x0 ++ x1 ++ x2 ++ x3 ++ x4) x5 14 2 (by decide)).trans <|
  (extHi (x0 ++ x1 ++ x2 ++ x3) x4 13 2 (by decide)).trans <|
  (extHi (x0 ++ x1 ++ x2) x3 10 2 (by decide)).trans <|
  (extHi (x0 ++ x1) x2 5 2 (by decide)).trans <|
  (extLo x0 x1 0 2 (by decide)).trans <|
  (extAll x1)
theorem Enc.fmtLda_18_5 (x0 : BitVec 7) (x1 : BitVec 2) (x2 : BitVec 5) (x3 : BitVec 5) (x4 : BitVec 3) (x5 : BitVec 1) (x6 : BitVec 9) : (Enc.fmtLda x0 x1 x2 x3 x4 x5 x6).extractLsb' 18 5 = x2 :=
  (extHi (x0 ++ x1 ++ x2 ++ x3 ++ x4 ++ x5) x6 18 5 (by decide)).trans <|
  (extHi (x0 ++ x1 ++ x2 ++ x3 ++ x4) x5 9 5 (by decide)).trans <|
  (extHi (x0 ++ x1 ++ x2 ++ x3) x4 8 5 (by decide)).trans <|
  (extHi (x0 ++ x1 ++ x2) x3 5 5 (by decide)).trans <|
  (extLo (x0 ++ x1) x2 0 5 (by decide)).trans <|
  (extAll x2)
theorem Enc.fmtLda_13_5 (x0 : BitVec 7) (x1 : BitVec 2) (x2 : BitVec 5) (x3 : BitVec 5) (x4 : BitVec 3) (x5 : BitVec 1) (x6 : BitVec 9) : (Enc.fmtLda x0 x1 x2 x3 x4 x5 x6).extractLsb' 13 5 = x3 :=
  (extHi (x0 ++ x1 ++ x2 ++ x3 ++ x4 ++ x5) x6 13 5 (by decide)).trans <|
  (extHi (x0 ++ x1 ++ x2 ++ x3 ++ x4) x5 4 5 (by decide)).trans <|
  (extHi (x0 ++ x1 ++ x2 ++ x3) x4 3 5 (by decide)).trans <|
  (extLo (x0 ++ x1 ++ x2) x3 0 5 (by decide)).trans <|
  (extAll x3)
theorem Enc.fmtLda_10_3 (x0 : BitVec 7) (x1 : BitVec 2) (x2 : BitVec 5) (x3 : BitVec 5) (x4 : BitVec 3) (x5 : BitVec 1) (x6 : BitVec 9) : (Enc.fmtLda x0 x1 x2 x3 x4 x5 x6).extractLsb' 10 3 = x4 :=
  (extHi (x0 ++ x1 ++ x2 ++ x3 ++ x4 ++ x5) x6 10 3 (by decide)).trans <|
  (extHi (x0 ++ x1 ++ x2 ++ x3 ++ x4) x5 1 3 (by decide)).trans <|
  (extLo (x0 ++ x1 ++ x2 ++ x3) x4 0 3 (by decide)).trans <|
  (extAll x4)
theorem Enc.fmtLda_9_1 (x0 : BitVec 7) (x1 : BitVec 2) (x2 : BitVec 5) (x3 : BitVec 5) (x4 : BitVec 3) (x5 : BitVec 1) (x6 : BitVec 9) : (Enc.fmtLda x0 x1 x2 x3 x4 x5 x6).extractLsb' 9 1 = x5 :=
  (extHi (x0 ++ x1 ++ x2 ++ x3 ++ x4 ++ x5) x6 9 1 (by decide)).trans <|
  (extLo (x0 ++ x1 ++ x2 ++ x3 ++ x4) x5 0 1 (by decide)).trans <|
  (extAll x5)
theorem Enc.fmtLda_0_9 (x0 : BitVec 7) (x1 : BitVec 2) (x2 : BitVec 5) (x3 : BitVec 5) (x4 : BitVec 3) (x5 : BitVec 1) (x6 : BitVec 9) : (Enc.fmtLda x0 x1 x2 x3 x4 x5 x6).extractLsb' 0 9 = x6 :=
  (extLo (x0 ++ x1 ++ x2 ++ x3 ++ x4 ++ x5) x6 0 9 (by decide)).trans <|
  (extAll x6)

theorem Enc.fmtLdt_25_7 (x0 : BitVec 7) (x1 : BitVec 2) (x2 : BitVec 5) (x3 : BitVec 1) (x4 : BitVec 8) (x5 : BitVec 9) : (Enc.fmtLdt x0 x1 x2 x3 x4 x5).extractLsb' 25 7 = x0 :=
  (extHi (x0 ++ x1 ++ x2 ++ x3 ++ x4) x5 25 7 (by decide)).trans <|
  (extHi (x0 ++ x1 ++ x2 ++ x3) x4 16 7 (by decide)).trans <|
  (extHi (x0 ++ x1 ++ x2) x3 8 7 (by decide)).trans <|
  (extHi (x0 ++ x1) x2 7 7 (by decide)).trans <|
  (extHi x0 x1 2 7 (by decide)).trans <|
  (extAll x0)
theorem Enc.fmtLdt_23_2 (x0 : BitVec 7) (x1 : BitVec 2) (x2 : BitVec 5) (x3 : BitVec 1) (x4 : BitVec 8) (x5 : BitVec 9) : (Enc.fmtLdt x0 x1 x2 x3 x4 x5).extractLsb' 23 2 = x1 :=
  (extHi (x0 ++ x1 ++ x2 ++ x3 ++ x4) x5 23 2 (by decide)).trans <|
  (extHi (x0 ++ x1 ++ x2 ++ x3) x4 14 2 (by decide)).trans <|
  (extHi (x0 ++ x1 ++ x2) x3 6 2 (by decide)).trans <|
  (extHi (x0 ++ x1) x2 5 2 (by decide)).trans <|
  (extLo x0 x1 0 2 (by decide)).trans <|
  (extAll x1)
theorem Enc.fmtLdt_18_5 (x0 : BitVec 7) (x1 : BitVec 2) (x2 : BitVec 5) (x3 : BitVec 1) (x4 : BitVec 8) (x5 : BitVec 9) : (Enc.fmtLdt x0 x1 x2 x3 x4 x5).extractLsb' 18 5 = x2 :=
  (extHi (x0 ++ x1 ++ x2 ++ x3 ++ x4) x5 18 5 (by decide)).trans <|
  (extHi (x0 ++ x1 ++ x2 ++ x3) x4 9 5 (by decide)).trans <|
  (extHi (x0 ++ x1 ++ x2) x3 1 5 (by decide)).trans <|
  (extLo (x0 ++ x1) x2 0 5 (by decide)).trans <|
  (extAll x2)
theorem Enc.fmtLdt_17_1 (x0 : BitVec 7) (x1 : BitVec 2) (x2 : BitVec 5) (x3 : BitVec 1) (x4 : BitVec 8) (x5 : BitVec 9) : (Enc.fmtLdt x0 x1 x2 x3 x4 x5).extractLsb' 17 1 = x3 :=
  (extHi (x0 ++ x1 ++ x2 ++ x3 ++ x4) x5 17 1 (by decide)).trans <|
  (extHi (x0 ++ x1 ++ x2 ++ x3) x4 8 1 (by decide)).trans <|
  (extLo (x0 ++ x1 ++ x2) x3 0 1 (by decide)).trans <|
  (extAll x3)
theorem Enc.fmtLdt_9_8 (x0 : BitVec 7) (x1 : BitVec 2) (x2 : BitVec 5) (x3 : BitVec 1) (x4 : BitVec 8) (x5 : BitVec 9) : (Enc.fmtLdt x0 x1 x2 x3 x4 x5).extractLsb' 9 8 = x4 :=
  (extHi (x0 ++ x1 ++ x2 ++ x3 ++ x4) x5 9 8 (by decide)).trans <|
  (extLo (x0 ++ x1 ++ x2 ++ x3) x4 0 8 (by decide)).trans <|
  (extAll x4)
theorem Enc.fmtLdt_0_9 (x0 : BitVec 7) (x1 : BitVec 2) (x2 : BitVec 5) (x3 : BitVec 1) (x4 : BitVec 8) (x5 : BitVec 9) : (Enc.fmtLdt x0 x1 x2 x3 x4 x5).extractLsb' 0 9 = x5 :=
  (extLo (x0 ++ x1 ++ x2 ++ x3 ++ x4) x5 0 9 (by decide)).trans <|
  (extAll x5)

theorem Enc.fmtPrf_25_7 (x0 : BitVec 7) (x1 : BitVec 2) (x2 : BitVec 5) (x3 : BitVec 9) (x4 : BitVec 9) : (Enc.fmtPrf x0 x1 x2 x3 x4).extractLsb' 25 7 = x0 :=
  (extHi (x0 ++ x1 ++ x2 ++ x3) x4 25 7 (by decide)).trans <|
  (extHi (x0 ++ x1 ++ x2) x3 16 7 (by decide)).trans <|
  (extHi (x0 ++ x1) x2 7 7 (by decide)).trans <|
  (extHi x0 x1 2 7 (by decide)).trans <|
  (extAll x0)
theorem Enc.fmtPrf_23_2 (x0 : BitVec 7) (x1 : BitVec 2) (x2 : BitVec 5) (x3 : BitVec 9) (x4 : BitVec 9) : (Enc.fmtPrf x0 x1 x2 x3 x4).extractLsb' 23 2 = x1 :=
  (extHi (x0 ++ x1 ++ x2 ++ x3) x4 23 2 (by decide)).trans <|
  (extHi (x0 ++ x1 ++ x2) x3 14 2 (by decide)).trans <|
  (extHi (x0 ++ x1) x2 5 2 (by decide)).trans <|
  (extLo x0 x1 0 2 (by decide)).trans <|
  (extAll x1)
theorem Enc.fmtPrf_18_5 (x0 : BitVec 7) (x1 : BitVec 2) (x2 : BitVec 5) (x3 : BitVec 9) (x4 : BitVec 9) : (Enc.fmtPrf x0 x1 x2 x3 x4).extractLsb' 18 5 = x2 :=
  (extHi (x0 ++ x1 ++ x2 ++ x3) x4 18 5 (by decide)).trans <|
  (extHi (x0 ++ x1 ++ x2) x3 9 5 (by decide)).trans <|
  (extLo (x0 ++ x1) x2 0 5 (by decide)).trans <|
  (extAll x2)
theorem Enc.fmtPrf_9_9 (x0 : BitVec 7) (x1 : BitVec 2) (x2 : BitVec 5) (x3 : BitVec 9) (x4 : BitVec 9) : (Enc.fmtPrf x0 x1 x2 x3 x4).extractLsb' 9 9 = x3 :=
  (extHi (x0 ++ x1 ++ x2 ++ x3) x4 9 9 (by decide)).trans <|
  (extLo (x0 ++ x1 ++ x2) x3 0 9 (by decide)).trans <|
  (extAll x3)
theorem Enc.fmtPrf_0_9 (x0 : BitVec 7) (x1 : BitVec 2) (x2 : BitVec 5) (x3 : BitVec 9) (x4 : BitVec 9) : (Enc.fmtPrf x0 x1 x2 x3 x4).extractLsb' 0 9 = x4 :=
  (extLo (x0 ++ x1 ++ x2 ++ x3) x4 0 9 (by decide)).trans <|
  (extAll x4)

theorem Enc.fmtStb_25_7 (x0 : BitVec 7) (x1 : BitVec 2) (x2 : BitVec 5) (x3 : BitVec 18) : (Enc.fmtStb x0 x1 x2 x3).extractLsb' 25 7 = x0 :=
  (extHi (x0 ++ x1 ++ x2) x3 25 7 (by decide)).trans <|
  (extHi (x0 ++ x1) x2 7 7 (by decide)).trans <|
  (extHi x0 x1 2 7 (by decide)).trans <|
  (extAll x0)
theorem Enc.fmtStb_23_2 (x0 : BitVec 7) (x1 : BitVec 2) (x2 : BitVec 5) (x3 : BitVec 18) : (Enc.fmtStb x0 x1 x2 x3).extractLsb' 23 2 = x1 :=
  (extHi (x0 ++ x1 ++ x2) x3 23 2 (by decide)).trans <|
  (extHi (x0 ++ x1) x2 5 2 (by decide)).trans <|
  (extLo x0 x1 0 2 (by decide)).trans <|
  (extAll x1)
theorem Enc.fmtStb_18_5 (x0 : BitVec 7) (x1 : BitVec 2) (x2 : BitVec 5) (x3 : BitVec 18) : (Enc.fmtStb x0 x1 x2 x3).extractLsb' 18 5 = x2 :=
  (extHi (x0 ++ x1 ++ x2) x3 18 5 (by decide)).trans <|
  (extLo (x0 ++ x1) x2 0 5 (by decide)).trans <|
  (extAll x2)
theorem Enc.fmtStb_0_18 (x0 : BitVec 7) (x1 : BitVec 2) (x2 : BitVec 5) (x3 : BitVec 18) : (Enc.fmtStb x0 x1 x2 x3).extractLsb' 0 18 = x3 :=
  (extLo (x0 ++ x1 ++ x2) x3 0 18 (by decide)).trans <|
  (extAll x3)

theorem Enc.fmtStl_25_7 (x0 : BitVec 7) (x1 : BitVec 2) (x2 : BitVec 5) (x3 : BitVec 3) (x4 : BitVec 15) : (Enc.fmtStl x0 x1 x2 x3 x4).extractLsb' 25 7 = x0 :=
  (extHi (x0 ++ x1 ++ x2 ++ x3) x4 25 7 (by decide)).trans <|
  (extHi (x0 ++ x1 ++ x2) x3 10 7 (by decide)).trans <|
  (extHi (x0 ++ x1) x2 7 7 (by decide)).trans <|
  (extHi x0 x1 2 7 (by decide)).trans <|
  (extAll x0)
theorem Enc.fmtStl_23_2 (x0 : BitVec 7) (x1 : BitVec 2) (x2 : BitVec 5) (x3 : BitVec 3) (x4 : BitVec 15) : (Enc.fmtStl x0 x1 x2 x3 x4).extractLsb' 23 2 = x1 :=
  (extHi (x0 ++ x1 ++ x2 ++ x3) x4 23 2 (by decide)).trans <|
  (extHi (x0 ++ x1 ++ x2) x3 8 2 (by decide)).trans <|
  (extHi (x0 ++ x1) x2 5 2 (by decide)).trans <|
  (extLo x0 x1 0 2 (by decide)).trans <|
  (extAll x1)
theorem Enc.fmtStl_18_5 (x0 : BitVec 7) (x1 : BitVec 2) (x2 : BitVec 5) (x3 : BitVec 3) (x4 : BitVec 15) : (Enc.fmtStl x0 x1 x2 x3 x4).extractLsb' 18 5 = x2 :=
  (extHi (x0 ++ x1 ++ x2 ++ x3) x4 18 5 (by decide)).trans <|
  (extHi (x0 ++ x1 ++ x2) x3 3 5 (by decide)).trans <|
  (extLo (x0 ++ x1) x2 0 5 (by decide)).trans <|
  (extAll x2)
theorem Enc.fmtStl_15_3 (x0 : BitVec 7) (x1 : BitVec 2) (x2 : BitVec 5) (x3 : BitVec 3) (x4 : BitVec 15) : (Enc.fmtStl x0 x1 x2 x3 x4).extractLsb' 15 3 = x3 :=
  (extHi (x0 ++ x1 ++ x2 ++ x3) x4 15 3 (by decide)).trans <|
  (extLo (x0 ++ x1 ++ x2) x3 0 3 (by decide)).trans <|
  (extAll x3)
theorem Enc.fmtStl_0_15 (x0 : BitVec 7) (x1 : BitVec 2) (x2 : BitVec 5) (x3 : BitVec 3) (x4 : BitVec 15) : (Enc.fmtStl x0 x1 x2 x3 x4).extractLsb' 0 15 = x4 :=
  (extLo (x0 ++ x1 ++ x2 ++ x3) x4 0 15 (by decide)).trans <|
  (extAll x4)

theorem Enc.fmtStt_25_7 (x0 : BitVec 7) (x1 : BitVec 2) (x2 : BitVec 5) (x3 : BitVec 10) (x4 : BitVec 8) : (Enc.fmtStt x0 x1 x2 x3 x4).extractLsb' 25 7 = x0 :=
  (extHi (x0 ++ x1 ++ x2 ++ x3) x4 25 7 (by decide)).trans <|
  (extHi (x0 ++ x1 ++ x2) x3 17 7 (by decide)).trans <|
  (extHi (x0 ++ x1) x2 7 7 (by decide)).trans <|
  (extHi x0 x1 2 7 (by decide)).trans <|
  (extAll x0)
theorem Enc.fmtStt_23_2 (x0 : BitVec 7) (x1 : BitVec 2) (x2 : BitVec 5) (x3 : BitVec 10) (x4 : BitVec 8) : (Enc.fmtStt x0 x1 x2 x3 x4).extractLsb' 23 2 = x1 :=
  (extHi (x0 ++ x1 ++ x2 ++ x3) x4 23 2 (by decide)).trans <|
  (extHi (x0 ++ x1 ++ x2) x3 15 2 (by decide)).trans <|
  (extHi (x0 ++ x1) x2 5 2 (by decide)).trans <|
  (extLo x0 x1 0 2 (by decide)).trans <|
  (extAll x1)
theorem Enc.fmtStt_18_5 (x0 : BitVec 7) (x1 : BitVec 2) (x2 : BitVec 5) (x3 : BitVec 10) (x4 : BitVec 8) : (Enc.fmtStt x0 x1 x2 x3 x4).extractLsb' 18 5 = x2 :=
  (extHi (x0 ++ x1 ++ x2 ++ x3) x4 18 5 (by decide)).trans <|
  (extHi (x0 ++ x1 ++ x2) x3 10 5 (by decide)).trans <|
  (extLo (x0 ++ x1) x2 0 5 (by decide)).trans <|
  (extAll x2)
theorem Enc.fmtStt_8_10 (x0 : BitVec 7) (x1 : BitVec 2) (x2 : BitVec 5) (x3 : BitVec 10) (x4 : BitVec 8) : (Enc.fmtStt x0 x1 x2 x3 x4).extractLsb' 8 10 = x3 :=
  (extHi (x0 ++ x1 ++ x2 ++ x3) x4 8 10 (by decide)).trans <|
  (extLo (x0 ++ x1 ++ x2) x3 0 10 (by decide)).trans <|
  (extAll x3)
theorem Enc.fmtStt_0_8 (x0 : BitVec 7) (x1 : BitVec 2) (x2 : BitVec 5) (x3 : BitVec 10) (x4 : BitVec 8) : (Enc.fmtStt x0 x1 x2 x3 x4).extractLsb' 0 8 = x4 :=
  (extLo (x0 ++ x1 ++ x2 ++ x3) x4 0 8 (by decide)).trans <|
  (extAll x4)

theorem Enc.fmtSpills_25_7 (x0 : BitVec 7) (x1 : BitVec 2) (x2 : BitVec 5) (x3 : BitVec 8) (x4 : BitVec 5) (x5 : BitVec 5) : (Enc.fmtSpills x0 x1 x2 x3 x4 x5).extractLsb' 25 7 = x0 :=
  (extHi (x0 ++ x1 ++ x2 ++ x3 ++ x4) x5 25 7 (by decide)).trans <|
  (extHi (x0 ++ x1 ++ x2 ++ x3) x4 20 7 (by decide)).trans <|
  (extHi (x0 ++ x1 ++ x2) x3 15 7 (by decide)).trans <|
  (extHi (x0 ++ x1) x2 7 7 (by decide)).trans <|
  (extHi x0 x1 2 7 (by decide)).trans <|
  (extAll x0)
theorem Enc.fmtSpills_23_2 (x0 : BitVec 7) (x1 : BitVec 2) (x2 : BitVec 5) (x3 : BitVec 8) (x4 : BitVec 5) (x5 : BitVec 5) : (Enc.fmtSpills x0 x1 x2 x3 x4 x5).extractLsb' 23 2 = x1 :=
  (extHi (x0 ++ x1 ++ x2 ++ x3 ++ x4) x5 23 2 (by decide)).trans <|
  (extHi (x0 ++ x1 ++ x2 ++ x3) x4 18 2 (by decide)).trans <|
  (extHi (x0 ++ x1 ++ x2) x3 13 2 (by decide)).trans <|
  (extHi (x0 ++ x1) x2 5 2 (by decide)).trans <|
  (extLo x0 x1 0 2 (by decide)).trans <|
  (extAll x1)
theorem Enc.fmtSpills_18_5 (x0 : BitVec 7) (x1 : BitVec 2) (x2 : BitVec 5) (x3 : BitVec 8) (x4 : BitVec 5) (x5 : BitVec 5) : (Enc.fmtSpills x0 x1 x2 x3 x4 x5).extractLsb' 18 5 = x2 :=
  (extHi (x0 ++ x1 ++ x2 ++ x3 ++ x4) x5 18 5 (by decide)).trans <|
  (extHi (x0 ++ x1 ++ x2 ++ x3) x4 13 5 (by decide)).trans <|
  (extHi (x0 ++ x1 ++ x2) x3 8 5 (by decide)).trans <|
  (extLo (x0 ++ x1) x2 0 5 (by decide)).trans <|
  (extAll x2)
theorem Enc.fmtSpills_10_8 (x0 : BitVec 7) (x1 : BitVec 2) (x2 : BitVec 5) (x3 : BitVec 8) (x4 : BitVec 5) (x5 : BitVec 5) : (Enc.fmtSpills x0 x1 x2 x3 x4 x5).extractLsb' 10 8 = x3 :=
  (extHi (x0 ++ x1 ++ x2 ++ x3 ++ x4) x5 10 8 (by decide)).trans <|
  (extHi (x0 ++ x1 ++ x2 ++ x3) x4 5 8 (by decide)).trans <|
  (extLo (x0 ++ x1 ++ x2) x3 0 8 (by decide)).trans <|
  (extAll x3)
theorem Enc.fmtSpills_5_5 (x0 : BitVec 7) (x1 : BitVec 2) (x2 : BitVec 5) (x3 : BitVec 8) (x4 : BitVec 5) (x5 : BitVec 5) : (Enc.fmtSpills x0 x1 x2 x3 x4 x5).extractLsb' 5 5 = x4 :=
  (extHi (x0 ++ x1 ++ x2 ++ x3 ++ x4) x5 5 5 (by decide)).trans <|
  (extLo (x0 ++ x1 ++ x2 ++ x3) x4 0 5 (by decide)).trans <|
  (extAll x4)
theorem Enc.fmtSpills_0_5 (x0 : BitVec 7) (x1 : BitVec 2) (x2 : BitVec 5) (x3 : BitVec 8) (x4 : BitVec 5) (x5 : BitVec 5) : (Enc.fmtSpills x0 x1 x2 x3 x4 x5).extractLsb' 0 5 = x5 :=
  (extLo (x0 ++ x1 ++ x2 ++ x3 ++ x4) x5 0 5 (by decide)).trans <|
  (extAll x5)

theorem Enc.fmtXfence_25_7 (x0 : BitVec 7) (x1 : BitVec 2) (x2 : BitVec 5) (x3 : BitVec 8) (x4 : BitVec 7) (x5 : BitVec 3) : (Enc.fmtXfence x0 x1 x2 x3 x4 x5).extractLsb' 25 7 = x0 :=
  (extHi (x0 ++ x1 ++ x2 ++ x3 ++ x4) x5 25 7 (by decide)).trans <|
  (extHi (x0 ++ x1 ++ x2 ++ x3) x4 22 7 (by decide)).trans <|
  (extHi (x0 ++ x1 ++ x2) x3 15 7 (by decide)).trans <|
  (extHi (x0 ++ x1) x2 7 7 (by decide)).trans <|
  (extHi x0 x1 2 7 (by decide)).trans <|
  (extAll x0)
theorem Enc.fmtXfence_23_2 (x0 : BitVec 7) (x1 : BitVec 2) (x2 : BitVec 5) (x3 : BitVec 8) (x4 : BitVec 7) (x5 : BitVec 3) : (Enc.fmtXfence x0 x1 x2 x3 x4 x5).extractLsb' 23 2 = x1 :=
  (extHi (x0 ++ x1 ++ x2 ++ x3 ++ x4) x5 23 2 (by decide)).trans <|
  (extHi (x0 ++ x1 ++ x2 ++ x3) x4 20 2 (by decide)).trans <|
  (extHi (x0 ++ x1 ++ x2) x3 13 2 (by decide)).trans <|
  (extHi (x0 ++ x1) x2 5 2 (by decide)).trans <|
  (extLo x0 x1 0 2 (by decide)).trans <|
  (extAll x1)
theorem Enc.fmtXfence_18_5 (x0 : BitVec 7) (x1 : BitVec 2) (x2 : BitVec 5) (x3 : BitVec 8) (x4 : BitVec 7) (x5 : BitVec 3) : (Enc.fmtXfence x0 x1 x2 x3 x4 x5).extractLsb' 18 5 = x2 :=
  (extHi (x0 ++ x1 ++ x2 ++ x3 ++ x4) x5 18 5 (by decide)).trans <|
  (extHi (x0 ++ x1 ++ x2 ++ x3) x4 15 5 (by decide)).trans <|
  (extHi (x0 ++ x1 ++ x2) x3 8 5 (by decide)).trans <|
  (extLo (x0 ++ x1) x2 0 5 (by decide)).trans <|
  (extAll x2)
theorem Enc.fmtXfence_10_8 (x0 : BitVec 7) (x1 : BitVec 2) (x2 : BitVec 5) (x3 : BitVec 8) (x4 : BitVec 7) (x5 : BitVec 3) : (Enc.fmtXfence x0 x1 x2 x3 x4 x5).extractLsb' 10 8 = x3 :=
  (extHi (x0 ++ x1 ++ x2 ++ x3 ++ x4) x5 10 8 (by decide)).trans <|
  (extHi (x0 ++ x1 ++ x2 ++ x3) x4 7 8 (by decide)).trans <|
  (extLo (x0 ++ x1 ++ x2) x3 0 8 (by decide)).trans <|
  (extAll x3)
theorem Enc.fmtXfence_3_7 (x0 : BitVec 7) (x1 : BitVec 2) (x2 : BitVec 5) (x3 : BitVec 8) (x4 : BitVec 7) (x5 : BitVec 3) : (Enc.fmtXfence x0 x1 x2 x3 x4 x5).extractLsb' 3 7 = x4 :=
  (extHi (x0 ++ x1 ++ x2 ++ x3 ++ x4) x5 3 7 (by decide)).trans <|
  (extLo (x0 ++ x1 ++ x2 ++ x3) x4 0 7 (by decide)).trans <|
  (extAll x4)
theorem Enc.fmtXfence_0_3 (x0 : BitVec 7) (x1 : BitVec 2) (x2 : BitVec 5) (x3 : BitVec 8) (x4 : BitVec 7) (x5 : BitVec 3) : (Enc.fmtXfence x0 x1 x2 x3 x4 x5).extractLsb' 0 3 = x5 :=
  (extLo (x0 ++ x1 ++ x2 ++ x3 ++ x4) x5 0 3 (by decide)).trans <|
  (extAll x5)

theorem Enc.fmtSbar_25_7 (x0 : BitVec 7) (x1 : BitVec 2) (x2 : BitVec 5) (x3 : BitVec 15) (x4 : BitVec 1) (x5 : BitVec 2) : (Enc.fmtSbar x0 x1 x2 x3 x4 x5).extractLsb' 25 7 = x0 :=
  (extHi (x0 ++ x1 ++ x2 ++ x3 ++ x4) x5 25 7 (by decide)).trans <|
  (extHi (x0 ++ x1 ++ x2 ++ x3) x4 23 7 (by decide)).trans <|
  (extHi (x0 ++ x1 ++ x2) x3 22 7 (by decide)).trans <|
  (extHi (x0 ++ x1) x2 7 7 (by decide)).trans <|
  (extHi x0 x1 2 7 (by decide)).trans <|
  (extAll x0)
theorem Enc.fmtSbar_23_2 (x0 : BitVec 7) (x1 : BitVec 2) (x2 : BitVec 5) (x3 : BitVec 15) (x4 : BitVec 1) (x5 : BitVec 2) : (Enc.fmtSbar x0 x1 x2 x3 x4 x5).extractLsb' 23 2 = x1 :=
  (extHi (x0 ++ x1 ++ x2 ++ x3 ++ x4) x5 23 2 (by decide)).trans <|
  (extHi (x0 ++ x1 ++ x2 ++ x3) x4 21 2 (by decide)).trans <|
  (extHi (x0 ++ x1 ++ x2) x3 20 2 (by decide)).trans <|
  (extHi (x0 ++ x1) x2 5 2 (by decide)).trans <|
  (extLo x0 x1 0 2 (by decide)).trans <|
  (extAll x1)
theorem Enc.fmtSbar_18_5 (x0 : BitVec 7) (x1 : BitVec 2) (x2 : BitVec 5) (x3 : BitVec 15) (x4 : BitVec 1) (x5 : BitVec 2) : (Enc.fmtSbar x0 x1 x2 x3 x4 x5).extractLsb' 18 5 = x2 :=
  (extHi (x0 ++ x1 ++ x2 ++ x3 ++ x4) x5 18 5 (by decide)).trans <|
  (extHi (x0 ++ x1 ++ x2 ++ x3) x4 16 5 (by decide)).trans <|
  (extHi (x0 ++ x1 ++ x2) x3 15 5 (by decide)).trans <|
  (extLo (x0 ++ x1) x2 0 5 (by decide)).trans <|
  (extAll x2)
theorem Enc.fmtSbar_3_15 (x0 : BitVec 7) (x1 : BitVec 2) (x2 : BitVec 5) (x3 : BitVec 15) (x4 : BitVec 1) (x5 : BitVec 2) : (Enc.fmtSbar x0 x1 x2 x3 x4 x5).extractLsb' 3 15 = x3 :=
  (extHi (x0 ++ x1 ++ x2 ++ x3 ++ x4) x5 3 15 (by decide)).trans <|
  (extHi (x0 ++ x1 ++ x2 ++ x3) x4 1 15 (by decide)).trans <|
  (extLo (x0 ++ x1 ++ x2) x3 0 15 (by decide)).trans <|
  (extAll x3)
theorem Enc.fmtSbar_2_1 (x0 : BitVec 7) (x1 : BitVec 2) (x2 : BitVec 5) (x3 : BitVec 15) (x4 : BitVec 1) (x5 : BitVec 2) : (Enc.fmtSbar x0 x1 x2 x3 x4 x5).extractLsb' 2 1 = x4 :=
  (extHi (x0 ++ x1 ++ x2 ++ x3 ++ x4) x5 2 1 (by decide)).trans <|
  (extLo (x0 ++ x1 ++ x2 ++ x3) x4 0 1 (by decide)).trans <|
  (extAll x4)
theorem Enc.fmtSbar_0_2 (x0 : BitVec 7) (x1 : BitVec 2) (x2 : BitVec 5) (x3 : BitVec 15) (x4 : BitVec 1) (x5 : BitVec 2) : (Enc.fmtSbar x0 x1 x2 x3 x4 x5).extractLsb' 0 2 = x5 :=
  (extLo (x0 ++ x1 ++ x2 ++ x3 ++ x4) x5 0 2 (by decide)).trans <|
  (extAll x5)

theorem Enc.fmtWbar_25_7 (x0 : BitVec 7) (x1 : BitVec 2) (x2 : BitVec 5) (x3 : BitVec 15) (x4 : BitVec 3) : (Enc.fmtWbar x0 x1 x2 x3 x4).extractLsb' 25 7 = x0 :=
  (extHi (x0 ++ x1 ++ x2 ++ x3) x4 25 7 (by decide)).trans <|
  (extHi (x0 ++ x1 ++ x2) x3 22 7 (by decide)).trans <|
  (extHi (x0 ++ x1) x2 7 7 (by decide)).trans <|
  (extHi x0 x1 2 7 (by decide)).trans <|
  (extAll x0)
theorem Enc.fmtWbar_23_2 (x0 : BitVec 7) (x1 : BitVec 2) (x2 : BitVec 5) (x3 : BitVec 15) (x4 : BitVec 3) : (Enc.fmtWbar x0 x1 x2 x3 x4).extractLsb' 23 2 = x1 :=
  (extHi (x0 ++ x1 ++ x2 ++ x3) x4 23 2 (by decide)).trans <|
  (extHi (x0 ++ x1 ++ x2) x3 20 2 (by decide)).trans <|
  (extHi (x0 ++ x1) x2 5 2 (by decide)).trans <|
  (extLo x0 x1 0 2 (by decide)).trans <|
  (extAll x1)
theorem Enc.fmtWbar_18_5 (x0 : BitVec 7) (x1 : BitVec 2) (x2 : BitVec 5) (x3 : BitVec 15) (x4 : BitVec 3) : (Enc.fmtWbar x0 x1 x2 x3 x4).extractLsb' 18 5 = x2 :=
  (extHi (x0 ++ x1 ++ x2 ++ x3) x4 18 5 (by decide)).trans <|
  (extHi (x0 ++ x1 ++ x2) x3 15 5 (by decide)).trans <|
  (extLo (x0 ++ x1) x2 0 5 (by decide)).trans <|
  (extAll x2)
theorem Enc.fmtWbar_3_15 (x0 : BitVec 7) (x1 : BitVec 2) (x2 : BitVec 5) (x3 : BitVec 15) (x4 : BitVec 3) : (Enc.fmtWbar x0 x1 x2 x3 x4).extractLsb' 3 15 = x3 :=
  (extHi (x0 ++ x1 ++ x2 ++ x3) x4 3 15 (by decide)).trans <|
  (extLo (x0 ++ x1 ++ x2) x3 0 15 (by decide)).trans <|
  (extAll x3)
theorem Enc.fmtWbar_0_3 (x0 : BitVec 7) (x1 : BitVec 2) (x2 : BitVec 5) (x3 : BitVec 15) (x4 : BitVec 3) : (Enc.fmtWbar x0 x1 x2 x3 x4).extractLsb' 0 3 = x4 :=
  (extLo (x0 ++ x1 ++ x2 ++ x3) x4 0 3 (by decide)).trans <|
  (extAll x4)

theorem Enc.fmtTbar_25_7 (x0 : BitVec 7) (x1 : BitVec 2) (x2 : BitVec 5) (x3 : BitVec 8) (x4 : BitVec 2) (x5 : BitVec 8) : (Enc.fmtTbar x0 x1 x2 x3 x4 x5).extractLsb' 25 7 = x0 :=
  (extHi (x0 ++ x1 ++ x2 ++ x3 ++ x4) x5 25 7 (by decide)).trans <|
  (extHi (x0 ++ x1 ++ x2 ++ x3) x4 17 7 (by decide)).trans <|
  (extHi (x0 ++ x1 ++ x2) x3 15 7 (by decide)).trans <|
  (extHi (x0 ++ x1) x2 7 7 (by decide)).trans <|
  (extHi x0 x1 2 7 (by decide)).trans <|
  (extAll x0)
theorem Enc.fmtTbar_23_2 (x0 : BitVec 7) (x1 : BitVec 2) (x2 : BitVec 5) (x3 : BitVec 8) (x4 : BitVec 2) (x5 : BitVec 8) : (Enc.fmtTbar x0 x1 x2 x3 x4 x5).extractLsb' 23 2 = x1 :=
  (extHi (x0 ++ x1 ++ x2 ++ x3 ++ x4) x5 23 2 (by decide)).trans <|
  (extHi (x0 ++ x1 ++ x2 ++ x3) x4 15 2 (by decide)).trans <|
  (extHi (x0 ++ x1 ++ x2) x3 13 2 (by decide)).trans <|
  (extHi (x0 ++ x1) x2 5 2 (by decide)).trans <|
  (extLo x0 x1 0 2 (by decide)).trans <|
  (extAll x1)
theorem Enc.fmtTbar_18_5 (x0 : BitVec 7) (x1 : BitVec 2) (x2 : BitVec 5) (x3 : BitVec 8) (x4 : BitVec 2) (x5 : BitVec 8) : (Enc.fmtTbar x0 x1 x2 x3 x4 x5).extractLsb' 18 5 = x2 :=
  (extHi (x0 ++ x1 ++ x2 ++ x3 ++ x4) x5 18 5 (by decide)).trans <|
  (extHi (x0 ++ x1 ++ x2 ++ x3) x4 10 5 (by decide)).trans <|
  (extHi (x0 ++ x1 ++ x2) x3 8 5 (by decide)).trans <|
  (extLo (x0 ++ x1) x2 0 5 (by decide)).trans <|
  (extAll x2)
theorem Enc.fmtTbar_10_8 (x0 : BitVec 7) (x1 : BitVec 2) (x2 : BitVec 5) (x3 : BitVec 8) (x4 : BitVec 2) (x5 : BitVec 8) : (Enc.fmtTbar x0 x1 x2 x3 x4 x5).extractLsb' 10 8 = x3 :=
  (extHi (x0 ++ x1 ++ x2 ++ x3 ++ x4) x5 10 8 (by decide)).trans <|
  (extHi (x0 ++ x1 ++ x2 ++ x3) x4 2 8 (by decide)).trans <|
  (extLo (x0 ++ x1 ++ x2) x3 0 8 (by decide)).trans <|
  (extAll x3)
theorem Enc.fmtTbar_8_2 (x0 : BitVec 7) (x1 : BitVec 2) (x2 : BitVec 5) (x3 : BitVec 8) (x4 : BitVec 2) (x5 : BitVec 8) : (Enc.fmtTbar x0 x1 x2 x3 x4 x5).extractLsb' 8 2 = x4 :=
  (extHi (x0 ++ x1 ++ x2 ++ x3 ++ x4) x5 8 2 (by decide)).trans <|
  (extLo (x0 ++ x1 ++ x2 ++ x3) x4 0 2 (by decide)).trans <|
  (extAll x4)
theorem Enc.fmtTbar_0_8 (x0 : BitVec 7) (x1 : BitVec 2) (x2 : BitVec 5) (x3 : BitVec 8) (x4 : BitVec 2) (x5 : BitVec 8) : (Enc.fmtTbar x0 x1 x2 x3 x4 x5).extractLsb' 0 8 = x5 :=
  (extLo (x0 ++ x1 ++ x2 ++ x3 ++ x4) x5 0 8 (by decide)).trans <|
  (extAll x5)

theorem Enc.fmtNwrite_25_7 (x0 : BitVec 7) (x1 : BitVec 2) (x2 : BitVec 5) (x3 : BitVec 17) (x4 : BitVec 1) : (Enc.fmtNwrite x0 x1 x2 x3 x4).extractLsb' 25 7 = x0 :=
  (extHi (x0 ++ x1 ++ x2 ++ x3) x4 25 7 (by decide)).trans <|
  (extHi (x0 ++ x1 ++ x2) x3 24 7 (by decide)).trans <|
  (extHi (x0 ++ x1) x2 7 7 (by decide)).trans <|
  (extHi x0 x1 2 7 (by decide)).trans <|
  (extAll x0)
theorem Enc.fmtNwrite_23_2 (x0 : BitVec 7) (x1 : BitVec 2) (x2 : BitVec 5) (x3 : BitVec 17) (x4 : BitVec 1) : (Enc.fmtNwrite x0 x1 x2 x3 x4).extractLsb' 23 2 = x1 :=
  (extHi (x0 ++ x1 ++ x2 ++ x3) x4 23 2 (by decide)).trans <|
  (extHi (x0 ++ x1 ++ x2) x3 22 2 (by decide)).trans <|
  (extHi (x0 ++ x1) x2 5 2 (by decide)).trans <|
  (extLo x0 x1 0 2 (by decide)).trans <|
  (extAll x1)
theorem Enc.fmtNwrite_18_5 (x0 : BitVec 7) (x1 : BitVec 2) (x2 : BitVec 5) (x3 : BitVec 17) (x4 : BitVec 1) : (Enc.fmtNwrite x0 x1 x2 x3 x4).extractLsb' 18 5 = x2 :=
  (extHi (x0 ++ x1 ++ x2 ++ x3) x4 18 5 (by decide)).trans <|
  (extHi (x0 ++ x1 ++ x2) x3 17 5 (by decide)).trans <|
  (extLo (x0 ++ x1) x2 0 5 (by decide)).trans <|
  (extAll x2)
theorem Enc.fmtNwrite_1_17 (x0 : BitVec 7) (x1 : BitVec 2) (x2 : BitVec 5) (x3 : BitVec 17) (x4 : BitVec 1) : (Enc.fmtNwrite x0 x1 x2 x3 x4).extractLsb' 1 17 = x3 :=
  (extHi (x0 ++ x1 ++ x2 ++ x3) x4 1 17 (by decide)).trans <|
  (extLo (x0 ++ x1 ++ x2) x3 0 17 (by decide)).trans <|
  (extAll x3)
theorem Enc.fmtNwrite_0_1 (x0 : BitVec 7) (x1 : BitVec 2) (x2 : BitVec 5) (x3 : BitVec 17) (x4 : BitVec 1) : (Enc.fmtNwrite x0 x1 x2 x3 x4).extractLsb' 0 1 = x4 :=
  (extLo (x0 ++ x1 ++ x2 ++ x3) x4 0 1 (by decide)).trans <|
  (extAll x4)

theorem Enc.fmtQwait_25_7 (x0 : BitVec 7) (x1 : BitVec 2) (x2 : BitVec 2) (x3 : BitVec 6) (x4 : BitVec 6) (x5 : BitVec 9) : (Enc.fmtQwait x0 x1 x2 x3 x4 x5).extractLsb' 25 7 = x0 :=
  (extHi (x0 ++ x1 ++ x2 ++ x3 ++ x4) x5 25 7 (by decide)).trans <|
  (extHi (x0 ++ x1 ++ x2 ++ x3) x4 16 7 (by decide)).trans <|
  (extHi (x0 ++ x1 ++ x2) x3 10 7 (by decide)).trans <|
  (extHi (x0 ++ x1) x2 4 7 (by decide)).trans <|
  (extHi x0 x1 2 7 (by decide)).trans <|
  (extAll x0)
theorem Enc.fmtQwait_23_2 (x0 : BitVec 7) (x1 : BitVec 2) (x2 : BitVec 2) (x3 : BitVec 6) (x4 : BitVec 6) (x5 : BitVec 9) : (Enc.fmtQwait x0 x1 x2 x3 x4 x5).extractLsb' 23 2 = x1 :=
  (extHi (x0 ++ x1 ++ x2 ++ x3 ++ x4) x5 23 2 (by decide)).trans <|
  (extHi (x0 ++ x1 ++ x2 ++ x3) x4 14 2 (by decide)).trans <|
  (extHi (x0 ++ x1 ++ x2) x3 8 2 (by decide)).trans <|
  (extHi (x0 ++ x1) x2 2 2 (by decide)).trans <|
  (extLo x0 x1 0 2 (by decide)).trans <|
  (extAll x1)
theorem Enc.fmtQwait_21_2 (x0 : BitVec 7) (x1 : BitVec 2) (x2 : BitVec 2) (x3 : BitVec 6) (x4 : BitVec 6) (x5 : BitVec 9) : (Enc.fmtQwait x0 x1 x2 x3 x4 x5).extractLsb' 21 2 = x2 :=
  (extHi (x0 ++ x1 ++ x2 ++ x3 ++ x4) x5 21 2 (by decide)).trans <|
  (extHi (x0 ++ x1 ++ x2 ++ x3) x4 12 2 (by decide)).trans <|
  (extHi (x0 ++ x1 ++ x2) x3 6 2 (by decide)).trans <|
  (extLo (x0 ++ x1) x2 0 2 (by decide)).trans <|
  (extAll x2)
theorem Enc.fmtQwait_15_6 (x0 : BitVec 7) (x1 : BitVec 2) (x2 : BitVec 2) (x3 : BitVec 6) (x4 : BitVec 6) (x5 : BitVec 9) : (Enc.fmtQwait x0 x1 x2 x3 x4 x5).extractLsb' 15 6 = x3 :=
  (extHi (x0 ++ x1 ++ x2 ++ x3 ++ x4) x5 15 6 (by decide)).trans <|
  (extHi (x0 ++ x1 ++ x2 ++ x3) x4 6 6 (by decide)).trans <|
  (extLo (x0 ++ x1 ++ x2) x3 0 6 (by decide)).trans <|
  (extAll x3)
theorem Enc.fmtQwait_9_6 (x0 : BitVec 7) (x1 : BitVec 2) (x2 : BitVec 2) (x3 : BitVec 6) (x4 : BitVec 6) (x5 : BitVec 9) : (Enc.fmtQwait x0 x1 x2 x3 x4 x5).extractLsb' 9 6 = x4 :=
  (extHi (x0 ++ x1 ++ x2 ++ x3 ++ x4) x5 9 6 (by decide)).trans <|
  (extLo (x0 ++ x1 ++ x2 ++ x3) x4 0 6 (by decide)).trans <|
  (extAll x4)
theorem Enc.fmtQwait_0_9 (x0 : BitVec 7) (x1 : BitVec 2) (x2 : BitVec 2) (x3 : BitVec 6) (x4 : BitVec 6) (x5 : BitVec 9) : (Enc.fmtQwait x0 x1 x2 x3 x4 x5).extractLsb' 0 9 = x5 :=
  (extLo (x0 ++ x1 ++ x2 ++ x3 ++ x4) x5 0 9 (by decide)).trans <|
  (extAll x5)

theorem Enc.fmtSseek_25_7 (x0 : BitVec 7) (x1 : BitVec 2) (x2 : BitVec 6) (x3 : BitVec 8) (x4 : BitVec 9) : (Enc.fmtSseek x0 x1 x2 x3 x4).extractLsb' 25 7 = x0 :=
  (extHi (x0 ++ x1 ++ x2 ++ x3) x4 25 7 (by decide)).trans <|
  (extHi (x0 ++ x1 ++ x2) x3 16 7 (by decide)).trans <|
  (extHi (x0 ++ x1) x2 8 7 (by decide)).trans <|
  (extHi x0 x1 2 7 (by decide)).trans <|
  (extAll x0)
theorem Enc.fmtSseek_23_2 (x0 : BitVec 7) (x1 : BitVec 2) (x2 : BitVec 6) (x3 : BitVec 8) (x4 : BitVec 9) : (Enc.fmtSseek x0 x1 x2 x3 x4).extractLsb' 23 2 = x1 :=
  (extHi (x0 ++ x1 ++ x2 ++ x3) x4 23 2 (by decide)).trans <|
  (extHi (x0 ++ x1 ++ x2) x3 14 2 (by decide)).trans <|
  (extHi (x0 ++ x1) x2 6 2 (by decide)).trans <|
  (extLo x0 x1 0 2 (by decide)).trans <|
  (extAll x1)
theorem Enc.fmtSseek_17_6 (x0 : BitVec 7) (x1 : BitVec 2) (x2 : BitVec 6) (x3 : BitVec 8) (x4 : BitVec 9) : (Enc.fmtSseek x0 x1 x2 x3 x4).extractLsb' 17 6 = x2 :=
  (extHi (x0 ++ x1 ++ x2 ++ x3) x4 17 6 (by decide)).trans <|
  (extHi (x0 ++ x1 ++ x2) x3 8 6 (by decide)).trans <|
  (extLo (x0 ++ x1) x2 0 6 (by decide)).trans <|
  (extAll x2)
theorem Enc.fmtSseek_9_8 (x0 : BitVec 7) (x1 : BitVec 2) (x2 : BitVec 6) (x3 : BitVec 8) (x4 : BitVec 9) : (Enc.fmtSseek x0 x1 x2 x3 x4).extractLsb' 9 8 = x3 :=
  (extHi (x0 ++ x1 ++ x2 ++ x3) x4 9 8 (by decide)).trans <|
  (extLo (x0 ++ x1 ++ x2) x3 0 8 (by decide)).trans <|
  (extAll x3)
theorem Enc.fmtSseek_0_9 (x0 : BitVec 7) (x1 : BitVec 2) (x2 : BitVec 6) (x3 : BitVec 8) (x4 : BitVec 9) : (Enc.fmtSseek x0 x1 x2 x3 x4).extractLsb' 0 9 = x4 :=
  (extLo (x0 ++ x1 ++ x2 ++ x3) x4 0 9 (by decide)).trans <|
  (extAll x4)

theorem Enc.fmtShand_25_7 (x0 : BitVec 7) (x1 : BitVec 2) (x2 : BitVec 10) (x3 : BitVec 4) (x4 : BitVec 9) : (Enc.fmtShand x0 x1 x2 x3 x4).extractLsb' 25 7 = x0 :=
  (extHi (x0 ++ x1 ++ x2 ++ x3) x4 25 7 (by decide)).trans <|
  (extHi (x0 ++ x1 ++ x2) x3 16 7 (by decide)).trans <|
  (extHi (x0 ++ x1) x2 12 7 (by decide)).trans <|
  (extHi x0 x1 2 7 (by decide)).trans <|
  (extAll x0)
theorem Enc.fmtShand_23_2 (x0 : BitVec 7) (x1 : BitVec 2) (x2 : BitVec 10) (x3 : BitVec 4) (x4 : BitVec 9) : (Enc.fmtShand x0 x1 x2 x3 x4).extractLsb' 23 2 = x1 :=
  (extHi (x0 ++ x1 ++ x2 ++ x3) x4 23 2 (by decide)).trans <|
  (extHi (x0 ++ x1 ++ x2) x3 14 2 (by decide)).trans <|
  (extHi (x0 ++ x1) x2 10 2 (by decide)).trans <|
  (extLo x0 x1 0 2 (by decide)).trans <|
  (extAll x1)
theorem Enc.fmtShand_13_10 (x0 : BitVec 7) (x1 : BitVec 2) (x2 : BitVec 10) (x3 : BitVec 4) (x4 : BitVec 9) : (Enc.fmtShand x0 x1 x2 x3 x4).extractLsb' 13 10 = x2 :=
  (extHi (x0 ++ x1 ++ x2 ++ x3) x4 13 10 (by decide)).trans <|
  (extHi (x0 ++ x1 ++ x2) x3 4 10 (by decide)).trans <|
  (extLo (x0 ++ x1) x2 0 10 (by decide)).trans <|
  (extAll x2)
theorem Enc.fmtShand_9_4 (x0 : BitVec 7) (x1 : BitVec 2) (x2 : BitVec 10) (x3 : BitVec 4) (x4 : BitVec 9) : (Enc.fmtShand x0 x1 x2 x3 x4).extractLsb' 9 4 = x3 :=
  (extHi (x0 ++ x1 ++ x2 ++ x3) x4 9 4 (by decide)).trans <|
  (extLo (x0 ++ x1 ++ x2) x3 0 4 (by decide)).trans <|
  (extAll x3)
theorem Enc.fmtShand_0_9 (x0 : BitVec 7) (x1 : BitVec 2) (x2 : BitVec 10) (x3 : BitVec 4) (x4 : BitVec 9) : (Enc.fmtShand x0 x1 x2 x3 x4).extractLsb' 0 9 = x4 :=
  (extLo (x0 ++ x1 ++ x2 ++ x3) x4 0 9 (by decide)).trans <|
  (extAll x4)

theorem Enc.fmtCfgld_25_7 (x0 : BitVec 7) (x1 : BitVec 2) (x2 : BitVec 12) (x3 : BitVec 2) (x4 : BitVec 9) : (Enc.fmtCfgld x0 x1 x2 x3 x4).extractLsb' 25 7 = x0 :=
  (extHi (x0 ++ x1 ++ x2 ++ x3) x4 25 7 (by decide)).trans <|
  (extHi (x0 ++ x1 ++ x2) x3 16 7 (by decide)).trans <|
  (extHi (x0 ++ x1) x2 14 7 (by decide)).trans <|
  (extHi x0 x1 2 7 (by decide)).trans <|
  (extAll x0)
theorem Enc.fmtCfgld_23_2 (x0 : BitVec 7) (x1 : BitVec 2) (x2 : BitVec 12) (x3 : BitVec 2) (x4 : BitVec 9) : (Enc.fmtCfgld x0 x1 x2 x3 x4).extractLsb' 23 2 = x1 :=
  (extHi (x0 ++ x1 ++ x2 ++ x3) x4 23 2 (by decide)).trans <|
  (extHi (x0 ++ x1 ++ x2) x3 14 2 (by decide)).trans <|
  (extHi (x0 ++ x1) x2 12 2 (by decide)).trans <|
  (extLo x0 x1 0 2 (by decide)).trans <|
  (extAll x1)
theorem Enc.fmtCfgld_11_12 (x0 : BitVec 7) (x1 : BitVec 2) (x2 : BitVec 12) (x3 : BitVec 2) (x4 : BitVec 9) : (Enc.fmtCfgld x0 x1 x2 x3 x4).extractLsb' 11 12 = x2 :=
  (extHi (x0 ++ x1 ++ x2 ++ x3) x4 11 12 (by decide)).trans <|
  (extHi (x0 ++ x1 ++ x2) x3 2 12 (by decide)).trans <|
  (extLo (x0 ++ x1) x2 0 12 (by decide)).trans <|
  (extAll x2)
theorem Enc.fmtCfgld_9_2 (x0 : BitVec 7) (x1 : BitVec 2) (x2 : BitVec 12) (x3 : BitVec 2) (x4 : BitVec 9) : (Enc.fmtCfgld x0 x1 x2 x3 x4).extractLsb' 9 2 = x3 :=
  (extHi (x0 ++ x1 ++ x2 ++ x3) x4 9 2 (by decide)).trans <|
  (extLo (x0 ++ x1 ++ x2) x3 0 2 (by decide)).trans <|
  (extAll x3)
theorem Enc.fmtCfgld_0_9 (x0 : BitVec 7) (x1 : BitVec 2) (x2 : BitVec 12) (x3 : BitVec 2) (x4 : BitVec 9) : (Enc.fmtCfgld x0 x1 x2 x3 x4).extractLsb' 0 9 = x4 :=
  (extLo (x0 ++ x1 ++ x2 ++ x3) x4 0 9 (by decide)).trans <|
  (extAll x4)

theorem Enc.fmtRstat_25_7 (x0 : BitVec 7) (x1 : BitVec 2) (x2 : BitVec 6) (x3 : BitVec 8) (x4 : BitVec 9) : (Enc.fmtRstat x0 x1 x2 x3 x4).extractLsb' 25 7 = x0 :=
  (extHi (x0 ++ x1 ++ x2 ++ x3) x4 25 7 (by decide)).trans <|
  (extHi (x0 ++ x1 ++ x2) x3 16 7 (by decide)).trans <|
  (extHi (x0 ++ x1) x2 8 7 (by decide)).trans <|
  (extHi x0 x1 2 7 (by decide)).trans <|
  (extAll x0)
theorem Enc.fmtRstat_23_2 (x0 : BitVec 7) (x1 : BitVec 2) (x2 : BitVec 6) (x3 : BitVec 8) (x4 : BitVec 9) : (Enc.fmtRstat x0 x1 x2 x3 x4).extractLsb' 23 2 = x1 :=
  (extHi (x0 ++ x1 ++ x2 ++ x3) x4 23 2 (by decide)).trans <|
  (extHi (x0 ++ x1 ++ x2) x3 14 2 (by decide)).trans <|
  (extHi (x0 ++ x1) x2 6 2 (by decide)).trans <|
  (extLo x0 x1 0 2 (by decide)).trans <|
  (extAll x1)
theorem Enc.fmtRstat_17_6 (x0 : BitVec 7) (x1 : BitVec 2) (x2 : BitVec 6) (x3 : BitVec 8) (x4 : BitVec 9) : (Enc.fmtRstat x0 x1 x2 x3 x4).extractLsb' 17 6 = x2 :=
  (extHi (x0 ++ x1 ++ x2 ++ x3) x4 17 6 (by decide)).trans <|
  (extHi (x0 ++ x1 ++ x2) x3 8 6 (by decide)).trans <|
  (extLo (x0 ++ x1) x2 0 6 (by decide)).trans <|
  (extAll x2)
theorem Enc.fmtRstat_9_8 (x0 : BitVec 7) (x1 : BitVec 2) (x2 : BitVec 6) (x3 : BitVec 8) (x4 : BitVec 9) : (Enc.fmtRstat x0 x1 x2 x3 x4).extractLsb' 9 8 = x3 :=
  (extHi (x0 ++ x1 ++ x2 ++ x3) x4 9 8 (by decide)).trans <|
  (extLo (x0 ++ x1 ++ x2) x3 0 8 (by decide)).trans <|
  (extAll x3)
theorem Enc.fmtRstat_0_9 (x0 : BitVec 7) (x1 : BitVec 2) (x2 : BitVec 6) (x3 : BitVec 8) (x4 : BitVec 9) : (Enc.fmtRstat x0 x1 x2 x3 x4).extractLsb' 0 9 = x4 :=
  (extLo (x0 ++ x1 ++ x2 ++ x3) x4 0 9 (by decide)).trans <|
  (extAll x4)

theorem Enc.fmtBankm_25_7 (x0 : BitVec 7) (x1 : BitVec 2) (x2 : BitVec 5) (x3 : BitVec 4) (x4 : BitVec 5) (x5 : BitVec 9) : (Enc.fmtBankm x0 x1 x2 x3 x4 x5).extractLsb' 25 7 = x0 :=
  (extHi (x0 ++ x1 ++ x2 ++ x3 ++ x4) x5 25 7 (by decide)).trans <|
  (extHi (x0 ++ x1 ++ x2 ++ x3) x4 16 7 (by decide)).trans <|
  (extHi (x0 ++ x1 ++ x2) x3 11 7 (by decide)).trans <|
  (extHi (x0 ++ x1) x2 7 7 (by decide)).trans <|
  (extHi x0 x1 2 7 (by decide)).trans <|
  (extAll x0)
theorem Enc.fmtBankm_23_2 (x0 : BitVec 7) (x1 : BitVec 2) (x2 : BitVec 5) (x3 : BitVec 4) (x4 : BitVec 5) (x5 : BitVec 9) : (Enc.fmtBankm x0 x1 x2 x3 x4 x5).extractLsb' 23 2 = x1 :=
  (extHi (x0 ++ x1 ++ x2 ++ x3 ++ x4) x5 23 2 (by decide)).trans <|
  (extHi (x0 ++ x1 ++ x2 ++ x3) x4 14 2 (by decide)).trans <|
  (extHi (x0 ++ x1 ++ x2) x3 9 2 (by decide)).trans <|
  (extHi (x0 ++ x1) x2 5 2 (by decide)).trans <|
  (extLo x0 x1 0 2 (by decide)).trans <|
  (extAll x1)
theorem Enc.fmtBankm_18_5 (x0 : BitVec 7) (x1 : BitVec 2) (x2 : BitVec 5) (x3 : BitVec 4) (x4 : BitVec 5) (x5 : BitVec 9) : (Enc.fmtBankm x0 x1 x2 x3 x4 x5).extractLsb' 18 5 = x2 :=
  (extHi (x0 ++ x1 ++ x2 ++ x3 ++ x4) x5 18 5 (by decide)).trans <|
  (extHi (x0 ++ x1 ++ x2 ++ x3) x4 9 5 (by decide)).trans <|
  (extHi (x0 ++ x1 ++ x2) x3 4 5 (by decide)).trans <|
  (extLo (x0 ++ x1) x2 0 5 (by decide)).trans <|
  (extAll x2)
theorem Enc.fmtBankm_14_4 (x0 : BitVec 7) (x1 : BitVec 2) (x2 : BitVec 5) (x3 : BitVec 4) (x4 : BitVec 5) (x5 : BitVec 9) : (Enc.fmtBankm x0 x1 x2 x3 x4 x5).extractLsb' 14 4 = x3 :=
  (extHi (x0 ++ x1 ++ x2 ++ x3 ++ x4) x5 14 4 (by decide)).trans <|
  (extHi (x0 ++ x1 ++ x2 ++ x3) x4 5 4 (by decide)).trans <|
  (extLo (x0 ++ x1 ++ x2) x3 0 4 (by decide)).trans <|
  (extAll x3)
theorem Enc.fmtBankm_9_5 (x0 : BitVec 7) (x1 : BitVec 2) (x2 : BitVec 5) (x3 : BitVec 4) (x4 : BitVec 5) (x5 : BitVec 9) : (Enc.fmtBankm x0 x1 x2 x3 x4 x5).extractLsb' 9 5 = x4 :=
  (extHi (x0 ++ x1 ++ x2 ++ x3 ++ x4) x5 9 5 (by decide)).trans <|
  (extLo (x0 ++ x1 ++ x2 ++ x3) x4 0 5 (by decide)).trans <|
  (extAll x4)
theorem Enc.fmtBankm_0_9 (x0 : BitVec 7) (x1 : BitVec 2) (x2 : BitVec 5) (x3 : BitVec 4) (x4 : BitVec 5) (x5 : BitVec 9) : (Enc.fmtBankm x0 x1 x2 x3 x4 x5).extractLsb' 0 9 = x5 :=
  (extLo (x0 ++ x1 ++ x2 ++ x3 ++ x4) x5 0 9 (by decide)).trans <|
  (extAll x5)

theorem Enc.fmtTtq_25_7 (x0 : BitVec 7) (x1 : BitVec 2) (x2 : BitVec 5) (x3 : BitVec 1) (x4 : BitVec 8) (x5 : BitVec 9) : (Enc.fmtTtq x0 x1 x2 x3 x4 x5).extractLsb' 25 7 = x0 :=
  (extHi (x0 ++ x1 ++ x2 ++ x3 ++ x4) x5 25 7 (by decide)).trans <|
  (extHi (x0 ++ x1 ++ x2 ++ x3) x4 16 7 (by decide)).trans <|
  (extHi (x0 ++ x1 ++ x2) x3 8 7 (by decide)).trans <|
  (extHi (x0 ++ x1) x2 7 7 (by decide)).trans <|
  (extHi x0 x1 2 7 (by decide)).trans <|
  (extAll x0)
theorem Enc.fmtTtq_23_2 (x0 : BitVec 7) (x1 : BitVec 2) (x2 : BitVec 5) (x3 : BitVec 1) (x4 : BitVec 8) (x5 : BitVec 9) : (Enc.fmtTtq x0 x1 x2 x3 x4 x5).extractLsb' 23 2 = x1 :=
  (extHi (x0 ++ x1 ++ x2 ++ x3 ++ x4) x5 23 2 (by decide)).trans <|
  (extHi (x0 ++ x1 ++ x2 ++ x3) x4 14 2 (by decide)).trans <|
  (extHi (x0 ++ x1 ++ x2) x3 6 2 (by decide)).trans <|
  (extHi (x0 ++ x1) x2 5 2 (by decide)).trans <|
  (extLo x0 x1 0 2 (by decide)).trans <|
  (extAll x1)
theorem Enc.fmtTtq_18_5 (x0 : BitVec 7) (x1 : BitVec 2) (x2 : BitVec 5) (x3 : BitVec 1) (x4 : BitVec 8) (x5 : BitVec 9) : (Enc.fmtTtq x0 x1 x2 x3 x4 x5).extractLsb' 18 5 = x2 :=
  (extHi (x0 ++ x1 ++ x2 ++ x3 ++ x4) x5 18 5 (by decide)).trans <|
  (extHi (x0 ++ x1 ++ x2 ++ x3) x4 9 5 (by decide)).trans <|
  (extHi (x0 ++ x1 ++ x2) x3 1 5 (by decide)).trans <|
  (extLo (x0 ++ x1) x2 0 5 (by decide)).trans <|
  (extAll x2)
theorem Enc.fmtTtq_17_1 (x0 : BitVec 7) (x1 : BitVec 2) (x2 : BitVec 5) (x3 : BitVec 1) (x4 : BitVec 8) (x5 : BitVec 9) : (Enc.fmtTtq x0 x1 x2 x3 x4 x5).extractLsb' 17 1 = x3 :=
  (extHi (x0 ++ x1 ++ x2 ++ x3 ++ x4) x5 17 1 (by decide)).trans <|
  (extHi (x0 ++ x1 ++ x2 ++ x3) x4 8 1 (by decide)).trans <|
  (extLo (x0 ++ x1 ++ x2) x3 0 1 (by decide)).trans <|
  (extAll x3)
theorem Enc.fmtTtq_9_8 (x0 : BitVec 7) (x1 : BitVec 2) (x2 : BitVec 5) (x3 : BitVec 1) (x4 : BitVec 8) (x5 : BitVec 9) : (Enc.fmtTtq x0 x1 x2 x3 x4 x5).extractLsb' 9 8 = x4 :=
  (extHi (x0 ++ x1 ++ x2 ++ x3 ++ x4) x5 9 8 (by decide)).trans <|
  (extLo (x0 ++ x1 ++ x2 ++ x3) x4 0 8 (by decide)).trans <|
  (extAll x4)
theorem Enc.fmtTtq_0_9 (x0 : BitVec 7) (x1 : BitVec 2) (x2 : BitVec 5) (x3 : BitVec 1) (x4 : BitVec 8) (x5 : BitVec 9) : (Enc.fmtTtq x0 x1 x2 x3 x4 x5).extractLsb' 0 9 = x5 :=
  (extLo (x0 ++ x1 ++ x2 ++ x3 ++ x4) x5 0 9 (by decide)).trans <|
  (extAll x5)

theorem Enc.fmtAcscope_25_7 (x0 : BitVec 7) (x1 : BitVec 2) (x2 : BitVec 5) (x3 : BitVec 9) (x4 : BitVec 4) (x5 : BitVec 5) : (Enc.fmtAcscope x0 x1 x2 x3 x4 x5).extractLsb' 25 7 = x0 :=
  (extHi (x0 ++ x1 ++ x2 ++ x3 ++ x4) x5 25 7 (by decide)).trans <|
  (extHi (x0 ++ x1 ++ x2 ++ x3) x4 20 7 (by decide)).trans <|
  (extHi (x0 ++ x1 ++ x2) x3 16 7 (by decide)).trans <|
  (extHi (x0 ++ x1) x2 7 7 (by decide)).trans <|
  (extHi x0 x1 2 7 (by decide)).trans <|
  (extAll x0)
theorem Enc.fmtAcscope_23_2 (x0 : BitVec 7) (x1 : BitVec 2) (x2 : BitVec 5) (x3 : BitVec 9) (x4 : BitVec 4) (x5 : BitVec 5) : (Enc.fmtAcscope x0 x1 x2 x3 x4 x5).extractLsb' 23 2 = x1 :=
  (extHi (x0 ++ x1 ++ x2 ++ x3 ++ x4) x5 23 2 (by decide)).trans <|
  (extHi (x0 ++ x1 ++ x2 ++ x3) x4 18 2 (by decide)).trans <|
  (extHi (x0 ++ x1 ++ x2) x3 14 2 (by decide)).trans <|
  (extHi (x0 ++ x1) x2 5 2 (by decide)).trans <|
  (extLo x0 x1 0 2 (by decide)).trans <|
  (extAll x1)
theorem Enc.fmtAcscope_18_5 (x0 : BitVec 7) (x1 : BitVec 2) (x2 : BitVec 5) (x3 : BitVec 9) (x4 : BitVec 4) (x5 : BitVec 5) : (Enc.fmtAcscope x0 x1 x2 x3 x4 x5).extractLsb' 18 5 = x2 :=
  (extHi (x0 ++ x1 ++ x2 ++ x3 ++ x4) x5 18 5 (by decide)).trans <|
  (extHi (x0 ++ x1 ++ x2 ++ x3) x4 13 5 (by decide)).trans <|
  (extHi (x0 ++ x1 ++ x2) x3 9 5 (by decide)).trans <|
  (extLo (x0 ++ x1) x2 0 5 (by decide)).trans <|
  (extAll x2)
theorem Enc.fmtAcscope_9_9 (x0 : BitVec 7) (x1 : BitVec 2) (x2 : BitVec 5) (x3 : BitVec 9) (x4 : BitVec 4) (x5 : BitVec 5) : (Enc.fmtAcscope x0 x1 x2 x3 x4 x5).extractLsb' 9 9 = x3 :=
  (extHi (x0 ++ x1 ++ x2 ++ x3 ++ x4) x5 9 9 (by decide)).trans <|
  (extHi (x0 ++ x1 ++ x2 ++ x3) x4 4 9 (by decide)).trans <|
  (extLo (x0 ++ x1 ++ x2) x3 0 9 (by decide)).trans <|
  (extAll x3)
theorem Enc.fmtAcscope_5_4 (x0 : BitVec 7) (x1 : BitVec 2) (x2 : BitVec 5) (x3 : BitVec 9) (x4 : BitVec 4) (x5 : BitVec 5) : (Enc.fmtAcscope x0 x1 x2 x3 x4 x5).extractLsb' 5 4 = x4 :=
  (extHi (x0 ++ x1 ++ x2 ++ x3 ++ x4) x5 5 4 (by decide)).trans <|
  (extLo (x0 ++ x1 ++ x2 ++ x3) x4 0 4 (by decide)).trans <|
  (extAll x4)
theorem Enc.fmtAcscope_0_5 (x0 : BitVec 7) (x1 : BitVec 2) (x2 : BitVec 5) (x3 : BitVec 9) (x4 : BitVec 4) (x5 : BitVec 5) : (Enc.fmtAcscope x0 x1 x2 x3 x4 x5).extractLsb' 0 5 = x5 :=
  (extLo (x0 ++ x1 ++ x2 ++ x3 ++ x4) x5 0 5 (by decide)).trans <|
  (extAll x5)

theorem Enc.fmtBr_25_7 (x0 : BitVec 7) (x1 : BitVec 2) (x2 : BitVec 3) (x3 : BitVec 20) : (Enc.fmtBr x0 x1 x2 x3).extractLsb' 25 7 = x0 :=
  (extHi (x0 ++ x1 ++ x2) x3 25 7 (by decide)).trans <|
  (extHi (x0 ++ x1) x2 5 7 (by decide)).trans <|
  (extHi x0 x1 2 7 (by decide)).trans <|
  (extAll x0)
theorem Enc.fmtBr_23_2 (x0 : BitVec 7) (x1 : BitVec 2) (x2 : BitVec 3) (x3 : BitVec 20) : (Enc.fmtBr x0 x1 x2 x3).extractLsb' 23 2 = x1 :=
  (extHi (x0 ++ x1 ++ x2) x3 23 2 (by decide)).trans <|
  (extHi (x0 ++ x1) x2 3 2 (by decide)).trans <|
  (extLo x0 x1 0 2 (by decide)).trans <|
  (extAll x1)
theorem Enc.fmtBr_20_3 (x0 : BitVec 7) (x1 : BitVec 2) (x2 : BitVec 3) (x3 : BitVec 20) : (Enc.fmtBr x0 x1 x2 x3).extractLsb' 20 3 = x2 :=
  (extHi (x0 ++ x1 ++ x2) x3 20 3 (by decide)).trans <|
  (extLo (x0 ++ x1) x2 0 3 (by decide)).trans <|
  (extAll x2)
theorem Enc.fmtBr_0_20 (x0 : BitVec 7) (x1 : BitVec 2) (x2 : BitVec 3) (x3 : BitVec 20) : (Enc.fmtBr x0 x1 x2 x3).extractLsb' 0 20 = x3 :=
  (extLo (x0 ++ x1 ++ x2) x3 0 20 (by decide)).trans <|
  (extAll x3)

theorem Enc.fmtBrt_25_7 (x0 : BitVec 7) (x1 : BitVec 2) (x2 : BitVec 3) (x3 : BitVec 20) : (Enc.fmtBrt x0 x1 x2 x3).extractLsb' 25 7 = x0 :=
  (extHi (x0 ++ x1 ++ x2) x3 25 7 (by decide)).trans <|
  (extHi (x0 ++ x1) x2 5 7 (by decide)).trans <|
  (extHi x0 x1 2 7 (by decide)).trans <|
  (extAll x0)
theorem Enc.fmtBrt_23_2 (x0 : BitVec 7) (x1 : BitVec 2) (x2 : BitVec 3) (x3 : BitVec 20) : (Enc.fmtBrt x0 x1 x2 x3).extractLsb' 23 2 = x1 :=
  (extHi (x0 ++ x1 ++ x2) x3 23 2 (by decide)).trans <|
  (extHi (x0 ++ x1) x2 3 2 (by decide)).trans <|
  (extLo x0 x1 0 2 (by decide)).trans <|
  (extAll x1)
theorem Enc.fmtBrt_20_3 (x0 : BitVec 7) (x1 : BitVec 2) (x2 : BitVec 3) (x3 : BitVec 20) : (Enc.fmtBrt x0 x1 x2 x3).extractLsb' 20 3 = x2 :=
  (extHi (x0 ++ x1 ++ x2) x3 20 3 (by decide)).trans <|
  (extLo (x0 ++ x1) x2 0 3 (by decide)).trans <|
  (extAll x2)
theorem Enc.fmtBrt_0_20 (x0 : BitVec 7) (x1 : BitVec 2) (x2 : BitVec 3) (x3 : BitVec 20) : (Enc.fmtBrt x0 x1 x2 x3).extractLsb' 0 20 = x3 :=
  (extLo (x0 ++ x1 ++ x2) x3 0 20 (by decide)).trans <|
  (extAll x3)

theorem Enc.fmtRet_25_7 (x0 : BitVec 7) (x1 : BitVec 2) (x2 : BitVec 2) (x3 : BitVec 3) (x4 : BitVec 18) : (Enc.fmtRet x0 x1 x2 x3 x4).extractLsb' 25 7 = x0 :=
  (extHi (x0 ++ x1 ++ x2 ++ x3) x4 25 7 (by decide)).trans <|
  (extHi (x0 ++ x1 ++ x2) x3 7 7 (by decide)).trans <|
  (extHi (x0 ++ x1) x2 4 7 (by decide)).trans <|
  (extHi x0 x1 2 7 (by decide)).trans <|
  (extAll x0)
theorem Enc.fmtRet_23_2 (x0 : BitVec 7) (x1 : BitVec 2) (x2 : BitVec 2) (x3 : BitVec 3) (x4 : BitVec 18) : (Enc.fmtRet x0 x1 x2 x3 x4).extractLsb' 23 2 = x1 :=
  (extHi (x0 ++ x1 ++ x2 ++ x3) x4 23 2 (by decide)).trans <|
  (extHi (x0 ++ x1 ++ x2) x3 5 2 (by decide)).trans <|
  (extHi (x0 ++ x1) x2 2 2 (by decide)).trans <|
  (extLo x0 x1 0 2 (by decide)).trans <|
  (extAll x1)
theorem Enc.fmtRet_21_2 (x0 : BitVec 7) (x1 : BitVec 2) (x2 : BitVec 2) (x3 : BitVec 3) (x4 : BitVec 18) : (Enc.fmtRet x0 x1 x2 x3 x4).extractLsb' 21 2 = x2 :=
  (extHi (x0 ++ x1 ++ x2 ++ x3) x4 21 2 (by decide)).trans <|
  (extHi (x0 ++ x1 ++ x2) x3 3 2 (by decide)).trans <|
  (extLo (x0 ++ x1) x2 0 2 (by decide)).trans <|
  (extAll x2)
theorem Enc.fmtRet_18_3 (x0 : BitVec 7) (x1 : BitVec 2) (x2 : BitVec 2) (x3 : BitVec 3) (x4 : BitVec 18) : (Enc.fmtRet x0 x1 x2 x3 x4).extractLsb' 18 3 = x3 :=
  (extHi (x0 ++ x1 ++ x2 ++ x3) x4 18 3 (by decide)).trans <|
  (extLo (x0 ++ x1 ++ x2) x3 0 3 (by decide)).trans <|
  (extAll x3)
theorem Enc.fmtRet_0_18 (x0 : BitVec 7) (x1 : BitVec 2) (x2 : BitVec 2) (x3 : BitVec 3) (x4 : BitVec 18) : (Enc.fmtRet x0 x1 x2 x3 x4).extractLsb' 0 18 = x4 :=
  (extLo (x0 ++ x1 ++ x2 ++ x3) x4 0 18 (by decide)).trans <|
  (extAll x4)

theorem Enc.fmtTrap_25_7 (x0 : BitVec 7) (x1 : BitVec 2) (x2 : BitVec 5) (x3 : BitVec 18) : (Enc.fmtTrap x0 x1 x2 x3).extractLsb' 25 7 = x0 :=
  (extHi (x0 ++ x1 ++ x2) x3 25 7 (by decide)).trans <|
  (extHi (x0 ++ x1) x2 7 7 (by decide)).trans <|
  (extHi x0 x1 2 7 (by decide)).trans <|
  (extAll x0)
theorem Enc.fmtTrap_23_2 (x0 : BitVec 7) (x1 : BitVec 2) (x2 : BitVec 5) (x3 : BitVec 18) : (Enc.fmtTrap x0 x1 x2 x3).extractLsb' 23 2 = x1 :=
  (extHi (x0 ++ x1 ++ x2) x3 23 2 (by decide)).trans <|
  (extHi (x0 ++ x1) x2 5 2 (by decide)).trans <|
  (extLo x0 x1 0 2 (by decide)).trans <|
  (extAll x1)
theorem Enc.fmtTrap_18_5 (x0 : BitVec 7) (x1 : BitVec 2) (x2 : BitVec 5) (x3 : BitVec 18) : (Enc.fmtTrap x0 x1 x2 x3).extractLsb' 18 5 = x2 :=
  (extHi (x0 ++ x1 ++ x2) x3 18 5 (by decide)).trans <|
  (extLo (x0 ++ x1) x2 0 5 (by decide)).trans <|
  (extAll x2)
theorem Enc.fmtTrap_0_18 (x0 : BitVec 7) (x1 : BitVec 2) (x2 : BitVec 5) (x3 : BitVec 18) : (Enc.fmtTrap x0 x1 x2 x3).extractLsb' 0 18 = x3 :=
  (extLo (x0 ++ x1 ++ x2) x3 0 18 (by decide)).trans <|
  (extAll x3)

theorem Enc.fmtRdsr_25_7 (x0 : BitVec 7) (x1 : BitVec 2) (x2 : BitVec 5) (x3 : BitVec 9) (x4 : BitVec 1) (x5 : BitVec 8) : (Enc.fmtRdsr x0 x1 x2 x3 x4 x5).extractLsb' 25 7 = x0 :=
  (extHi (x0 ++ x1 ++ x2 ++ x3 ++ x4) x5 25 7 (by decide)).trans <|
  (extHi (x0 ++ x1 ++ x2 ++ x3) x4 17 7 (by decide)).trans <|
  (extHi (x0 ++ x1 ++ x2) x3 16 7 (by decide)).trans <|
  (extHi (x0 ++ x1) x2 7 7 (by decide)).trans <|
  (extHi x0 x1 2 7 (by decide)).trans <|
  (extAll x0)
theorem Enc.fmtRdsr_23_2 (x0 : BitVec 7) (x1 : BitVec 2) (x2 : BitVec 5) (x3 : BitVec 9) (x4 : BitVec 1) (x5 : BitVec 8) : (Enc.fmtRdsr x0 x1 x2 x3 x4 x5).extractLsb' 23 2 = x1 :=
  (extHi (x0 ++ x1 ++ x2 ++ x3 ++ x4) x5 23 2 (by decide)).trans <|
  (extHi (x0 ++ x1 ++ x2 ++ x3) x4 15 2 (by decide)).trans <|
  (extHi (x0 ++ x1 ++ x2) x3 14 2 (by decide)).trans <|
  (extHi (x0 ++ x1) x2 5 2 (by decide)).trans <|
  (extLo x0 x1 0 2 (by decide)).trans <|
  (extAll x1)
theorem Enc.fmtRdsr_18_5 (x0 : BitVec 7) (x1 : BitVec 2) (x2 : BitVec 5) (x3 : BitVec 9) (x4 : BitVec 1) (x5 : BitVec 8) : (Enc.fmtRdsr x0 x1 x2 x3 x4 x5).extractLsb' 18 5 = x2 :=
  (extHi (x0 ++ x1 ++ x2 ++ x3 ++ x4) x5 18 5 (by decide)).trans <|
  (extHi (x0 ++ x1 ++ x2 ++ x3) x4 10 5 (by decide)).trans <|
  (extHi (x0 ++ x1 ++ x2) x3 9 5 (by decide)).trans <|
  (extLo (x0 ++ x1) x2 0 5 (by decide)).trans <|
  (extAll x2)
theorem Enc.fmtRdsr_9_9 (x0 : BitVec 7) (x1 : BitVec 2) (x2 : BitVec 5) (x3 : BitVec 9) (x4 : BitVec 1) (x5 : BitVec 8) : (Enc.fmtRdsr x0 x1 x2 x3 x4 x5).extractLsb' 9 9 = x3 :=
  (extHi (x0 ++ x1 ++ x2 ++ x3 ++ x4) x5 9 9 (by decide)).trans <|
  (extHi (x0 ++ x1 ++ x2 ++ x3) x4 1 9 (by decide)).trans <|
  (extLo (x0 ++ x1 ++ x2) x3 0 9 (by decide)).trans <|
  (extAll x3)
theorem Enc.fmtRdsr_8_1 (x0 : BitVec 7) (x1 : BitVec 2) (x2 : BitVec 5) (x3 : BitVec 9) (x4 : BitVec 1) (x5 : BitVec 8) : (Enc.fmtRdsr x0 x1 x2 x3 x4 x5).extractLsb' 8 1 = x4 :=
  (extHi (x0 ++ x1 ++ x2 ++ x3 ++ x4) x5 8 1 (by decide)).trans <|
  (extLo (x0 ++ x1 ++ x2 ++ x3) x4 0 1 (by decide)).trans <|
  (extAll x4)
theorem Enc.fmtRdsr_0_8 (x0 : BitVec 7) (x1 : BitVec 2) (x2 : BitVec 5) (x3 : BitVec 9) (x4 : BitVec 1) (x5 : BitVec 8) : (Enc.fmtRdsr x0 x1 x2 x3 x4 x5).extractLsb' 0 8 = x5 :=
  (extLo (x0 ++ x1 ++ x2 ++ x3 ++ x4) x5 0 8 (by decide)).trans <|
  (extAll x5)

theorem Enc.fmtPlySend_25_7 (x0 : BitVec 7) (x1 : BitVec 5) (x2 : BitVec 5) (x3 : BitVec 3) (x4 : BitVec 5) (x5 : BitVec 7) : (Enc.fmtPlySend x0 x1 x2 x3 x4 x5).extractLsb' 25 7 = x0 :=
  (extHi (x0 ++ x1 ++ x2 ++ x3 ++ x4) x5 25 7 (by decide)).trans <|
  (extHi (x0 ++ x1 ++ x2 ++ x3) x4 18 7 (by decide)).trans <|
  (extHi (x0 ++ x1 ++ x2) x3 13 7 (by decide)).trans <|
  (extHi (x0 ++ x1) x2 10 7 (by decide)).trans <|
  (extHi x0 x1 5 7 (by decide)).trans <|
  (extAll x0)
theorem Enc.fmtPlySend_20_5 (x0 : BitVec 7) (x1 : BitVec 5) (x2 : BitVec 5) (x3 : BitVec 3) (x4 : BitVec 5) (x5 : BitVec 7) : (Enc.fmtPlySend x0 x1 x2 x3 x4 x5).extractLsb' 20 5 = x1 :=
  (extHi (x0 ++ x1 ++ x2 ++ x3 ++ x4) x5 20 5 (by decide)).trans <|
  (extHi (x0 ++ x1 ++ x2 ++ x3) x4 13 5 (by decide)).trans <|
  (extHi (x0 ++ x1 ++ x2) x3 8 5 (by decide)).trans <|
  (extHi (x0 ++ x1) x2 5 5 (by decide)).trans <|
  (extLo x0 x1 0 5 (by decide)).trans <|
  (extAll x1)
theorem Enc.fmtPlySend_15_5 (x0 : BitVec 7) (x1 : BitVec 5) (x2 : BitVec 5) (x3 : BitVec 3) (x4 : BitVec 5) (x5 : BitVec 7) : (Enc.fmtPlySend x0 x1 x2 x3 x4 x5).extractLsb' 15 5 = x2 :=
  (extHi (x0 ++ x1 ++ x2 ++ x3 ++ x4) x5 15 5 (by decide)).trans <|
  (extHi (x0 ++ x1 ++ x2 ++ x3) x4 8 5 (by decide)).trans <|
  (extHi (x0 ++ x1 ++ x2) x3 3 5 (by decide)).trans <|
  (extLo (x0 ++ x1) x2 0 5 (by decide)).trans <|
  (extAll x2)
theorem Enc.fmtPlySend_12_3 (x0 : BitVec 7) (x1 : BitVec 5) (x2 : BitVec 5) (x3 : BitVec 3) (x4 : BitVec 5) (x5 : BitVec 7) : (Enc.fmtPlySend x0 x1 x2 x3 x4 x5).extractLsb' 12 3 = x3 :=
  (extHi (x0 ++ x1 ++ x2 ++ x3 ++ x4) x5 12 3 (by decide)).trans <|
  (extHi (x0 ++ x1 ++ x2 ++ x3) x4 5 3 (by decide)).trans <|
  (extLo (x0 ++ x1 ++ x2) x3 0 3 (by decide)).trans <|
  (extAll x3)
theorem Enc.fmtPlySend_7_5 (x0 : BitVec 7) (x1 : BitVec 5) (x2 : BitVec 5) (x3 : BitVec 3) (x4 : BitVec 5) (x5 : BitVec 7) : (Enc.fmtPlySend x0 x1 x2 x3 x4 x5).extractLsb' 7 5 = x4 :=
  (extHi (x0 ++ x1 ++ x2 ++ x3 ++ x4) x5 7 5 (by decide)).trans <|
  (extLo (x0 ++ x1 ++ x2 ++ x3) x4 0 5 (by decide)).trans <|
  (extAll x4)
theorem Enc.fmtPlySend_0_7 (x0 : BitVec 7) (x1 : BitVec 5) (x2 : BitVec 5) (x3 : BitVec 3) (x4 : BitVec 5) (x5 : BitVec 7) : (Enc.fmtPlySend x0 x1 x2 x3 x4 x5).extractLsb' 0 7 = x5 :=
  (extLo (x0 ++ x1 ++ x2 ++ x3 ++ x4) x5 0 7 (by decide)).trans <|
  (extAll x5)

end Sys2Proof
end

