-- ==== Sys2Proof/Laws/Mem.lean ====
section
/-! SUPPORT. Memory as a list of cells: reading after writing, and the canonical form that every operation keeps. -/

namespace Sys2Proof.Machine

/-! ### Reading after writing -/

theorem Mem.get_drop (m : List Host.Cell) (a b : Nat) : Mem.get (Mem.drop m a) b = if b = a then Mem.unlisted else Mem.get m b := by
  induction m with
  | nil => simp [Mem.drop, Mem.get]
  | cons e m ih =>
    obtain ⟨c, v⟩ := e
    unfold Mem.drop
    split
    · rename_i h
      rw [ih]
      split
      · rfl
      · rename_i hb
        rw [Mem.get, if_neg (by omega)]
    · rename_i h
      simp only [Mem.get, ih]
      split
      · rename_i hb
        rw [if_neg (by omega)]
      · rfl

theorem Mem.get_ins (m : List Host.Cell) (a b : Nat) (x : Byte) : Mem.get (Mem.ins m a x) b = if b = a then x else Mem.get m b := by
  induction m with
  | nil => simp [Mem.ins, Mem.get, eq_comm]
  | cons e m ih =>
    obtain ⟨c, v⟩ := e
    unfold Mem.ins
    split
    · simp only [Mem.get, eq_comm]
    · split
      · rename_i h
        simp only [Mem.get]
        split
        · rename_i hb
          rw [if_pos hb.symm]
        · rename_i hb
          rw [if_neg (by omega), if_neg (by omega)]
      · rename_i h
        simp only [Mem.get, ih]
        split
        · rename_i hb
          rw [if_neg (by omega)]
        · rfl

/-- A byte that was written is read, and every other byte reads as before. -/
theorem Mem.get_put (m : List Host.Cell) (a b : Nat) (x : Byte) : Mem.get (Mem.put m a x) b = if b = a then x else Mem.get m b := by
  unfold Mem.put
  split
  · rename_i h
    rw [Mem.get_drop, h]
  · exact Mem.get_ins m a b x

theorem Mem.get_clear (m : List Host.Cell) (a n b : Nat) :
    Mem.get (Mem.clear m a n) b = if a ≤ b ∧ b < a + n then Mem.unlisted else Mem.get m b := by
  induction m with
  | nil => simp [Mem.clear, Mem.get]
  | cons e m ih =>
    obtain ⟨c, v⟩ := e
    have hc : Mem.clear ((c, v) :: m) a n = if a ≤ c ∧ c < a + n then Mem.clear m a n else (c, v) :: Mem.clear m a n := by
      simp only [Mem.clear, List.filter_cons]
      by_cases h1 : a ≤ c <;> by_cases h2 : c < a + n <;> simp [h1, h2]
    rw [hc]
    split
    · rw [ih, Mem.get]
      split
      · rfl
      · rw [if_neg (by omega)]
    · simp only [Mem.get, ih]
      split
      · rw [if_neg (by omega)]
      · rfl

/-! ### The canonical form -/

theorem Mem.wfFrom_mono {lo hi : Nat} (h : lo ≤ hi) {m : List Host.Cell} : Mem.wfFrom hi m = true → Mem.wfFrom lo m = true := by
  cases m with
  | nil => exact fun h => h
  | cons e m =>
    simp only [Mem.wfFrom, Bool.and_eq_true, decide_eq_true_eq]
    exact fun ⟨⟨h1, h2⟩, h3⟩ => ⟨⟨by omega, h2⟩, h3⟩

theorem Mem.wfFrom_drop (a : Nat) : ∀ (lo : Nat) (m : List Host.Cell), Mem.wfFrom lo m = true → Mem.wfFrom lo (Mem.drop m a) = true
  | lo, [], h => h
  | lo, (b, v) :: m, h => by
    simp only [Mem.wfFrom, Bool.and_eq_true, decide_eq_true_eq] at h
    unfold Mem.drop
    split
    · exact Mem.wfFrom_drop a lo m (Mem.wfFrom_mono (by omega) h.2)
    · simp only [Mem.wfFrom, Bool.and_eq_true, decide_eq_true_eq]
      exact ⟨h.1, Mem.wfFrom_drop a (b + 1) m h.2⟩

theorem Mem.wfFrom_ins (a : Nat) (x : Byte) (hx : x ≠ Mem.unlisted) :
    ∀ (lo : Nat) (m : List Host.Cell), lo ≤ a → Mem.wfFrom lo m = true → Mem.wfFrom lo (Mem.ins m a x) = true
  | lo, [], hl, _ => by simp [Mem.ins, Mem.wfFrom, hl, hx]
  | lo, (b, v) :: m, hl, h => by
    simp only [Mem.wfFrom, Bool.and_eq_true, decide_eq_true_eq] at h
    unfold Mem.ins
    split
    · simp only [Mem.wfFrom, Bool.and_eq_true, decide_eq_true_eq]
      exact ⟨⟨hl, hx⟩, ⟨⟨by omega, h.1.2⟩, h.2⟩⟩
    · split
      · rename_i e
        simp only [Mem.wfFrom, Bool.and_eq_true, decide_eq_true_eq]
        exact ⟨⟨hl, hx⟩, e ▸ h.2⟩
      · simp only [Mem.wfFrom, Bool.and_eq_true, decide_eq_true_eq]
        exact ⟨h.1, Mem.wfFrom_ins a x hx (b + 1) m (by omega) h.2⟩

/-- Writing a byte keeps the canonical form. -/
theorem Mem.wf_put (m : List Host.Cell) (a : Nat) (x : Byte) (h : Mem.wf m = true) : Mem.wf (Mem.put m a x) = true := by
  unfold Mem.put
  split
  · exact Mem.wfFrom_drop a 0 m h
  · rename_i hx
    exact Mem.wfFrom_ins a x hx 0 m (Nat.zero_le a) h

/-- Writing consecutive bytes keeps the canonical form. -/
theorem Mem.wf_putN : ∀ (bs : List Byte) (m : List Host.Cell) (a : Nat), Mem.wf m = true → Mem.wf (Mem.putN m a bs) = true
  | [], _, _, h => h
  | x :: xs, m, a, h => Mem.wf_putN xs (Mem.put m a x) (a + 1) (Mem.wf_put m a x h)

theorem Mem.wfFrom_filter (p : Host.Cell → Bool) : ∀ (lo : Nat) (m : List Host.Cell), Mem.wfFrom lo m = true → Mem.wfFrom lo (m.filter p) = true
  | _, [], h => h
  | lo, (b, v) :: m, h => by
    simp only [Mem.wfFrom, Bool.and_eq_true, decide_eq_true_eq] at h
    rw [List.filter_cons]
    split
    · simp only [Mem.wfFrom, Bool.and_eq_true, decide_eq_true_eq]
      exact ⟨h.1, Mem.wfFrom_filter p (b + 1) m h.2⟩
    · exact Mem.wfFrom_filter p lo m (Mem.wfFrom_mono (by omega) h.2)

/-- Clearing a range keeps the canonical form. -/
theorem Mem.wf_clear (m : List Host.Cell) (a n : Nat) (h : Mem.wf m = true) : Mem.wf (Mem.clear m a n) = true :=
  Mem.wfFrom_filter _ 0 m h

/-- Writing bytes wherever they stand keeps the canonical form: banks, tiles and lines write so. -/
theorem Mem.wf_foldl {α : Type} (f : α → Nat) (g : α → Byte) : ∀ (l : List α) (m : List Host.Cell), Mem.wf m = true →
    Mem.wf (l.foldl (fun m b => Mem.put m (f b) (g b)) m) = true
  | [], _, h => h
  | b :: l, m, h => Mem.wf_foldl f g l (Mem.put m (f b) (g b)) (Mem.wf_put m (f b) (g b) h)

/-- Memory after reset is in its canonical form. -/
theorem Mem.wf_reset : Mem.wf State.reset.mem = true := rfl

end Sys2Proof.Machine
end

