-- ==== Sys2Proof/Laws/Perform.lean ====
section
/-! SUPPORT. What an access of memory can do: it changes the memory side of the state, and keeps the canonical form of memory. -/

namespace Sys2Proof.Safety
open Sys2Proof.Machine

variable {s t u : State}

/-- A change that leaves the banks as they are. -/
theorem MemSide.of
    (h : t = { s with
      mem := t.mem, st.banks := t.st.banks, st.cc := t.st.cc, st.l2 := t.st.l2, st.poison := t.st.poison, st.gated := t.st.gated
      st.lrs := t.st.lrs, dev.hbm := t.dev.hbm, sim.agenda := t.sim.agenda, sim.seqNo := t.sim.seqNo })
    (w : Mem.wf s.mem = true → Mem.wf t.mem = true) (b : t.st.banks = s.st.banks) : MemSide s t :=
  ⟨h, w, fun k => ⟨(s.st.banks.at k).queue, by rw [b]⟩⟩

theorem MemSide.refl (s : State) : MemSide s s := .of rfl id rfl

theorem MemSide.trans (h : MemSide s t) (k : MemSide t u) : MemSide s u := by
  refine ⟨?_, fun w => k.wf (h.wf w), fun n => ?_⟩
  · rw [k.rest, h.rest]
  · obtain ⟨_, e⟩ := k.banks n
    obtain ⟨_, f⟩ := h.banks n
    exact ⟨_, by rw [e, f]⟩

theorem MemSide.ite {c : Prop} [Decidable c] (h : MemSide s t) (k : MemSide s u) : MemSide s (if c then t else u) := by
  split
  · exact h
  · exact k

theorem MemSide.foldl {α : Type} (f : State → α → State) (h : ∀ s x, MemSide s (f s x)) :
    ∀ (l : List α) (s : State), MemSide s (l.foldl f s)
  | [], s => .refl s
  | x :: l, s => (h s x).trans (MemSide.foldl f h l (f s x))

theorem stackRead_side (s : State) (pa : Nat) : MemSide s (stackRead s pa) := by
  unfold stackRead
  dsimp only
  split
  · exact .refl s
  · split <;> exact .of rfl id rfl

theorem l2Reveal_wf (l : L2Line) (h : Nat) (x : L2Sector) {m : List Host.Cell} (w : Mem.wf m = true) : Mem.wf (l2Reveal m l h x) = true := by
  unfold l2Reveal
  split
  · exact Mem.wf_putN _ _ _ w
  · exact w

theorem l2Touch_side (s : State) (pa : Nat) (w al : Bool) (a : BitVec 8) : MemSide s (l2Touch s pa w al a) := by
  unfold l2Touch
  dsimp only
  split
  · split
    · exact .of rfl id rfl
    · exact .refl s
  · split
    · exact .of rfl (fun h => l2Reveal_wf _ _ _ (l2Reveal_wf _ _ _ h)) rfl
    · exact .refl s

theorem l2TagCheck_side (s : State) (pa : Nat) : MemSide s (l2TagCheck s pa) := by
  unfold l2TagCheck
  split
  · exact .refl s
  · dsimp only
    have hw : ∀ (m : List Host.Cell) (p : Prop) [Decidable p] (a : Nat) (bs : List Byte), Mem.wf m = true →
        Mem.wf (if p then Mem.putN m a bs else m) = true := by
      intro m p _ a bs h
      split
      · exact Mem.wf_putN bs m a h
      · exact h
    split <;> exact .of rfl (fun h => hw _ _ _ _ (hw _ _ _ _ h)) rfl

theorem lrBreak_side (s : State) (pa : Nat) : MemSide s (lrBreak s pa) := .of rfl id rfl

theorem dramCommit_side (s : State) (a : Actor) (pa : Nat) (bs : List Byte) (u : Bool) : MemSide s (dramCommit s a pa bs u) := by
  unfold dramCommit
  dsimp only
  have h : MemSide s (if (!u && decide (bs.length < 128) && !l2Holds s pa) = true then stackRead s pa else s) :=
    .ite (stackRead_side s pa) (.refl s)
  have h := h.trans (l2Touch_side _ pa true (!u) a.asid)
  exact h.trans (.of rfl (fun w => Mem.wf_putN bs _ pa w) rfl)

theorem dramGate_side (a : Actor) : ∀ (bs : List Byte) (s : State) (pa : Nat), MemSide s (dramGate s a pa bs)
  | [], s, _ => .refl s
  | b :: bs, s, pa => by
    unfold dramGate
    dsimp only
    refine MemSide.trans ?_ (dramGate_side a bs _ (pa + 1))
    exact .of rfl id rfl

theorem dramWrite_side (s : State) (a : Actor) (pa : Nat) (bs : List Byte) (u : Bool) : MemSide s (dramWrite s a pa bs u) := by
  unfold dramWrite
  split
  · exact .refl s
  · exact (lrBreak_side s pa).trans ((l2TagCheck_side _ pa).trans (.ite (dramGate_side a bs _ pa) (dramCommit_side _ a pa bs u)))

theorem dramRead_side (s : State) (a : Actor) (pa n : Nat) (u : Bool) : MemSide s (dramRead s a pa n u).2 := by
  unfold dramRead
  exact (l2TagCheck_side s pa).trans (MemSide.trans (.ite (.refl _) (stackRead_side _ pa)) (l2Touch_side _ pa false (!u) a.asid))

theorem dramPutUnder_side (s : State) (pa : Nat) (b : Byte) : MemSide s (dramPutUnder s pa b) := by
  unfold dramPutUnder
  refine (lrBreak_side s pa).trans ?_
  dsimp only
  split
  · split
    · exact .of rfl id rfl
    · exact .of rfl (Mem.wf_put _ _ _) rfl
  · exact .of rfl (Mem.wf_put _ _ _) rfl

theorem ccBackSector_side (s : State) (core : Nat) (l : CcLine) (sl se b ha : Nat) (x : CcSector) :
    MemSide s (ccBackSector s core l sl se b ha x) := by
  unfold ccBackSector
  split
  · exact (dramWrite_side s _ _ _ _).trans (.of rfl id rfl)
  · exact .refl s

theorem ccBack_side (s : State) (core sl se b : Nat) : MemSide s (ccBack s core sl se b) := by
  unfold ccBack
  dsimp only
  exact ((ccBackSector_side s ..).trans (ccBackSector_side _ ..)).trans (.of rfl id rfl)

theorem ccEnter_side (s : State) (a : Actor) (pa b : Nat) (l : CcLine) (x : CcSector) (poi : List Nat) :
    MemSide s (ccEnter s a pa b l x poi) := .of rfl id rfl

theorem ccFill_side (s : State) (a : Actor) (pa : Nat) (w : Bool) : MemSide s (ccFill s a pa w) := by
  unfold ccFill
  generalize hr : (if w = true then (([] : List Byte), s) else dramRead s { a with rid := 0 } (pa / 128 * 128) 128 false) = r
  have h : MemSide s r.2 := by
    rw [← hr]
    split
    · exact .refl s
    · exact dramRead_side ..
  refine h.trans ?_
  obtain ⟨bs, u⟩ := r
  dsimp only
  split
  · exact ccEnter_side ..
  · split
    · exact .refl _
    · rename_i b _
      have k := ccBack_side u a.core (ccSlice pa) (ccSet pa) b
      generalize ccBack u a.core (ccSlice pa) (ccSet pa) b = q at k ⊢
      exact k.trans (ccEnter_side ..)

theorem ccRead_side (s : State) (a : Actor) (pa n : Nat) : MemSide s (ccRead s a pa n).2 := by
  unfold ccRead
  generalize hq : (if ((ccHit s a pa).isNone && !(ccWays s a.core (ccSlice pa)).isEmpty) = true then ccFill s a pa false else s) = q
  have h : MemSide s q := hq ▸ .ite (ccFill_side s a pa false) (.refl s)
  refine h.trans ?_
  dsimp only
  split
  · split
    · exact .refl q
    · exact dramRead_side q a pa n false
  · split
    · exact .refl q
    · exact .of rfl id rfl

theorem ccWrite_side (s : State) (a : Actor) (pa : Nat) (bs : List Byte) : MemSide s (ccWrite s a pa bs) := by
  unfold ccWrite
  split
  · exact dramWrite_side ..
  · generalize hq : (if ((ccHit s a pa).isNone && !(ccWays s a.core (ccSlice pa)).isEmpty) = true then
        ccFill s a pa (decide (128 ≤ bs.length)) else s) = q
    have h : MemSide s q := hq ▸ .ite (ccFill_side s a pa _) (.refl s)
    refine h.trans ?_
    dsimp only
    split
    · exact dramWrite_side ..
    · exact .of rfl id rfl

theorem ccClean_side (s : State) (core : Nat) : MemSide s (ccClean s core) :=
  MemSide.foldl _ (fun s x => ccBack_side s core _ _ _) _ s

theorem ccInval_side (s : State) (core : Nat) : MemSide s (ccInval s core) := .of rfl id rfl

theorem release_side (s : State) (core sc : Nat) : MemSide s (release s core sc) := .ite (ccClean_side s core) (.refl s)

theorem acquire_side (s : State) (core sc : Nat) : MemSide s (acquire s core sc) := .ite (ccInval_side s core) (.refl s)

theorem storeBytes_side (s : State) (bs : List (Nat × Byte)) : MemSide s (storeBytes s bs) :=
  .of rfl (fun h => Mem.wf_foldl _ _ _ _ h) rfl

/-- Bytes that depend on what stands before keep the canonical form too. -/
theorem wf_foldl_part {α : Type} (f : α → Nat) (g : List Host.Cell → α → Byte) : ∀ (l : List α) (m : List Host.Cell), Mem.wf m = true →
    Mem.wf (l.foldl (fun m b => Mem.put m (f b) (g m b)) m) = true
  | [], _, h => h
  | b :: l, m, h => wf_foldl_part f g l (Mem.put m (f b) (g m b)) (Mem.wf_put m (f b) _ h)

theorem portPerform_side (s : State) (core bank : Nat) (p : PortStore) : MemSide s (portPerform s core bank p) :=
  (storeBytes_side s _).trans (.of rfl (fun h => wf_foldl_part (fun b : Nat × Byte × Byte => bankAddr core bank 0 + b.1)
    (fun m b => maskByte (Mem.get m (bankAddr core bank 0 + b.1)) b.2.1 b.2.2) _ _ h) rfl)

/-- The stores that leave a port are performed. -/
theorem portDrain_side (s : State) (core bank : Nat) : MemSide s (portDrain s core bank) := by
  unfold portDrain
  have h : MemSide s (bankUpd s core bank (fun b => { b with queue := [] })) := by
    refine ⟨rfl, id, fun k => ?_⟩
    by_cases e : k = bankKey core bank
    · exact ⟨[], by subst e; simp [bankUpd, SMap.upd]⟩
    · exact ⟨(s.st.banks.at k).queue, by simp [bankUpd, SMap.upd, SMap.at_set_other _ _ e]⟩
  exact h.trans (MemSide.foldl _ (fun s p => portPerform_side s core bank p) _ _)

/-- A read performed at a place changes the memory side alone. -/
theorem performRead_side (s : State) (a : Actor) (mt : MType) (pa n : Nat) : MemSide s (performRead s a mt pa n).2 := by
  unfold performRead
  split
  · split
    · exact .refl s
    · split <;> exact .refl s
  · split <;> exact .refl s
  · split
    · dsimp only
      split <;> exact ccRead_side s a pa n
    · split
      · exact .refl s
      · cases mt
        · exact dramRead_side s a pa n false
        · exact dramRead_side s a pa n true
        · exact stackRead_side s pa
  · exact .refl s

/-- A write performed at a place changes the memory side alone, and keeps the canonical form. -/
theorem performWrite_side (s : State) (a : Actor) (mt : MType) (pa : Nat) (bs : List Byte) :
    MemSide s (performWrite s a mt pa bs).2 := by
  unfold performWrite
  split
  · exact .refl s
  split
  · split
    · exact .refl s
    · exact (MemSide.foldl _ (fun s b => portDrain_side s _ b) _ s).trans (storeBytes_side ..)
  · exact storeBytes_side ..
  · cases mt
    · dsimp only
      split
      · exact .refl s
      · split
        · exact ccWrite_side ..
        · exact dramWrite_side ..
    · dsimp only
      split
      · exact .refl s
      · exact dramWrite_side ..
    · exact MemSide.foldl _ (fun s i => dramPutUnder_side s _ _) _ s
  · exact .of rfl (fun h => Mem.wf_putN _ _ _ h) rfl

end Sys2Proof.Safety
end

