-- ==== Sys2Proof/Laws/Tokens.lean ====
section
/-! SUPPORT. What an instruction that completes can do: the frame its tokens give, the state of its context, and what event records
change. -/

namespace Sys2Proof.Safety
open Sys2Proof.Machine

theorem puts_cons (f : Frame) (ix pos : Nat) (t : BitVec 9) (v : Tok) (r : List (Nat × BitVec 9 × Tok)) :
    puts ix ((pos, t, v) :: r) f = match f.put ix pos t v with
      | .ok g => puts ix r g
      | .error e => .error e := rfl

theorem frameOf_frameUpd (s : State) (core x : Nat) (g : Frame → Frame) :
    frameOf (frameUpd s core x g) core x = g (frameOf s core x) := by
  simp [frameOf, frameUpd, ctxOf, SMap.upd]

theorem frameOf_ctFired (s : State) (core x ix : Nat) : frameOf (ctFired s core x ix) core x = firedIn (frameOf s core x) ix := by
  simp [frameOf, ctFired, frameUpd, ctxUpd, ctxOf, SMap.upd, firedIn]

theorem ctxOf_ctFired (s : State) (core x ix : Nat) :
    ctxOf (ctFired s core x ix) core x = { ctxOf s core x with st := .run, wcode := 0, widx := 0 } := by
  simp [ctFired, frameUpd, ctxUpd, ctxOf, SMap.upd]

/-- An instruction that fires changes its frame and the state of its context alone. -/
theorem ctFired_only (s : State) (core x ix : Nat) : FrameOnly s (ctFired s core x ix) core x := by
  refine ⟨rfl, ?_, ?_, ctxOf_ctFired s core x ix⟩
  · intro k hk
    simp [ctFired, frameUpd, ctxUpd, SMap.upd, SMap.at_set_other, hk]
  · intro k hk
    simp [ctFired, frameUpd, ctxUpd, SMap.upd, SMap.at_set_other, hk]

/-- Where every target takes its token, sending changes the frame alone, to the one that the tokens give. -/
theorem ctSend_ok (core x ix : Nat) : ∀ outs (s : State) g, puts ix outs (frameOf s core x) = .ok g →
    ctSend core x ix outs s = { s with ctl.frames := (ctSend core x ix outs s).ctl.frames } ∧
      frameOf (ctSend core x ix outs s) core x = g ∧
      ∀ k, k ≠ frameKey core (ctxOf s core x).frm → (ctSend core x ix outs s).ctl.frames.at k = s.ctl.frames.at k
  | [], s, g, h => by
    simp only [puts, Except.ok.injEq] at h
    simp [ctSend, h]
  | (pos, t, v) :: r, s, g, h => by
    rw [puts_cons] at h
    unfold ctSend
    split at h
    · rename_i g' e
      simp only [e]
      obtain ⟨h1, h2, h3⟩ := ctSend_ok core x ix r (frameUpd s core x (fun _ => g')) g (by rw [frameOf_frameUpd]; exact h)
      refine ⟨?_, h2, ?_⟩
      · rw [h1]; rfl
      · intro k hk
        rw [h3 k hk]
        simp [frameUpd, SMap.upd, SMap.at_set_other, hk]
    · simp at h

/-- A frame that changes after the instruction has fired. -/
theorem FrameOnly.upd {s t : State} {core x : Nat} (h : FrameOnly s t core x) (g : Frame → Frame) :
    FrameOnly s (frameUpd t core x g) core x := by
  have hf : (ctxOf t core x).frm = (ctxOf s core x).frm := by rw [h.ctx]
  refine ⟨?_, ?_, h.ctxs, h.ctx⟩
  · rw [h.rest]; rfl
  · intro k hk
    rw [← h.frames k hk]
    simp [frameUpd, SMap.upd, hf, SMap.at_set_other, hk]

theorem FrameOnly.mem {s t : State} {core x : Nat} (h : FrameOnly s t core x) : t.mem = s.mem := by rw [h.rest]

/-- Tokens that are all taken, after a change of the frame alone. -/
theorem FrameOnly.send {s t : State} {core x ix : Nat} {outs : List (Nat × BitVec 9 × Tok)} {g : Frame} (h : FrameOnly s t core x)
    (p : puts ix outs (frameOf t core x) = .ok g) : FrameOnly s (ctSend core x ix outs t) core x := by
  obtain ⟨h1, _, h3⟩ := ctSend_ok core x ix outs t g p
  have hf : (ctxOf t core x).frm = (ctxOf s core x).frm := by rw [h.ctx]
  refine ⟨?_, ?_, ?_, ?_⟩
  · rw [h1, h.rest]
  · intro k hk
    rw [h3 k (hf ▸ hk), h.frames k hk]
  · intro k hk
    rw [h1]
    exact h.ctxs k hk
  · rw [h1]
    exact h.ctx

/-! ### Event records -/

/-- An event record changes the memory side, the write pointer of its die's log, and its count of lost records. -/
theorem eventRecord_side (s : State) (k c : Nat) (a : BitVec 8) (fd : BitVec 12) (core u : Nat) (r : BitVec 55) (d : List Word) :
    MemSide { s with ctl.logs := (eventRecord s k c a fd core u r d).ctl.logs } (eventRecord s k c a fd core u r d) := by
  unfold eventRecord eventWrite
  dsimp only
  split
  · exact .refl s
  · split
    · exact .refl _
    · generalize (List.map (fun w => leBytes 8 w.toNat) (eventWords k c a fd core u s.dev.gtsc r d)).flatten = bs
      generalize (s.ctl.logs.at (core / 64)).base.toNat * 64 +
        64 * ((s.ctl.logs.at (core / 64)).wr.toNat % 2 ^ (s.ctl.logs.at (core / 64)).logn.toNat) = pa
      have h := performWrite_side s (hwActor (core / 64 * 64)) .uc pa bs
      generalize (performWrite s (hwActor (core / 64 * 64)) .uc pa bs).2 = q at h ⊢
      obtain ⟨h1, h2, h3⟩ := h
      refine ⟨?_, h2, h3⟩
      rw [h1]

/-- What an event record leaves: every part of the state but the logs and the memory side. -/
theorem eventRecord_rest (s : State) (k c : Nat) (a : BitVec 8) (fd : BitVec 12) (core u : Nat) (r : BitVec 55) (d : List Word) :
    ∃ l m st h g n, eventRecord s k c a fd core u r d =
      { s with ctl.logs := l, mem := m, st := st, dev.hbm := h, sim.agenda := g, sim.seqNo := n } := by
  have h := (eventRecord_side s k c a fd core u r d).rest
  refine ⟨_, _, _, _, _, _, h.trans rfl⟩

end Sys2Proof.Safety
end

