-- ==== Sys2Proof/Laws/Loads.lean ====
section
/-! SUPPORT. What a load does when its access reaches memory (R144, R254–R259). -/

namespace Sys2Proof.Safety
open Sys2Proof Sys2Proof.Machine

variable {s : State} {core x ix : Nat} {p : BitVec 2}

/-- A load that reaches memory sends its value, after it was read, and completes its LSID. -/
theorem Fires.load {l : BitVec 5} {t : BitVec 9} {a : Word} {mt : MType} {pa n : Nat} {s1 s0 s2 : State} {bs : List Byte} {home : Bool}
    {addr : Word → Word} {ext : Word → Word}
    (h : Fires s core x ix p true false (some a) (some 0#64)) (ht : Turns s core x l.toNat)
    (hm : mt ≠ MType.dev ∧ s0 = s1 ∨ mt = .dev ∧ Allows s1 core x l.toNat s0)
    (hr : Reaches s core x ix (addr a) .load n mt pa s1) (hc : ctRead s0 core x l.toNat mt pa n home = (some bs, s2)) :
    ctLoad s p l t n home addr ext =
      ctDone (if mt = .dev then setIrrev (if home then ccInval s2 core else s2) core x else if home then ccInval s2 core else s2)
        core x ix (some l.toNat) [(0, t, some (ext (leWord bs)))] := by
  unfold ctLoad
  rw [h.mem ht]
  simp only [hr.passes, MRes.at_, Bool.false_eq_true, if_false]
  split
  · exact absurd ‹_› (hr.here _ _)
  · rcases hm with ⟨hm, rfl⟩ | ⟨rfl, hu⟩
    · have hd : (mt == MType.dev) = false := by cases mt <;> simp_all <;> rfl
      simp [hd, hm, ctLoadHere, hc]
    · rw [if_pos rfl, hu.irrev]
      simp only [ctLoadHere, hc]
      rfl

end Sys2Proof.Safety
end

