-- ==== Sys2Proof/Laws/PerInstr.lean ====
section
/-! SUPPORT. The family of statements that are made for every instruction: an instruction's encoding decodes to it (R212, R219, R412). -/

namespace Sys2Proof.Laws.Roundtrip

set_option Elab.async false

/-- The word of a well-formed instruction decodes to the instruction, as a 32-bit word or as a handler word. -/
def Statement (i : Instr) : Prop :=
  i.wf = true → (∀ w, encodeWord i = some w → decodeTableWord 32 w.toNat = some i) ∧
    (∀ w, encodeHandler i = some w → decodeTableWord 64 w.toNat = some i)

theorem notEdge {w : BitVec 32} {op : BitVec 7} (h : w.extractLsb' 25 7 = op) (h0 : op ≠ 0#7) (h1 : op ≠ 0x7F#7) :
    ¬ (w = 0#32 ∨ w = 0xFFFFFFFF#32) := by
  rintro (rfl | rfl)
  · exact h0 (h.symm.trans (by decide))
  · exact h1 (h.symm.trans (by decide))

theorem ofCt {w : BitVec 32} {i : Instr} {op : BitVec 7} (h : w.extractLsb' 25 7 = op) (h0 : op ≠ 0#7) (hd : decodeWord w = .ok i) :
    decodeTableWord 32 w.toNat = some i := by
  have hp : decodePly w = none := by
    unfold decodePly
    rw [if_neg (fun e => h0 (h.symm.trans e.2))]
  have hb : BitVec.ofNat 32 w.toNat = w := by simp
  simp only [decodeTableWord, hb, bytesOfWord, decodeBytes, wordOfBytes_bytes, hp, hd]
  rfl

theorem ofPly {w : BitVec 32} {i : Instr} (hd : decodePly w = some i) : decodeTableWord 32 w.toNat = some i := by
  have hb : BitVec.ofNat 32 w.toNat = w := by simp
  simp only [decodeTableWord, hb, bytesOfWord, decodeBytes, wordOfBytes_bytes, hd]
  rfl

/-- An instruction without a handler word. -/
theorem onlyWord {i : Instr} (hh : encodeHandler i = none) (h : i.wf = true → ∀ w, encodeWord i = some w → decodeTableWord 32 w.toNat = some i) :
    Statement i := fun hw => ⟨h hw, fun w e => (by rw [hh] at e; cases e)⟩

/-- An instruction without any word. -/
theorem noWord {i : Instr} (hh : encodeHandler i = none) (hw : encodeWord i = none) : Statement i :=
  fun _ => ⟨fun w e => (by rw [hw] at e; cases e), fun w e => (by rw [hh] at e; cases e)⟩

/-- A control-thread word: its OP field, and what the decoder reads. -/
theorem ctWord {i : Instr} {w : BitVec 32} (op : BitVec 7) (hh : encodeHandler i = none) (hw : encodeWord i = some w)
    (h : w.extractLsb' 25 7 = op) (h0 : op ≠ 0#7) (hd : i.wf = true → decodeWord w = .ok i) : Statement i :=
  onlyWord hh (fun hi v e => by rw [hw] at e; cases e; exact ofCt h h0 (hd hi))

theorem pr_ok {i : Instr} {f : Form} (hf : i.form = some f) (h : i.wf = true) : f.pr ≠ 3#2 := by
  simp only [Instr.wf, hf, Bool.and_eq_true, bne_iff_ne] at h
  exact h.1.1.1

theorem range_ok {i : Instr} (h : i.wf = true) : i.rangeOk = true := by
  simp only [Instr.wf, Bool.and_eq_true] at h
  exact h.1.2

/-- The two high bits of the five-bit field at 18. -/
theorem top2 (w : BitVec 32) : (w.extractLsb' 18 5).extractLsb' 3 2 = w.extractLsb' 21 2 := by
  ext i hi
  simp only [BitVec.getElem_extractLsb', BitVec.getLsbD_extractLsb']
  rw [decide_eq_true (by omega), Bool.true_and]
  congr 1
  omega

/-! ### The fields of a handler word -/

theorem packHandler_op (op : BitVec 8) (h : HWord) : (packHandler op h).extractLsb' 56 8 = op := by
  have e : packHandler op h = ((op ++ h.pri ++ h.msk ++ h.graph ++ h.fire ++ h.a ++ h.b ++ h.c ++ h.dst ++ h.outmask ++ h.och ++ h.rm
    ++ h.dsel ++ h.param : BitVec (8 + 3 + 1 + 2 + 4 + 4 + 4 + 4 + 4 + 4 + 4 + 3 + 3 + 16))) := rfl
  rw [e]
  iterate 13 rw [Enc.extHi _ _ _ _ (by decide)]
  exact Enc.extAll op

theorem packHandler_pri (op : BitVec 8) (h : HWord) : (packHandler op h).extractLsb' 53 3 = h.pri := by
  have e : packHandler op h = ((op ++ h.pri ++ h.msk ++ h.graph ++ h.fire ++ h.a ++ h.b ++ h.c ++ h.dst ++ h.outmask ++ h.och ++ h.rm
    ++ h.dsel ++ h.param : BitVec (8 + 3 + 1 + 2 + 4 + 4 + 4 + 4 + 4 + 4 + 4 + 3 + 3 + 16))) := rfl
  rw [e]
  iterate 12 rw [Enc.extHi _ _ _ _ (by decide)]
  rw [Enc.extLo _ _ _ _ (by decide)]
  exact Enc.extAll h.pri

theorem packHandler_msk (op : BitVec 8) (h : HWord) : (packHandler op h).extractLsb' 52 1 = h.msk := by
  have e : packHandler op h = ((op ++ h.pri ++ h.msk ++ h.graph ++ h.fire ++ h.a ++ h.b ++ h.c ++ h.dst ++ h.outmask ++ h.och ++ h.rm
    ++ h.dsel ++ h.param : BitVec (8 + 3 + 1 + 2 + 4 + 4 + 4 + 4 + 4 + 4 + 4 + 3 + 3 + 16))) := rfl
  rw [e]
  iterate 11 rw [Enc.extHi _ _ _ _ (by decide)]
  rw [Enc.extLo _ _ _ _ (by decide)]
  exact Enc.extAll h.msk

theorem packHandler_graph (op : BitVec 8) (h : HWord) : (packHandler op h).extractLsb' 50 2 = h.graph := by
  have e : packHandler op h = ((op ++ h.pri ++ h.msk ++ h.graph ++ h.fire ++ h.a ++ h.b ++ h.c ++ h.dst ++ h.outmask ++ h.och ++ h.rm
    ++ h.dsel ++ h.param : BitVec (8 + 3 + 1 + 2 + 4 + 4 + 4 + 4 + 4 + 4 + 4 + 3 + 3 + 16))) := rfl
  rw [e]
  iterate 10 rw [Enc.extHi _ _ _ _ (by decide)]
  rw [Enc.extLo _ _ _ _ (by decide)]
  exact Enc.extAll h.graph

theorem packHandler_fire (op : BitVec 8) (h : HWord) : (packHandler op h).extractLsb' 46 4 = h.fire := by
  have e : packHandler op h = ((op ++ h.pri ++ h.msk ++ h.graph ++ h.fire ++ h.a ++ h.b ++ h.c ++ h.dst ++ h.outmask ++ h.och ++ h.rm
    ++ h.dsel ++ h.param : BitVec (8 + 3 + 1 + 2 + 4 + 4 + 4 + 4 + 4 + 4 + 4 + 3 + 3 + 16))) := rfl
  rw [e]
  iterate 9 rw [Enc.extHi _ _ _ _ (by decide)]
  rw [Enc.extLo _ _ _ _ (by decide)]
  exact Enc.extAll h.fire

theorem packHandler_a (op : BitVec 8) (h : HWord) : (packHandler op h).extractLsb' 42 4 = h.a := by
  have e : packHandler op h = ((op ++ h.pri ++ h.msk ++ h.graph ++ h.fire ++ h.a ++ h.b ++ h.c ++ h.dst ++ h.outmask ++ h.och ++ h.rm
    ++ h.dsel ++ h.param : BitVec (8 + 3 + 1 + 2 + 4 + 4 + 4 + 4 + 4 + 4 + 4 + 3 + 3 + 16))) := rfl
  rw [e]
  iterate 8 rw [Enc.extHi _ _ _ _ (by decide)]
  rw [Enc.extLo _ _ _ _ (by decide)]
  exact Enc.extAll h.a

theorem packHandler_b (op : BitVec 8) (h : HWord) : (packHandler op h).extractLsb' 38 4 = h.b := by
  have e : packHandler op h = ((op ++ h.pri ++ h.msk ++ h.graph ++ h.fire ++ h.a ++ h.b ++ h.c ++ h.dst ++ h.outmask ++ h.och ++ h.rm
    ++ h.dsel ++ h.param : BitVec (8 + 3 + 1 + 2 + 4 + 4 + 4 + 4 + 4 + 4 + 4 + 3 + 3 + 16))) := rfl
  rw [e]
  iterate 7 rw [Enc.extHi _ _ _ _ (by decide)]
  rw [Enc.extLo _ _ _ _ (by decide)]
  exact Enc.extAll h.b

theorem packHandler_c (op : BitVec 8) (h : HWord) : (packHandler op h).extractLsb' 34 4 = h.c := by
  have e : packHandler op h = ((op ++ h.pri ++ h.msk ++ h.graph ++ h.fire ++ h.a ++ h.b ++ h.c ++ h.dst ++ h.outmask ++ h.och ++ h.rm
    ++ h.dsel ++ h.param : BitVec (8 + 3 + 1 + 2 + 4 + 4 + 4 + 4 + 4 + 4 + 4 + 3 + 3 + 16))) := rfl
  rw [e]
  iterate 6 rw [Enc.extHi _ _ _ _ (by decide)]
  rw [Enc.extLo _ _ _ _ (by decide)]
  exact Enc.extAll h.c

theorem packHandler_dst (op : BitVec 8) (h : HWord) : (packHandler op h).extractLsb' 30 4 = h.dst := by
  have e : packHandler op h = ((op ++ h.pri ++ h.msk ++ h.graph ++ h.fire ++ h.a ++ h.b ++ h.c ++ h.dst ++ h.outmask ++ h.och ++ h.rm
    ++ h.dsel ++ h.param : BitVec (8 + 3 + 1 + 2 + 4 + 4 + 4 + 4 + 4 + 4 + 4 + 3 + 3 + 16))) := rfl
  rw [e]
  iterate 5 rw [Enc.extHi _ _ _ _ (by decide)]
  rw [Enc.extLo _ _ _ _ (by decide)]
  exact Enc.extAll h.dst

theorem packHandler_outmask (op : BitVec 8) (h : HWord) : (packHandler op h).extractLsb' 26 4 = h.outmask := by
  have e : packHandler op h = ((op ++ h.pri ++ h.msk ++ h.graph ++ h.fire ++ h.a ++ h.b ++ h.c ++ h.dst ++ h.outmask ++ h.och ++ h.rm
    ++ h.dsel ++ h.param : BitVec (8 + 3 + 1 + 2 + 4 + 4 + 4 + 4 + 4 + 4 + 4 + 3 + 3 + 16))) := rfl
  rw [e]
  iterate 4 rw [Enc.extHi _ _ _ _ (by decide)]
  rw [Enc.extLo _ _ _ _ (by decide)]
  exact Enc.extAll h.outmask

theorem packHandler_och (op : BitVec 8) (h : HWord) : (packHandler op h).extractLsb' 22 4 = h.och := by
  have e : packHandler op h = ((op ++ h.pri ++ h.msk ++ h.graph ++ h.fire ++ h.a ++ h.b ++ h.c ++ h.dst ++ h.outmask ++ h.och ++ h.rm
    ++ h.dsel ++ h.param : BitVec (8 + 3 + 1 + 2 + 4 + 4 + 4 + 4 + 4 + 4 + 4 + 3 + 3 + 16))) := rfl
  rw [e]
  iterate 3 rw [Enc.extHi _ _ _ _ (by decide)]
  rw [Enc.extLo _ _ _ _ (by decide)]
  exact Enc.extAll h.och

theorem packHandler_rm (op : BitVec 8) (h : HWord) : (packHandler op h).extractLsb' 19 3 = h.rm := by
  have e : packHandler op h = ((op ++ h.pri ++ h.msk ++ h.graph ++ h.fire ++ h.a ++ h.b ++ h.c ++ h.dst ++ h.outmask ++ h.och ++ h.rm
    ++ h.dsel ++ h.param : BitVec (8 + 3 + 1 + 2 + 4 + 4 + 4 + 4 + 4 + 4 + 4 + 3 + 3 + 16))) := rfl
  rw [e]
  iterate 2 rw [Enc.extHi _ _ _ _ (by decide)]
  rw [Enc.extLo _ _ _ _ (by decide)]
  exact Enc.extAll h.rm

theorem packHandler_dsel (op : BitVec 8) (h : HWord) : (packHandler op h).extractLsb' 16 3 = h.dsel := by
  have e : packHandler op h = ((op ++ h.pri ++ h.msk ++ h.graph ++ h.fire ++ h.a ++ h.b ++ h.c ++ h.dst ++ h.outmask ++ h.och ++ h.rm
    ++ h.dsel ++ h.param : BitVec (8 + 3 + 1 + 2 + 4 + 4 + 4 + 4 + 4 + 4 + 4 + 3 + 3 + 16))) := rfl
  rw [e]
  iterate 1 rw [Enc.extHi _ _ _ _ (by decide)]
  rw [Enc.extLo _ _ _ _ (by decide)]
  exact Enc.extAll h.dsel

theorem packHandler_param (op : BitVec 8) (h : HWord) : (packHandler op h).extractLsb' 0 16 = h.param := by
  have e : packHandler op h = ((op ++ h.pri ++ h.msk ++ h.graph ++ h.fire ++ h.a ++ h.b ++ h.c ++ h.dst ++ h.outmask ++ h.och ++ h.rm
    ++ h.dsel ++ h.param : BitVec (8 + 3 + 1 + 2 + 4 + 4 + 4 + 4 + 4 + 4 + 4 + 3 + 3 + 16))) := rfl
  rw [e]
  rw [Enc.extLo _ _ _ _ (by decide)]
  exact Enc.extAll h.param

theorem unpack_pack (op : BitVec 8) (h : HWord) : unpackHandler (packHandler op h) = h := by
  simp only [unpackHandler, packHandler_pri, packHandler_msk, packHandler_graph, packHandler_fire, packHandler_a, packHandler_b, packHandler_c, packHandler_dst, packHandler_outmask, packHandler_och, packHandler_rm, packHandler_dsel, packHandler_param]

/-- A handler word: its OP, and the operation that the decoder reads for it. -/
theorem handlerWord {i : Instr} {op : BitVec 8} {h : HWord} (hw : encodeWord i = none) (ho : handlerOp i = some (op, h))
    (h0 : op ≠ 0#8) (h1 : op ≠ 0xFF#8) (hd : handlerOfOp op.toNat h = some i) : Statement i := by
  intro _
  refine ⟨fun w e => (by rw [hw] at e; cases e), fun w e => ?_⟩
  simp only [encodeHandler, ho, Option.map_some, Option.some.injEq] at e
  subst e
  have hb : BitVec.ofNat 64 (packHandler op h).toNat = packHandler op h := by simp
  have hn : ¬ (packHandler op h = 0#64 ∨ packHandler op h = 0xFFFFFFFFFFFFFFFF#64) := by
    have hp := packHandler_op op h
    rintro (e | e) <;> rw [e] at hp
    · exact h0 (hp.symm.trans (by decide))
    · exact h1 (hp.symm.trans (by decide))
  simp only [decodeTableWord, hb, decodeHandler, if_neg hn, packHandler_op, unpack_pack, hd]
  rfl

/-! ### One lemma per instruction -/

theorem add (p : BitVec 2) (t : BitVec 9) (u : BitVec 9) : Statement (.add p t u) :=
  ctWord 0x1#7 rfl rfl (Enc.fmtAdd_25_7 ..) (by decide) (fun hi => by
    have hp := pr_ok rfl hi
    have hr := range_ok hi
    rw [decodeWord, if_neg (notEdge (Enc.fmtAdd_25_7 ..) (by decide) (by decide)), Enc.fmtAdd_25_7]
    try rw [Enc.fmtAdd_18_5]
    show fldOk _ _ _ _ = _
    simp_all [Enc.fmtAdd_23_2, Enc.fmtAdd_9_9, Enc.fmtAdd_0_9, fldOk, Instr.rangeOk])
theorem sub (p : BitVec 2) (t : BitVec 9) (u : BitVec 9) : Statement (.sub p t u) :=
  ctWord 0x1#7 rfl rfl (Enc.fmtAdd_25_7 ..) (by decide) (fun hi => by
    have hp := pr_ok rfl hi
    have hr := range_ok hi
    rw [decodeWord, if_neg (notEdge (Enc.fmtAdd_25_7 ..) (by decide) (by decide)), Enc.fmtAdd_25_7]
    try rw [Enc.fmtAdd_18_5]
    show fldOk _ _ _ _ = _
    simp_all [Enc.fmtAdd_23_2, Enc.fmtAdd_9_9, Enc.fmtAdd_0_9, fldOk, Instr.rangeOk])
theorem mul (p : BitVec 2) (t : BitVec 9) (u : BitVec 9) : Statement (.mul p t u) :=
  ctWord 0x1#7 rfl rfl (Enc.fmtAdd_25_7 ..) (by decide) (fun hi => by
    have hp := pr_ok rfl hi
    have hr := range_ok hi
    rw [decodeWord, if_neg (notEdge (Enc.fmtAdd_25_7 ..) (by decide) (by decide)), Enc.fmtAdd_25_7]
    try rw [Enc.fmtAdd_18_5]
    show fldOk _ _ _ _ = _
    simp_all [Enc.fmtAdd_23_2, Enc.fmtAdd_9_9, Enc.fmtAdd_0_9, fldOk, Instr.rangeOk])
theorem mulh (p : BitVec 2) (t : BitVec 9) (u : BitVec 9) : Statement (.mulh p t u) :=
  ctWord 0x1#7 rfl rfl (Enc.fmtAdd_25_7 ..) (by decide) (fun hi => by
    have hp := pr_ok rfl hi
    have hr := range_ok hi
    rw [decodeWord, if_neg (notEdge (Enc.fmtAdd_25_7 ..) (by decide) (by decide)), Enc.fmtAdd_25_7]
    try rw [Enc.fmtAdd_18_5]
    show fldOk _ _ _ _ = _
    simp_all [Enc.fmtAdd_23_2, Enc.fmtAdd_9_9, Enc.fmtAdd_0_9, fldOk, Instr.rangeOk])
theorem mulhn (p : BitVec 2) (t : BitVec 9) (u : BitVec 9) : Statement (.mulhn p t u) :=
  ctWord 0x1#7 rfl rfl (Enc.fmtAdd_25_7 ..) (by decide) (fun hi => by
    have hp := pr_ok rfl hi
    have hr := range_ok hi
    rw [decodeWord, if_neg (notEdge (Enc.fmtAdd_25_7 ..) (by decide) (by decide)), Enc.fmtAdd_25_7]
    try rw [Enc.fmtAdd_18_5]
    show fldOk _ _ _ _ = _
    simp_all [Enc.fmtAdd_23_2, Enc.fmtAdd_9_9, Enc.fmtAdd_0_9, fldOk, Instr.rangeOk])
theorem adds (p : BitVec 2) (t : BitVec 9) (u : BitVec 9) : Statement (.adds p t u) :=
  ctWord 0x1#7 rfl rfl (Enc.fmtAdd_25_7 ..) (by decide) (fun hi => by
    have hp := pr_ok rfl hi
    have hr := range_ok hi
    rw [decodeWord, if_neg (notEdge (Enc.fmtAdd_25_7 ..) (by decide) (by decide)), Enc.fmtAdd_25_7]
    try rw [Enc.fmtAdd_18_5]
    show fldOk _ _ _ _ = _
    simp_all [Enc.fmtAdd_23_2, Enc.fmtAdd_9_9, Enc.fmtAdd_0_9, fldOk, Instr.rangeOk])
theorem min (p : BitVec 2) (t : BitVec 9) (u : BitVec 9) : Statement (.min p t u) :=
  ctWord 0x1#7 rfl rfl (Enc.fmtAdd_25_7 ..) (by decide) (fun hi => by
    have hp := pr_ok rfl hi
    have hr := range_ok hi
    rw [decodeWord, if_neg (notEdge (Enc.fmtAdd_25_7 ..) (by decide) (by decide)), Enc.fmtAdd_25_7]
    try rw [Enc.fmtAdd_18_5]
    show fldOk _ _ _ _ = _
    simp_all [Enc.fmtAdd_23_2, Enc.fmtAdd_9_9, Enc.fmtAdd_0_9, fldOk, Instr.rangeOk])
theorem max (p : BitVec 2) (t : BitVec 9) (u : BitVec 9) : Statement (.max p t u) :=
  ctWord 0x1#7 rfl rfl (Enc.fmtAdd_25_7 ..) (by decide) (fun hi => by
    have hp := pr_ok rfl hi
    have hr := range_ok hi
    rw [decodeWord, if_neg (notEdge (Enc.fmtAdd_25_7 ..) (by decide) (by decide)), Enc.fmtAdd_25_7]
    try rw [Enc.fmtAdd_18_5]
    show fldOk _ _ _ _ = _
    simp_all [Enc.fmtAdd_23_2, Enc.fmtAdd_9_9, Enc.fmtAdd_0_9, fldOk, Instr.rangeOk])
theorem minn (p : BitVec 2) (t : BitVec 9) (u : BitVec 9) : Statement (.minn p t u) :=
  ctWord 0x1#7 rfl rfl (Enc.fmtAdd_25_7 ..) (by decide) (fun hi => by
    have hp := pr_ok rfl hi
    have hr := range_ok hi
    rw [decodeWord, if_neg (notEdge (Enc.fmtAdd_25_7 ..) (by decide) (by decide)), Enc.fmtAdd_25_7]
    try rw [Enc.fmtAdd_18_5]
    show fldOk _ _ _ _ = _
    simp_all [Enc.fmtAdd_23_2, Enc.fmtAdd_9_9, Enc.fmtAdd_0_9, fldOk, Instr.rangeOk])
theorem maxn (p : BitVec 2) (t : BitVec 9) (u : BitVec 9) : Statement (.maxn p t u) :=
  ctWord 0x1#7 rfl rfl (Enc.fmtAdd_25_7 ..) (by decide) (fun hi => by
    have hp := pr_ok rfl hi
    have hr := range_ok hi
    rw [decodeWord, if_neg (notEdge (Enc.fmtAdd_25_7 ..) (by decide) (by decide)), Enc.fmtAdd_25_7]
    try rw [Enc.fmtAdd_18_5]
    show fldOk _ _ _ _ = _
    simp_all [Enc.fmtAdd_23_2, Enc.fmtAdd_9_9, Enc.fmtAdd_0_9, fldOk, Instr.rangeOk])
theorem divs (p : BitVec 2) (t : BitVec 9) (u : BitVec 9) : Statement (.divs p t u) :=
  ctWord 0x2#7 rfl rfl (Enc.fmtAdd_25_7 ..) (by decide) (fun hi => by
    have hp := pr_ok rfl hi
    have hr := range_ok hi
    rw [decodeWord, if_neg (notEdge (Enc.fmtAdd_25_7 ..) (by decide) (by decide)), Enc.fmtAdd_25_7]
    try rw [Enc.fmtAdd_18_5]
    show fldOk _ _ _ _ = _
    simp_all [Enc.fmtAdd_23_2, Enc.fmtAdd_9_9, Enc.fmtAdd_0_9, fldOk, Instr.rangeOk])
theorem divn (p : BitVec 2) (t : BitVec 9) (u : BitVec 9) : Statement (.divn p t u) :=
  ctWord 0x2#7 rfl rfl (Enc.fmtAdd_25_7 ..) (by decide) (fun hi => by
    have hp := pr_ok rfl hi
    have hr := range_ok hi
    rw [decodeWord, if_neg (notEdge (Enc.fmtAdd_25_7 ..) (by decide) (by decide)), Enc.fmtAdd_25_7]
    try rw [Enc.fmtAdd_18_5]
    show fldOk _ _ _ _ = _
    simp_all [Enc.fmtAdd_23_2, Enc.fmtAdd_9_9, Enc.fmtAdd_0_9, fldOk, Instr.rangeOk])
theorem rems (p : BitVec 2) (t : BitVec 9) (u : BitVec 9) : Statement (.rems p t u) :=
  ctWord 0x2#7 rfl rfl (Enc.fmtAdd_25_7 ..) (by decide) (fun hi => by
    have hp := pr_ok rfl hi
    have hr := range_ok hi
    rw [decodeWord, if_neg (notEdge (Enc.fmtAdd_25_7 ..) (by decide) (by decide)), Enc.fmtAdd_25_7]
    try rw [Enc.fmtAdd_18_5]
    show fldOk _ _ _ _ = _
    simp_all [Enc.fmtAdd_23_2, Enc.fmtAdd_9_9, Enc.fmtAdd_0_9, fldOk, Instr.rangeOk])
theorem remn (p : BitVec 2) (t : BitVec 9) (u : BitVec 9) : Statement (.remn p t u) :=
  ctWord 0x2#7 rfl rfl (Enc.fmtAdd_25_7 ..) (by decide) (fun hi => by
    have hp := pr_ok rfl hi
    have hr := range_ok hi
    rw [decodeWord, if_neg (notEdge (Enc.fmtAdd_25_7 ..) (by decide) (by decide)), Enc.fmtAdd_25_7]
    try rw [Enc.fmtAdd_18_5]
    show fldOk _ _ _ _ = _
    simp_all [Enc.fmtAdd_23_2, Enc.fmtAdd_9_9, Enc.fmtAdd_0_9, fldOk, Instr.rangeOk])
theorem and (p : BitVec 2) (t : BitVec 9) (u : BitVec 9) : Statement (.and p t u) :=
  ctWord 0x3#7 rfl rfl (Enc.fmtAdd_25_7 ..) (by decide) (fun hi => by
    have hp := pr_ok rfl hi
    have hr := range_ok hi
    rw [decodeWord, if_neg (notEdge (Enc.fmtAdd_25_7 ..) (by decide) (by decide)), Enc.fmtAdd_25_7]
    try rw [Enc.fmtAdd_18_5]
    show fldOk _ _ _ _ = _
    simp_all [Enc.fmtAdd_23_2, Enc.fmtAdd_9_9, Enc.fmtAdd_0_9, fldOk, Instr.rangeOk])
theorem or (p : BitVec 2) (t : BitVec 9) (u : BitVec 9) : Statement (.or p t u) :=
  ctWord 0x3#7 rfl rfl (Enc.fmtAdd_25_7 ..) (by decide) (fun hi => by
    have hp := pr_ok rfl hi
    have hr := range_ok hi
    rw [decodeWord, if_neg (notEdge (Enc.fmtAdd_25_7 ..) (by decide) (by decide)), Enc.fmtAdd_25_7]
    try rw [Enc.fmtAdd_18_5]
    show fldOk _ _ _ _ = _
    simp_all [Enc.fmtAdd_23_2, Enc.fmtAdd_9_9, Enc.fmtAdd_0_9, fldOk, Instr.rangeOk])
theorem xor (p : BitVec 2) (t : BitVec 9) (u : BitVec 9) : Statement (.xor p t u) :=
  ctWord 0x3#7 rfl rfl (Enc.fmtAdd_25_7 ..) (by decide) (fun hi => by
    have hp := pr_ok rfl hi
    have hr := range_ok hi
    rw [decodeWord, if_neg (notEdge (Enc.fmtAdd_25_7 ..) (by decide) (by decide)), Enc.fmtAdd_25_7]
    try rw [Enc.fmtAdd_18_5]
    show fldOk _ _ _ _ = _
    simp_all [Enc.fmtAdd_23_2, Enc.fmtAdd_9_9, Enc.fmtAdd_0_9, fldOk, Instr.rangeOk])
theorem andn (p : BitVec 2) (t : BitVec 9) (u : BitVec 9) : Statement (.andn p t u) :=
  ctWord 0x3#7 rfl rfl (Enc.fmtAdd_25_7 ..) (by decide) (fun hi => by
    have hp := pr_ok rfl hi
    have hr := range_ok hi
    rw [decodeWord, if_neg (notEdge (Enc.fmtAdd_25_7 ..) (by decide) (by decide)), Enc.fmtAdd_25_7]
    try rw [Enc.fmtAdd_18_5]
    show fldOk _ _ _ _ = _
    simp_all [Enc.fmtAdd_23_2, Enc.fmtAdd_9_9, Enc.fmtAdd_0_9, fldOk, Instr.rangeOk])
theorem shl (p : BitVec 2) (t : BitVec 9) (u : BitVec 9) : Statement (.shl p t u) :=
  ctWord 0x4#7 rfl rfl (Enc.fmtAdd_25_7 ..) (by decide) (fun hi => by
    have hp := pr_ok rfl hi
    have hr := range_ok hi
    rw [decodeWord, if_neg (notEdge (Enc.fmtAdd_25_7 ..) (by decide) (by decide)), Enc.fmtAdd_25_7]
    try rw [Enc.fmtAdd_18_5]
    show fldOk _ _ _ _ = _
    simp_all [Enc.fmtAdd_23_2, Enc.fmtAdd_9_9, Enc.fmtAdd_0_9, fldOk, Instr.rangeOk])
theorem shr (p : BitVec 2) (t : BitVec 9) (u : BitVec 9) : Statement (.shr p t u) :=
  ctWord 0x4#7 rfl rfl (Enc.fmtAdd_25_7 ..) (by decide) (fun hi => by
    have hp := pr_ok rfl hi
    have hr := range_ok hi
    rw [decodeWord, if_neg (notEdge (Enc.fmtAdd_25_7 ..) (by decide) (by decide)), Enc.fmtAdd_25_7]
    try rw [Enc.fmtAdd_18_5]
    show fldOk _ _ _ _ = _
    simp_all [Enc.fmtAdd_23_2, Enc.fmtAdd_9_9, Enc.fmtAdd_0_9, fldOk, Instr.rangeOk])
theorem sha (p : BitVec 2) (t : BitVec 9) (u : BitVec 9) : Statement (.sha p t u) :=
  ctWord 0x4#7 rfl rfl (Enc.fmtAdd_25_7 ..) (by decide) (fun hi => by
    have hp := pr_ok rfl hi
    have hr := range_ok hi
    rw [decodeWord, if_neg (notEdge (Enc.fmtAdd_25_7 ..) (by decide) (by decide)), Enc.fmtAdd_25_7]
    try rw [Enc.fmtAdd_18_5]
    show fldOk _ _ _ _ = _
    simp_all [Enc.fmtAdd_23_2, Enc.fmtAdd_9_9, Enc.fmtAdd_0_9, fldOk, Instr.rangeOk])
theorem rol (p : BitVec 2) (t : BitVec 9) (u : BitVec 9) : Statement (.rol p t u) :=
  ctWord 0x4#7 rfl rfl (Enc.fmtAdd_25_7 ..) (by decide) (fun hi => by
    have hp := pr_ok rfl hi
    have hr := range_ok hi
    rw [decodeWord, if_neg (notEdge (Enc.fmtAdd_25_7 ..) (by decide) (by decide)), Enc.fmtAdd_25_7]
    try rw [Enc.fmtAdd_18_5]
    show fldOk _ _ _ _ = _
    simp_all [Enc.fmtAdd_23_2, Enc.fmtAdd_9_9, Enc.fmtAdd_0_9, fldOk, Instr.rangeOk])
theorem clz (p : BitVec 2) (t : BitVec 9) (u : BitVec 9) : Statement (.clz p t u) :=
  ctWord 0x5#7 rfl rfl (Enc.fmtAdd_25_7 ..) (by decide) (fun hi => by
    have hp := pr_ok rfl hi
    have hr := range_ok hi
    rw [decodeWord, if_neg (notEdge (Enc.fmtAdd_25_7 ..) (by decide) (by decide)), Enc.fmtAdd_25_7]
    try rw [Enc.fmtAdd_18_5]
    show fldOk _ _ _ _ = _
    simp_all [Enc.fmtAdd_23_2, Enc.fmtAdd_9_9, Enc.fmtAdd_0_9, fldOk, Instr.rangeOk])
theorem ctz (p : BitVec 2) (t : BitVec 9) (u : BitVec 9) : Statement (.ctz p t u) :=
  ctWord 0x5#7 rfl rfl (Enc.fmtAdd_25_7 ..) (by decide) (fun hi => by
    have hp := pr_ok rfl hi
    have hr := range_ok hi
    rw [decodeWord, if_neg (notEdge (Enc.fmtAdd_25_7 ..) (by decide) (by decide)), Enc.fmtAdd_25_7]
    try rw [Enc.fmtAdd_18_5]
    show fldOk _ _ _ _ = _
    simp_all [Enc.fmtAdd_23_2, Enc.fmtAdd_9_9, Enc.fmtAdd_0_9, fldOk, Instr.rangeOk])
theorem popc (p : BitVec 2) (t : BitVec 9) (u : BitVec 9) : Statement (.popc p t u) :=
  ctWord 0x5#7 rfl rfl (Enc.fmtAdd_25_7 ..) (by decide) (fun hi => by
    have hp := pr_ok rfl hi
    have hr := range_ok hi
    rw [decodeWord, if_neg (notEdge (Enc.fmtAdd_25_7 ..) (by decide) (by decide)), Enc.fmtAdd_25_7]
    try rw [Enc.fmtAdd_18_5]
    show fldOk _ _ _ _ = _
    simp_all [Enc.fmtAdd_23_2, Enc.fmtAdd_9_9, Enc.fmtAdd_0_9, fldOk, Instr.rangeOk])
theorem mov (p : BitVec 2) (t : BitVec 9) (u : BitVec 9) : Statement (.mov p t u) :=
  ctWord 0x5#7 rfl rfl (Enc.fmtAdd_25_7 ..) (by decide) (fun hi => by
    have hp := pr_ok rfl hi
    have hr := range_ok hi
    rw [decodeWord, if_neg (notEdge (Enc.fmtAdd_25_7 ..) (by decide) (by decide)), Enc.fmtAdd_25_7]
    try rw [Enc.fmtAdd_18_5]
    show fldOk _ _ _ _ = _
    simp_all [Enc.fmtAdd_23_2, Enc.fmtAdd_9_9, Enc.fmtAdd_0_9, fldOk, Instr.rangeOk])
theorem sext (p : BitVec 2) (w : BitVec 2) (t : BitVec 9) (u : BitVec 9) : Statement (.sext p w t u) :=
  ctWord 0x6#7 rfl rfl (Enc.fmtSext_25_7 ..) (by decide) (fun hi => by
    have hp := pr_ok rfl hi
    have hr := range_ok hi
    rw [decodeWord, if_neg (notEdge (Enc.fmtSext_25_7 ..) (by decide) (by decide)), Enc.fmtSext_25_7]
    simp_all [Enc.fmtSext_25_7, Enc.fmtSext_23_2, Enc.fmtSext_20_3, Enc.fmtSext_18_2, Enc.fmtSext_9_9, Enc.fmtSext_0_9, fldOk, Instr.rangeOk])
theorem zext (p : BitVec 2) (w : BitVec 2) (t : BitVec 9) (u : BitVec 9) : Statement (.zext p w t u) :=
  ctWord 0x6#7 rfl rfl (Enc.fmtSext_25_7 ..) (by decide) (fun hi => by
    have hp := pr_ok rfl hi
    have hr := range_ok hi
    rw [decodeWord, if_neg (notEdge (Enc.fmtSext_25_7 ..) (by decide) (by decide)), Enc.fmtSext_25_7]
    simp_all [Enc.fmtSext_25_7, Enc.fmtSext_23_2, Enc.fmtSext_20_3, Enc.fmtSext_18_2, Enc.fmtSext_9_9, Enc.fmtSext_0_9, fldOk, Instr.rangeOk])
theorem addi (p : BitVec 2) (i : BitVec 14) (t : BitVec 9) : Statement (.addi p i t) :=
  ctWord 0x7#7 rfl rfl (Enc.fmtAddi_25_7 ..) (by decide) (fun hi => by
    have hp := pr_ok rfl hi
    have hr := range_ok hi
    rw [decodeWord, if_neg (notEdge (Enc.fmtAddi_25_7 ..) (by decide) (by decide)), Enc.fmtAddi_25_7]
    show fldOk _ _ _ _ = _
    simp_all [Enc.fmtAddi_23_2, Enc.fmtAddi_9_14, Enc.fmtAddi_0_9, fldOk, Instr.rangeOk])
theorem muli (p : BitVec 2) (i : BitVec 14) (t : BitVec 9) : Statement (.muli p i t) :=
  ctWord 0x8#7 rfl rfl (Enc.fmtAddi_25_7 ..) (by decide) (fun hi => by
    have hp := pr_ok rfl hi
    have hr := range_ok hi
    rw [decodeWord, if_neg (notEdge (Enc.fmtAddi_25_7 ..) (by decide) (by decide)), Enc.fmtAddi_25_7]
    show fldOk _ _ _ _ = _
    simp_all [Enc.fmtAddi_23_2, Enc.fmtAddi_9_14, Enc.fmtAddi_0_9, fldOk, Instr.rangeOk])
theorem andi (p : BitVec 2) (i : BitVec 14) (t : BitVec 9) : Statement (.andi p i t) :=
  ctWord 0x9#7 rfl rfl (Enc.fmtAddi_25_7 ..) (by decide) (fun hi => by
    have hp := pr_ok rfl hi
    have hr := range_ok hi
    rw [decodeWord, if_neg (notEdge (Enc.fmtAddi_25_7 ..) (by decide) (by decide)), Enc.fmtAddi_25_7]
    show fldOk _ _ _ _ = _
    simp_all [Enc.fmtAddi_23_2, Enc.fmtAddi_9_14, Enc.fmtAddi_0_9, fldOk, Instr.rangeOk])
theorem ori (p : BitVec 2) (i : BitVec 14) (t : BitVec 9) : Statement (.ori p i t) :=
  ctWord 0xA#7 rfl rfl (Enc.fmtAddi_25_7 ..) (by decide) (fun hi => by
    have hp := pr_ok rfl hi
    have hr := range_ok hi
    rw [decodeWord, if_neg (notEdge (Enc.fmtAddi_25_7 ..) (by decide) (by decide)), Enc.fmtAddi_25_7]
    show fldOk _ _ _ _ = _
    simp_all [Enc.fmtAddi_23_2, Enc.fmtAddi_9_14, Enc.fmtAddi_0_9, fldOk, Instr.rangeOk])
theorem xori (p : BitVec 2) (i : BitVec 14) (t : BitVec 9) : Statement (.xori p i t) :=
  ctWord 0xB#7 rfl rfl (Enc.fmtAddi_25_7 ..) (by decide) (fun hi => by
    have hp := pr_ok rfl hi
    have hr := range_ok hi
    rw [decodeWord, if_neg (notEdge (Enc.fmtAddi_25_7 ..) (by decide) (by decide)), Enc.fmtAddi_25_7]
    show fldOk _ _ _ _ = _
    simp_all [Enc.fmtAddi_23_2, Enc.fmtAddi_9_14, Enc.fmtAddi_0_9, fldOk, Instr.rangeOk])
theorem shli (p : BitVec 2) (n : BitVec 6) (t : BitVec 9) : Statement (.shli p n t) :=
  ctWord 0xC#7 rfl rfl (Enc.fmtShli_25_7 ..) (by decide) (fun hi => by
    have hp := pr_ok rfl hi
    have hr := range_ok hi
    rw [decodeWord, if_neg (notEdge (Enc.fmtShli_25_7 ..) (by decide) (by decide)), Enc.fmtShli_25_7]
    show fldOk _ _ _ _ = _
    simp_all [Enc.fmtShli_23_2, Enc.fmtShli_15_8, Enc.fmtShli_9_6, Enc.fmtShli_0_9, fldOk, Instr.rangeOk])
theorem shri (p : BitVec 2) (n : BitVec 6) (t : BitVec 9) : Statement (.shri p n t) :=
  ctWord 0xD#7 rfl rfl (Enc.fmtShli_25_7 ..) (by decide) (fun hi => by
    have hp := pr_ok rfl hi
    have hr := range_ok hi
    rw [decodeWord, if_neg (notEdge (Enc.fmtShli_25_7 ..) (by decide) (by decide)), Enc.fmtShli_25_7]
    show fldOk _ _ _ _ = _
    simp_all [Enc.fmtShli_23_2, Enc.fmtShli_15_8, Enc.fmtShli_9_6, Enc.fmtShli_0_9, fldOk, Instr.rangeOk])
theorem shai (p : BitVec 2) (n : BitVec 6) (t : BitVec 9) : Statement (.shai p n t) :=
  ctWord 0xE#7 rfl rfl (Enc.fmtShli_25_7 ..) (by decide) (fun hi => by
    have hp := pr_ok rfl hi
    have hr := range_ok hi
    rw [decodeWord, if_neg (notEdge (Enc.fmtShli_25_7 ..) (by decide) (by decide)), Enc.fmtShli_25_7]
    show fldOk _ _ _ _ = _
    simp_all [Enc.fmtShli_23_2, Enc.fmtShli_15_8, Enc.fmtShli_9_6, Enc.fmtShli_0_9, fldOk, Instr.rangeOk])
theorem bfx (p : BitVec 2) (q : BitVec 6) (w : BitVec 6) (t : BitVec 9) : Statement (.bfx p q w t) :=
  ctWord 0xF#7 rfl rfl (Enc.fmtBfx_25_7 ..) (by decide) (fun hi => by
    have hp := pr_ok rfl hi
    have hr := range_ok hi
    rw [decodeWord, if_neg (notEdge (Enc.fmtBfx_25_7 ..) (by decide) (by decide)), Enc.fmtBfx_25_7]
    show fldOk _ _ _ _ = _
    simp_all [Enc.fmtBfx_23_2, Enc.fmtBfx_21_2, Enc.fmtBfx_15_6, Enc.fmtBfx_9_6, Enc.fmtBfx_0_9, fldOk, Instr.rangeOk])
theorem bfi (p : BitVec 2) (q : BitVec 6) (w : BitVec 6) (t : BitVec 9) : Statement (.bfi p q w t) :=
  ctWord 0x10#7 rfl rfl (Enc.fmtBfx_25_7 ..) (by decide) (fun hi => by
    have hp := pr_ok rfl hi
    have hr := range_ok hi
    rw [decodeWord, if_neg (notEdge (Enc.fmtBfx_25_7 ..) (by decide) (by decide)), Enc.fmtBfx_25_7]
    show fldOk _ _ _ _ = _
    simp_all [Enc.fmtBfx_23_2, Enc.fmtBfx_21_2, Enc.fmtBfx_15_6, Enc.fmtBfx_9_6, Enc.fmtBfx_0_9, fldOk, Instr.rangeOk])
theorem movc (c : BitVec 16) (t : BitVec 9) : Statement (.movc c t) :=
  ctWord 0x11#7 rfl rfl (Enc.fmtMovc_25_7 ..) (by decide) (fun hi => by
    have hp := pr_ok rfl hi
    have hr := range_ok hi
    rw [decodeWord, if_neg (notEdge (Enc.fmtMovc_25_7 ..) (by decide) (by decide)), Enc.fmtMovc_25_7]
    show fldOk _ _ _ _ = _
    simp_all [Enc.fmtMovc_9_16, Enc.fmtMovc_0_9, fldOk, Instr.rangeOk])
theorem movh (c : BitVec 16) (t : BitVec 9) : Statement (.movh c t) :=
  ctWord 0x12#7 rfl rfl (Enc.fmtMovc_25_7 ..) (by decide) (fun hi => by
    have hp := pr_ok rfl hi
    have hr := range_ok hi
    rw [decodeWord, if_neg (notEdge (Enc.fmtMovc_25_7 ..) (by decide) (by decide)), Enc.fmtMovc_25_7]
    show fldOk _ _ _ _ = _
    simp_all [Enc.fmtMovc_9_16, Enc.fmtMovc_0_9, fldOk, Instr.rangeOk])
theorem rdh (p : BitVec 2) (h : BitVec 5) (t : BitVec 9) (u : BitVec 9) : Statement (.rdh p h t u) :=
  ctWord 0x13#7 rfl rfl (Enc.fmtRdh_25_7 ..) (by decide) (fun hi => by
    have hp := pr_ok rfl hi
    have hr := range_ok hi
    rw [decodeWord, if_neg (notEdge (Enc.fmtRdh_25_7 ..) (by decide) (by decide)), Enc.fmtRdh_25_7]
    try rw [Enc.fmtRdh_18_5]
    show fldOk _ _ _ _ = _
    simp_all [Enc.fmtRdh_23_2, Enc.fmtRdh_9_9, Enc.fmtRdh_0_9, fldOk, Instr.rangeOk])
theorem teq (p : BitVec 2) (t : BitVec 9) (u : BitVec 9) : Statement (.teq p t u) :=
  ctWord 0x18#7 rfl rfl (Enc.fmtAdd_25_7 ..) (by decide) (fun hi => by
    have hp := pr_ok rfl hi
    have hr := range_ok hi
    rw [decodeWord, if_neg (notEdge (Enc.fmtAdd_25_7 ..) (by decide) (by decide)), Enc.fmtAdd_25_7]
    try rw [Enc.fmtAdd_18_5]
    show fldOk _ _ _ _ = _
    simp_all [Enc.fmtAdd_23_2, Enc.fmtAdd_9_9, Enc.fmtAdd_0_9, fldOk, Instr.rangeOk])
theorem tne (p : BitVec 2) (t : BitVec 9) (u : BitVec 9) : Statement (.tne p t u) :=
  ctWord 0x18#7 rfl rfl (Enc.fmtAdd_25_7 ..) (by decide) (fun hi => by
    have hp := pr_ok rfl hi
    have hr := range_ok hi
    rw [decodeWord, if_neg (notEdge (Enc.fmtAdd_25_7 ..) (by decide) (by decide)), Enc.fmtAdd_25_7]
    try rw [Enc.fmtAdd_18_5]
    show fldOk _ _ _ _ = _
    simp_all [Enc.fmtAdd_23_2, Enc.fmtAdd_9_9, Enc.fmtAdd_0_9, fldOk, Instr.rangeOk])
theorem tlt (p : BitVec 2) (t : BitVec 9) (u : BitVec 9) : Statement (.tlt p t u) :=
  ctWord 0x18#7 rfl rfl (Enc.fmtAdd_25_7 ..) (by decide) (fun hi => by
    have hp := pr_ok rfl hi
    have hr := range_ok hi
    rw [decodeWord, if_neg (notEdge (Enc.fmtAdd_25_7 ..) (by decide) (by decide)), Enc.fmtAdd_25_7]
    try rw [Enc.fmtAdd_18_5]
    show fldOk _ _ _ _ = _
    simp_all [Enc.fmtAdd_23_2, Enc.fmtAdd_9_9, Enc.fmtAdd_0_9, fldOk, Instr.rangeOk])
theorem tle (p : BitVec 2) (t : BitVec 9) (u : BitVec 9) : Statement (.tle p t u) :=
  ctWord 0x18#7 rfl rfl (Enc.fmtAdd_25_7 ..) (by decide) (fun hi => by
    have hp := pr_ok rfl hi
    have hr := range_ok hi
    rw [decodeWord, if_neg (notEdge (Enc.fmtAdd_25_7 ..) (by decide) (by decide)), Enc.fmtAdd_25_7]
    try rw [Enc.fmtAdd_18_5]
    show fldOk _ _ _ _ = _
    simp_all [Enc.fmtAdd_23_2, Enc.fmtAdd_9_9, Enc.fmtAdd_0_9, fldOk, Instr.rangeOk])
theorem tltn (p : BitVec 2) (t : BitVec 9) (u : BitVec 9) : Statement (.tltn p t u) :=
  ctWord 0x18#7 rfl rfl (Enc.fmtAdd_25_7 ..) (by decide) (fun hi => by
    have hp := pr_ok rfl hi
    have hr := range_ok hi
    rw [decodeWord, if_neg (notEdge (Enc.fmtAdd_25_7 ..) (by decide) (by decide)), Enc.fmtAdd_25_7]
    try rw [Enc.fmtAdd_18_5]
    show fldOk _ _ _ _ = _
    simp_all [Enc.fmtAdd_23_2, Enc.fmtAdd_9_9, Enc.fmtAdd_0_9, fldOk, Instr.rangeOk])
theorem tlen (p : BitVec 2) (t : BitVec 9) (u : BitVec 9) : Statement (.tlen p t u) :=
  ctWord 0x18#7 rfl rfl (Enc.fmtAdd_25_7 ..) (by decide) (fun hi => by
    have hp := pr_ok rfl hi
    have hr := range_ok hi
    rw [decodeWord, if_neg (notEdge (Enc.fmtAdd_25_7 ..) (by decide) (by decide)), Enc.fmtAdd_25_7]
    try rw [Enc.fmtAdd_18_5]
    show fldOk _ _ _ _ = _
    simp_all [Enc.fmtAdd_23_2, Enc.fmtAdd_9_9, Enc.fmtAdd_0_9, fldOk, Instr.rangeOk])
theorem teqi (p : BitVec 2) (i : BitVec 14) (t : BitVec 9) : Statement (.teqi p i t) :=
  ctWord 0x19#7 rfl rfl (Enc.fmtAddi_25_7 ..) (by decide) (fun hi => by
    have hp := pr_ok rfl hi
    have hr := range_ok hi
    rw [decodeWord, if_neg (notEdge (Enc.fmtAddi_25_7 ..) (by decide) (by decide)), Enc.fmtAddi_25_7]
    show fldOk _ _ _ _ = _
    simp_all [Enc.fmtAddi_23_2, Enc.fmtAddi_9_14, Enc.fmtAddi_0_9, fldOk, Instr.rangeOk])
theorem tlti (p : BitVec 2) (i : BitVec 14) (t : BitVec 9) : Statement (.tlti p i t) :=
  ctWord 0x1A#7 rfl rfl (Enc.fmtAddi_25_7 ..) (by decide) (fun hi => by
    have hp := pr_ok rfl hi
    have hr := range_ok hi
    rw [decodeWord, if_neg (notEdge (Enc.fmtAddi_25_7 ..) (by decide) (by decide)), Enc.fmtAddi_25_7]
    show fldOk _ _ _ _ = _
    simp_all [Enc.fmtAddi_23_2, Enc.fmtAddi_9_14, Enc.fmtAddi_0_9, fldOk, Instr.rangeOk])
theorem tltni (p : BitVec 2) (i : BitVec 14) (t : BitVec 9) : Statement (.tltni p i t) :=
  ctWord 0x1B#7 rfl rfl (Enc.fmtAddi_25_7 ..) (by decide) (fun hi => by
    have hp := pr_ok rfl hi
    have hr := range_ok hi
    rw [decodeWord, if_neg (notEdge (Enc.fmtAddi_25_7 ..) (by decide) (by decide)), Enc.fmtAddi_25_7]
    show fldOk _ _ _ _ = _
    simp_all [Enc.fmtAddi_23_2, Enc.fmtAddi_9_14, Enc.fmtAddi_0_9, fldOk, Instr.rangeOk])
theorem pand (p : BitVec 2) (t : BitVec 9) (u : BitVec 9) : Statement (.pand p t u) :=
  ctWord 0x1C#7 rfl rfl (Enc.fmtAdd_25_7 ..) (by decide) (fun hi => by
    have hp := pr_ok rfl hi
    have hr := range_ok hi
    rw [decodeWord, if_neg (notEdge (Enc.fmtAdd_25_7 ..) (by decide) (by decide)), Enc.fmtAdd_25_7]
    try rw [Enc.fmtAdd_18_5]
    show fldOk _ _ _ _ = _
    simp_all [Enc.fmtAdd_23_2, Enc.fmtAdd_9_9, Enc.fmtAdd_0_9, fldOk, Instr.rangeOk])
theorem por (p : BitVec 2) (t : BitVec 9) (u : BitVec 9) : Statement (.por p t u) :=
  ctWord 0x1C#7 rfl rfl (Enc.fmtAdd_25_7 ..) (by decide) (fun hi => by
    have hp := pr_ok rfl hi
    have hr := range_ok hi
    rw [decodeWord, if_neg (notEdge (Enc.fmtAdd_25_7 ..) (by decide) (by decide)), Enc.fmtAdd_25_7]
    try rw [Enc.fmtAdd_18_5]
    show fldOk _ _ _ _ = _
    simp_all [Enc.fmtAdd_23_2, Enc.fmtAdd_9_9, Enc.fmtAdd_0_9, fldOk, Instr.rangeOk])
theorem pnot (p : BitVec 2) (t : BitVec 9) (u : BitVec 9) : Statement (.pnot p t u) :=
  ctWord 0x1C#7 rfl rfl (Enc.fmtAdd_25_7 ..) (by decide) (fun hi => by
    have hp := pr_ok rfl hi
    have hr := range_ok hi
    rw [decodeWord, if_neg (notEdge (Enc.fmtAdd_25_7 ..) (by decide) (by decide)), Enc.fmtAdd_25_7]
    try rw [Enc.fmtAdd_18_5]
    show fldOk _ _ _ _ = _
    simp_all [Enc.fmtAdd_23_2, Enc.fmtAdd_9_9, Enc.fmtAdd_0_9, fldOk, Instr.rangeOk])
theorem ldb (p : BitVec 2) (l : BitVec 5) (i : BitVec 9) (t : BitVec 9) : Statement (.ldb p l i t) :=
  ctWord 0x20#7 rfl rfl (Enc.fmtRdh_25_7 ..) (by decide) (fun hi => by
    have hp := pr_ok rfl hi
    have hr := range_ok hi
    rw [decodeWord, if_neg (notEdge (Enc.fmtRdh_25_7 ..) (by decide) (by decide)), Enc.fmtRdh_25_7]
    try rw [Enc.fmtRdh_18_5]
    show fldOk _ _ _ _ = _
    simp_all [Enc.fmtRdh_23_2, Enc.fmtRdh_9_9, Enc.fmtRdh_0_9, fldOk, Instr.rangeOk])
theorem ldbs (p : BitVec 2) (l : BitVec 5) (i : BitVec 9) (t : BitVec 9) : Statement (.ldbs p l i t) :=
  ctWord 0x21#7 rfl rfl (Enc.fmtRdh_25_7 ..) (by decide) (fun hi => by
    have hp := pr_ok rfl hi
    have hr := range_ok hi
    rw [decodeWord, if_neg (notEdge (Enc.fmtRdh_25_7 ..) (by decide) (by decide)), Enc.fmtRdh_25_7]
    try rw [Enc.fmtRdh_18_5]
    show fldOk _ _ _ _ = _
    simp_all [Enc.fmtRdh_23_2, Enc.fmtRdh_9_9, Enc.fmtRdh_0_9, fldOk, Instr.rangeOk])
theorem ldh (p : BitVec 2) (l : BitVec 5) (i : BitVec 9) (t : BitVec 9) : Statement (.ldh p l i t) :=
  ctWord 0x22#7 rfl rfl (Enc.fmtRdh_25_7 ..) (by decide) (fun hi => by
    have hp := pr_ok rfl hi
    have hr := range_ok hi
    rw [decodeWord, if_neg (notEdge (Enc.fmtRdh_25_7 ..) (by decide) (by decide)), Enc.fmtRdh_25_7]
    try rw [Enc.fmtRdh_18_5]
    show fldOk _ _ _ _ = _
    simp_all [Enc.fmtRdh_23_2, Enc.fmtRdh_9_9, Enc.fmtRdh_0_9, fldOk, Instr.rangeOk])
theorem ldhs (p : BitVec 2) (l : BitVec 5) (i : BitVec 9) (t : BitVec 9) : Statement (.ldhs p l i t) :=
  ctWord 0x23#7 rfl rfl (Enc.fmtRdh_25_7 ..) (by decide) (fun hi => by
    have hp := pr_ok rfl hi
    have hr := range_ok hi
    rw [decodeWord, if_neg (notEdge (Enc.fmtRdh_25_7 ..) (by decide) (by decide)), Enc.fmtRdh_25_7]
    try rw [Enc.fmtRdh_18_5]
    show fldOk _ _ _ _ = _
    simp_all [Enc.fmtRdh_23_2, Enc.fmtRdh_9_9, Enc.fmtRdh_0_9, fldOk, Instr.rangeOk])
theorem ldw (p : BitVec 2) (l : BitVec 5) (i : BitVec 9) (t : BitVec 9) : Statement (.ldw p l i t) :=
  ctWord 0x24#7 rfl rfl (Enc.fmtRdh_25_7 ..) (by decide) (fun hi => by
    have hp := pr_ok rfl hi
    have hr := range_ok hi
    rw [decodeWord, if_neg (notEdge (Enc.fmtRdh_25_7 ..) (by decide) (by decide)), Enc.fmtRdh_25_7]
    try rw [Enc.fmtRdh_18_5]
    show fldOk _ _ _ _ = _
    simp_all [Enc.fmtRdh_23_2, Enc.fmtRdh_9_9, Enc.fmtRdh_0_9, fldOk, Instr.rangeOk])
theorem ldws (p : BitVec 2) (l : BitVec 5) (i : BitVec 9) (t : BitVec 9) : Statement (.ldws p l i t) :=
  ctWord 0x25#7 rfl rfl (Enc.fmtRdh_25_7 ..) (by decide) (fun hi => by
    have hp := pr_ok rfl hi
    have hr := range_ok hi
    rw [decodeWord, if_neg (notEdge (Enc.fmtRdh_25_7 ..) (by decide) (by decide)), Enc.fmtRdh_25_7]
    try rw [Enc.fmtRdh_18_5]
    show fldOk _ _ _ _ = _
    simp_all [Enc.fmtRdh_23_2, Enc.fmtRdh_9_9, Enc.fmtRdh_0_9, fldOk, Instr.rangeOk])
theorem ldd (p : BitVec 2) (l : BitVec 5) (i : BitVec 9) (t : BitVec 9) : Statement (.ldd p l i t) :=
  ctWord 0x26#7 rfl rfl (Enc.fmtRdh_25_7 ..) (by decide) (fun hi => by
    have hp := pr_ok rfl hi
    have hr := range_ok hi
    rw [decodeWord, if_neg (notEdge (Enc.fmtRdh_25_7 ..) (by decide) (by decide)), Enc.fmtRdh_25_7]
    try rw [Enc.fmtRdh_18_5]
    show fldOk _ _ _ _ = _
    simp_all [Enc.fmtRdh_23_2, Enc.fmtRdh_9_9, Enc.fmtRdh_0_9, fldOk, Instr.rangeOk])
theorem lda (p : BitVec 2) (l : BitVec 5) (s : BitVec 3) (t : BitVec 9) : Statement (.lda p l s t) :=
  ctWord 0x27#7 rfl rfl (Enc.fmtLda_25_7 ..) (by decide) (fun hi => by
    have hp := pr_ok rfl hi
    have hr := range_ok hi
    rw [decodeWord, if_neg (notEdge (Enc.fmtLda_25_7 ..) (by decide) (by decide)), Enc.fmtLda_25_7]
    rw [Enc.fmtLda_13_5]
    show fldOk _ _ _ _ = _
    simp_all [Enc.fmtLda_23_2, Enc.fmtLda_18_5, Enc.fmtLda_10_3, Enc.fmtLda_9_1, Enc.fmtLda_0_9, fldOk, Instr.rangeOk])
theorem ldred (p : BitVec 2) (l : BitVec 5) (s : BitVec 3) (t : BitVec 9) : Statement (.ldred p l s t) :=
  ctWord 0x28#7 rfl rfl (Enc.fmtLda_25_7 ..) (by decide) (fun hi => by
    have hp := pr_ok rfl hi
    have hr := range_ok hi
    rw [decodeWord, if_neg (notEdge (Enc.fmtLda_25_7 ..) (by decide) (by decide)), Enc.fmtLda_25_7]
    rw [Enc.fmtLda_13_5]
    show fldOk _ _ _ _ = _
    simp_all [Enc.fmtLda_23_2, Enc.fmtLda_18_5, Enc.fmtLda_10_3, Enc.fmtLda_9_1, Enc.fmtLda_0_9, fldOk, Instr.rangeOk])
theorem ldt (p : BitVec 2) (l : BitVec 5) (k : BitVec 8) (t : BitVec 9) : Statement (.ldt p l k t) :=
  ctWord 0x29#7 rfl rfl (Enc.fmtLdt_25_7 ..) (by decide) (fun hi => by
    have hp := pr_ok rfl hi
    have hr := range_ok hi
    rw [decodeWord, if_neg (notEdge (Enc.fmtLdt_25_7 ..) (by decide) (by decide)), Enc.fmtLdt_25_7]
    try rw [Enc.fmtLdt_18_5]
    show fldOk _ _ _ _ = _
    simp_all [Enc.fmtLdt_23_2, Enc.fmtLdt_17_1, Enc.fmtLdt_9_8, Enc.fmtLdt_0_9, fldOk, Instr.rangeOk])
theorem prf (p : BitVec 2) (l : BitVec 5) (i : BitVec 9) : Statement (.prf p l i) :=
  ctWord 0x2A#7 rfl rfl (Enc.fmtPrf_25_7 ..) (by decide) (fun hi => by
    have hp := pr_ok rfl hi
    have hr := range_ok hi
    rw [decodeWord, if_neg (notEdge (Enc.fmtPrf_25_7 ..) (by decide) (by decide)), Enc.fmtPrf_25_7]
    try rw [Enc.fmtPrf_18_5]
    show fldOk _ _ _ _ = _
    simp_all [Enc.fmtPrf_23_2, Enc.fmtPrf_9_9, Enc.fmtPrf_0_9, fldOk, Instr.rangeOk])
theorem stb (p : BitVec 2) (l : BitVec 5) (i : BitVec 18) : Statement (.stb p l i) :=
  ctWord 0x2B#7 rfl rfl (Enc.fmtStb_25_7 ..) (by decide) (fun hi => by
    have hp := pr_ok rfl hi
    have hr := range_ok hi
    rw [decodeWord, if_neg (notEdge (Enc.fmtStb_25_7 ..) (by decide) (by decide)), Enc.fmtStb_25_7]
    try rw [Enc.fmtStb_18_5]
    show fldOk _ _ _ _ = _
    simp_all [Enc.fmtStb_23_2, Enc.fmtStb_0_18, fldOk, Instr.rangeOk])
theorem sth (p : BitVec 2) (l : BitVec 5) (i : BitVec 18) : Statement (.sth p l i) :=
  ctWord 0x2C#7 rfl rfl (Enc.fmtStb_25_7 ..) (by decide) (fun hi => by
    have hp := pr_ok rfl hi
    have hr := range_ok hi
    rw [decodeWord, if_neg (notEdge (Enc.fmtStb_25_7 ..) (by decide) (by decide)), Enc.fmtStb_25_7]
    try rw [Enc.fmtStb_18_5]
    show fldOk _ _ _ _ = _
    simp_all [Enc.fmtStb_23_2, Enc.fmtStb_0_18, fldOk, Instr.rangeOk])
theorem stw (p : BitVec 2) (l : BitVec 5) (i : BitVec 18) : Statement (.stw p l i) :=
  ctWord 0x2D#7 rfl rfl (Enc.fmtStb_25_7 ..) (by decide) (fun hi => by
    have hp := pr_ok rfl hi
    have hr := range_ok hi
    rw [decodeWord, if_neg (notEdge (Enc.fmtStb_25_7 ..) (by decide) (by decide)), Enc.fmtStb_25_7]
    try rw [Enc.fmtStb_18_5]
    show fldOk _ _ _ _ = _
    simp_all [Enc.fmtStb_23_2, Enc.fmtStb_0_18, fldOk, Instr.rangeOk])
theorem std (p : BitVec 2) (l : BitVec 5) (i : BitVec 18) : Statement (.std p l i) :=
  ctWord 0x2E#7 rfl rfl (Enc.fmtStb_25_7 ..) (by decide) (fun hi => by
    have hp := pr_ok rfl hi
    have hr := range_ok hi
    rw [decodeWord, if_neg (notEdge (Enc.fmtStb_25_7 ..) (by decide) (by decide)), Enc.fmtStb_25_7]
    try rw [Enc.fmtStb_18_5]
    show fldOk _ _ _ _ = _
    simp_all [Enc.fmtStb_23_2, Enc.fmtStb_0_18, fldOk, Instr.rangeOk])
theorem stl (p : BitVec 2) (l : BitVec 5) (s : BitVec 3) (i : BitVec 15) : Statement (.stl p l s i) :=
  ctWord 0x2F#7 rfl rfl (Enc.fmtStl_25_7 ..) (by decide) (fun hi => by
    have hp := pr_ok rfl hi
    have hr := range_ok hi
    rw [decodeWord, if_neg (notEdge (Enc.fmtStl_25_7 ..) (by decide) (by decide)), Enc.fmtStl_25_7]
    try rw [Enc.fmtStl_18_5]
    show fldOk _ _ _ _ = _
    simp_all [Enc.fmtStl_23_2, Enc.fmtStl_15_3, Enc.fmtStl_0_15, fldOk, Instr.rangeOk])
theorem stt (p : BitVec 2) (l : BitVec 5) (k : BitVec 8) : Statement (.stt p l k) :=
  ctWord 0x30#7 rfl rfl (Enc.fmtStt_25_7 ..) (by decide) (fun hi => by
    have hp := pr_ok rfl hi
    have hr := range_ok hi
    rw [decodeWord, if_neg (notEdge (Enc.fmtStt_25_7 ..) (by decide) (by decide)), Enc.fmtStt_25_7]
    try rw [Enc.fmtStt_18_5]
    show fldOk _ _ _ _ = _
    simp_all [Enc.fmtStt_23_2, Enc.fmtStt_8_10, Enc.fmtStt_0_8, fldOk, Instr.rangeOk])
theorem spills (p : BitVec 2) (l : BitVec 5) (b : BitVec 5) (a : BitVec 5) : Statement (.spills p l b a) :=
  ctWord 0x31#7 rfl rfl (Enc.fmtSpills_25_7 ..) (by decide) (fun hi => by
    have hp := pr_ok rfl hi
    have hr := range_ok hi
    rw [decodeWord, if_neg (notEdge (Enc.fmtSpills_25_7 ..) (by decide) (by decide)), Enc.fmtSpills_25_7]
    try rw [Enc.fmtSpills_18_5]
    show fldOk _ _ _ _ = _
    simp_all [Enc.fmtSpills_23_2, Enc.fmtSpills_10_8, Enc.fmtSpills_5_5, Enc.fmtSpills_0_5, fldOk, Instr.rangeOk])
theorem fills (p : BitVec 2) (l : BitVec 5) (b : BitVec 5) (a : BitVec 5) : Statement (.fills p l b a) :=
  ctWord 0x32#7 rfl rfl (Enc.fmtSpills_25_7 ..) (by decide) (fun hi => by
    have hp := pr_ok rfl hi
    have hr := range_ok hi
    rw [decodeWord, if_neg (notEdge (Enc.fmtSpills_25_7 ..) (by decide) (by decide)), Enc.fmtSpills_25_7]
    try rw [Enc.fmtSpills_18_5]
    show fldOk _ _ _ _ = _
    simp_all [Enc.fmtSpills_23_2, Enc.fmtSpills_10_8, Enc.fmtSpills_5_5, Enc.fmtSpills_0_5, fldOk, Instr.rangeOk])
theorem aadd (p : BitVec 2) (l : BitVec 5) (s : BitVec 3) (t : BitVec 9) : Statement (.aadd p l s t) :=
  ctWord 0x38#7 rfl rfl (Enc.fmtLda_25_7 ..) (by decide) (fun hi => by
    have hp := pr_ok rfl hi
    have hr := range_ok hi
    rw [decodeWord, if_neg (notEdge (Enc.fmtLda_25_7 ..) (by decide) (by decide)), Enc.fmtLda_25_7]
    rw [Enc.fmtLda_13_5]
    show fldOk _ _ _ _ = _
    simp_all [Enc.fmtLda_23_2, Enc.fmtLda_18_5, Enc.fmtLda_10_3, Enc.fmtLda_9_1, Enc.fmtLda_0_9, fldOk, Instr.rangeOk])
theorem aaddf (p : BitVec 2) (l : BitVec 5) (s : BitVec 3) (t : BitVec 9) : Statement (.aaddf p l s t) :=
  ctWord 0x38#7 rfl rfl (Enc.fmtLda_25_7 ..) (by decide) (fun hi => by
    have hp := pr_ok rfl hi
    have hr := range_ok hi
    rw [decodeWord, if_neg (notEdge (Enc.fmtLda_25_7 ..) (by decide) (by decide)), Enc.fmtLda_25_7]
    rw [Enc.fmtLda_13_5]
    show fldOk _ _ _ _ = _
    simp_all [Enc.fmtLda_23_2, Enc.fmtLda_18_5, Enc.fmtLda_10_3, Enc.fmtLda_9_1, Enc.fmtLda_0_9, fldOk, Instr.rangeOk])
theorem amin (p : BitVec 2) (l : BitVec 5) (s : BitVec 3) (t : BitVec 9) : Statement (.amin p l s t) :=
  ctWord 0x38#7 rfl rfl (Enc.fmtLda_25_7 ..) (by decide) (fun hi => by
    have hp := pr_ok rfl hi
    have hr := range_ok hi
    rw [decodeWord, if_neg (notEdge (Enc.fmtLda_25_7 ..) (by decide) (by decide)), Enc.fmtLda_25_7]
    rw [Enc.fmtLda_13_5]
    show fldOk _ _ _ _ = _
    simp_all [Enc.fmtLda_23_2, Enc.fmtLda_18_5, Enc.fmtLda_10_3, Enc.fmtLda_9_1, Enc.fmtLda_0_9, fldOk, Instr.rangeOk])
theorem amax (p : BitVec 2) (l : BitVec 5) (s : BitVec 3) (t : BitVec 9) : Statement (.amax p l s t) :=
  ctWord 0x38#7 rfl rfl (Enc.fmtLda_25_7 ..) (by decide) (fun hi => by
    have hp := pr_ok rfl hi
    have hr := range_ok hi
    rw [decodeWord, if_neg (notEdge (Enc.fmtLda_25_7 ..) (by decide) (by decide)), Enc.fmtLda_25_7]
    rw [Enc.fmtLda_13_5]
    show fldOk _ _ _ _ = _
    simp_all [Enc.fmtLda_23_2, Enc.fmtLda_18_5, Enc.fmtLda_10_3, Enc.fmtLda_9_1, Enc.fmtLda_0_9, fldOk, Instr.rangeOk])
theorem aminn (p : BitVec 2) (l : BitVec 5) (s : BitVec 3) (t : BitVec 9) : Statement (.aminn p l s t) :=
  ctWord 0x38#7 rfl rfl (Enc.fmtLda_25_7 ..) (by decide) (fun hi => by
    have hp := pr_ok rfl hi
    have hr := range_ok hi
    rw [decodeWord, if_neg (notEdge (Enc.fmtLda_25_7 ..) (by decide) (by decide)), Enc.fmtLda_25_7]
    rw [Enc.fmtLda_13_5]
    show fldOk _ _ _ _ = _
    simp_all [Enc.fmtLda_23_2, Enc.fmtLda_18_5, Enc.fmtLda_10_3, Enc.fmtLda_9_1, Enc.fmtLda_0_9, fldOk, Instr.rangeOk])
theorem amaxn (p : BitVec 2) (l : BitVec 5) (s : BitVec 3) (t : BitVec 9) : Statement (.amaxn p l s t) :=
  ctWord 0x38#7 rfl rfl (Enc.fmtLda_25_7 ..) (by decide) (fun hi => by
    have hp := pr_ok rfl hi
    have hr := range_ok hi
    rw [decodeWord, if_neg (notEdge (Enc.fmtLda_25_7 ..) (by decide) (by decide)), Enc.fmtLda_25_7]
    rw [Enc.fmtLda_13_5]
    show fldOk _ _ _ _ = _
    simp_all [Enc.fmtLda_23_2, Enc.fmtLda_18_5, Enc.fmtLda_10_3, Enc.fmtLda_9_1, Enc.fmtLda_0_9, fldOk, Instr.rangeOk])
theorem aand (p : BitVec 2) (l : BitVec 5) (s : BitVec 3) (t : BitVec 9) : Statement (.aand p l s t) :=
  ctWord 0x38#7 rfl rfl (Enc.fmtLda_25_7 ..) (by decide) (fun hi => by
    have hp := pr_ok rfl hi
    have hr := range_ok hi
    rw [decodeWord, if_neg (notEdge (Enc.fmtLda_25_7 ..) (by decide) (by decide)), Enc.fmtLda_25_7]
    rw [Enc.fmtLda_13_5]
    show fldOk _ _ _ _ = _
    simp_all [Enc.fmtLda_23_2, Enc.fmtLda_18_5, Enc.fmtLda_10_3, Enc.fmtLda_9_1, Enc.fmtLda_0_9, fldOk, Instr.rangeOk])
theorem aor (p : BitVec 2) (l : BitVec 5) (s : BitVec 3) (t : BitVec 9) : Statement (.aor p l s t) :=
  ctWord 0x38#7 rfl rfl (Enc.fmtLda_25_7 ..) (by decide) (fun hi => by
    have hp := pr_ok rfl hi
    have hr := range_ok hi
    rw [decodeWord, if_neg (notEdge (Enc.fmtLda_25_7 ..) (by decide) (by decide)), Enc.fmtLda_25_7]
    rw [Enc.fmtLda_13_5]
    show fldOk _ _ _ _ = _
    simp_all [Enc.fmtLda_23_2, Enc.fmtLda_18_5, Enc.fmtLda_10_3, Enc.fmtLda_9_1, Enc.fmtLda_0_9, fldOk, Instr.rangeOk])
theorem axor (p : BitVec 2) (l : BitVec 5) (s : BitVec 3) (t : BitVec 9) : Statement (.axor p l s t) :=
  ctWord 0x38#7 rfl rfl (Enc.fmtLda_25_7 ..) (by decide) (fun hi => by
    have hp := pr_ok rfl hi
    have hr := range_ok hi
    rw [decodeWord, if_neg (notEdge (Enc.fmtLda_25_7 ..) (by decide) (by decide)), Enc.fmtLda_25_7]
    rw [Enc.fmtLda_13_5]
    show fldOk _ _ _ _ = _
    simp_all [Enc.fmtLda_23_2, Enc.fmtLda_18_5, Enc.fmtLda_10_3, Enc.fmtLda_9_1, Enc.fmtLda_0_9, fldOk, Instr.rangeOk])
theorem aswp (p : BitVec 2) (l : BitVec 5) (s : BitVec 3) (t : BitVec 9) : Statement (.aswp p l s t) :=
  ctWord 0x38#7 rfl rfl (Enc.fmtLda_25_7 ..) (by decide) (fun hi => by
    have hp := pr_ok rfl hi
    have hr := range_ok hi
    rw [decodeWord, if_neg (notEdge (Enc.fmtLda_25_7 ..) (by decide) (by decide)), Enc.fmtLda_25_7]
    rw [Enc.fmtLda_13_5]
    show fldOk _ _ _ _ = _
    simp_all [Enc.fmtLda_23_2, Enc.fmtLda_18_5, Enc.fmtLda_10_3, Enc.fmtLda_9_1, Enc.fmtLda_0_9, fldOk, Instr.rangeOk])
theorem acas (p : BitVec 2) (l : BitVec 5) (s : BitVec 3) (t : BitVec 9) : Statement (.acas p l s t) :=
  ctWord 0x38#7 rfl rfl (Enc.fmtLda_25_7 ..) (by decide) (fun hi => by
    have hp := pr_ok rfl hi
    have hr := range_ok hi
    rw [decodeWord, if_neg (notEdge (Enc.fmtLda_25_7 ..) (by decide) (by decide)), Enc.fmtLda_25_7]
    rw [Enc.fmtLda_13_5]
    show fldOk _ _ _ _ = _
    simp_all [Enc.fmtLda_23_2, Enc.fmtLda_18_5, Enc.fmtLda_10_3, Enc.fmtLda_9_1, Enc.fmtLda_0_9, fldOk, Instr.rangeOk])
theorem ainc (p : BitVec 2) (l : BitVec 5) (s : BitVec 3) (t : BitVec 9) : Statement (.ainc p l s t) :=
  ctWord 0x38#7 rfl rfl (Enc.fmtLda_25_7 ..) (by decide) (fun hi => by
    have hp := pr_ok rfl hi
    have hr := range_ok hi
    rw [decodeWord, if_neg (notEdge (Enc.fmtLda_25_7 ..) (by decide) (by decide)), Enc.fmtLda_25_7]
    rw [Enc.fmtLda_13_5]
    show fldOk _ _ _ _ = _
    simp_all [Enc.fmtLda_23_2, Enc.fmtLda_18_5, Enc.fmtLda_10_3, Enc.fmtLda_9_1, Enc.fmtLda_0_9, fldOk, Instr.rangeOk])
theorem fence (p : BitVec 2) (l : BitVec 5) (s : BitVec 3) (t : BitVec 9) : Statement (.fence p l s t) :=
  ctWord 0x40#7 rfl rfl (Enc.fmtLda_25_7 ..) (by decide) (fun hi => by
    have hp := pr_ok rfl hi
    have hr := range_ok hi
    rw [decodeWord, if_neg (notEdge (Enc.fmtLda_25_7 ..) (by decide) (by decide)), Enc.fmtLda_25_7]
    rw [Enc.fmtLda_13_5]
    show fldOk _ _ _ _ = _
    simp_all [Enc.fmtLda_23_2, Enc.fmtLda_18_5, Enc.fmtLda_10_3, Enc.fmtLda_9_1, Enc.fmtLda_0_9, fldOk, Instr.rangeOk])
theorem xfence (p : BitVec 2) (l : BitVec 5) (f : BitVec 8) (g : BitVec 7) (s : BitVec 3) : Statement (.xfence p l f g s) :=
  ctWord 0x41#7 rfl rfl (Enc.fmtXfence_25_7 ..) (by decide) (fun hi => by
    have hp := pr_ok rfl hi
    have hr := range_ok hi
    rw [decodeWord, if_neg (notEdge (Enc.fmtXfence_25_7 ..) (by decide) (by decide)), Enc.fmtXfence_25_7]
    try rw [Enc.fmtXfence_18_5]
    show fldOk _ _ _ _ = _
    simp_all [Enc.fmtXfence_23_2, Enc.fmtXfence_10_8, Enc.fmtXfence_3_7, Enc.fmtXfence_0_3, fldOk, Instr.rangeOk])
theorem sbar (p : BitVec 2) (l : BitVec 5) (a : BitVec 1) (g : BitVec 2) : Statement (.sbar p l a g) :=
  ctWord 0x42#7 rfl rfl (Enc.fmtSbar_25_7 ..) (by decide) (fun hi => by
    have hp := pr_ok rfl hi
    have hr := range_ok hi
    rw [decodeWord, if_neg (notEdge (Enc.fmtSbar_25_7 ..) (by decide) (by decide)), Enc.fmtSbar_25_7]
    try rw [Enc.fmtSbar_18_5]
    show fldOk _ _ _ _ = _
    simp_all [Enc.fmtSbar_23_2, Enc.fmtSbar_3_15, Enc.fmtSbar_2_1, Enc.fmtSbar_0_2, fldOk, Instr.rangeOk])
theorem abar (p : BitVec 2) (l : BitVec 5) (m : BitVec 8) : Statement (.abar p l m) :=
  ctWord 0x43#7 rfl rfl (Enc.fmtStt_25_7 ..) (by decide) (fun hi => by
    have hp := pr_ok rfl hi
    have hr := range_ok hi
    rw [decodeWord, if_neg (notEdge (Enc.fmtStt_25_7 ..) (by decide) (by decide)), Enc.fmtStt_25_7]
    try rw [Enc.fmtStt_18_5]
    show fldOk _ _ _ _ = _
    simp_all [Enc.fmtStt_23_2, Enc.fmtStt_8_10, Enc.fmtStt_0_8, fldOk, Instr.rangeOk])
theorem wbar (p : BitVec 2) (l : BitVec 5) (s : BitVec 3) : Statement (.wbar p l s) :=
  ctWord 0x44#7 rfl rfl (Enc.fmtWbar_25_7 ..) (by decide) (fun hi => by
    have hp := pr_ok rfl hi
    have hr := range_ok hi
    rw [decodeWord, if_neg (notEdge (Enc.fmtWbar_25_7 ..) (by decide) (by decide)), Enc.fmtWbar_25_7]
    try rw [Enc.fmtWbar_18_5]
    show fldOk _ _ _ _ = _
    simp_all [Enc.fmtWbar_23_2, Enc.fmtWbar_3_15, Enc.fmtWbar_0_3, fldOk, Instr.rangeOk])
theorem tbar (p : BitVec 2) (l : BitVec 5) (q : BitVec 2) (k : BitVec 8) : Statement (.tbar p l q k) :=
  ctWord 0x45#7 rfl rfl (Enc.fmtTbar_25_7 ..) (by decide) (fun hi => by
    have hp := pr_ok rfl hi
    have hr := range_ok hi
    rw [decodeWord, if_neg (notEdge (Enc.fmtTbar_25_7 ..) (by decide) (by decide)), Enc.fmtTbar_25_7]
    try rw [Enc.fmtTbar_18_5]
    show fldOk _ _ _ _ = _
    simp_all [Enc.fmtTbar_23_2, Enc.fmtTbar_10_8, Enc.fmtTbar_8_2, Enc.fmtTbar_0_8, fldOk, Instr.rangeOk])
theorem yield (p : BitVec 2) (t : BitVec 9) (u : BitVec 9) : Statement (.yield p t u) :=
  ctWord 0x46#7 rfl rfl (Enc.fmtAdd_25_7 ..) (by decide) (fun hi => by
    have hp := pr_ok rfl hi
    have hr := range_ok hi
    rw [decodeWord, if_neg (notEdge (Enc.fmtAdd_25_7 ..) (by decide) (by decide)), Enc.fmtAdd_25_7]
    try rw [Enc.fmtAdd_18_5]
    show fldOk _ _ _ _ = _
    simp_all [Enc.fmtAdd_23_2, Enc.fmtAdd_9_9, Enc.fmtAdd_0_9, fldOk, Instr.rangeOk])
theorem wfe (p : BitVec 2) (t : BitVec 9) (u : BitVec 9) : Statement (.wfe p t u) :=
  ctWord 0x47#7 rfl rfl (Enc.fmtAdd_25_7 ..) (by decide) (fun hi => by
    have hp := pr_ok rfl hi
    have hr := range_ok hi
    rw [decodeWord, if_neg (notEdge (Enc.fmtAdd_25_7 ..) (by decide) (by decide)), Enc.fmtAdd_25_7]
    try rw [Enc.fmtAdd_18_5]
    show fldOk _ _ _ _ = _
    simp_all [Enc.fmtAdd_23_2, Enc.fmtAdd_9_9, Enc.fmtAdd_0_9, fldOk, Instr.rangeOk])
theorem sev (p : BitVec 2) (t : BitVec 9) (u : BitVec 9) : Statement (.sev p t u) :=
  ctWord 0x48#7 rfl rfl (Enc.fmtAdd_25_7 ..) (by decide) (fun hi => by
    have hp := pr_ok rfl hi
    have hr := range_ok hi
    rw [decodeWord, if_neg (notEdge (Enc.fmtAdd_25_7 ..) (by decide) (by decide)), Enc.fmtAdd_25_7]
    try rw [Enc.fmtAdd_18_5]
    show fldOk _ _ _ _ = _
    simp_all [Enc.fmtAdd_23_2, Enc.fmtAdd_9_9, Enc.fmtAdd_0_9, fldOk, Instr.rangeOk])
theorem nwrite (p : BitVec 2) (l : BitVec 5) (z : BitVec 1) : Statement (.nwrite p l z) :=
  ctWord 0x49#7 rfl rfl (Enc.fmtNwrite_25_7 ..) (by decide) (fun hi => by
    have hp := pr_ok rfl hi
    have hr := range_ok hi
    rw [decodeWord, if_neg (notEdge (Enc.fmtNwrite_25_7 ..) (by decide) (by decide)), Enc.fmtNwrite_25_7]
    try rw [Enc.fmtNwrite_18_5]
    show fldOk _ _ _ _ = _
    simp_all [Enc.fmtNwrite_23_2, Enc.fmtNwrite_1_17, Enc.fmtNwrite_0_1, fldOk, Instr.rangeOk])
theorem qrsv (p : BitVec 2) (n : BitVec 6) (t : BitVec 9) : Statement (.qrsv p n t) :=
  ctWord 0x50#7 rfl rfl (Enc.fmtShli_25_7 ..) (by decide) (fun hi => by
    have hp := pr_ok rfl hi
    have hr := range_ok hi
    rw [decodeWord, if_neg (notEdge (Enc.fmtShli_25_7 ..) (by decide) (by decide)), Enc.fmtShli_25_7]
    show fldOk _ _ _ _ = _
    simp_all [Enc.fmtShli_23_2, Enc.fmtShli_15_8, Enc.fmtShli_9_6, Enc.fmtShli_0_9, fldOk, Instr.rangeOk])
theorem qpush (p : BitVec 2) (n : BitVec 6) (t : BitVec 9) : Statement (.qpush p n t) :=
  ctWord 0x51#7 rfl rfl (Enc.fmtShli_25_7 ..) (by decide) (fun hi => by
    have hp := pr_ok rfl hi
    have hr := range_ok hi
    rw [decodeWord, if_neg (notEdge (Enc.fmtShli_25_7 ..) (by decide) (by decide)), Enc.fmtShli_25_7]
    show fldOk _ _ _ _ = _
    simp_all [Enc.fmtShli_23_2, Enc.fmtShli_15_8, Enc.fmtShli_9_6, Enc.fmtShli_0_9, fldOk, Instr.rangeOk])
theorem qwait (p : BitVec 2) (v : BitVec 2) (n : BitVec 6) (t : BitVec 9) : Statement (.qwait p v n t) :=
  ctWord 0x52#7 rfl rfl (Enc.fmtQwait_25_7 ..) (by decide) (fun hi => by
    have hp := pr_ok rfl hi
    have hr := range_ok hi
    rw [decodeWord, if_neg (notEdge (Enc.fmtQwait_25_7 ..) (by decide) (by decide)), Enc.fmtQwait_25_7]
    show fldOk _ _ _ _ = _
    simp_all [Enc.fmtQwait_23_2, Enc.fmtQwait_21_2, Enc.fmtQwait_15_6, Enc.fmtQwait_9_6, Enc.fmtQwait_0_9, fldOk, Instr.rangeOk])
theorem qpop (p : BitVec 2) (v : BitVec 2) (n : BitVec 6) (t : BitVec 9) : Statement (.qpop p v n t) :=
  ctWord 0x53#7 rfl rfl (Enc.fmtQwait_25_7 ..) (by decide) (fun hi => by
    have hp := pr_ok rfl hi
    have hr := range_ok hi
    rw [decodeWord, if_neg (notEdge (Enc.fmtQwait_25_7 ..) (by decide) (by decide)), Enc.fmtQwait_25_7]
    show fldOk _ _ _ _ = _
    simp_all [Enc.fmtQwait_23_2, Enc.fmtQwait_21_2, Enc.fmtQwait_15_6, Enc.fmtQwait_9_6, Enc.fmtQwait_0_9, fldOk, Instr.rangeOk])
theorem qadv (p : BitVec 2) (v : BitVec 2) (n : BitVec 6) (t : BitVec 9) : Statement (.qadv p v n t) :=
  ctWord 0x54#7 rfl rfl (Enc.fmtQwait_25_7 ..) (by decide) (fun hi => by
    have hp := pr_ok rfl hi
    have hr := range_ok hi
    rw [decodeWord, if_neg (notEdge (Enc.fmtQwait_25_7 ..) (by decide) (by decide)), Enc.fmtQwait_25_7]
    show fldOk _ _ _ _ = _
    simp_all [Enc.fmtQwait_23_2, Enc.fmtQwait_21_2, Enc.fmtQwait_15_6, Enc.fmtQwait_9_6, Enc.fmtQwait_0_9, fldOk, Instr.rangeOk])
theorem qpadv (p : BitVec 2) (v : BitVec 2) (n : BitVec 6) (t : BitVec 9) : Statement (.qpadv p v n t) :=
  ctWord 0x55#7 rfl rfl (Enc.fmtQwait_25_7 ..) (by decide) (fun hi => by
    have hp := pr_ok rfl hi
    have hr := range_ok hi
    rw [decodeWord, if_neg (notEdge (Enc.fmtQwait_25_7 ..) (by decide) (by decide)), Enc.fmtQwait_25_7]
    show fldOk _ _ _ _ = _
    simp_all [Enc.fmtQwait_23_2, Enc.fmtQwait_21_2, Enc.fmtQwait_15_6, Enc.fmtQwait_9_6, Enc.fmtQwait_0_9, fldOk, Instr.rangeOk])
theorem qpol (p : BitVec 2) (n : BitVec 6) (t : BitVec 9) : Statement (.qpol p n t) :=
  ctWord 0x56#7 rfl rfl (Enc.fmtShli_25_7 ..) (by decide) (fun hi => by
    have hp := pr_ok rfl hi
    have hr := range_ok hi
    rw [decodeWord, if_neg (notEdge (Enc.fmtShli_25_7 ..) (by decide) (by decide)), Enc.fmtShli_25_7]
    show fldOk _ _ _ _ = _
    simp_all [Enc.fmtShli_23_2, Enc.fmtShli_15_8, Enc.fmtShli_9_6, Enc.fmtShli_0_9, fldOk, Instr.rangeOk])
theorem qstat (p : BitVec 2) (v : BitVec 2) (n : BitVec 6) (t : BitVec 9) : Statement (.qstat p v n t) :=
  ctWord 0x57#7 rfl rfl (Enc.fmtQwait_25_7 ..) (by decide) (fun hi => by
    have hp := pr_ok rfl hi
    have hr := range_ok hi
    rw [decodeWord, if_neg (notEdge (Enc.fmtQwait_25_7 ..) (by decide) (by decide)), Enc.fmtQwait_25_7]
    show fldOk _ _ _ _ = _
    simp_all [Enc.fmtQwait_23_2, Enc.fmtQwait_21_2, Enc.fmtQwait_15_6, Enc.fmtQwait_9_6, Enc.fmtQwait_0_9, fldOk, Instr.rangeOk])
theorem qgap (p : BitVec 2) (n : BitVec 6) (t : BitVec 9) : Statement (.qgap p n t) :=
  ctWord 0x58#7 rfl rfl (Enc.fmtShli_25_7 ..) (by decide) (fun hi => by
    have hp := pr_ok rfl hi
    have hr := range_ok hi
    rw [decodeWord, if_neg (notEdge (Enc.fmtShli_25_7 ..) (by decide) (by decide)), Enc.fmtShli_25_7]
    show fldOk _ _ _ _ = _
    simp_all [Enc.fmtShli_23_2, Enc.fmtShli_15_8, Enc.fmtShli_9_6, Enc.fmtShli_0_9, fldOk, Instr.rangeOk])
theorem qmark (p : BitVec 2) (n : BitVec 6) (t : BitVec 9) : Statement (.qmark p n t) :=
  ctWord 0x59#7 rfl rfl (Enc.fmtShli_25_7 ..) (by decide) (fun hi => by
    have hp := pr_ok rfl hi
    have hr := range_ok hi
    rw [decodeWord, if_neg (notEdge (Enc.fmtShli_25_7 ..) (by decide) (by decide)), Enc.fmtShli_25_7]
    show fldOk _ _ _ _ = _
    simp_all [Enc.fmtShli_23_2, Enc.fmtShli_15_8, Enc.fmtShli_9_6, Enc.fmtShli_0_9, fldOk, Instr.rangeOk])
theorem rwait (p : BitVec 2) (n : BitVec 6) (t : BitVec 9) : Statement (.rwait p n t) :=
  ctWord 0x5A#7 rfl rfl (Enc.fmtShli_25_7 ..) (by decide) (fun hi => by
    have hp := pr_ok rfl hi
    have hr := range_ok hi
    rw [decodeWord, if_neg (notEdge (Enc.fmtShli_25_7 ..) (by decide) (by decide)), Enc.fmtShli_25_7]
    show fldOk _ _ _ _ = _
    simp_all [Enc.fmtShli_23_2, Enc.fmtShli_15_8, Enc.fmtShli_9_6, Enc.fmtShli_0_9, fldOk, Instr.rangeOk])
theorem rrel (p : BitVec 2) (n : BitVec 6) (t : BitVec 9) : Statement (.rrel p n t) :=
  ctWord 0x5B#7 rfl rfl (Enc.fmtShli_25_7 ..) (by decide) (fun hi => by
    have hp := pr_ok rfl hi
    have hr := range_ok hi
    rw [decodeWord, if_neg (notEdge (Enc.fmtShli_25_7 ..) (by decide) (by decide)), Enc.fmtShli_25_7]
    show fldOk _ _ _ _ = _
    simp_all [Enc.fmtShli_23_2, Enc.fmtShli_15_8, Enc.fmtShli_9_6, Enc.fmtShli_0_9, fldOk, Instr.rangeOk])
theorem sopen (p : BitVec 2) (l : BitVec 5) (s : BitVec 8) (t : BitVec 9) : Statement (.sopen p l s t) :=
  ctWord 0x60#7 rfl rfl (Enc.fmtLdt_25_7 ..) (by decide) (fun hi => by
    have hp := pr_ok rfl hi
    have hr := range_ok hi
    rw [decodeWord, if_neg (notEdge (Enc.fmtLdt_25_7 ..) (by decide) (by decide)), Enc.fmtLdt_25_7]
    try rw [Enc.fmtLdt_18_5]
    show fldOk _ _ _ _ = _
    simp_all [Enc.fmtLdt_23_2, Enc.fmtLdt_17_1, Enc.fmtLdt_9_8, Enc.fmtLdt_0_9, fldOk, Instr.rangeOk])
theorem sclose (p : BitVec 2) (l : BitVec 5) (s : BitVec 8) (t : BitVec 9) : Statement (.sclose p l s t) :=
  ctWord 0x61#7 rfl rfl (Enc.fmtLdt_25_7 ..) (by decide) (fun hi => by
    have hp := pr_ok rfl hi
    have hr := range_ok hi
    rw [decodeWord, if_neg (notEdge (Enc.fmtLdt_25_7 ..) (by decide) (by decide)), Enc.fmtLdt_25_7]
    try rw [Enc.fmtLdt_18_5]
    show fldOk _ _ _ _ = _
    simp_all [Enc.fmtLdt_23_2, Enc.fmtLdt_17_1, Enc.fmtLdt_9_8, Enc.fmtLdt_0_9, fldOk, Instr.rangeOk])
theorem sseek (p : BitVec 2) (s : BitVec 8) (t : BitVec 9) : Statement (.sseek p s t) :=
  ctWord 0x62#7 rfl rfl (Enc.fmtSseek_25_7 ..) (by decide) (fun hi => by
    have hp := pr_ok rfl hi
    have hr := range_ok hi
    rw [decodeWord, if_neg (notEdge (Enc.fmtSseek_25_7 ..) (by decide) (by decide)), Enc.fmtSseek_25_7]
    show fldOk _ _ _ _ = _
    simp_all [Enc.fmtSseek_23_2, Enc.fmtSseek_17_6, Enc.fmtSseek_9_8, Enc.fmtSseek_0_9, fldOk, Instr.rangeOk])
theorem shand (p : BitVec 2) (o : BitVec 4) (t : BitVec 9) : Statement (.shand p o t) :=
  ctWord 0x63#7 rfl rfl (Enc.fmtShand_25_7 ..) (by decide) (fun hi => by
    have hp := pr_ok rfl hi
    have hr := range_ok hi
    rw [decodeWord, if_neg (notEdge (Enc.fmtShand_25_7 ..) (by decide) (by decide)), Enc.fmtShand_25_7]
    show fldOk _ _ _ _ = _
    simp_all [Enc.fmtShand_23_2, Enc.fmtShand_13_10, Enc.fmtShand_9_4, Enc.fmtShand_0_9, fldOk, Instr.rangeOk])
theorem cfgld (p : BitVec 2) (g : BitVec 2) (t : BitVec 9) : Statement (.cfgld p g t) :=
  ctWord 0x64#7 rfl rfl (Enc.fmtCfgld_25_7 ..) (by decide) (fun hi => by
    have hp := pr_ok rfl hi
    have hr := range_ok hi
    rw [decodeWord, if_neg (notEdge (Enc.fmtCfgld_25_7 ..) (by decide) (by decide)), Enc.fmtCfgld_25_7]
    show fldOk _ _ _ _ = _
    simp_all [Enc.fmtCfgld_23_2, Enc.fmtCfgld_11_12, Enc.fmtCfgld_9_2, Enc.fmtCfgld_0_9, fldOk, Instr.rangeOk])
theorem cfgsh (p : BitVec 2) (g : BitVec 2) (t : BitVec 9) : Statement (.cfgsh p g t) :=
  ctWord 0x65#7 rfl rfl (Enc.fmtCfgld_25_7 ..) (by decide) (fun hi => by
    have hp := pr_ok rfl hi
    have hr := range_ok hi
    rw [decodeWord, if_neg (notEdge (Enc.fmtCfgld_25_7 ..) (by decide) (by decide)), Enc.fmtCfgld_25_7]
    show fldOk _ _ _ _ = _
    simp_all [Enc.fmtCfgld_23_2, Enc.fmtCfgld_11_12, Enc.fmtCfgld_9_2, Enc.fmtCfgld_0_9, fldOk, Instr.rangeOk])
theorem rgo (p : BitVec 2) (g : BitVec 2) (t : BitVec 9) : Statement (.rgo p g t) :=
  ctWord 0x66#7 rfl rfl (Enc.fmtCfgld_25_7 ..) (by decide) (fun hi => by
    have hp := pr_ok rfl hi
    have hr := range_ok hi
    rw [decodeWord, if_neg (notEdge (Enc.fmtCfgld_25_7 ..) (by decide) (by decide)), Enc.fmtCfgld_25_7]
    show fldOk _ _ _ _ = _
    simp_all [Enc.fmtCfgld_23_2, Enc.fmtCfgld_11_12, Enc.fmtCfgld_9_2, Enc.fmtCfgld_0_9, fldOk, Instr.rangeOk])
theorem rdrain (p : BitVec 2) (g : BitVec 2) (t : BitVec 9) : Statement (.rdrain p g t) :=
  ctWord 0x67#7 rfl rfl (Enc.fmtCfgld_25_7 ..) (by decide) (fun hi => by
    have hp := pr_ok rfl hi
    have hr := range_ok hi
    rw [decodeWord, if_neg (notEdge (Enc.fmtCfgld_25_7 ..) (by decide) (by decide)), Enc.fmtCfgld_25_7]
    show fldOk _ _ _ _ = _
    simp_all [Enc.fmtCfgld_23_2, Enc.fmtCfgld_11_12, Enc.fmtCfgld_9_2, Enc.fmtCfgld_0_9, fldOk, Instr.rangeOk])
theorem rstat (p : BitVec 2) (q : BitVec 6) (k : BitVec 8) (t : BitVec 9) : Statement (.rstat p q k t) :=
  ctWord 0x68#7 rfl rfl (Enc.fmtRstat_25_7 ..) (by decide) (fun hi => by
    have hp := pr_ok rfl hi
    have hr := range_ok hi
    rw [decodeWord, if_neg (notEdge (Enc.fmtRstat_25_7 ..) (by decide) (by decide)), Enc.fmtRstat_25_7]
    show fldOk _ _ _ _ = _
    simp_all [Enc.fmtRstat_23_2, Enc.fmtRstat_17_6, Enc.fmtRstat_9_8, Enc.fmtRstat_0_9, fldOk, Instr.rangeOk])
theorem rmark (p : BitVec 2) (g : BitVec 2) (t : BitVec 9) : Statement (.rmark p g t) :=
  ctWord 0x69#7 rfl rfl (Enc.fmtCfgld_25_7 ..) (by decide) (fun hi => by
    have hp := pr_ok rfl hi
    have hr := range_ok hi
    rw [decodeWord, if_neg (notEdge (Enc.fmtCfgld_25_7 ..) (by decide) (by decide)), Enc.fmtCfgld_25_7]
    show fldOk _ _ _ _ = _
    simp_all [Enc.fmtCfgld_23_2, Enc.fmtCfgld_11_12, Enc.fmtCfgld_9_2, Enc.fmtCfgld_0_9, fldOk, Instr.rangeOk])
theorem rroll (p : BitVec 2) (g : BitVec 2) (t : BitVec 9) : Statement (.rroll p g t) :=
  ctWord 0x6A#7 rfl rfl (Enc.fmtCfgld_25_7 ..) (by decide) (fun hi => by
    have hp := pr_ok rfl hi
    have hr := range_ok hi
    rw [decodeWord, if_neg (notEdge (Enc.fmtCfgld_25_7 ..) (by decide) (by decide)), Enc.fmtCfgld_25_7]
    show fldOk _ _ _ _ = _
    simp_all [Enc.fmtCfgld_23_2, Enc.fmtCfgld_11_12, Enc.fmtCfgld_9_2, Enc.fmtCfgld_0_9, fldOk, Instr.rangeOk])
theorem bankm (p : BitVec 2) (l : BitVec 5) (b : BitVec 5) (t : BitVec 9) : Statement (.bankm p l b t) :=
  ctWord 0x6B#7 rfl rfl (Enc.fmtBankm_25_7 ..) (by decide) (fun hi => by
    have hp := pr_ok rfl hi
    have hr := range_ok hi
    rw [decodeWord, if_neg (notEdge (Enc.fmtBankm_25_7 ..) (by decide) (by decide)), Enc.fmtBankm_25_7]
    try rw [Enc.fmtBankm_18_5]
    show fldOk _ _ _ _ = _
    simp_all [Enc.fmtBankm_23_2, Enc.fmtBankm_14_4, Enc.fmtBankm_9_5, Enc.fmtBankm_0_9, fldOk, Instr.rangeOk])
theorem ttsetDefine (p : BitVec 2) (k : BitVec 8) (t : BitVec 9) : Statement (.ttsetDefine p k t) :=
  ctWord 0x6C#7 rfl rfl (Enc.fmtSseek_25_7 ..) (by decide) (fun hi => by
    have hp := pr_ok rfl hi
    have hr := range_ok hi
    rw [decodeWord, if_neg (notEdge (Enc.fmtSseek_25_7 ..) (by decide) (by decide)), Enc.fmtSseek_25_7]
    rw [Enc.fmtSseek_17_6]
    show fldOk _ _ _ _ = _
    simp_all [Enc.fmtSseek_23_2, Enc.fmtSseek_9_8, Enc.fmtSseek_0_9, fldOk, Instr.rangeOk])
theorem ttsetUndefine (p : BitVec 2) (k : BitVec 8) (t : BitVec 9) : Statement (.ttsetUndefine p k t) :=
  ctWord 0x6C#7 rfl rfl (Enc.fmtSseek_25_7 ..) (by decide) (fun hi => by
    have hp := pr_ok rfl hi
    have hr := range_ok hi
    rw [decodeWord, if_neg (notEdge (Enc.fmtSseek_25_7 ..) (by decide) (by decide)), Enc.fmtSseek_25_7]
    rw [Enc.fmtSseek_17_6]
    show fldOk _ _ _ _ = _
    simp_all [Enc.fmtSseek_23_2, Enc.fmtSseek_9_8, Enc.fmtSseek_0_9, fldOk, Instr.rangeOk])
theorem ttsetFill (p : BitVec 2) (k : BitVec 8) (t : BitVec 9) : Statement (.ttsetFill p k t) :=
  ctWord 0x6C#7 rfl rfl (Enc.fmtSseek_25_7 ..) (by decide) (fun hi => by
    have hp := pr_ok rfl hi
    have hr := range_ok hi
    rw [decodeWord, if_neg (notEdge (Enc.fmtSseek_25_7 ..) (by decide) (by decide)), Enc.fmtSseek_25_7]
    rw [Enc.fmtSseek_17_6]
    show fldOk _ _ _ _ = _
    simp_all [Enc.fmtSseek_23_2, Enc.fmtSseek_9_8, Enc.fmtSseek_0_9, fldOk, Instr.rangeOk])
theorem ttsetReady (p : BitVec 2) (k : BitVec 8) (t : BitVec 9) : Statement (.ttsetReady p k t) :=
  ctWord 0x6C#7 rfl rfl (Enc.fmtSseek_25_7 ..) (by decide) (fun hi => by
    have hp := pr_ok rfl hi
    have hr := range_ok hi
    rw [decodeWord, if_neg (notEdge (Enc.fmtSseek_25_7 ..) (by decide) (by decide)), Enc.fmtSseek_25_7]
    rw [Enc.fmtSseek_17_6]
    show fldOk _ _ _ _ = _
    simp_all [Enc.fmtSseek_23_2, Enc.fmtSseek_9_8, Enc.fmtSseek_0_9, fldOk, Instr.rangeOk])
theorem ttsetAbort (p : BitVec 2) (k : BitVec 8) (t : BitVec 9) : Statement (.ttsetAbort p k t) :=
  ctWord 0x6C#7 rfl rfl (Enc.fmtSseek_25_7 ..) (by decide) (fun hi => by
    have hp := pr_ok rfl hi
    have hr := range_ok hi
    rw [decodeWord, if_neg (notEdge (Enc.fmtSseek_25_7 ..) (by decide) (by decide)), Enc.fmtSseek_25_7]
    rw [Enc.fmtSseek_17_6]
    show fldOk _ _ _ _ = _
    simp_all [Enc.fmtSseek_23_2, Enc.fmtSseek_9_8, Enc.fmtSseek_0_9, fldOk, Instr.rangeOk])
theorem ttsetDrain (p : BitVec 2) (k : BitVec 8) (t : BitVec 9) : Statement (.ttsetDrain p k t) :=
  ctWord 0x6C#7 rfl rfl (Enc.fmtSseek_25_7 ..) (by decide) (fun hi => by
    have hp := pr_ok rfl hi
    have hr := range_ok hi
    rw [decodeWord, if_neg (notEdge (Enc.fmtSseek_25_7 ..) (by decide) (by decide)), Enc.fmtSseek_25_7]
    rw [Enc.fmtSseek_17_6]
    show fldOk _ _ _ _ = _
    simp_all [Enc.fmtSseek_23_2, Enc.fmtSseek_9_8, Enc.fmtSseek_0_9, fldOk, Instr.rangeOk])
theorem ttsetEmpty (p : BitVec 2) (k : BitVec 8) (t : BitVec 9) : Statement (.ttsetEmpty p k t) :=
  ctWord 0x6C#7 rfl rfl (Enc.fmtSseek_25_7 ..) (by decide) (fun hi => by
    have hp := pr_ok rfl hi
    have hr := range_ok hi
    rw [decodeWord, if_neg (notEdge (Enc.fmtSseek_25_7 ..) (by decide) (by decide)), Enc.fmtSseek_25_7]
    rw [Enc.fmtSseek_17_6]
    show fldOk _ _ _ _ = _
    simp_all [Enc.fmtSseek_23_2, Enc.fmtSseek_9_8, Enc.fmtSseek_0_9, fldOk, Instr.rangeOk])
theorem ttq (p : BitVec 2) (w : BitVec 1) (k : BitVec 8) (t : BitVec 9) : Statement (.ttq p w k t) :=
  ctWord 0x6D#7 rfl rfl (Enc.fmtTtq_25_7 ..) (by decide) (fun hi => by
    have hp := pr_ok rfl hi
    have hr := range_ok hi
    rw [decodeWord, if_neg (notEdge (Enc.fmtTtq_25_7 ..) (by decide) (by decide)), Enc.fmtTtq_25_7]
    try rw [Enc.fmtTtq_18_5]
    show fldOk _ _ _ _ = _
    simp_all [Enc.fmtTtq_23_2, Enc.fmtTtq_17_1, Enc.fmtTtq_9_8, Enc.fmtTtq_0_9, fldOk, Instr.rangeOk])
theorem cparm (p : BitVec 2) (t : BitVec 9) (u : BitVec 9) : Statement (.cparm p t u) :=
  ctWord 0x70#7 rfl rfl (Enc.fmtAdd_25_7 ..) (by decide) (fun hi => by
    have hp := pr_ok rfl hi
    have hr := range_ok hi
    rw [decodeWord, if_neg (notEdge (Enc.fmtAdd_25_7 ..) (by decide) (by decide)), Enc.fmtAdd_25_7]
    try rw [Enc.fmtAdd_18_5]
    show fldOk _ _ _ _ = _
    simp_all [Enc.fmtAdd_23_2, Enc.fmtAdd_9_9, Enc.fmtAdd_0_9, fldOk, Instr.rangeOk])
theorem cpgo (p : BitVec 2) (t : BitVec 9) (u : BitVec 9) : Statement (.cpgo p t u) :=
  ctWord 0x70#7 rfl rfl (Enc.fmtAdd_25_7 ..) (by decide) (fun hi => by
    have hp := pr_ok rfl hi
    have hr := range_ok hi
    rw [decodeWord, if_neg (notEdge (Enc.fmtAdd_25_7 ..) (by decide) (by decide)), Enc.fmtAdd_25_7]
    try rw [Enc.fmtAdd_18_5]
    show fldOk _ _ _ _ = _
    simp_all [Enc.fmtAdd_23_2, Enc.fmtAdd_9_9, Enc.fmtAdd_0_9, fldOk, Instr.rangeOk])
theorem cpdis (p : BitVec 2) (t : BitVec 9) (u : BitVec 9) : Statement (.cpdis p t u) :=
  ctWord 0x70#7 rfl rfl (Enc.fmtAdd_25_7 ..) (by decide) (fun hi => by
    have hp := pr_ok rfl hi
    have hr := range_ok hi
    rw [decodeWord, if_neg (notEdge (Enc.fmtAdd_25_7 ..) (by decide) (by decide)), Enc.fmtAdd_25_7]
    try rw [Enc.fmtAdd_18_5]
    show fldOk _ _ _ _ = _
    simp_all [Enc.fmtAdd_23_2, Enc.fmtAdd_9_9, Enc.fmtAdd_0_9, fldOk, Instr.rangeOk])
theorem mxtask (p : BitVec 2) (t : BitVec 9) (u : BitVec 9) : Statement (.mxtask p t u) :=
  ctWord 0x70#7 rfl rfl (Enc.fmtAdd_25_7 ..) (by decide) (fun hi => by
    have hp := pr_ok rfl hi
    have hr := range_ok hi
    rw [decodeWord, if_neg (notEdge (Enc.fmtAdd_25_7 ..) (by decide) (by decide)), Enc.fmtAdd_25_7]
    try rw [Enc.fmtAdd_18_5]
    show fldOk _ _ _ _ = _
    simp_all [Enc.fmtAdd_23_2, Enc.fmtAdd_9_9, Enc.fmtAdd_0_9, fldOk, Instr.rangeOk])
theorem coll (p : BitVec 2) (t : BitVec 9) (u : BitVec 9) : Statement (.coll p t u) :=
  ctWord 0x70#7 rfl rfl (Enc.fmtAdd_25_7 ..) (by decide) (fun hi => by
    have hp := pr_ok rfl hi
    have hr := range_ok hi
    rw [decodeWord, if_neg (notEdge (Enc.fmtAdd_25_7 ..) (by decide) (by decide)), Enc.fmtAdd_25_7]
    try rw [Enc.fmtAdd_18_5]
    show fldOk _ _ _ _ = _
    simp_all [Enc.fmtAdd_23_2, Enc.fmtAdd_9_9, Enc.fmtAdd_0_9, fldOk, Instr.rangeOk])
theorem zres (p : BitVec 2) (t : BitVec 9) (u : BitVec 9) : Statement (.zres p t u) :=
  ctWord 0x71#7 rfl rfl (Enc.fmtAdd_25_7 ..) (by decide) (fun hi => by
    have hp := pr_ok rfl hi
    have hr := range_ok hi
    rw [decodeWord, if_neg (notEdge (Enc.fmtAdd_25_7 ..) (by decide) (by decide)), Enc.fmtAdd_25_7]
    try rw [Enc.fmtAdd_18_5]
    show fldOk _ _ _ _ = _
    simp_all [Enc.fmtAdd_23_2, Enc.fmtAdd_9_9, Enc.fmtAdd_0_9, fldOk, Instr.rangeOk])
theorem zrel (p : BitVec 2) (t : BitVec 9) (u : BitVec 9) : Statement (.zrel p t u) :=
  ctWord 0x71#7 rfl rfl (Enc.fmtAdd_25_7 ..) (by decide) (fun hi => by
    have hp := pr_ok rfl hi
    have hr := range_ok hi
    rw [decodeWord, if_neg (notEdge (Enc.fmtAdd_25_7 ..) (by decide) (by decide)), Enc.fmtAdd_25_7]
    try rw [Enc.fmtAdd_18_5]
    show fldOk _ _ _ _ = _
    simp_all [Enc.fmtAdd_23_2, Enc.fmtAdd_9_9, Enc.fmtAdd_0_9, fldOk, Instr.rangeOk])
theorem zbar (p : BitVec 2) (t : BitVec 9) (u : BitVec 9) : Statement (.zbar p t u) :=
  ctWord 0x71#7 rfl rfl (Enc.fmtAdd_25_7 ..) (by decide) (fun hi => by
    have hp := pr_ok rfl hi
    have hr := range_ok hi
    rw [decodeWord, if_neg (notEdge (Enc.fmtAdd_25_7 ..) (by decide) (by decide)), Enc.fmtAdd_25_7]
    try rw [Enc.fmtAdd_18_5]
    show fldOk _ _ _ _ = _
    simp_all [Enc.fmtAdd_23_2, Enc.fmtAdd_9_9, Enc.fmtAdd_0_9, fldOk, Instr.rangeOk])
theorem zanno (p : BitVec 2) (t : BitVec 9) (u : BitVec 9) : Statement (.zanno p t u) :=
  ctWord 0x71#7 rfl rfl (Enc.fmtAdd_25_7 ..) (by decide) (fun hi => by
    have hp := pr_ok rfl hi
    have hr := range_ok hi
    rw [decodeWord, if_neg (notEdge (Enc.fmtAdd_25_7 ..) (by decide) (by decide)), Enc.fmtAdd_25_7]
    try rw [Enc.fmtAdd_18_5]
    show fldOk _ _ _ _ = _
    simp_all [Enc.fmtAdd_23_2, Enc.fmtAdd_9_9, Enc.fmtAdd_0_9, fldOk, Instr.rangeOk])
theorem launch (p : BitVec 2) (t : BitVec 9) (u : BitVec 9) : Statement (.launch p t u) :=
  ctWord 0x72#7 rfl rfl (Enc.fmtAdd_25_7 ..) (by decide) (fun hi => by
    have hp := pr_ok rfl hi
    have hr := range_ok hi
    rw [decodeWord, if_neg (notEdge (Enc.fmtAdd_25_7 ..) (by decide) (by decide)), Enc.fmtAdd_25_7]
    try rw [Enc.fmtAdd_18_5]
    show fldOk _ _ _ _ = _
    simp_all [Enc.fmtAdd_23_2, Enc.fmtAdd_9_9, Enc.fmtAdd_0_9, fldOk, Instr.rangeOk])
theorem tenq (p : BitVec 2) (t : BitVec 9) (u : BitVec 9) : Statement (.tenq p t u) :=
  ctWord 0x72#7 rfl rfl (Enc.fmtAdd_25_7 ..) (by decide) (fun hi => by
    have hp := pr_ok rfl hi
    have hr := range_ok hi
    rw [decodeWord, if_neg (notEdge (Enc.fmtAdd_25_7 ..) (by decide) (by decide)), Enc.fmtAdd_25_7]
    try rw [Enc.fmtAdd_18_5]
    show fldOk _ _ _ _ = _
    simp_all [Enc.fmtAdd_23_2, Enc.fmtAdd_9_9, Enc.fmtAdd_0_9, fldOk, Instr.rangeOk])
theorem tdeq (p : BitVec 2) (t : BitVec 9) (u : BitVec 9) : Statement (.tdeq p t u) :=
  ctWord 0x72#7 rfl rfl (Enc.fmtAdd_25_7 ..) (by decide) (fun hi => by
    have hp := pr_ok rfl hi
    have hr := range_ok hi
    rw [decodeWord, if_neg (notEdge (Enc.fmtAdd_25_7 ..) (by decide) (by decide)), Enc.fmtAdd_25_7]
    try rw [Enc.fmtAdd_18_5]
    show fldOk _ _ _ _ = _
    simp_all [Enc.fmtAdd_23_2, Enc.fmtAdd_9_9, Enc.fmtAdd_0_9, fldOk, Instr.rangeOk])
theorem schnext (p : BitVec 2) (t : BitVec 9) (u : BitVec 9) : Statement (.schnext p t u) :=
  ctWord 0x72#7 rfl rfl (Enc.fmtAdd_25_7 ..) (by decide) (fun hi => by
    have hp := pr_ok rfl hi
    have hr := range_ok hi
    rw [decodeWord, if_neg (notEdge (Enc.fmtAdd_25_7 ..) (by decide) (by decide)), Enc.fmtAdd_25_7]
    try rw [Enc.fmtAdd_18_5]
    show fldOk _ _ _ _ = _
    simp_all [Enc.fmtAdd_23_2, Enc.fmtAdd_9_9, Enc.fmtAdd_0_9, fldOk, Instr.rangeOk])
theorem launchPark (p : BitVec 2) (t : BitVec 9) (u : BitVec 9) : Statement (.launchPark p t u) :=
  ctWord 0x72#7 rfl rfl (Enc.fmtAdd_25_7 ..) (by decide) (fun hi => by
    have hp := pr_ok rfl hi
    have hr := range_ok hi
    rw [decodeWord, if_neg (notEdge (Enc.fmtAdd_25_7 ..) (by decide) (by decide)), Enc.fmtAdd_25_7]
    try rw [Enc.fmtAdd_18_5]
    show fldOk _ _ _ _ = _
    simp_all [Enc.fmtAdd_23_2, Enc.fmtAdd_9_9, Enc.fmtAdd_0_9, fldOk, Instr.rangeOk])
theorem tdeqPark (p : BitVec 2) (t : BitVec 9) (u : BitVec 9) : Statement (.tdeqPark p t u) :=
  ctWord 0x72#7 rfl rfl (Enc.fmtAdd_25_7 ..) (by decide) (fun hi => by
    have hp := pr_ok rfl hi
    have hr := range_ok hi
    rw [decodeWord, if_neg (notEdge (Enc.fmtAdd_25_7 ..) (by decide) (by decide)), Enc.fmtAdd_25_7]
    try rw [Enc.fmtAdd_18_5]
    show fldOk _ _ _ _ = _
    simp_all [Enc.fmtAdd_23_2, Enc.fmtAdd_9_9, Enc.fmtAdd_0_9, fldOk, Instr.rangeOk])
theorem acopen (p : BitVec 2) (t : BitVec 9) (u : BitVec 9) : Statement (.acopen p t u) :=
  ctWord 0x73#7 rfl rfl (Enc.fmtAdd_25_7 ..) (by decide) (fun hi => by
    have hp := pr_ok rfl hi
    have hr := range_ok hi
    rw [decodeWord, if_neg (notEdge (Enc.fmtAdd_25_7 ..) (by decide) (by decide)), Enc.fmtAdd_25_7]
    try rw [Enc.fmtAdd_18_5]
    show fldOk _ _ _ _ = _
    simp_all [Enc.fmtAdd_23_2, Enc.fmtAdd_9_9, Enc.fmtAdd_0_9, fldOk, Instr.rangeOk])
theorem acadd (p : BitVec 2) (t : BitVec 9) (u : BitVec 9) : Statement (.acadd p t u) :=
  ctWord 0x73#7 rfl rfl (Enc.fmtAdd_25_7 ..) (by decide) (fun hi => by
    have hp := pr_ok rfl hi
    have hr := range_ok hi
    rw [decodeWord, if_neg (notEdge (Enc.fmtAdd_25_7 ..) (by decide) (by decide)), Enc.fmtAdd_25_7]
    try rw [Enc.fmtAdd_18_5]
    show fldOk _ _ _ _ = _
    simp_all [Enc.fmtAdd_23_2, Enc.fmtAdd_9_9, Enc.fmtAdd_0_9, fldOk, Instr.rangeOk])
theorem acscope (p : BitVec 2) (t : BitVec 9) (l : BitVec 5) : Statement (.acscope p t l) :=
  ctWord 0x73#7 rfl rfl (Enc.fmtAcscope_25_7 ..) (by decide) (fun hi => by
    have hp := pr_ok rfl hi
    have hr := range_ok hi
    rw [decodeWord, if_neg (notEdge (Enc.fmtAcscope_25_7 ..) (by decide) (by decide)), Enc.fmtAcscope_25_7]
    try rw [Enc.fmtAcscope_18_5]
    show fldOk _ _ _ _ = _
    simp_all [Enc.fmtAcscope_23_2, Enc.fmtAcscope_9_9, Enc.fmtAcscope_5_4, Enc.fmtAcscope_0_5, fldOk, Instr.rangeOk])
theorem acnorm (p : BitVec 2) (t : BitVec 9) (u : BitVec 9) : Statement (.acnorm p t u) :=
  ctWord 0x73#7 rfl rfl (Enc.fmtAdd_25_7 ..) (by decide) (fun hi => by
    have hp := pr_ok rfl hi
    have hr := range_ok hi
    rw [decodeWord, if_neg (notEdge (Enc.fmtAdd_25_7 ..) (by decide) (by decide)), Enc.fmtAdd_25_7]
    try rw [Enc.fmtAdd_18_5]
    show fldOk _ _ _ _ = _
    simp_all [Enc.fmtAdd_23_2, Enc.fmtAdd_9_9, Enc.fmtAdd_0_9, fldOk, Instr.rangeOk])
theorem acevict (p : BitVec 2) (t : BitVec 9) (u : BitVec 9) : Statement (.acevict p t u) :=
  ctWord 0x73#7 rfl rfl (Enc.fmtAdd_25_7 ..) (by decide) (fun hi => by
    have hp := pr_ok rfl hi
    have hr := range_ok hi
    rw [decodeWord, if_neg (notEdge (Enc.fmtAdd_25_7 ..) (by decide) (by decide)), Enc.fmtAdd_25_7]
    try rw [Enc.fmtAdd_18_5]
    show fldOk _ _ _ _ = _
    simp_all [Enc.fmtAdd_23_2, Enc.fmtAdd_9_9, Enc.fmtAdd_0_9, fldOk, Instr.rangeOk])
theorem acload (p : BitVec 2) (t : BitVec 9) (u : BitVec 9) : Statement (.acload p t u) :=
  ctWord 0x73#7 rfl rfl (Enc.fmtAdd_25_7 ..) (by decide) (fun hi => by
    have hp := pr_ok rfl hi
    have hr := range_ok hi
    rw [decodeWord, if_neg (notEdge (Enc.fmtAdd_25_7 ..) (by decide) (by decide)), Enc.fmtAdd_25_7]
    try rw [Enc.fmtAdd_18_5]
    show fldOk _ _ _ _ = _
    simp_all [Enc.fmtAdd_23_2, Enc.fmtAdd_9_9, Enc.fmtAdd_0_9, fldOk, Instr.rangeOk])
theorem br (p : BitVec 2) (e : BitVec 3) (o : BitVec 20) : Statement (.br p e o) :=
  ctWord 0x78#7 rfl rfl (Enc.fmtBr_25_7 ..) (by decide) (fun hi => by
    have hp := pr_ok rfl hi
    have hr := range_ok hi
    rw [decodeWord, if_neg (notEdge (Enc.fmtBr_25_7 ..) (by decide) (by decide)), Enc.fmtBr_25_7]
    show fldOk _ _ _ _ = _
    simp_all [Enc.fmtBr_23_2, Enc.fmtBr_20_3, Enc.fmtBr_0_20, fldOk, Instr.rangeOk])
theorem call (p : BitVec 2) (e : BitVec 3) (o : BitVec 20) : Statement (.call p e o) :=
  ctWord 0x79#7 rfl rfl (Enc.fmtBr_25_7 ..) (by decide) (fun hi => by
    have hp := pr_ok rfl hi
    have hr := range_ok hi
    rw [decodeWord, if_neg (notEdge (Enc.fmtBr_25_7 ..) (by decide) (by decide)), Enc.fmtBr_25_7]
    show fldOk _ _ _ _ = _
    simp_all [Enc.fmtBr_23_2, Enc.fmtBr_20_3, Enc.fmtBr_0_20, fldOk, Instr.rangeOk])
theorem brt (p : BitVec 2) (e : BitVec 3) : Statement (.brt p e) :=
  ctWord 0x7A#7 rfl rfl (Enc.fmtBrt_25_7 ..) (by decide) (fun hi => by
    have hp := pr_ok rfl hi
    have hr := range_ok hi
    rw [decodeWord, if_neg (notEdge (Enc.fmtBrt_25_7 ..) (by decide) (by decide)), Enc.fmtBrt_25_7]
    show fldOk _ _ _ _ = _
    simp_all [Enc.fmtBrt_23_2, Enc.fmtBrt_20_3, Enc.fmtBrt_0_20, fldOk, Instr.rangeOk])
theorem callt (p : BitVec 2) (e : BitVec 3) : Statement (.callt p e) :=
  ctWord 0x7B#7 rfl rfl (Enc.fmtBrt_25_7 ..) (by decide) (fun hi => by
    have hp := pr_ok rfl hi
    have hr := range_ok hi
    rw [decodeWord, if_neg (notEdge (Enc.fmtBrt_25_7 ..) (by decide) (by decide)), Enc.fmtBrt_25_7]
    show fldOk _ _ _ _ = _
    simp_all [Enc.fmtBrt_23_2, Enc.fmtBrt_20_3, Enc.fmtBrt_0_20, fldOk, Instr.rangeOk])
theorem ret (p : BitVec 2) (e : BitVec 3) : Statement (.ret p e) :=
  ctWord 0x7C#7 rfl rfl (Enc.fmtRet_25_7 ..) (by decide) (fun hi => by
    have hp := pr_ok rfl hi
    have hr := range_ok hi
    rw [decodeWord, if_neg (notEdge (Enc.fmtRet_25_7 ..) (by decide) (by decide)), Enc.fmtRet_25_7]
    simp_all [Enc.fmtRet_25_7, Enc.fmtRet_23_2, Enc.fmtRet_21_2, Enc.fmtRet_18_3, Enc.fmtRet_0_18, fldOk, Instr.rangeOk])
theorem sel (p : BitVec 2) (t : BitVec 9) (u : BitVec 9) : Statement (.sel p t u) :=
  ctWord 0x7C#7 rfl rfl (Enc.fmtAdd_25_7 ..) (by decide) (fun hi => by
    have hp := pr_ok rfl hi
    have hr := range_ok hi
    rw [decodeWord, if_neg (notEdge (Enc.fmtAdd_25_7 ..) (by decide) (by decide)), Enc.fmtAdd_25_7]
    rw [if_neg (show ¬ ((Enc.fmtAdd 0x7C#7 p 0x8#5 t u).extractLsb' 21 2 = 0#2) from by rw [← top2, Enc.fmtAdd_18_5]; decide), Enc.fmtAdd_18_5]
    show fldOk _ _ _ _ = _
    simp_all [Enc.fmtAdd_23_2, Enc.fmtAdd_9_9, Enc.fmtAdd_0_9, fldOk, Instr.rangeOk])
theorem nullw (p : BitVec 2) (t : BitVec 9) (u : BitVec 9) : Statement (.nullw p t u) :=
  ctWord 0x7C#7 rfl rfl (Enc.fmtAdd_25_7 ..) (by decide) (fun hi => by
    have hp := pr_ok rfl hi
    have hr := range_ok hi
    rw [decodeWord, if_neg (notEdge (Enc.fmtAdd_25_7 ..) (by decide) (by decide)), Enc.fmtAdd_25_7]
    rw [if_neg (show ¬ ((Enc.fmtAdd 0x7C#7 p 0x9#5 t u).extractLsb' 21 2 = 0#2) from by rw [← top2, Enc.fmtAdd_18_5]; decide), Enc.fmtAdd_18_5]
    show fldOk _ _ _ _ = _
    simp_all [Enc.fmtAdd_23_2, Enc.fmtAdd_9_9, Enc.fmtAdd_0_9, fldOk, Instr.rangeOk])
theorem nulls (p : BitVec 2) (t : BitVec 9) (l : BitVec 5) : Statement (.nulls p t l) :=
  ctWord 0x7C#7 rfl rfl (Enc.fmtAcscope_25_7 ..) (by decide) (fun hi => by
    have hp := pr_ok rfl hi
    have hr := range_ok hi
    rw [decodeWord, if_neg (notEdge (Enc.fmtAcscope_25_7 ..) (by decide) (by decide)), Enc.fmtAcscope_25_7]
    rw [if_neg (show ¬ ((Enc.fmtAcscope 0x7C#7 p 0xA#5 t 0x0#4 l).extractLsb' 21 2 = 0#2) from by rw [← top2, Enc.fmtAcscope_18_5]; decide), Enc.fmtAcscope_18_5]
    show fldOk _ _ _ _ = _
    simp_all [Enc.fmtAcscope_23_2, Enc.fmtAcscope_9_9, Enc.fmtAcscope_5_4, Enc.fmtAcscope_0_5, fldOk, Instr.rangeOk])
theorem trap (p : BitVec 2) : Statement (.trap p) :=
  ctWord 0x7D#7 rfl rfl (Enc.fmtTrap_25_7 ..) (by decide) (fun hi => by
    have hp := pr_ok rfl hi
    have hr := range_ok hi
    rw [decodeWord, if_neg (notEdge (Enc.fmtTrap_25_7 ..) (by decide) (by decide)), Enc.fmtTrap_25_7]
    try rw [Enc.fmtTrap_18_5]
    show fldOk _ _ _ _ = _
    simp_all [Enc.fmtTrap_23_2, Enc.fmtTrap_0_18, fldOk, Instr.rangeOk])
theorem sysc (p : BitVec 2) : Statement (.sysc p) :=
  ctWord 0x7D#7 rfl rfl (Enc.fmtTrap_25_7 ..) (by decide) (fun hi => by
    have hp := pr_ok rfl hi
    have hr := range_ok hi
    rw [decodeWord, if_neg (notEdge (Enc.fmtTrap_25_7 ..) (by decide) (by decide)), Enc.fmtTrap_25_7]
    try rw [Enc.fmtTrap_18_5]
    show fldOk _ _ _ _ = _
    simp_all [Enc.fmtTrap_23_2, Enc.fmtTrap_0_18, fldOk, Instr.rangeOk])
theorem rdsr (p : BitVec 2) (t : BitVec 9) (r : BitVec 8) : Statement (.rdsr p t r) :=
  ctWord 0x7D#7 rfl rfl (Enc.fmtRdsr_25_7 ..) (by decide) (fun hi => by
    have hp := pr_ok rfl hi
    have hr := range_ok hi
    rw [decodeWord, if_neg (notEdge (Enc.fmtRdsr_25_7 ..) (by decide) (by decide)), Enc.fmtRdsr_25_7]
    try rw [Enc.fmtRdsr_18_5]
    show fldOk _ _ _ _ = _
    simp_all [Enc.fmtRdsr_23_2, Enc.fmtRdsr_9_9, Enc.fmtRdsr_8_1, Enc.fmtRdsr_0_8, fldOk, Instr.rangeOk])
theorem wrsr (p : BitVec 2) (t : BitVec 9) (r : BitVec 8) : Statement (.wrsr p t r) :=
  ctWord 0x7D#7 rfl rfl (Enc.fmtRdsr_25_7 ..) (by decide) (fun hi => by
    have hp := pr_ok rfl hi
    have hr := range_ok hi
    rw [decodeWord, if_neg (notEdge (Enc.fmtRdsr_25_7 ..) (by decide) (by decide)), Enc.fmtRdsr_25_7]
    try rw [Enc.fmtRdsr_18_5]
    show fldOk _ _ _ _ = _
    simp_all [Enc.fmtRdsr_23_2, Enc.fmtRdsr_9_9, Enc.fmtRdsr_8_1, Enc.fmtRdsr_0_8, fldOk, Instr.rangeOk])
theorem rdtime (p : BitVec 2) (t : BitVec 9) (u : BitVec 9) : Statement (.rdtime p t u) :=
  ctWord 0x7D#7 rfl rfl (Enc.fmtAdd_25_7 ..) (by decide) (fun hi => by
    have hp := pr_ok rfl hi
    have hr := range_ok hi
    rw [decodeWord, if_neg (notEdge (Enc.fmtAdd_25_7 ..) (by decide) (by decide)), Enc.fmtAdd_25_7]
    try rw [Enc.fmtAdd_18_5]
    show fldOk _ _ _ _ = _
    simp_all [Enc.fmtAdd_23_2, Enc.fmtAdd_9_9, Enc.fmtAdd_0_9, fldOk, Instr.rangeOk])
theorem eret (p : BitVec 2) : Statement (.eret p) :=
  ctWord 0x7D#7 rfl rfl (Enc.fmtTrap_25_7 ..) (by decide) (fun hi => by
    have hp := pr_ok rfl hi
    have hr := range_ok hi
    rw [decodeWord, if_neg (notEdge (Enc.fmtTrap_25_7 ..) (by decide) (by decide)), Enc.fmtTrap_25_7]
    try rw [Enc.fmtTrap_18_5]
    show fldOk _ _ _ _ = _
    simp_all [Enc.fmtTrap_23_2, Enc.fmtTrap_0_18, fldOk, Instr.rangeOk])
theorem halt (p : BitVec 2) : Statement (.halt p) :=
  ctWord 0x7D#7 rfl rfl (Enc.fmtTrap_25_7 ..) (by decide) (fun hi => by
    have hp := pr_ok rfl hi
    have hr := range_ok hi
    rw [decodeWord, if_neg (notEdge (Enc.fmtTrap_25_7 ..) (by decide) (by decide)), Enc.fmtTrap_25_7]
    try rw [Enc.fmtTrap_18_5]
    show fldOk _ _ _ _ = _
    simp_all [Enc.fmtTrap_23_2, Enc.fmtTrap_0_18, fldOk, Instr.rangeOk])
theorem brk (p : BitVec 2) : Statement (.brk p) :=
  ctWord 0x7D#7 rfl rfl (Enc.fmtTrap_25_7 ..) (by decide) (fun hi => by
    have hp := pr_ok rfl hi
    have hr := range_ok hi
    rw [decodeWord, if_neg (notEdge (Enc.fmtTrap_25_7 ..) (by decide) (by decide)), Enc.fmtTrap_25_7]
    try rw [Enc.fmtTrap_18_5]
    show fldOk _ _ _ _ = _
    simp_all [Enc.fmtTrap_23_2, Enc.fmtTrap_0_18, fldOk, Instr.rangeOk])
theorem idle (p : BitVec 2) (t : BitVec 9) (u : BitVec 9) : Statement (.idle p t u) :=
  ctWord 0x7D#7 rfl rfl (Enc.fmtAdd_25_7 ..) (by decide) (fun hi => by
    have hp := pr_ok rfl hi
    have hr := range_ok hi
    rw [decodeWord, if_neg (notEdge (Enc.fmtAdd_25_7 ..) (by decide) (by decide)), Enc.fmtAdd_25_7]
    try rw [Enc.fmtAdd_18_5]
    show fldOk _ _ _ _ = _
    simp_all [Enc.fmtAdd_23_2, Enc.fmtAdd_9_9, Enc.fmtAdd_0_9, fldOk, Instr.rangeOk])
theorem setctx (p : BitVec 2) (t : BitVec 9) (u : BitVec 9) : Statement (.setctx p t u) :=
  ctWord 0x7D#7 rfl rfl (Enc.fmtAdd_25_7 ..) (by decide) (fun hi => by
    have hp := pr_ok rfl hi
    have hr := range_ok hi
    rw [decodeWord, if_neg (notEdge (Enc.fmtAdd_25_7 ..) (by decide) (by decide)), Enc.fmtAdd_25_7]
    try rw [Enc.fmtAdd_18_5]
    show fldOk _ _ _ _ = _
    simp_all [Enc.fmtAdd_23_2, Enc.fmtAdd_9_9, Enc.fmtAdd_0_9, fldOk, Instr.rangeOk])
theorem inval (p : BitVec 2) (t : BitVec 9) (u : BitVec 9) : Statement (.inval p t u) :=
  ctWord 0x7D#7 rfl rfl (Enc.fmtAdd_25_7 ..) (by decide) (fun hi => by
    have hp := pr_ok rfl hi
    have hr := range_ok hi
    rw [decodeWord, if_neg (notEdge (Enc.fmtAdd_25_7 ..) (by decide) (by decide)), Enc.fmtAdd_25_7]
    try rw [Enc.fmtAdd_18_5]
    show fldOk _ _ _ _ = _
    simp_all [Enc.fmtAdd_23_2, Enc.fmtAdd_9_9, Enc.fmtAdd_0_9, fldOk, Instr.rangeOk])
theorem kill (p : BitVec 2) (t : BitVec 9) (u : BitVec 9) : Statement (.kill p t u) :=
  ctWord 0x7D#7 rfl rfl (Enc.fmtAdd_25_7 ..) (by decide) (fun hi => by
    have hp := pr_ok rfl hi
    have hr := range_ok hi
    rw [decodeWord, if_neg (notEdge (Enc.fmtAdd_25_7 ..) (by decide) (by decide)), Enc.fmtAdd_25_7]
    try rw [Enc.fmtAdd_18_5]
    show fldOk _ _ _ _ = _
    simp_all [Enc.fmtAdd_23_2, Enc.fmtAdd_9_9, Enc.fmtAdd_0_9, fldOk, Instr.rangeOk])
theorem dsnap (p : BitVec 2) (t : BitVec 9) (u : BitVec 9) : Statement (.dsnap p t u) :=
  ctWord 0x7D#7 rfl rfl (Enc.fmtAdd_25_7 ..) (by decide) (fun hi => by
    have hp := pr_ok rfl hi
    have hr := range_ok hi
    rw [decodeWord, if_neg (notEdge (Enc.fmtAdd_25_7 ..) (by decide) (by decide)), Enc.fmtAdd_25_7]
    try rw [Enc.fmtAdd_18_5]
    show fldOk _ _ _ _ = _
    simp_all [Enc.fmtAdd_23_2, Enc.fmtAdd_9_9, Enc.fmtAdd_0_9, fldOk, Instr.rangeOk])
theorem plySend (b : BitVec 5) (a : BitVec 5) (d : BitVec 5) : Statement (.plySend b a d) :=
  onlyWord rfl (fun _ v e => by
    cases e
    exact ofPly (by simp [decodePly, Enc.fmtPlySend_25_7, Enc.fmtPlySend_20_5, Enc.fmtPlySend_15_5, Enc.fmtPlySend_12_3, Enc.fmtPlySend_7_5, Enc.fmtPlySend_0_7]))
theorem plyRecv (b : BitVec 5) (a : BitVec 5) (d : BitVec 5) : Statement (.plyRecv b a d) :=
  onlyWord rfl (fun _ v e => by
    cases e
    exact ofPly (by simp [decodePly, Enc.fmtPlySend_25_7, Enc.fmtPlySend_20_5, Enc.fmtPlySend_15_5, Enc.fmtPlySend_12_3, Enc.fmtPlySend_7_5, Enc.fmtPlySend_0_7]))
theorem plyPoll (b : BitVec 5) (a : BitVec 5) (d : BitVec 5) : Statement (.plyPoll b a d) :=
  onlyWord rfl (fun _ v e => by
    cases e
    exact ofPly (by simp [decodePly, Enc.fmtPlySend_25_7, Enc.fmtPlySend_20_5, Enc.fmtPlySend_15_5, Enc.fmtPlySend_12_3, Enc.fmtPlySend_7_5, Enc.fmtPlySend_0_7]))
theorem plyTag (b : BitVec 5) (a : BitVec 5) (d : BitVec 5) : Statement (.plyTag b a d) :=
  onlyWord rfl (fun _ v e => by
    cases e
    exact ofPly (by simp [decodePly, Enc.fmtPlySend_25_7, Enc.fmtPlySend_20_5, Enc.fmtPlySend_15_5, Enc.fmtPlySend_12_3, Enc.fmtPlySend_7_5, Enc.fmtPlySend_0_7]))
theorem plyFlag (b : BitVec 5) (a : BitVec 5) (d : BitVec 5) : Statement (.plyFlag b a d) :=
  onlyWord rfl (fun _ v e => by
    cases e
    exact ofPly (by simp [decodePly, Enc.fmtPlySend_25_7, Enc.fmtPlySend_20_5, Enc.fmtPlySend_15_5, Enc.fmtPlySend_12_3, Enc.fmtPlySend_7_5, Enc.fmtPlySend_0_7]))
theorem plyEnd (b : BitVec 5) (a : BitVec 5) (d : BitVec 5) : Statement (.plyEnd b a d) :=
  onlyWord rfl (fun _ v e => by
    cases e
    exact ofPly (by simp [decodePly, Enc.fmtPlySend_25_7, Enc.fmtPlySend_20_5, Enc.fmtPlySend_15_5, Enc.fmtPlySend_12_3, Enc.fmtPlySend_7_5, Enc.fmtPlySend_0_7]))
theorem plyRwd (b : BitVec 5) (a : BitVec 5) (d : BitVec 5) : Statement (.plyRwd b a d) :=
  onlyWord rfl (fun _ v e => by
    cases e
    exact ofPly (by simp [decodePly, Enc.fmtPlySend_25_7, Enc.fmtPlySend_20_5, Enc.fmtPlySend_15_5, Enc.fmtPlySend_12_3, Enc.fmtPlySend_7_5, Enc.fmtPlySend_0_7]))
theorem iadd (h : HWord) : Statement (.iadd h) := handlerWord rfl rfl (by decide) (by decide) rfl
theorem isub (h : HWord) : Statement (.isub h) := handlerWord rfl rfl (by decide) (by decide) rfl
theorem imul (h : HWord) : Statement (.imul h) := handlerWord rfl rfl (by decide) (by decide) rfl
theorem imulh (h : HWord) : Statement (.imulh h) := handlerWord rfl rfl (by decide) (by decide) rfl
theorem iand (h : HWord) : Statement (.iand h) := handlerWord rfl rfl (by decide) (by decide) rfl
theorem ior (h : HWord) : Statement (.ior h) := handlerWord rfl rfl (by decide) (by decide) rfl
theorem ixor (h : HWord) : Statement (.ixor h) := handlerWord rfl rfl (by decide) (by decide) rfl
theorem ishl (h : HWord) : Statement (.ishl h) := handlerWord rfl rfl (by decide) (by decide) rfl
theorem ishr (h : HWord) : Statement (.ishr h) := handlerWord rfl rfl (by decide) (by decide) rfl
theorem isha (h : HWord) : Statement (.isha h) := handlerWord rfl rfl (by decide) (by decide) rfl
theorem imin (h : HWord) : Statement (.imin h) := handlerWord rfl rfl (by decide) (by decide) rfl
theorem imax (h : HWord) : Statement (.imax h) := handlerWord rfl rfl (by decide) (by decide) rfl
theorem ieq (h : HWord) : Statement (.ieq h) := handlerWord rfl rfl (by decide) (by decide) rfl
theorem ilt (h : HWord) : Statement (.ilt h) := handlerWord rfl rfl (by decide) (by decide) rfl
theorem iltn (h : HWord) : Statement (.iltn h) := handlerWord rfl rfl (by decide) (by decide) rfl
theorem isel (h : HWord) : Statement (.isel h) := handlerWord rfl rfl (by decide) (by decide) rfl
theorem fadd (h : HWord) : Statement (.fadd h) := handlerWord rfl rfl (by decide) (by decide) rfl
theorem fsub (h : HWord) : Statement (.fsub h) := handlerWord rfl rfl (by decide) (by decide) rfl
theorem fmul (h : HWord) : Statement (.fmul h) := handlerWord rfl rfl (by decide) (by decide) rfl
theorem fma (h : HWord) : Statement (.fma h) := handlerWord rfl rfl (by decide) (by decide) rfl
theorem fmin (h : HWord) : Statement (.fmin h) := handlerWord rfl rfl (by decide) (by decide) rfl
theorem fmax (h : HWord) : Statement (.fmax h) := handlerWord rfl rfl (by decide) (by decide) rfl
theorem fneg (h : HWord) : Statement (.fneg h) := handlerWord rfl rfl (by decide) (by decide) rfl
theorem fabs (h : HWord) : Statement (.fabs h) := handlerWord rfl rfl (by decide) (by decide) rfl
theorem frcp (h : HWord) : Statement (.frcp h) := handlerWord rfl rfl (by decide) (by decide) rfl
theorem frsq (h : HWord) : Statement (.frsq h) := handlerWord rfl rfl (by decide) (by decide) rfl
theorem fexp2 (h : HWord) : Statement (.fexp2 h) := handlerWord rfl rfl (by decide) (by decide) rfl
theorem flog2 (h : HWord) : Statement (.flog2 h) := handlerWord rfl rfl (by decide) (by decide) rfl
theorem feq (h : HWord) : Statement (.feq h) := handlerWord rfl rfl (by decide) (by decide) rfl
theorem flt (h : HWord) : Statement (.flt h) := handlerWord rfl rfl (by decide) (by decide) rfl
theorem fsel (h : HWord) : Statement (.fsel h) := handlerWord rfl rfl (by decide) (by decide) rfl
theorem cvif (h : HWord) : Statement (.cvif h) := handlerWord rfl rfl (by decide) (by decide) rfl
theorem cvfi (h : HWord) : Statement (.cvfi h) := handlerWord rfl rfl (by decide) (by decide) rfl
theorem pass (h : HWord) : Statement (.pass h) := handlerWord rfl rfl (by decide) (by decide) rfl
theorem dup (h : HWord) : Statement (.dup h) := handlerWord rfl rfl (by decide) (by decide) rfl
theorem cnt (h : HWord) : Statement (.cnt h) := handlerWord rfl rfl (by decide) (by decide) rfl
theorem gate (h : HWord) : Statement (.gate h) := handlerWord rfl rfl (by decide) (by decide) rfl
theorem tsel (h : HWord) : Statement (.tsel h) := handlerWord rfl rfl (by decide) (by decide) rfl
theorem merge (h : HWord) : Statement (.merge h) := handlerWord rfl rfl (by decide) (by decide) rfl
theorem isect (h : HWord) : Statement (.isect h) := handlerWord rfl rfl (by decide) (by decide) rfl
theorem union (h : HWord) : Statement (.union h) := handlerWord rfl rfl (by decide) (by decide) rfl
theorem stopck (h : HWord) : Statement (.stopck h) := handlerWord rfl rfl (by decide) (by decide) rfl
theorem swap (h : HWord) : Statement (.swap h) := handlerWord rfl rfl (by decide) (by decide) rfl
theorem mark (h : HWord) : Statement (.mark h) := handlerWord rfl rfl (by decide) (by decide) rfl
theorem hand (h : HWord) : Statement (.hand h) := handlerWord rfl rfl (by decide) (by decide) rfl
theorem acc (h : HWord) : Statement (.acc h) := handlerWord rfl rfl (by decide) (by decide) rfl
theorem accw (h : HWord) : Statement (.accw h) := handlerWord rfl rfl (by decide) (by decide) rfl
theorem bfly (h : HWord) : Statement (.bfly h) := handlerWord rfl rfl (by decide) (by decide) rfl
theorem wmul (h : HWord) : Statement (.wmul h) := handlerWord rfl rfl (by decide) (by decide) rfl
theorem gapw (h : HWord) : Statement (.gapw h) := handlerWord rfl rfl (by decide) (by decide) rfl
theorem widen (h : HWord) : Statement (.widen h) := handlerWord rfl rfl (by decide) (by decide) rfl
theorem cmpd (h : HWord) : Statement (.cmpd h) := handlerWord rfl rfl (by decide) (by decide) rfl
theorem join (h : HWord) : Statement (.join h) := handlerWord rfl rfl (by decide) (by decide) rfl
theorem win (h : HWord) : Statement (.win h) := handlerWord rfl rfl (by decide) (by decide) rfl
theorem mxnode (h : HWord) : Statement (.mxnode h) := handlerWord rfl rfl (by decide) (by decide) rfl
theorem cpnode (h : HWord) : Statement (.cpnode h) := handlerWord rfl rfl (by decide) (by decide) rfl
theorem clnode (h : HWord) : Statement (.clnode h) := handlerWord rfl rfl (by decide) (by decide) rfl
theorem asidEnable : Statement (.asidEnable) := noWord rfl rfl
theorem asidDisable : Statement (.asidDisable) := noWord rfl rfl
theorem asidDisableDrained : Statement (.asidDisableDrained) := noWord rfl rfl
theorem registerWrite : Statement (.registerWrite) := noWord rfl rfl
theorem inboundRequest : Statement (.inboundRequest) := noWord rfl rfl
theorem walkerQuotaWrite : Statement (.walkerQuotaWrite) := noWord rfl rfl
theorem walkSlotGrant : Statement (.walkSlotGrant) := noWord rfl rfl
theorem walkComplete : Statement (.walkComplete) := noWord rfl rfl
theorem dirtyTrackingWrite : Statement (.dirtyTrackingWrite) := noWord rfl rfl
theorem invalidationComplete : Statement (.invalidationComplete) := noWord rfl rfl
theorem bankPortGrant : Statement (.bankPortGrant) := noWord rfl rfl
theorem bankChangeReach : Statement (.bankChangeReach) := noWord rfl rfl
theorem bankChangeComplete : Statement (.bankChangeComplete) := noWord rfl rfl
theorem coreCacheFill : Statement (.coreCacheFill) := noWord rfl rfl
theorem l2Access : Statement (.l2Access) := noWord rfl rfl
theorem l2FillComplete : Statement (.l2FillComplete) := noWord rfl rfl
theorem tileEngineWrite : Statement (.tileEngineWrite) := noWord rfl rfl
theorem tileRefIssue : Statement (.tileRefIssue) := noWord rfl rfl
theorem queueRecordArrival : Statement (.queueRecordArrival) := noWord rfl rfl
theorem queueDataToken : Statement (.queueDataToken) := noWord rfl rfl
theorem queueMarkerArrival : Statement (.queueMarkerArrival) := noWord rfl rfl
theorem spillRefill : Statement (.spillRefill) := noWord rfl rfl
theorem rowAdd : Statement (.rowAdd) := noWord rfl rfl
theorem temperRead : Statement (.temperRead) := noWord rfl rfl
theorem addScopeClose : Statement (.addScopeClose) := noWord rfl rfl
theorem reservationRequest : Statement (.reservationRequest) := noWord rfl rfl
theorem reservationReply : Statement (.reservationReply) := noWord rfl rfl
theorem slotWriteArrival : Statement (.slotWriteArrival) := noWord rfl rfl
theorem slotEndToken : Statement (.slotEndToken) := noWord rfl rfl
theorem phaseNoticeArrival : Statement (.phaseNoticeArrival) := noWord rfl rfl
theorem reservationTimeout : Statement (.reservationTimeout) := noWord rfl rfl
theorem landingQuotaWrite : Statement (.landingQuotaWrite) := noWord rfl rfl
theorem linkDown : Statement (.linkDown) := noWord rfl rfl
theorem retrainWindowExpiry : Statement (.retrainWindowExpiry) := noWord rfl rfl
theorem linkRetrained : Statement (.linkRetrained) := noWord rfl rfl
theorem aguStreamAccess : Statement (.aguStreamAccess) := noWord rfl rfl
theorem coalesceIdleFlush : Statement (.coalesceIdleFlush) := noWord rfl rfl
theorem handToken : Statement (.handToken) := noWord rfl rfl
theorem remoteAtomicArrival : Statement (.remoteAtomicArrival) := noWord rfl rfl
theorem replayEntryExpiry : Statement (.replayEntryExpiry) := noWord rfl rfl
theorem remoteReply : Statement (.remoteReply) := noWord rfl rfl
theorem remoteReplyTimeout : Statement (.remoteReplyTimeout) := noWord rfl rfl
theorem replayQuotaWrite : Statement (.replayQuotaWrite) := noWord rfl rfl
theorem notifyPageEnable : Statement (.notifyPageEnable) := noWord rfl rfl
theorem doorbellWrite : Statement (.doorbellWrite) := noWord rfl rfl
theorem admitRegion : Statement (.admitRegion) := noWord rfl rfl
theorem admitTile : Statement (.admitTile) := noWord rfl rfl
theorem admitHeap : Statement (.admitHeap) := noWord rfl rfl
theorem admitEvent : Statement (.admitEvent) := noWord rfl rfl
theorem schedQuotaWrite : Statement (.schedQuotaWrite) := noWord rfl rfl
theorem arbiterPlaceRegion : Statement (.arbiterPlaceRegion) := noWord rfl rfl
theorem arbiterPlaceTile : Statement (.arbiterPlaceTile) := noWord rfl rfl
theorem arbiterCounterPoll : Statement (.arbiterCounterPoll) := noWord rfl rfl
theorem frameAllocate : Statement (.frameAllocate) := noWord rfl rfl
theorem frameSurrender : Statement (.frameSurrender) := noWord rfl rfl
theorem blockFetch : Statement (.blockFetch) := noWord rfl rfl
theorem blockCommit : Statement (.blockCommit) := noWord rfl rfl
theorem segmentBudgetExpiry : Statement (.segmentBudgetExpiry) := noWord rfl rfl
theorem channelPull : Statement (.channelPull) := noWord rfl rfl
theorem stalemateCheck : Statement (.stalemateCheck) := noWord rfl rfl
theorem stallout : Statement (.stallout) := noWord rfl rfl
theorem elementSwap : Statement (.elementSwap) := noWord rfl rfl
theorem waitRelease : Statement (.waitRelease) := noWord rfl rfl
theorem idleTimeout : Statement (.idleTimeout) := noWord rfl rfl
theorem copyTriggerRecord : Statement (.copyTriggerRecord) := noWord rfl rfl
theorem copyComplete : Statement (.copyComplete) := noWord rfl rfl
theorem matrixTaskComplete : Statement (.matrixTaskComplete) := noWord rfl rfl
theorem collectiveComplete : Statement (.collectiveComplete) := noWord rfl rfl
theorem cfgldComplete : Statement (.cfgldComplete) := noWord rfl rfl
theorem regionDrainComplete : Statement (.regionDrainComplete) := noWord rfl rfl
theorem markerWaveComplete : Statement (.markerWaveComplete) := noWord rfl rfl
theorem regionRollback : Statement (.regionRollback) := noWord rfl rfl
theorem regionPreempt : Statement (.regionPreempt) := noWord rfl rfl
theorem killDrainComplete : Statement (.killDrainComplete) := noWord rfl rfl
theorem faultWindowWrite : Statement (.faultWindowWrite) := noWord rfl rfl
theorem debugHalt : Statement (.debugHalt) := noWord rfl rfl
theorem debugResume : Statement (.debugResume) := noWord rfl rfl
theorem debugAreaRefill : Statement (.debugAreaRefill) := noWord rfl rfl
theorem histogramSave : Statement (.histogramSave) := noWord rfl rfl
theorem episodeBind : Statement (.episodeBind) := noWord rfl rfl
theorem episodeUnbind : Statement (.episodeUnbind) := noWord rfl rfl
theorem hearthWindowAccess : Statement (.hearthWindowAccess) := noWord rfl rfl
theorem actionRecordAccept : Statement (.actionRecordAccept) := noWord rfl rfl
theorem flagFall : Statement (.flagFall) := noWord rfl rfl
theorem nodeidWrite : Statement (.nodeidWrite) := noWord rfl rfl
theorem portEnable : Statement (.portEnable) := noWord rfl rfl
theorem portDisable : Statement (.portDisable) := noWord rfl rfl
theorem portModeSet : Statement (.portModeSet) := noWord rfl rfl
theorem flitReceive : Statement (.flitReceive) := noWord rfl rfl
theorem timeSyncTick : Statement (.timeSyncTick) := noWord rfl rfl
theorem gtscAlign : Statement (.gtscAlign) := noWord rfl rfl
theorem reseqPacketArrival : Statement (.reseqPacketArrival) := noWord rfl rfl
theorem reseqSourceTimeout : Statement (.reseqSourceTimeout) := noWord rfl rfl
theorem powerOn : Statement (.powerOn) := noWord rfl rfl
theorem attestationRequest : Statement (.attestationRequest) := noWord rfl rfl
theorem firmwareInstall : Statement (.firmwareInstall) := noWord rfl rfl
theorem sensorSample : Statement (.sensorSample) := noWord rfl rfl
theorem coolantReport : Statement (.coolantReport) := noWord rfl rfl
theorem flowLoss : Statement (.flowLoss) := noWord rfl rfl
theorem linkTrained : Statement (.linkTrained) := noWord rfl rfl
theorem moduleReset : Statement (.moduleReset) := noWord rfl rfl

end Sys2Proof.Laws.Roundtrip
end

