-- ==== Sys2Proof/Laws/Step.lean ====
section
/-! SUPPORT. What one step is, where the state names the next turn. -/

namespace Sys2Proof.Safety
open Sys2Proof.Machine

@[simp] theorem taken_phase (s : State) (r : List Turn) : (taken s r).dev.phase = s.dev.phase := rfl
@[simp] theorem taken_ctxOf (s : State) (r : List Turn) (core x : Nat) : ctxOf (taken s r) core x = ctxOf s core x := rfl
@[simp] theorem taken_frameOf (s : State) (r : List Turn) (core x : Nat) : frameOf (taken s r) core x = frameOf s core x := rfl
@[simp] theorem taken_mem (s : State) (r : List Turn) : (taken s r).mem = s.mem := rfl

/-- A turn is held or taken by what it answers. -/
theorem holdTurn_settled (t : Turn) (s : State) : holdTurn t s = settled t s (turnDo t s) := rfl

/-- The first turn that the state names is taken after the tick, or held. -/
theorem step_head {s : State} {t : Turn} {r : List Turn} (h : s.sim.agenda = t :: r) : step s = holdTurn t (taken s r) := by
  have h' : (tick s).sim.agenda = t :: r := h
  unfold step pick
  rw [h']
  rfl

/-- A turn of which no access must wait does what its kind does. -/
theorem holdTurn_next {t : Turn} {s u : State} (h : turnDo t s = .next u) (w : u.sim.stall = false) : holdTurn t s = .next u := by
  simp [holdTurn, h, w]

/-- A turn of which an access must wait stands among the held ones. -/
theorem holdTurn_held {t : Turn} {s u : State} (h : turnDo t s = .next u) (w : u.sim.stall = true) :
    holdTurn t s = .next { s with sim.parked := s.sim.parked ++ [t] } := by
  simp [holdTurn, h, w]

/-- In a READY module a turn is what its kind does. -/
theorem turnDo_ready {s : State} (h : s.dev.phase = .ready) (t : Turn) :
    turnDo t s = (match t with
      | .ev i a => evTurn i a s
      | .ct core x => ctTurn core x s
      | .el core n => elTurn core n s
      | .hart hc => hartDo hc s
      | .err e => .next (bitError e s)) := by
  have e : (s.dev.phase != Phase.ready) = false := by rw [h]; rfl
  cases t <;> simp only [turnDo, e, Bool.false_and, Bool.false_eq_true, if_false]

end Sys2Proof.Safety
end

