-- ==== Sys2Proof/Tests/Slice0.lean ====
section
/-! SUPPORT. The model's own tests: words written out from the spec's encodings, ill-formed terms that the checks
refuse, a state that meets the hypotheses of every statement of Certificates/Slice0/Obligations.lean, and results
that the spec writes out or that follow from its rules by hand. -/

set_option Elab.async false

namespace Sys2Proof.Tests
open Sys2Proof Sys2Proof.Machine Sys2Proof.Safety

set_option maxRecDepth 20000

/-! ### Small states -/

/-- A block in the frame of context 0, with room for every output, whose instruction 0 has the given operand tokens: 0 left, 1 right,
2 predicate. -/
def block (opnd : List (Nat × Tok)) : Frame :=
  { (default : Frame) with own := 1, loaded := true, hdr := 0x08080000#32, opnd := opnd.foldl (fun m x => m.set x.1 (some x.2)) default }

/-- Context 0 of core 0 executes instruction 0 of its block. -/
def running (s : State) (c : Ctx) (f : Frame) : State :=
  { s with
    sim.cur := .ct 0 0 0
    ctl := { s.ctl with frames := SMap.set default 0 f, ctxs := SMap.set default 0 { c with st := .run, frm := 0 } } }

/-- The same, of the reset state. -/
def fresh (opnd : List (Nat × Tok)) : State := running .reset default (block opnd)

theorem running_at (s : State) (c : Ctx) (f : Frame) (ho : f.own = 1) (hl : f.loaded = true) (hg : f.gone 0 = false) :
    CtAt (running s c f) 0 0 0 := ⟨rfl, .inl rfl, ho, hl, hg⟩

theorem block_at (s : State) (c : Ctx) (opnd : List (Nat × Tok)) : CtAt (running s c (block opnd)) 0 0 0 :=
  running_at _ _ _ rfl rfl (by decide : (default : Frame).gone 0 = false)

/-- An instruction of two operands fires. -/
theorem fires_two (s : State) (c : Ctx) (a b : Tok) : Fires (running s c (block [(0, a), (1, b)])) 0 0 0 0#2 true true a b :=
  ⟨block_at _ _ _, rfl⟩

/-- An instruction of a left operand fires. -/
theorem fires_one (s : State) (c : Ctx) (a : Tok) : Fires (running s c (block [(0, a)])) 0 0 0 0#2 true false a (some 0#64) :=
  ⟨block_at _ _ _, rfl⟩

/-- An instruction without operands fires. -/
theorem fires_none (s : State) (c : Ctx) : Fires (running s c (block [])) 0 0 0 0#2 false false (some 0#64) (some 0#64) :=
  ⟨block_at _ _ _, rfl⟩

/-- In a block without lower LSIDs a memory token of LSID 0 has its turn. -/
theorem turn_zero (s : State) (c : Ctx) (opnd : List (Nat × Tok)) : Turns (running s c (block opnd)) 0 0 0 := ⟨rfl, (by decide : (default : Frame).lsidDone 0 = false)⟩

/-- In a block without memory tokens the first command has its turn. -/
theorem command_first (s : State) (c : Ctx) (opnd : List (Nat × Tok)) : Commands (running s c (block opnd)) 0 0 0 :=
  ⟨(by decide : ({ (default : Frame) with hdr := 0x08080000#32 }).memDone = true), rfl⟩

/-- OP 0x01 (R216, R217): the arithmetic group. -/
theorem decode_arithmetic :
    decodeTableWord 32 0b0000001_00_00000_000000011_110000101 = some (.add 0 0x003 0x185) ∧
    decodeTableWord 32 0b0000001_00_00001_000000011_110000101 = some (.sub 0 0x003 0x185) ∧
    decodeTableWord 32 0b0000001_00_00010_000000011_110000101 = some (.mul 0 0x003 0x185) ∧
    decodeTableWord 32 0b0000001_00_00011_000000011_110000101 = some (.mulh 0 0x003 0x185) ∧
    decodeTableWord 32 0b0000001_00_00100_000000011_110000101 = some (.mulhn 0 0x003 0x185) ∧
    decodeTableWord 32 0b0000001_00_00101_000000011_110000101 = some (.adds 0 0x003 0x185) ∧
    decodeTableWord 32 0b0000001_00_00110_000000011_110000101 = some (.min 0 0x003 0x185) ∧
    decodeTableWord 32 0b0000001_00_00111_000000011_110000101 = some (.max 0 0x003 0x185) ∧
    decodeTableWord 32 0b0000001_00_01000_000000011_110000101 = some (.minn 0 0x003 0x185) ∧
    decodeTableWord 32 0b0000001_00_01001_000000011_110000101 = some (.maxn 0 0x003 0x185) := by decide

/-- OP 0x02 (R216, R217): the division group. -/
theorem decode_division :
    decodeTableWord 32 0b0000010_01_00000_000000011_110000101 = some (.divs 1 0x003 0x185) ∧
    decodeTableWord 32 0b0000010_01_00001_000000011_110000101 = some (.divn 1 0x003 0x185) ∧
    decodeTableWord 32 0b0000010_01_00010_000000011_110000101 = some (.rems 1 0x003 0x185) ∧
    decodeTableWord 32 0b0000010_01_00011_000000011_110000101 = some (.remn 1 0x003 0x185) := by decide

/-- OP 0x03 (R216, R217): the logic group. -/
theorem decode_logic :
    decodeTableWord 32 0b0000011_10_00000_000000011_110000101 = some (.and 2 0x003 0x185) ∧
    decodeTableWord 32 0b0000011_10_00001_000000011_110000101 = some (.or 2 0x003 0x185) ∧
    decodeTableWord 32 0b0000011_10_00010_000000011_110000101 = some (.xor 2 0x003 0x185) ∧
    decodeTableWord 32 0b0000011_10_00011_000000011_110000101 = some (.andn 2 0x003 0x185) := by decide

/-- OP 0x04 (R216, R217): the shift group. -/
theorem decode_shift :
    decodeTableWord 32 0b0000100_00_00000_000000011_110000101 = some (.shl 0 0x003 0x185) ∧
    decodeTableWord 32 0b0000100_00_00001_000000011_110000101 = some (.shr 0 0x003 0x185) ∧
    decodeTableWord 32 0b0000100_00_00010_000000011_110000101 = some (.sha 0 0x003 0x185) ∧
    decodeTableWord 32 0b0000100_00_00011_000000011_110000101 = some (.rol 0 0x003 0x185) := by decide

/-- OP 0x05 and 0x06 (R216, R217): the unary group, sext and zext. -/
theorem decode_unary :
    decodeTableWord 32 0b0000101_00_00000_000000011_110000101 = some (.clz 0 0x003 0x185) ∧
    decodeTableWord 32 0b0000101_00_00001_000000011_110000101 = some (.ctz 0 0x003 0x185) ∧
    decodeTableWord 32 0b0000101_00_00010_000000011_110000101 = some (.popc 0 0x003 0x185) ∧
    decodeTableWord 32 0b0000101_00_00011_000000011_110000101 = some (.mov 0 0x003 0x185) ∧
    decodeTableWord 32 0b0000110_01_00000_000000011_110000101 = some (.sext 1 0 0x003 0x185) ∧
    decodeTableWord 32 0b0000110_01_00010_000000011_110000101 = some (.sext 1 2 0x003 0x185) ∧
    decodeTableWord 32 0b0000110_10_00101_000000011_110000101 = some (.zext 2 1 0x003 0x185) ∧
    decodeTableWord 32 0b0000110_10_00110_000000011_110000101 = some (.zext 2 2 0x003 0x185) := by decide

/-- OP 0x07 to 0x12 (R216): the immediate and constant forms. -/
theorem decode_immediate :
    decodeTableWord 32 0b0000111_00_11111111111100_110000101 = some (.addi 0 0x3FFC 0x185) ∧
    decodeTableWord 32 0b0001000_01_00000000000101_110000101 = some (.muli 1 5 0x185) ∧
    decodeTableWord 32 0b0001001_00_10101010101010_110000101 = some (.andi 0 0x2AAA 0x185) ∧
    decodeTableWord 32 0b0001010_00_01010101010101_110000101 = some (.ori 0 0x1555 0x185) ∧
    decodeTableWord 32 0b0001011_00_00000000000001_110000101 = some (.xori 0 1 0x185) ∧
    decodeTableWord 32 0b0001100_00_00000000111111_110000101 = some (.shli 0 63 0x185) ∧
    decodeTableWord 32 0b0001101_00_00000000000001_110000101 = some (.shri 0 1 0x185) ∧
    decodeTableWord 32 0b0001110_10_00000000000010_110000101 = some (.shai 2 2 0x185) ∧
    decodeTableWord 32 0b0001111_00_00_001000_001111_110000101 = some (.bfx 0 8 15 0x185) ∧
    decodeTableWord 32 0b0010000_00_00_101000_010111_110000101 = some (.bfi 0 40 23 0x185) ∧
    decodeTableWord 32 0b0010001_1000000000000001_000000011 = some (.movc 0x8001 0x003) ∧
    decodeTableWord 32 0b0010010_0111111111111110_000000011 = some (.movh 0x7FFE 0x003) ∧
    decodeTableWord 32 0b0010011_00_11111_000000011_110100000 = some (.rdh 0 31 0x003 0x1A0) := by decide

/-- OP 0x18 to 0x1C (R216, R217): the tests and the predicate group. -/
theorem decode_tests :
    decodeTableWord 32 0b0011000_00_00000_000000011_110000101 = some (.teq 0 0x003 0x185) ∧
    decodeTableWord 32 0b0011000_00_00001_000000011_110000101 = some (.tne 0 0x003 0x185) ∧
    decodeTableWord 32 0b0011000_00_00010_000000011_110000101 = some (.tlt 0 0x003 0x185) ∧
    decodeTableWord 32 0b0011000_00_00011_000000011_110000101 = some (.tle 0 0x003 0x185) ∧
    decodeTableWord 32 0b0011000_00_00100_000000011_110000101 = some (.tltn 0 0x003 0x185) ∧
    decodeTableWord 32 0b0011000_00_00101_000000011_110000101 = some (.tlen 0 0x003 0x185) ∧
    decodeTableWord 32 0b0011001_00_00000000000111_110000101 = some (.teqi 0 7 0x185) ∧
    decodeTableWord 32 0b0011010_00_11111111111111_110000101 = some (.tlti 0 0x3FFF 0x185) ∧
    decodeTableWord 32 0b0011011_01_00000000001001_110000101 = some (.tltni 1 9 0x185) ∧
    decodeTableWord 32 0b0011100_00_00000_000000011_110000101 = some (.pand 0 0x003 0x185) ∧
    decodeTableWord 32 0b0011100_00_00001_000000011_110000101 = some (.por 0 0x003 0x185) ∧
    decodeTableWord 32 0b0011100_00_00010_000000011_110000101 = some (.pnot 0 0x003 0x185) := by decide

/-- OP 0x20 to 0x2A (R216): the loads and prf. -/
theorem decode_loads :
    decodeTableWord 32 0b0100000_00_00001_111111111_000000011 = some (.ldb 0 1 0x1FF 0x003) ∧
    decodeTableWord 32 0b0100001_00_00010_111111110_000000011 = some (.ldbs 0 2 0x1FE 0x003) ∧
    decodeTableWord 32 0b0100010_00_00011_111111101_000000011 = some (.ldh 0 3 0x1FD 0x003) ∧
    decodeTableWord 32 0b0100011_00_00100_111111100_000000011 = some (.ldhs 0 4 0x1FC 0x003) ∧
    decodeTableWord 32 0b0100100_00_00101_111111011_000000011 = some (.ldw 0 5 0x1FB 0x003) ∧
    decodeTableWord 32 0b0100101_00_00110_111111010_000000011 = some (.ldws 0 6 0x1FA 0x003) ∧
    decodeTableWord 32 0b0100110_00_00111_111111001_000000011 = some (.ldd 0 7 0x1F9 0x003) ∧
    decodeTableWord 32 0b0100111_00_01001_00000_100_0_110000101 = some (.lda 0 9 4 0x185) ∧
    decodeTableWord 32 0b0101000_00_01010_00000_011_0_110000101 = some (.ldred 0 10 3 0x185) ∧
    decodeTableWord 32 0b0101001_00_01011_010101011_000000011 = some (.ldt 0 11 0xAB 0x003) ∧
    decodeTableWord 32 0b0101010_00_01100_100000001_110100000 = some (.prf 0 12 0x101) := by decide

/-- OP 0x2B to 0x32 (R216): the stores, spills and fills. -/
theorem decode_stores :
    decodeTableWord 32 0b0101011_00_11111_100000000000000001 = some (.stb 0 31 0x20001) ∧
    decodeTableWord 32 0b0101100_00_11110_100000000000000010 = some (.sth 0 30 0x20002) ∧
    decodeTableWord 32 0b0101101_00_11101_100000000000000011 = some (.stw 0 29 0x20003) ∧
    decodeTableWord 32 0b0101110_00_11100_100000000000000100 = some (.std 0 28 0x20004) ∧
    decodeTableWord 32 0b0101111_00_00011_010_100000000000001 = some (.stl 0 3 2 0x4001) ∧
    decodeTableWord 32 0b0110000_00_00100_000000000011001101 = some (.stt 0 4 0xCD) ∧
    decodeTableWord 32 0b0110001_00_00000_00000000_10001_00010 = some (.spills 0 0 17 2) ∧
    decodeTableWord 32 0b0110010_00_00000_00000000_11111_11110 = some (.fills 0 0 31 30) := by decide

/-- OP 0x38 (R216, R217): AOP names the atomic. -/
theorem decode_atomics :
    decodeTableWord 32 0b0111000_00_00000_00000_000_0_110000101 = some (.aadd 0 0 0 0x185) ∧
    decodeTableWord 32 0b0111000_00_00001_00001_001_0_110000101 = some (.aaddf 0 1 1 0x185) ∧
    decodeTableWord 32 0b0111000_00_00010_00010_010_0_110000101 = some (.amin 0 2 2 0x185) ∧
    decodeTableWord 32 0b0111000_00_00011_00011_011_0_110000101 = some (.amax 0 3 3 0x185) ∧
    decodeTableWord 32 0b0111000_00_00100_00100_100_0_110000101 = some (.aminn 0 4 4 0x185) ∧
    decodeTableWord 32 0b0111000_00_00101_00101_000_0_110000101 = some (.amaxn 0 5 0 0x185) ∧
    decodeTableWord 32 0b0111000_00_00110_00110_001_0_110000101 = some (.aand 0 6 1 0x185) ∧
    decodeTableWord 32 0b0111000_00_00111_00111_010_0_110000101 = some (.aor 0 7 2 0x185) ∧
    decodeTableWord 32 0b0111000_00_01000_01000_011_0_110000101 = some (.axor 0 8 3 0x185) ∧
    decodeTableWord 32 0b0111000_00_01001_01001_100_0_110000101 = some (.aswp 0 9 4 0x185) ∧
    decodeTableWord 32 0b0111000_00_01010_01010_000_0_110000101 = some (.acas 0 10 0 0x185) ∧
    decodeTableWord 32 0b0111000_00_01011_01011_001_0_110000101 = some (.ainc 0 11 1 0x185) := by decide

/-- OP 0x40 to 0x49 (R216): fences, barriers, yield, events and nwrite. -/
theorem decode_ordering :
    decodeTableWord 32 0b1000000_00_00001_00000_100_0_110000101 = some (.fence 0 1 4 0x185) ∧
    decodeTableWord 32 0b1000001_00_00010_01000001_0100010_011 = some (.xfence 0 2 0x41 0x22 3) ∧
    decodeTableWord 32 0b1000010_00_00011_000000000000000_0_01 = some (.sbar 0 3 0 1) ∧
    decodeTableWord 32 0b1000011_00_00100_0000000000_01011010 = some (.abar 0 4 0x5A) ∧
    decodeTableWord 32 0b1000100_00_00101_000000000000000_010 = some (.wbar 0 5 2) ∧
    decodeTableWord 32 0b1000101_00_00110_00000000_10_10011001 = some (.tbar 0 6 2 0x99) ∧
    decodeTableWord 32 0b1000110_00_00000_000000011_110000101 = some (.yield 0 0x003 0x185) ∧
    decodeTableWord 32 0b1000111_00_00000_000000011_110000101 = some (.wfe 0 0x003 0x185) ∧
    decodeTableWord 32 0b1001000_00_00000_000000011_110000101 = some (.sev 0 0x003 0x185) ∧
    decodeTableWord 32 0b1001001_00_00111_00000000000000000_1 = some (.nwrite 0 7 1) := by decide

/-- OP 0x50 to 0x5B (R216): queues and rings. -/
theorem decode_queues :
    decodeTableWord 32 0b1010000_00_00_000000_101000_110000101 = some (.qrsv 0 40 0x185) ∧
    decodeTableWord 32 0b1010001_00_00_000000_101001_110000101 = some (.qpush 0 41 0x185) ∧
    decodeTableWord 32 0b1010010_00_10_000000_101010_110000101 = some (.qwait 0 2 42 0x185) ∧
    decodeTableWord 32 0b1010011_00_10_000000_101011_110000101 = some (.qpop 0 2 43 0x185) ∧
    decodeTableWord 32 0b1010100_00_10_000000_101100_110000101 = some (.qadv 0 2 44 0x185) ∧
    decodeTableWord 32 0b1010101_00_10_000000_101101_110000101 = some (.qpadv 0 2 45 0x185) ∧
    decodeTableWord 32 0b1010110_00_00_000000_101110_110000101 = some (.qpol 0 46 0x185) ∧
    decodeTableWord 32 0b1010111_00_10_000000_101111_110000101 = some (.qstat 0 2 47 0x185) ∧
    decodeTableWord 32 0b1011000_00_00_000000_110000_110000101 = some (.qgap 0 48 0x185) ∧
    decodeTableWord 32 0b1011001_00_00_000000_110001_110000101 = some (.qmark 0 49 0x185) ∧
    decodeTableWord 32 0b1011010_00_00_000000_110010_110000101 = some (.rwait 0 50 0x185) ∧
    decodeTableWord 32 0b1011011_00_00_000000_110011_110000101 = some (.rrel 0 51 0x185) := by decide

/-- OP 0x60 to 0x6D (R216): streams, regions, banks and the tile table. -/
theorem decode_streams :
    decodeTableWord 32 0b1100000_00_00001_010100101_110000101 = some (.sopen 0 1 0xA5 0x185) ∧
    decodeTableWord 32 0b1100001_00_00010_001011010_110000101 = some (.sclose 0 2 0x5A 0x185) ∧
    decodeTableWord 32 0b1100010_00_00000011000011_110000101 = some (.sseek 0 0xC3 0x185) ∧
    decodeTableWord 32 0b1100011_00_00000000001001_110000101 = some (.shand 0 9 0x185) ∧
    decodeTableWord 32 0b1100100_00_00000000000001_110000101 = some (.cfgld 0 1 0x185) ∧
    decodeTableWord 32 0b1100101_00_00000000000010_110000101 = some (.cfgsh 0 2 0x185) ∧
    decodeTableWord 32 0b1100110_00_00000000000011_110000101 = some (.rgo 0 3 0x185) ∧
    decodeTableWord 32 0b1100111_00_00000000000001_110000101 = some (.rdrain 0 1 0x185) ∧
    decodeTableWord 32 0b1101001_00_00000000000010_110000101 = some (.rmark 0 2 0x185) ∧
    decodeTableWord 32 0b1101010_00_00000000000011_110000101 = some (.rroll 0 3 0x185) ∧
    decodeTableWord 32 0b1101000_00_000011_10000001_110000101 = some (.rstat 0 3 0x81 0x185) ∧
    decodeTableWord 32 0b1101011_00_00011_000010111_110000101 = some (.bankm 0 3 23 0x185) ∧
    decodeTableWord 32 0b1101100_00_000000_01110111_110000101 = some (.ttsetDefine 0 0x77 0x185) ∧
    decodeTableWord 32 0b1101100_00_001000_01110111_110000101 = some (.ttsetUndefine 0 0x77 0x185) ∧
    decodeTableWord 32 0b1101100_00_010000_01110111_110000101 = some (.ttsetFill 0 0x77 0x185) ∧
    decodeTableWord 32 0b1101100_00_011000_01110111_110000101 = some (.ttsetReady 0 0x77 0x185) ∧
    decodeTableWord 32 0b1101100_00_100000_01110111_110000101 = some (.ttsetAbort 0 0x77 0x185) ∧
    decodeTableWord 32 0b1101100_00_101000_01110111_110000101 = some (.ttsetDrain 0 0x77 0x185) ∧
    decodeTableWord 32 0b1101100_00_110000_01110111_110000101 = some (.ttsetEmpty 0 0x77 0x185) ∧
    decodeTableWord 32 0b1101101_00_000001_01100110_110000101 = some (.ttq 0 1 0x66 0x185) := by decide

/-- OP 0x70 to 0x73 (R216, R217): copies, matrix tasks, zones, launches and accumulators. -/
theorem decode_engines :
    decodeTableWord 32 0b1110000_00_00000_000000011_110000101 = some (.cparm 0 0x003 0x185) ∧
    decodeTableWord 32 0b1110000_00_00001_000000011_110000101 = some (.cpgo 0 0x003 0x185) ∧
    decodeTableWord 32 0b1110000_00_00010_000000011_110000101 = some (.cpdis 0 0x003 0x185) ∧
    decodeTableWord 32 0b1110000_00_00011_000000011_110000101 = some (.mxtask 0 0x003 0x185) ∧
    decodeTableWord 32 0b1110000_00_00100_000000011_110000101 = some (.coll 0 0x003 0x185) ∧
    decodeTableWord 32 0b1110001_00_00000_000000011_110000101 = some (.zres 0 0x003 0x185) ∧
    decodeTableWord 32 0b1110001_00_00001_000000011_110000101 = some (.zrel 0 0x003 0x185) ∧
    decodeTableWord 32 0b1110001_00_00010_000000011_110000101 = some (.zbar 0 0x003 0x185) ∧
    decodeTableWord 32 0b1110001_00_00011_000000011_110000101 = some (.zanno 0 0x003 0x185) ∧
    decodeTableWord 32 0b1110010_00_00000_000000011_110000101 = some (.launch 0 0x003 0x185) ∧
    decodeTableWord 32 0b1110010_00_00001_000000011_110000101 = some (.tenq 0 0x003 0x185) ∧
    decodeTableWord 32 0b1110010_00_00010_000000011_110000101 = some (.tdeq 0 0x003 0x185) ∧
    decodeTableWord 32 0b1110010_00_00011_000000011_110000101 = some (.schnext 0 0x003 0x185) ∧
    decodeTableWord 32 0b1110010_00_10000_000000011_110000101 = some (.launchPark 0 0x003 0x185) ∧
    decodeTableWord 32 0b1110010_00_10010_000000011_110000101 = some (.tdeqPark 0 0x003 0x185) ∧
    decodeTableWord 32 0b1110011_00_00000_000000011_110000101 = some (.acopen 0 0x003 0x185) ∧
    decodeTableWord 32 0b1110011_00_00001_000000011_110000101 = some (.acadd 0 0x003 0x185) ∧
    decodeTableWord 32 0b1110011_00_00011_000000011_110000101 = some (.acnorm 0 0x003 0x185) ∧
    decodeTableWord 32 0b1110011_00_00100_000000011_110000101 = some (.acevict 0 0x003 0x185) ∧
    decodeTableWord 32 0b1110011_00_00101_000000011_110000101 = some (.acload 0 0x003 0x185) ∧
    decodeTableWord 32 0b1110011_00_00010_000000011_000010101 = some (.acscope 0 0x003 21) := by decide

/-- OP 0x78 to 0x7D (R216, R217): exits, joins and the system group. -/
theorem decode_flow :
    decodeTableWord 32 0b1111000_00_101_10000000000000000001 = some (.br 0 5 0x80001) ∧
    decodeTableWord 32 0b1111001_01_110_01111111111111111110 = some (.call 1 6 0x7FFFE) ∧
    decodeTableWord 32 0b1111010_00_111_00000000000000000000 = some (.brt 0 7) ∧
    decodeTableWord 32 0b1111011_10_001_00000000000000000000 = some (.callt 2 1) ∧
    decodeTableWord 32 0b1111100_00_00100_110100000_110100000 = some (.ret 0 4) ∧
    decodeTableWord 32 0b1111100_00_01000_000000011_110000101 = some (.sel 0 0x003 0x185) ∧
    decodeTableWord 32 0b1111100_00_01001_000000011_110000101 = some (.nullw 0 0x003 0x185) ∧
    decodeTableWord 32 0b1111100_00_01010_000000011_000010011 = some (.nulls 0 0x003 19) ∧
    decodeTableWord 32 0b1111101_00_00000_110100000_110100000 = some (.trap 0) ∧
    decodeTableWord 32 0b1111101_00_00001_110100000_110100000 = some (.sysc 0) ∧
    decodeTableWord 32 0b1111101_00_00101_110100000_110100000 = some (.eret 0) ∧
    decodeTableWord 32 0b1111101_00_00110_110100000_110100000 = some (.halt 0) ∧
    decodeTableWord 32 0b1111101_00_00111_110100000_110100000 = some (.brk 0) ∧
    decodeTableWord 32 0b1111101_00_00010_000000011_000000100 = some (.rdsr 0 0x003 4) ∧
    decodeTableWord 32 0b1111101_00_00011_000000011_000001011 = some (.wrsr 0 0x003 11) ∧
    decodeTableWord 32 0b1111101_00_00100_000000011_110000101 = some (.rdtime 0 0x003 0x185) ∧
    decodeTableWord 32 0b1111101_00_01000_000000011_110000101 = some (.idle 0 0x003 0x185) ∧
    decodeTableWord 32 0b1111101_00_01001_000000011_110000101 = some (.setctx 0 0x003 0x185) ∧
    decodeTableWord 32 0b1111101_00_01010_000000011_110000101 = some (.inval 0 0x003 0x185) ∧
    decodeTableWord 32 0b1111101_00_01011_000000011_110000101 = some (.kill 0 0x003 0x185) ∧
    decodeTableWord 32 0b1111101_00_01100_000000011_110000101 = some (.dsnap 0 0x003 0x185) := by decide

/-- R412: the ply forms, and the two words that the rule itself writes out. -/
theorem decode_ply :
    decodeTableWord 32 0b0000000_00111_00110_000_00101_0001011 = some (.plySend 7 6 5) ∧
    decodeTableWord 32 0b0000000_00111_00110_001_00101_0001011 = some (.plyRecv 7 6 5) ∧
    decodeTableWord 32 0b0000000_00111_00110_010_00101_0001011 = some (.plyPoll 7 6 5) ∧
    decodeTableWord 32 0b0000000_00111_00110_011_00101_0001011 = some (.plyTag 7 6 5) ∧
    decodeTableWord 32 0b0000000_00111_00110_100_00101_0001011 = some (.plyFlag 7 6 5) ∧
    decodeTableWord 32 0b0000000_00111_00110_101_00101_0001011 = some (.plyEnd 7 6 5) ∧
    decodeTableWord 32 0b0000000_00111_00110_110_00101_0001011 = some (.plyRwd 7 6 5) ∧
    decodeTableWord 32 0x00C5850B = some (.plySend 12 11 10) ∧
    decodeTableWord 32 0x0002C00B = some (.plyFlag 0 5 0) := by decide

/-- R219, R221: the integer operations. -/
theorem decode_handlers_integer :
    decodeTableWord 64 0b00000001_011_0_01_0011_0000_0001_1010_1000_0101_1001_010_000_0000000000000000 = some (.iadd ⟨3, 0, 1, 3, 0, 1, 10, 8, 5, 9, 2, 0, 0⟩) ∧
    decodeTableWord 64 0b00000010_011_0_01_0011_0000_0001_1010_1000_0101_1001_010_000_0000000000000000 = some (.isub ⟨3, 0, 1, 3, 0, 1, 10, 8, 5, 9, 2, 0, 0⟩) ∧
    decodeTableWord 64 0b00000011_011_0_01_0011_0000_0001_1010_1000_0101_1001_010_000_0000000000000000 = some (.imul ⟨3, 0, 1, 3, 0, 1, 10, 8, 5, 9, 2, 0, 0⟩) ∧
    decodeTableWord 64 0b00000100_011_0_01_0011_0000_0001_1010_1000_0101_1001_010_000_0000000000000000 = some (.imulh ⟨3, 0, 1, 3, 0, 1, 10, 8, 5, 9, 2, 0, 0⟩) ∧
    decodeTableWord 64 0b00000101_011_0_01_0011_0000_0001_1010_1000_0101_1001_010_000_0000000000000000 = some (.iand ⟨3, 0, 1, 3, 0, 1, 10, 8, 5, 9, 2, 0, 0⟩) ∧
    decodeTableWord 64 0b00000110_011_0_01_0011_0000_0001_1010_1000_0101_1001_010_000_0000000000000000 = some (.ior ⟨3, 0, 1, 3, 0, 1, 10, 8, 5, 9, 2, 0, 0⟩) ∧
    decodeTableWord 64 0b00000111_011_0_01_0011_0000_0001_1010_1000_0101_1001_010_000_0000000000000000 = some (.ixor ⟨3, 0, 1, 3, 0, 1, 10, 8, 5, 9, 2, 0, 0⟩) ∧
    decodeTableWord 64 0b00001000_011_0_01_0011_0000_0001_1010_1000_0101_1001_010_000_0000000000000000 = some (.ishl ⟨3, 0, 1, 3, 0, 1, 10, 8, 5, 9, 2, 0, 0⟩) ∧
    decodeTableWord 64 0b00001001_011_0_01_0011_0000_0001_1010_1000_0101_1001_010_000_0000000000000000 = some (.ishr ⟨3, 0, 1, 3, 0, 1, 10, 8, 5, 9, 2, 0, 0⟩) ∧
    decodeTableWord 64 0b00001010_011_0_01_0011_0000_0001_1010_1000_0101_1001_010_000_0000000000000000 = some (.isha ⟨3, 0, 1, 3, 0, 1, 10, 8, 5, 9, 2, 0, 0⟩) ∧
    decodeTableWord 64 0b00001011_011_0_01_0011_0000_0001_1010_1000_0101_1001_010_000_0000000000000000 = some (.imin ⟨3, 0, 1, 3, 0, 1, 10, 8, 5, 9, 2, 0, 0⟩) ∧
    decodeTableWord 64 0b00001100_011_0_01_0011_0000_0001_1010_1000_0101_1001_010_000_0000000000000000 = some (.imax ⟨3, 0, 1, 3, 0, 1, 10, 8, 5, 9, 2, 0, 0⟩) ∧
    decodeTableWord 64 0b00001101_011_0_01_0011_0000_0001_1010_1000_0101_1001_010_000_0000000000000000 = some (.ieq ⟨3, 0, 1, 3, 0, 1, 10, 8, 5, 9, 2, 0, 0⟩) ∧
    decodeTableWord 64 0b00001110_011_0_01_0011_0000_0001_1010_1000_0101_1001_010_000_0000000000000000 = some (.ilt ⟨3, 0, 1, 3, 0, 1, 10, 8, 5, 9, 2, 0, 0⟩) ∧
    decodeTableWord 64 0b00001111_011_0_01_0011_0000_0001_1010_1000_0101_1001_010_000_0000000000000000 = some (.iltn ⟨3, 0, 1, 3, 0, 1, 10, 8, 5, 9, 2, 0, 0⟩) ∧
    decodeTableWord 64 0b00010000_011_0_01_0111_0000_0001_0010_1001_1010_1001_010_000_0000000000000000 = some (.isel ⟨3, 0, 1, 7, 0, 1, 2, 9, 10, 9, 2, 0, 0⟩) := by decide

/-- R219, R221: the XF42 operations and the conversions. -/
theorem decode_handlers_real :
    decodeTableWord 64 0b00100000_011_0_01_0011_0000_0001_1010_1000_0101_1001_010_000_0000000000000000 = some (.fadd ⟨3, 0, 1, 3, 0, 1, 10, 8, 5, 9, 2, 0, 0⟩) ∧
    decodeTableWord 64 0b00100001_011_0_01_0011_0000_0001_1010_1000_0101_1001_010_000_0000000000000000 = some (.fsub ⟨3, 0, 1, 3, 0, 1, 10, 8, 5, 9, 2, 0, 0⟩) ∧
    decodeTableWord 64 0b00100010_011_0_01_0011_0000_0001_1010_1000_0101_1001_010_000_0000000000000000 = some (.fmul ⟨3, 0, 1, 3, 0, 1, 10, 8, 5, 9, 2, 0, 0⟩) ∧
    decodeTableWord 64 0b00100011_011_0_01_0111_0000_0001_0010_1001_1010_1001_010_000_0000000000000000 = some (.fma ⟨3, 0, 1, 7, 0, 1, 2, 9, 10, 9, 2, 0, 0⟩) ∧
    decodeTableWord 64 0b00100100_011_0_01_0011_0000_0001_1010_1000_0101_1001_010_000_0000000000000000 = some (.fmin ⟨3, 0, 1, 3, 0, 1, 10, 8, 5, 9, 2, 0, 0⟩) ∧
    decodeTableWord 64 0b00100101_011_0_01_0011_0000_0001_1010_1000_0101_1001_010_000_0000000000000000 = some (.fmax ⟨3, 0, 1, 3, 0, 1, 10, 8, 5, 9, 2, 0, 0⟩) ∧
    decodeTableWord 64 0b00100110_011_0_01_0001_0000_1010_1010_0000_0010_1001_010_000_0000000000000000 = some (.fneg ⟨3, 0, 1, 1, 0, 10, 10, 0, 2, 9, 2, 0, 0⟩) ∧
    decodeTableWord 64 0b00100111_011_0_01_0001_0000_1010_1010_0000_0010_1001_010_000_0000000000000000 = some (.fabs ⟨3, 0, 1, 1, 0, 10, 10, 0, 2, 9, 2, 0, 0⟩) ∧
    decodeTableWord 64 0b00101000_011_0_01_0001_0000_1010_1010_0000_0010_1001_010_000_0000000000000000 = some (.frcp ⟨3, 0, 1, 1, 0, 10, 10, 0, 2, 9, 2, 0, 0⟩) ∧
    decodeTableWord 64 0b00101001_011_0_01_0001_0000_1010_1010_0000_0010_1001_010_000_0000000000000000 = some (.frsq ⟨3, 0, 1, 1, 0, 10, 10, 0, 2, 9, 2, 0, 0⟩) ∧
    decodeTableWord 64 0b00101010_011_0_01_0001_0000_1010_1010_0000_0010_1001_010_000_0000000000000000 = some (.fexp2 ⟨3, 0, 1, 1, 0, 10, 10, 0, 2, 9, 2, 0, 0⟩) ∧
    decodeTableWord 64 0b00101011_011_0_01_0001_0000_1010_1010_0000_0010_1001_010_000_0000000000000000 = some (.flog2 ⟨3, 0, 1, 1, 0, 10, 10, 0, 2, 9, 2, 0, 0⟩) ∧
    decodeTableWord 64 0b00101100_011_0_01_0011_0000_0001_1010_1000_0101_1001_010_000_0000000000000000 = some (.feq ⟨3, 0, 1, 3, 0, 1, 10, 8, 5, 9, 2, 0, 0⟩) ∧
    decodeTableWord 64 0b00101101_011_0_01_0011_0000_0001_1010_1000_0101_1001_010_000_0000000000000000 = some (.flt ⟨3, 0, 1, 3, 0, 1, 10, 8, 5, 9, 2, 0, 0⟩) ∧
    decodeTableWord 64 0b00101110_011_0_01_0111_0000_0001_0010_1001_1010_1001_010_000_0000000000000000 = some (.fsel ⟨3, 0, 1, 7, 0, 1, 2, 9, 10, 9, 2, 0, 0⟩) ∧
    decodeTableWord 64 0b00110000_011_0_01_0001_0000_1010_1010_0000_0010_1001_010_000_0000000000000001 = some (.cvif ⟨3, 0, 1, 1, 0, 10, 10, 0, 2, 9, 2, 0, 1⟩) ∧
    decodeTableWord 64 0b00110001_011_0_01_0001_0000_1010_1010_0000_0010_1001_010_000_0000000000000000 = some (.cvfi ⟨3, 0, 1, 1, 0, 10, 10, 0, 2, 9, 2, 0, 0⟩) := by decide

/-- R219, R221: steering, coordinates, injection and accumulation. -/
theorem decode_handlers_stream :
    decodeTableWord 64 0b01000000_011_0_01_0001_0000_1010_1010_0000_0010_1001_010_000_0000000000000000 = some (.pass ⟨3, 0, 1, 1, 0, 10, 10, 0, 2, 9, 2, 0, 0⟩) ∧
    decodeTableWord 64 0b01000001_011_0_01_0001_0000_1010_1010_0000_0010_1001_010_000_0000000011111111 = some (.dup ⟨3, 0, 1, 1, 0, 10, 10, 0, 2, 9, 2, 0, 255⟩) ∧
    decodeTableWord 64 0b01000010_011_0_01_0001_0000_1010_1010_0000_0010_1001_010_000_0000000000000001 = some (.cnt ⟨3, 0, 1, 1, 0, 10, 10, 0, 2, 9, 2, 0, 1⟩) ∧
    decodeTableWord 64 0b01000011_011_0_01_0011_0000_0001_1010_1000_0101_1001_010_000_0000000000000011 = some (.gate ⟨3, 0, 1, 3, 0, 1, 10, 8, 5, 9, 2, 0, 3⟩) ∧
    decodeTableWord 64 0b01000100_011_0_01_0111_0000_0001_0010_1001_1010_1001_010_000_0000000000000000 = some (.tsel ⟨3, 0, 1, 7, 0, 1, 2, 9, 10, 9, 2, 0, 0⟩) ∧
    decodeTableWord 64 0b01000101_011_0_01_0011_0000_0001_1010_1000_0101_1001_010_000_0000000000000000 = some (.merge ⟨3, 0, 1, 3, 0, 1, 10, 8, 5, 9, 2, 0, 0⟩) ∧
    decodeTableWord 64 0b01000110_011_0_01_0011_0000_0001_1010_1000_0101_1001_010_000_0000000000000000 = some (.isect ⟨3, 0, 1, 3, 0, 1, 10, 8, 5, 9, 2, 0, 0⟩) ∧
    decodeTableWord 64 0b01000111_011_0_01_0011_0000_0001_1010_1000_0101_1001_010_000_0000000000000000 = some (.union ⟨3, 0, 1, 3, 0, 1, 10, 8, 5, 9, 2, 0, 0⟩) ∧
    decodeTableWord 64 0b01001000_011_0_01_0001_0000_1010_1010_0000_0010_1001_010_000_0000000000001111 = some (.stopck ⟨3, 0, 1, 1, 0, 10, 10, 0, 2, 9, 2, 0, 15⟩) ∧
    decodeTableWord 64 0b01001001_011_0_01_0001_0000_1010_1010_0000_0010_1001_010_000_0000000000000000 = some (.swap ⟨3, 0, 1, 1, 0, 10, 10, 0, 2, 9, 2, 0, 0⟩) ∧
    decodeTableWord 64 0b01001010_011_0_01_0001_0000_1010_1010_0000_0010_1001_010_000_0000000000000000 = some (.mark ⟨3, 0, 1, 1, 0, 10, 10, 0, 2, 9, 2, 0, 0⟩) ∧
    decodeTableWord 64 0b01001011_011_0_01_0001_0000_1010_1010_0000_0010_1001_010_000_0000000000001111 = some (.hand ⟨3, 0, 1, 1, 0, 10, 10, 0, 2, 9, 2, 0, 15⟩) ∧
    decodeTableWord 64 0b01010000_011_0_01_0001_0000_1010_1010_0000_0010_1001_010_000_0000000000010110 = some (.acc ⟨3, 0, 1, 1, 0, 10, 10, 0, 2, 9, 2, 0, 22⟩) ∧
    decodeTableWord 64 0b01010001_011_0_01_0001_0000_1010_1010_0000_0010_1001_010_000_0000000100000010 = some (.accw ⟨3, 0, 1, 1, 0, 10, 10, 0, 2, 9, 2, 0, 258⟩) ∧
    decodeTableWord 64 0b01010010_011_0_01_0011_0000_0001_1010_1000_0101_1001_010_000_0000000000000111 = some (.bfly ⟨3, 0, 1, 3, 0, 1, 10, 8, 5, 9, 2, 0, 7⟩) ∧
    decodeTableWord 64 0b01010011_011_0_01_0001_0000_1010_1010_0000_0010_1001_010_000_0000000000000000 = some (.wmul ⟨3, 0, 1, 1, 0, 10, 10, 0, 2, 9, 2, 0, 0⟩) ∧
    decodeTableWord 64 0b01010100_011_0_01_0001_0000_1010_1010_0000_0010_1001_010_000_0000000000000011 = some (.gapw ⟨3, 0, 1, 1, 0, 10, 10, 0, 2, 9, 2, 0, 3⟩) := by decide

/-- R219, R221: ordering, joins and the edge ports, and the word that R320 writes out. -/
theorem decode_handlers_node :
    decodeTableWord 64 0b01011000_011_0_01_0001_0000_1010_1010_0000_0010_1001_010_000_0000000000000100 = some (.widen ⟨3, 0, 1, 1, 0, 10, 10, 0, 2, 9, 2, 0, 4⟩) ∧
    decodeTableWord 64 0b01011001_011_0_01_0011_0000_0001_1010_1000_0101_1001_010_000_0000000000000000 = some (.cmpd ⟨3, 0, 1, 3, 0, 1, 10, 8, 5, 9, 2, 0, 0⟩) ∧
    decodeTableWord 64 0b01100000_011_0_01_0011_0000_0001_1010_1000_0101_1001_010_000_0000000000000000 = some (.join ⟨3, 0, 1, 3, 0, 1, 10, 8, 5, 9, 2, 0, 0⟩) ∧
    decodeTableWord 64 0b01100001_011_0_01_0001_0000_1010_1010_0000_0010_1001_010_000_1000000000000001 = some (.win ⟨3, 0, 1, 1, 0, 10, 10, 0, 2, 9, 2, 0, 32769⟩) ∧
    decodeTableWord 64 0b01100010_011_0_01_0001_0000_1010_1010_0000_0010_1001_010_101_0000000000000010 = some (.mxnode ⟨3, 0, 1, 1, 0, 10, 10, 0, 2, 9, 2, 5, 2⟩) ∧
    decodeTableWord 64 0b01100011_011_0_01_0001_0000_1010_1010_0000_0000_1001_010_000_0000000000011111 = some (.cpnode ⟨3, 0, 1, 1, 0, 10, 10, 0, 0, 9, 2, 0, 31⟩) ∧
    decodeTableWord 64 0b01100100_011_0_01_0001_0000_1010_1010_0000_0010_1001_010_110_0000000001000001 = some (.clnode ⟨3, 0, 1, 1, 0, 10, 10, 0, 2, 9, 2, 6, 65⟩) ∧
    decodeTableWord 64 0x2340411410400000 = some (.fma ⟨2, 0, 0, 1, 0, 4, 5, 0, 4, 1, 0, 0, 0⟩) := by decide

/-! ### Well-formedness: for each check a term that it refuses -/

/-- PR is not 3 (R212). -/
theorem wf_refuses_predicate : (Instr.add 3 0x003 0x185).wf = false ∧ (Instr.add 2 0x003 0x185).wf = true := by decide

/-- A target of class 3 numbered 33 to 63, or of an input of an instruction above 63, names nothing (R213). -/
theorem wf_refuses_targets :
    (Instr.add 0 0x1A1 0x185).wf = false ∧ (Instr.add 0 0x003 0x1BF).wf = false ∧ (Instr.addi 0 1 0x040).wf = false ∧
    (Instr.addi 0 1 0x17F).wf = false ∧ (Instr.addi 0 1 0x1A0).wf = true ∧ (Instr.addi 0 1 0x1C0).wf = true ∧ (Instr.addi 0 1 0x13F).wf = true := by decide

/-- Widths and fields of at most 64 bits (R217, R238). -/
theorem wf_refuses_widths :
    (Instr.sext 0 3 0x003 0x185).wf = false ∧ (Instr.zext 0 3 0x003 0x185).wf = false ∧ (Instr.bfx 0 32 32 0x185).wf = false ∧
    (Instr.bfi 0 63 1 0x185).wf = false ∧ (Instr.bfx 0 32 31 0x185).wf = true ∧ (Instr.bfi 0 0 63 0x185).wf = true := by decide

/-- Scopes 5 to 7 are refused in every form that carries one (R160). -/
theorem wf_refuses_scopes :
    (Instr.lda 0 0 5 0x185).wf = false ∧ (Instr.ldred 0 0 6 0x185).wf = false ∧ (Instr.stl 0 0 7 0).wf = false ∧
    ([Instr.aadd, .aaddf, .amin, .amax, .aminn, .amaxn, .aand, .aor, .axor, .aswp, .acas, .ainc].all (fun i => !(i 0 0 5 0x185).wf && (i 0 0 4 0x185).wf)) = true ∧
    (Instr.fence 0 0 5 0x185).wf = false ∧ (Instr.wbar 0 0 5).wf = false ∧ (Instr.xfence 0 0 1 1 5).wf = false ∧ (Instr.xfence 0 0 1 1 4).wf = true := by
  decide

/-- Ranges of registers, masks, groups and states, and system registers (R264, R273, R274, R276, R313). -/
theorem wf_refuses_ranges :
    (Instr.spills 0 0 2 3).wf = false ∧ (Instr.fills 0 0 30 31).wf = false ∧ (Instr.spills 0 0 3 3).wf = true ∧
    (Instr.xfence 0 0 0 1 0).wf = false ∧ (Instr.xfence 0 0 1 0 0).wf = false ∧ (Instr.xfence 0 0 0x80 1 0).wf = false ∧
    (Instr.xfence 0 0 1 0x40 0).wf = false ∧ (Instr.sbar 0 0 1 3).wf = false ∧ (Instr.sbar 0 0 0 3).wf = true ∧ (Instr.tbar 0 0 3 0).wf = false ∧
    (Instr.rdsr 0 0x003 5).wf = false ∧ (Instr.rdsr 0 0x003 12).wf = false ∧ (Instr.wrsr 0 0x003 0).wf = false ∧
    (Instr.wrsr 0 0x003 4).wf = false ∧ (Instr.rdsr 0 0x003 4).wf = true ∧ (Instr.wrsr 0 0x003 11).wf = true := by decide

/-- A handler word that adds the heads of queues 0 and 1. -/
def twoQueues : HWord := ⟨0, 0, 0, 3, 0, 1, 10, 0, 1, 0, 0, 0, 0⟩
/-- A handler word that passes the head of queue 0. -/
def oneQueue : HWord := ⟨0, 0, 0, 1, 0, 10, 10, 0, 1, 0, 0, 0, 0⟩

/-- Sources, DST, RM, DSEL and FIRE of a handler word (R222, R331). -/
theorem wf_refuses_handlers :
    (Instr.iadd twoQueues).wf = true ∧ (Instr.iadd { twoQueues with a := 13 }).wf = false ∧ (Instr.iadd { twoQueues with fire := 1 }).wf = false ∧
    (Instr.iadd { twoQueues with c := 0 }).wf = false ∧ (Instr.iadd { twoQueues with dst := 1 }).wf = false ∧
    (Instr.iadd { twoQueues with rm := 4 }).wf = false ∧ (Instr.iadd { twoQueues with dsel := 7 }).wf = false ∧
    (Instr.iadd { twoQueues with param := 1 }).wf = false ∧ (Instr.pass oneQueue).wf = true ∧ (Instr.pass { oneQueue with b := 0 }).wf = false ∧
    (Instr.pass { oneQueue with fire := 0, a := 4 }).wf = false ∧ (Instr.join { twoQueues with b := 8 }).wf = false ∧
    (Instr.merge { twoQueues with a := 11 }).wf = false ∧ (Instr.tsel { twoQueues with c := 9 }).wf = false := by decide

/-- PARAM of a handler word, and where an operation fixes its outputs (R331, R345, R347, R348, R349). -/
theorem wf_refuses_params :
    (Instr.cvif { oneQueue with param := 2 }).wf = false ∧ (Instr.dup { oneQueue with param := 256 }).wf = false ∧
    (Instr.cnt { oneQueue with param := 2 }).wf = false ∧ (Instr.gate { twoQueues with param := 4 }).wf = false ∧
    (Instr.stopck { oneQueue with param := 16 }).wf = false ∧ (Instr.hand { oneQueue with param := 16 }).wf = false ∧
    (Instr.acc { oneQueue with param := 3 }).wf = false ∧ (Instr.acc { oneQueue with param := 8 }).wf = false ∧
    (Instr.accw { oneQueue with param := 0x200 }).wf = false ∧ (Instr.bfly { twoQueues with param := 16 }).wf = false ∧
    (Instr.gapw { oneQueue with param := 16 }).wf = false ∧ (Instr.widen { oneQueue with param := 1 }).wf = false ∧
    (Instr.widen { oneQueue with param := 5 }).wf = false ∧ (Instr.win { oneQueue with param := 0x8000 }).wf = false ∧
    (Instr.mxnode { oneQueue with param := 12, dsel := 5 }).wf = false ∧ (Instr.mxnode oneQueue).wf = false ∧
    (Instr.cpnode { oneQueue with outmask := 0, param := 32 }).wf = false ∧ (Instr.cpnode oneQueue).wf = false ∧
    (Instr.clnode { oneQueue with dsel := 5, param := 256 }).wf = false ∧ (Instr.clnode oneQueue).wf = false := by decide

/-- The block that the manual writes out to the bit starts; a wrong HSUM, a target that its consumer does not use, and a predicated
exit without PRE are refused (R206, R207, R212, R213, R214). -/
theorem block_of_the_manual :
    let ws : List (BitVec 32) := [0x260803A0, 0x0E7FF983, 0xF0000004]
    blockCheck 0x080040CE ws = none ∧ blockCheck 0x080040CF ws = some (.csum, 64) ∧
    blockCheck 0x0800404C [0x260803A0, 0x0E7FF802, 0xF0000004] = some (.badtgt, 1) ∧
    blockCheck 0x0800404E [0x260803A0, 0x0E7FF983, 0xF0800004] = some (.badpre, 2) := by decide

/-- A header of zeros or ones, of KIND 3, or with NM or NW above 32 is BADHDR (R207). -/
theorem block_refuses_headers :
    Hdr.ok 0 = false ∧ Hdr.ok 0xFFFFFFFF = false ∧ Hdr.ok 0x08003000 = false ∧ Hdr.ok 0x0A100000 = false ∧ Hdr.ok 0x08084000 = false ∧
    Hdr.ok 0x0A080000 = true := by decide

/-- An exit above NX is BADFLD; an LSID that is used twice or is not below NM, and a spills beside another memory token, are BADLSID
(R141, R214, R264). -/
theorem block_refuses_fields :
    wordCheck 0 0xF0100004 = .error .badfld ∧ wordCheck 1 0xF0100004 = .ok (.br 0 1 4) ∧ wordCheck 0 0x3E000000 = .error .badop ∧
    wordCheck 0 0x00C5850B = .error .badop ∧
    wordCause 0x00200000 [.ok (.ldd 0 0 0 0x180), .ok (.ldd 0 0 0 0x181)] 0 = some .badlsid ∧
    wordCause 0x00100000 [.ok (.ldd 0 1 0 0x180)] 0 = some .badlsid ∧
    wordCause 0x00200000 [.ok (.spills 0 0 3 1), .ok (.ldd 0 1 0 0x181)] 0 = some .badlsid ∧
    wordCause 0x00200000 [.ok (.ldd 0 0 0 0x180), .ok (.ldd 0 1 0 0x181)] 0 = none := by decide

/-! ### Situations that the statements speak of -/

theorem witness_MemoryOperationsKeepForm : Mem.wf [(5, 1#8), (7, 2#8)] = true ∧ Mem.wf [(5, 0#8)] = false ∧ Mem.wf [(7, 2#8), (5, 1#8)] = false := by decide

/-- The bytes next to the two written ones, and the written ones. -/
theorem witness_MemoryReadsWhatWasWritten :
    Mem.getN (Mem.putN [(4, 9#8)] 5 [1#8, 0#8]) 4 4 = [9#8, 1#8, 0#8, 0#8] ∧ leNat (leBytes 2 0x12345) = 0x2345 := by decide

theorem witness_EncodingsDecode :
    (Instr.movc 0x8000 0x1A0).wf = true ∧ encodeWord (.movc 0x8000 0x1A0) = some 0x230001A0#32 ∧
    (Instr.fma ⟨2, 0, 0, 1, 0, 4, 5, 0, 4, 1, 0, 0, 0⟩).wf = true ∧
    encodeHandler (.fma ⟨2, 0, 0, 1, 0, 4, 5, 0, 4, 1, 0, 0, 0⟩) = some 0x2340411410400000#64 := by decide

/-- OP 0, OP 0x7E, the first unassigned XOP of OP 1, and PR 3. -/
theorem witness_UnassignedWordsRefused :
    (0x00000001#32 ≠ 0#32 ∧ (0x00000001#32).extractLsb' 25 7 = 0#7) ∧ (0xFC000000#32).extractLsb' 25 7 = 0x7E#7 ∧
    ((0x02280000#32).extractLsb' 25 7 = 1#7 ∧ 10 ≤ ((0x02280000#32).extractLsb' 18 5).toNat) ∧
    ((0x03A40000#32).extractLsb' 25 7 = 1#7 ∧ ((0x03A40000#32).extractLsb' 18 5).toNat < 10 ∧ (0x03A40000#32).extractLsb' 23 2 = 3#2) := by decide

/-- A block of one instruction, movc 0x1234 into h3. -/
def oneWord : Frame := { block [] with words := [0b0010001_0001001000110100_110000011] }

/-- The module is READY and the agenda names one turn. -/
def turned (t : Turn) (s : State) : State := { s with sim.agenda := [t], dev.phase := .ready }

theorem witness_StepRunsDecodedInstruction_context :
    let s := turned (.ct 0 0) (running .reset default oneWord)
    s.dev.phase = .ready ∧ (ctxOf s 0 0).st = .run ∧ (frameOf s 0 0).own = 1 ∧ (frameOf s 0 0).loaded = true ∧
    (frameOf s 0 0).next = some 0 ∧ (frameOf s 0 0).instr 0 = some (.movc 0x1234 0x183) := by decide

/-- A hearth core whose pc names a ply word in its boot memory, or a base instruction. -/
def atWord (pc : Nat) (bs : List Byte) : State :=
  { State.reset with mem := Mem.putN [] pc bs, hth.harts := SMap.set default 0 { (default : Hart) with pc := BitVec.ofNat 64 pc } }

theorem witness_StepRunsDecodedInstruction_hart : ∃ t, hartTurn (taken (turned (.hart 0) (atWord 0x1000 [0x0B, 0x85, 0xC5, 0x00])) []) 0 = .run (.plySend 12 11 10) t :=
  ⟨_, rfl⟩

theorem witness_EveryStepGoesOn_base :
    ∃ t, hartTurn (taken (turned (.hart 0) (atWord 0x1000 [0x13, 0, 0, 0])) []) 0 = .done t := ⟨_, rfl⟩

/-- An element whose handler 0, in slot 0, has an operation, a word and a state; channel 0 is bound to it, and its queues hold the
given heads. -/
def element (op : BitVec 8) (h : HWord) (hd : Handler) (heads : List (Nat × FTok)) : Elem :=
  { (default : Elem) with
    inq := heads.foldl (fun m x => m.set x.1 [{ tok := x.2, at_ := 0 }]) default
    act := SMap.set default 0 { hd with present := true, word := packHandler op h }
    chm := SMap.set default 0 1
    enabled := 1#4
    seg := some 0 }

/-- Handler 0 of element 0 of core 0 has its turn; its slot is live and belongs to region 1, which goes on. -/
def acting (s : State) (e : Elem) : State :=
  { s with
    sim.cur := .elem 0 0 0
    fab.elems := SMap.set default 0 e
    rg := { s.rg with slots := SMap.set default 0 { (default : GSlot) with rid := 1, live := true }, regions := SMap.set default 0 default } }

/-- The Boolean form of `Runs`. -/
def mayRun (s : State) (op : Nat) (h : HWord) : Bool :=
  match opNeed s 0 op h (elemIn s 0) (handlerIn s 0 0) with
  | some need => canFire s 0 0 h need (opHeads s 0 op (elemIn s 0) need)
  | none => false

theorem runs_of (s : State) (op : Nat) (h : HWord) (hc : s.sim.cur = .elem 0 0 0) (hm : mayRun s op h = true) : Runs s 0 0 op h where
  cur := hc
  fires := by
    unfold mayRun at hm
    split at hm
    · exact ⟨_, by assumption, hm⟩
    · cases hm

theorem element_turns :
    (elemTurn (taken (turned (.el 0 0) (acting .reset (element 0x40 oneQueue default [(0, 5#48)]))) []) (0 * 4096 + 0 % 4096)).2 = some (.pass oneQueue) := by decide

theorem witness_StepRunsDecodedInstruction_element :
    ∃ t, elemTurn (taken (turned (.el 0 0) (acting .reset (element 0x40 oneQueue default [(0, 5#48)]))) []) (0 * 4096 + 0 % 4096) = (t, some (.pass oneQueue)) :=
  ⟨_, Prod.ext rfl element_turns⟩

theorem witness_StepRunsDecodedInstruction_event :
    let s := turned (.ev .linkDown default) .reset
    s.sim.agenda = [.ev .linkDown default] ∧ s.dev.phase = .ready := by decide

theorem witness_EveryStepGoesOn : ∀ hc r, (turned (.ct 0 0) (running .reset default oneWord)).sim.agenda ≠ .hart hc :: r := by
  intro hc r h; cases h

/-- Unpredicated, and predicated on bit 0 of a token: on, off by its bit, off by a null. -/
theorem witness_FiringRule :
    (block [(0, some 5), (1, none)]).ready 0 0 true true = .on (some 5) none ∧ (block [(2, some 3)]).ready 0 1 false false = .on (some 0) (some 0) ∧
    (block [(2, some 2)]).ready 0 2 false false = .on (some 0) (some 0) ∧ (block [(2, some 2)]).ready 0 1 true true = .off ∧
    (block [(2, none)]).ready 0 2 true true = .off ∧ (block [(0, some 5)]).ready 0 0 true true = .wait := by decide

theorem witness_FiringRule_once :
    let s := running .reset default { block [(0, some 5)] with fired := 1 }
    s.sim.cur = .ct 0 0 0 ∧ (frameOf s 0 0).gone 0 = true := by decide

theorem witness_PredicatedOff :
    CtAt (fresh [(2, some 0)]) 0 0 0 ∧ (frameOf (fresh [(2, some 0)]) 0 0).readyOf 0 (.std 1 3 0) = .off ∧
    (frameOf (fresh [(2, some 0)]) 0 0).readyOf 0 (.nulls 1 0x185 3) = .off ∧ (frameOf (fresh [(2, none)]) 0 0).readyOf 0 (.sel 2 0x185 0x1A0) = .off :=
  ⟨block_at _ _ _, by decide, by decide, by decide⟩

theorem witness_WaitingChangesNothing : CtAt (fresh [(0, some 5)]) 0 0 0 ∧ (frameOf (fresh [(0, some 5)]) 0 0).readyOf 0 (.add 0 0x185 0x1A0) = .wait :=
  ⟨block_at _ _ _, by decide⟩

/-- A null left operand, and a null right operand of an operation other than acadd. -/
theorem witness_NullOperands :
    CtAt (fresh [(0, none), (1, some 7)]) 0 0 0 ∧ (frameOf (fresh [(0, none), (1, some 7)]) 0 0).readyOf 0 (.acadd 0 0x185 0x1A0) = .on none (some 7) ∧
    CtAt (fresh [(0, some 5), (1, none)]) 0 0 0 ∧ (frameOf (fresh [(0, some 5), (1, none)]) 0 0).readyOf 0 (.std 0 3 0) = .on (some 5) none :=
  ⟨block_at _ _ _, by decide, block_at _ _ _, by decide⟩

theorem witness_OtherAgentsLeaveTheState :
    (∀ core x ix, State.reset.sim.cur ≠ .ct core x ix) ∧ (ctxOf { State.reset with sim.cur := .ct 0 0 0 } 0 0).st = .free := by
  exact ⟨fun core x ix h => (by cases h), by decide⟩

theorem witness_ArithmeticGroup : Fires (fresh [(0, some 0x7FFFFFFFFFFFFFFF), (1, some 1)]) 0 0 0 0#2 true true (some 0x7FFFFFFFFFFFFFFF) (some 1) :=
  fires_two _ _ _ _

/-- A division by 0, the quotient that does not fit, and an ordinary one. -/
theorem witness_DivisionGroup :
    Fires (fresh [(0, some 7), (1, some 0)]) 0 0 0 0#2 true true (some 7) (some 0) ∧
    Fires (fresh [(0, some 0x8000000000000000), (1, some 0xFFFFFFFFFFFFFFFF)]) 0 0 0 0#2 true true (some 0x8000000000000000) (some 0xFFFFFFFFFFFFFFFF) ∧
    Fires (fresh [(0, some (-7)), (1, some 2)]) 0 0 0 0#2 true true (some (-7)) (some 2) ∧ (2#64 ≠ 0#64 ∧ ¬((-7#64).toInt = -2 ^ 63 ∧ (2#64).toInt = -1)) ∧
    ((0x04100000#32).extractLsb' 25 7 = 2#7 ∧ 4 ≤ ((0x04100000#32).extractLsb' 18 5).toNat) :=
  ⟨fires_two _ _ _ _, fires_two _ _ _ _, fires_two _ _ _ _, by decide, by decide⟩

theorem witness_LogicGroup :
    Fires (fresh [(0, some 12), (1, some 10)]) 0 0 0 0#2 true true (some 12) (some 10) ∧
    ((0x06100000#32).extractLsb' 25 7 = 3#7 ∧ 4 ≤ ((0x06100000#32).extractLsb' 18 5).toNat) := ⟨fires_two _ _ _ _, by decide⟩

/-- Shifts by 0, 63 and 64. -/
theorem witness_ShiftGroup :
    Fires (fresh [(0, some 5), (1, some 0)]) 0 0 0 0#2 true true (some 5) (some 0) ∧ Fires (fresh [(0, some 5), (1, some 63)]) 0 0 0 0#2 true true (some 5) (some 63) ∧
    Fires (fresh [(0, some 5), (1, some 64)]) 0 0 0 0#2 true true (some 5) (some 64) ∧
    ((0x08100000#32).extractLsb' 25 7 = 4#7 ∧ 4 ≤ ((0x08100000#32).extractLsb' 18 5).toNat) :=
  ⟨fires_two _ _ _ _, fires_two _ _ _ _, fires_two _ _ _ _, by decide⟩

/-- A zero and a value for the counts, and the widest fields. -/
theorem witness_UnaryAndFieldForms :
    Fires (fresh [(0, some 0)]) 0 0 0 0#2 true false (some 0) (some 0) ∧ Fires (fresh [(0, some 0x80)]) 0 0 0 0#2 true false (some 0x80) (some 0) ∧
    ((63#6).toNat + (0#6).toNat + 1 ≤ 64 ∧ (0#6).toNat + (63#6).toNat + 1 ≤ 64) ∧
    Fires (fresh [(0, some 5), (1, some 6)]) 0 0 0 0#2 true true (some 5) (some 6) := ⟨fires_one _ _ _, fires_one _ _ _, by decide, fires_two _ _ _ _⟩

theorem witness_ImmediateForms :
    Fires (fresh [(0, some 5)]) 0 0 0 0#2 true false (some 5) (some 0) ∧ Fires (fresh []) 0 0 0 0#2 false false (some 0) (some 0) ∧
    Fires (fresh [(0, some 1), (1, some 0)]) 0 0 0 0#2 true true (some 1) (some 0) := ⟨fires_one _ _ _, fires_none _ _, fires_two _ _ _ _⟩

theorem witness_RegisterTests :
    Fires (fresh [(0, some (-1)), (1, some 1)]) 0 0 0 0#2 true true (some (-1)) (some 1) ∧
    ((0x30180000#32).extractLsb' 25 7 = 0x18#7 ∧ 6 ≤ ((0x30180000#32).extractLsb' 18 5).toNat) := ⟨fires_two _ _ _ _, by decide⟩

/-- sel with a left token alone, with a right token alone, and predicated. -/
theorem witness_JoinsAndHolds :
    Fires (fresh []) 0 0 0 0#2 false false (some 0) (some 0) ∧ CtAt (fresh [(0, some 5)]) 0 0 0 ∧ (frameOf (fresh [(0, some 5)]) 0 0).input 0 0 = some (some 5) ∧
    CtAt (fresh [(1, none), (2, some 1)]) 0 0 0 ∧ (frameOf (fresh [(1, none), (2, some 1)]) 0 0).input 0 0 = none ∧
    (frameOf (fresh [(1, none), (2, some 1)]) 0 0).input 0 1 = some none ∧ (frameOf (fresh [(1, none), (2, some 1)]) 0 0).input 0 2 = some (some 1) :=
  ⟨fires_none _ _, block_at _ _ _, by decide, block_at _ _ _, by decide, by decide, by decide⟩

/-- Two targets that differ; an input that holds a token; the last hold write that fits and the first that does not; a register that
has a value; no target; the first queue. -/
theorem witness_TokenDelivery :
    ([0x003#9, 0x083#9].Pairwise (· ≠ ·) ∧ ∀ t ∈ [0x003#9, 0x083#9], tgtClass t < 3 ∧ (block []).opnd.at (4 * tgtNum t + tgtClass t) = none) ∧
    (tgtClass 0x000#9 < 3 ∧ (block [(0, some 5)]).opnd.at (4 * tgtNum 0x000#9 + tgtClass 0x000#9) ≠ none) ∧
    (tgtClass 0x19F#9 = 3 ∧ tgtNum 0x19F#9 < 32 ∧ (block []).filled (tgtNum 0x19F#9) = false ∧ (block []).holds.length < Hdr.nw (block []).hdr) ∧
    (let f : Frame := { block [] with hdr := 0x08004000#32, holds := [(3, none)] }
     Hdr.nw f.hdr ≤ f.holds.length) ∧
    (let f : Frame := { block [] with holds := [(3, some 1#64)] }
     ∃ h ∈ f.holds, h.1 = tgtNum 0x183#9 ∧ h.2 ≠ none) ∧
    (tgtClass 0x1A0#9 = 3 ∧ tgtNum 0x1A0#9 = 32) ∧ tgtClass 0x1C0#9 = 3 ∧ 64 ≤ tgtNum 0x1C0#9 := by decide

theorem witness_TokenFrame :
    (∃ g, puts 0 (outsOf [0x185#9] (some 7#64)) (firedIn (frameOf (fresh []) 0 0) 0) = .ok g) ∧ (frameOf (fresh []) 0 0).lsidDone 31 = false ∧
    ∃ g, puts 0 (outsOf [0x185#9] (some 7#64)) (lsidIn (firedIn (frameOf (fresh []) 0 0) 0) 31) = .ok g := ⟨⟨_, rfl⟩, by decide, ⟨_, rfl⟩⟩

theorem witness_TokenFaults :
    let f : Frame := block [(4, some 5)]
    tgtClass 0x001#9 < 3 ∧ f.opnd.at (4 * tgtNum 0x001#9 + tgtClass 0x001#9) ≠ none ∧ f.irrev = false ∧ { f with irrev := true }.defer = none := by decide

theorem witness_TrapEntry :
    let s := fresh []
    (s.ctl.tsup.at 0).v = false ∧ (ctxOf s 0 0).asid = 0#8 ∧ (frameOf s 0 0).commits = [] := by decide

/-- The largest of every field. -/
theorem witness_TrapEntry_record :
    let f : Flt := { cls := 15, code := 255, xst := 15, idx := 127, addr := 0 }
    f.cls < 16 ∧ f.xst < 16 ∧ f.code < 256 ∧ f.idx < 128 ∧ 7 < 8 ∧ ∀ p, some 31 = some p → p < 32 := by
  exact ⟨by decide, by decide, by decide, by decide, by decide, by intro p h; cases h; decide⟩

/-- Core 0, context 3 waits in a trap; of context 4 and of number 8 there is nothing to return from. -/
theorem witness_TrapReturn :
    let s : State := { State.reset with ctl.ctxs := SMap.set default 3 { (default : Ctx) with st := .wait, wcode := 0 } }
    (ctxOf s 0 3).st = .wait ∧ (ctxOf s 0 3).wcode = 0 ∧ (ctxOf s 0 4).st ≠ .wait ∧ (3#64).toNat < 8 ∧ 8 ≤ (8#64).toNat := by decide

/-- A context of ASID 5. -/
def user : Ctx := { (default : Ctx) with asid := 5#8 }

theorem witness_PrivilegedForms :
    Fires (running .reset user (block [(0, some 1)])) 0 0 0 0#2 true false (some 1) (some 0) ∧
    Fires (running .reset user (block [(0, some 1), (1, some 2)])) 0 0 0 0#2 true true (some 1) (some 2) ∧
    (ctxOf (running .reset user (block [(0, some 1)])) 0 0).asid ≠ 0#8 ∧ (frameOf (running .reset user (block [(0, some 1)])) 0 0).irrev = false :=
  ⟨fires_one _ _ _, fires_two _ _ _ _, by decide, rfl⟩

theorem witness_Exits :
    Fires (fresh []) 0 0 0 0#2 false false (some 0) (some 0) ∧ (frameOf (fresh []) 0 0).exit = none ∧ Fires (fresh [(0, some 64)]) 0 0 0 0#2 true false (some 64) (some 0) ∧
    (let s := running .reset default { block [] with exit := some (1, 4#64) }
     Fires s 0 0 0 0#2 false false (some 0) (some 0) ∧ (frameOf s 0 0).exit ≠ none ∧ (frameOf s 0 0).irrev = false) :=
  ⟨fires_none _ _, by decide, fires_one _ _ _, ⟨running_at _ _ _ rfl rfl (by decide), rfl⟩, by decide, rfl⟩

/-! #### Memory -/

/-- The reset state with some bytes in memory. -/
def withMem (m : List Host.Cell) : State := { State.reset with mem := m }

/-- A block without stores has none that waits. -/
theorem passing {s : State} {core x l : Nat} (h : (frameOf s core x).stores = []) : StoresPass s core x l := fun p m => by simp [h] at m

/-- In a block without memory tokens above it an irrevocable access is allowed. -/
theorem allowed {s : State} {core x l : Nat} (h : higherOk s core x l = (.ok, s)) : Allows s core x l s := ⟨_, h, .inl rfl⟩

/-- An address of DRAM is not in another module. -/
theorem near {pa : Nat} (h : place pa = .dram) : ∀ q o, place pa ≠ .remote q o := fun q o => by rw [h]; exact Place.noConfusion

/-- A load of DRAM, one of the last byte below it, one of a register, and an acquire at the home point. -/
theorem witness_Loads :
    Turns (fresh [(0, some 0x1000)]) 0 0 0 ∧ Fires (fresh [(0, some 0x1000)]) 0 0 0 0#2 true false (some 0x1000) (some 0) ∧
    (∃ t bs u, Reaches (fresh [(0, some 0x1000)]) 0 0 0 (0x1000#64 + (0#9).signExtend 64 * BitVec.ofNat 64 8) .load 8 .wb 0x1000 t ∧
      ctRead t 0 0 0 .wb 0x1000 8 false = (some bs, u)) ∧
    (∃ t bs u, Reaches (fresh [(0, some 0x1000)]) 0 0 0 (0x1000#64 + (0x1FF#9).signExtend 64 * BitVec.ofNat 64 1) .load 1 .wb 0xFFF t ∧
      ctRead t 0 0 0 .wb 0xFFF 1 false = (some bs, u)) ∧
    (∃ bs u, ctRead (fresh [(0, some 0x1000)]) 0 0 0 .wb 0x1000 8 (decide (2 ≤ (4#3).toNat)) = (some bs, u)) ∧
    (∃ t u bs v, ctTranslate (fresh [(0, some 0x10300000000)]) 0 (ctxOf (fresh [(0, some 0x10300000000)]) 0 0) 0 0x10300000000 .load 8 =
        (.at_ 0x10300000000 .dev, t) ∧ Allows t 0 0 0 u ∧ ctRead (setIrrev u 0 0) 0 0 0 .dev 0x10300000000 8 false = (some bs, v)) :=
  ⟨turn_zero _ _ _, fires_one _ _ _, ⟨_, _, _, ⟨rfl, near rfl⟩, rfl⟩, ⟨_, _, _, ⟨rfl, near rfl⟩, rfl⟩, ⟨_, _, rfl⟩,
    ⟨_, _, _, _, rfl, allowed rfl, rfl⟩⟩

/-- A read behind a store of the block that covers one of its bytes. -/
theorem witness_LoadsLeaveMemory :
    let p : PendStore := { ix := 0, lsid := 0, va := 0x1001, pa := 0x1001, mt := 0, bytes := [7#8], rel := none }
    let s := running .reset default { block [] with stores := [p] }
    (∃ bs u, ctRead s 0 0 1 .wb 0x1000 4 false = (some bs, u)) ∧ (frameOf s 0 0).stores = [] ++ p :: [] ∧ p.lsid < 1 ∧ p.pa ≤ 0x1000 + 1 ∧
      0x1000 + 1 < p.pa + p.bytes.length ∧ place 0x1000 = .dram := ⟨⟨_, _, rfl⟩, rfl, by decide, by decide, by decide, by decide⟩

theorem witness_Stores :
    Fires (fresh [(0, some 0x1000), (1, some 7)]) 0 0 0 0#2 true true (some 0x1000) (some 7) ∧ Turns (fresh [(0, some 0x1000), (1, some 7)]) 0 0 0 ∧
    (∃ t, Reaches (fresh [(0, some 0x1000), (1, some 7)]) 0 0 0 (0x1000#64 + (0#18).signExtend 64 * 8#64) .store 8 .wb 0x1000 t ∧
      (frameOf t 0 0).lsidDone 0 = false) ∧
    (∃ t, Reaches (fresh [(0, some 0x1000), (1, some 7)]) 0 0 0 (0x1000#64 + (0x3FFFF#18).signExtend 64) .store 1 .wb 0xFFF t) :=
  ⟨fires_two _ _ _ _, turn_zero _ _ _, ⟨_, ⟨rfl, near rfl⟩, by decide⟩, ⟨_, ⟨rfl, near rfl⟩⟩⟩

/-- A store of a UC page of DRAM, and one of an anvil window. -/
theorem witness_StorePerformed :
    let p : PendStore := { ix := 0, lsid := 0, va := 0x1000, pa := 0x1000, mt := 1, bytes := [7#8], rel := none }
    staleGen State.reset (default : Ctx).asid (default : Ctx).gen = false ∧ place p.pa = .dram ∧ l2BadTag State.reset p.pa = none ∧
    ∃ d o, place (anvilWin 0) = .anvil d o := ⟨by decide, by decide, by decide, ⟨_, _, rfl⟩⟩

/-- An address that is not aligned; one that is aligned in a hole; a load, a store and an atomic; an address that names a row. -/
theorem witness_AccessFaults :
    Turns (fresh [(0, some 0x1001)]) 0 0 0 ∧ Fires (fresh [(0, some 0x1001)]) 0 0 0 0#2 true false (some 0x1001) (some 0) ∧
    ((0x1001#64 + (0#9).signExtend 64 * BitVec.ofNat 64 2).toNat % 2 ≠ 0) ∧
    (let s := fresh [(0, some 0x0010000000000000), (1, some 1)]
     Turns s 0 0 0 ∧ Fires s 0 0 0 0#2 true true (some 0x0010000000000000) (some 1) ∧ (0x0010000000000000#64).toNat % 8 = 0 ∧
       (translate s (ctxActor 0 (ctxOf s 0 0)) 0x0010000000000000 .store 8).1.st ≠ .ok ∧
       (frameOf (translate s (ctxActor 0 (ctxOf s 0 0)) 0x0010000000000000 .store 8).2 0 0).irrev = false ∧
       (translate s (ctxActor 0 (ctxOf s 0 0)) 0x0010000000000000 .atomic 8).1.st ≠ .ok ∧
       ¬((0x0010000000000000#64).extractLsb' 60 4 = 0xF#4 ∧ (0x0010000000000000#64).extractLsb' 24 36 = 0#36)) :=
  ⟨turn_zero _ _ _, fires_one _ _ _, by decide, turn_zero _ _ _, fires_two _ _ _ _, by decide, by decide, rfl, by decide, by decide⟩

/-- ASID 0; the lowest address that is not canonical, DRAM, a bank, a hole, and a register at a width other than 8. -/
theorem witness_SupervisorAddresses :
    ({ core := 0, path := .ct, asid := 0#8, gen := 0#16, rid := 0 } : Actor).asid = 0#8 ∧ (0x0010000000000000#64).extractLsb' 52 12 ≠ 0#12 ∧
    ((0x1000#64).extractLsb' 52 12 = 0#12 ∧ place (0x1000#64).toNat = .dram) ∧ (∃ c o, place (bankWin 0) = .bank c o) ∧
    place (0x1 * 2 ^ 44) = .hole ∧ (∃ d o, place 0x10300000000 = .regs d o) := by
  refine ⟨by decide, by decide, by decide, ⟨_, _, rfl⟩, by decide, ⟨_, _, rfl⟩⟩

/-- The reset state with entry 3 of the tile table of core 0. -/
def tiled (t : Tile) : State := { State.reset with st.tiles := SMap.set default 3 t }

/-- A READY entry of 256 bytes, of ASID 0. -/
def readyTile : Tile := { (default : Tile) with sz := 8#5, st := .ready }

/-- An entry that is not defined, one of another ASID, offsets that are not aligned or past the end, an entry that may not issue, and
the last offset of a READY one; a prefetch that fills, and one that does not. -/
theorem witness_TileAccesses :
    let s (t : Tile) (o : Word) : State := running (tiled t) default (block [(0, some o)])
    let e (t : Tile) : Tile := (s t 248).st.tiles.at (tileKey 0 (3#8).toNat)
    Turns (s readyTile 248) 0 0 0 ∧ Fires (s readyTile 248) 0 0 0 0#2 true false (some 248) (some 0) ∧
    ((e default).isDef = false ∧ (e { readyTile with asid := 5 }).asid ≠ (ctxOf (s readyTile 248) 0 0).asid) ∧
    (e readyTile).isDef = true ∧ (e readyTile).asid = (ctxOf (s readyTile 248) 0 0).asid ∧ (4#64).toNat % 8 ≠ 0 ∧ (e readyTile).size < (256#64).toNat + 8 ∧
    (248#64).toNat % 8 = 0 ∧ (248#64).toNat + 8 ≤ (e readyTile).size ∧ (e { readyTile with st := .filling }).st ≠ .ready ∧
    (e { readyTile with drq := true }).drq = true ∧ (e { readyTile with use := 255 }).use = 255#8 ∧
    ((e readyTile).st = .ready ∧ (e readyTile).drq = false ∧ (e readyTile).use ≠ 255#8) ∧
    (∃ bs u, ctRead (tileUse (s readyTile 248) 0 3) 0 0 0 .wb (tilePa 0 (e readyTile) 248) 8 false = (some bs, u)) ∧
    (let r := translate (fresh [(0, some 0x1000)]) (ctxActor 0 (ctxOf (fresh [(0, some 0x1000)]) 0 0)) (0x1000#64 + (0#9).signExtend 64 * 128#64) .load 1
     r.1.st = .ok ∧ r.1.mt = .wb ∧ place r.1.pa = .dram) ∧
    (let r := translate (fresh [(0, some 0x0010000000000000)]) (ctxActor 0 (ctxOf (fresh [(0, some 0x1000)]) 0 0)) 0x0010000000000000 .load 1
     ¬(r.1.st = .ok ∧ r.1.mt = .wb ∧ place r.1.pa = .dram)) :=
  ⟨turn_zero _ _ _, fires_one _ _ _, by decide, by decide, by decide, by decide, by decide, by decide, by decide, by decide, by decide, by decide,
    by decide, ⟨_, _, rfl⟩, by decide, by decide⟩

/-- A misaligned address; the whole range and a resumed one; a range of which the second register fails; hold writes outside it. -/
theorem witness_SpillsAndFills :
    let s := fresh [(0, some 0x1000)]
    Fires s 0 0 0 0#2 true false (some 0x1000) (some 0) ∧ Turns s 0 0 0 ∧ (0x1001#64).toNat % 8 ≠ 0 ∧ (frameOf s 0 0).irrev = false ∧
    (∃ ps t, spillRun 0 (ctxOf s 0 0) 0 0 (3 + 1 - 2) 2 0x1000 s = (ps, .done, t)) ∧ (∃ vs t, fillRun 0 0 (ctxOf s 0 0) 0 0 (3 + 1 - 2) 2 0x1000 s = (vs, .done, t)) ∧
    (∃ (ps : List PendStore) (k : Nat) (e : Flt) (t : State), spillRun 0 (ctxOf s 0 0) 0 0 (3 + 1 - 2) 2 0x7FFFFFFFF8 s = (ps, .flt k e, t) ∧
      mustCommit (ps.foldl (storePerform 0 (ctxOf s 0 0)) t) 0 0 = false) ∧
    (let b : State := { State.reset with st.banks := SMap.set default 0 { (default : Bank) with busy := true } }
     ∃ ps t, spillRun 0 default 0 0 (3 + 1 - 2) 2 (BitVec.ofNat 64 (bankWin 0)) b = (ps, .held, t)) ∧
    (frameOf s 0 0).holds.all (fun h => decide (h.1 < 2 ∨ 3 < h.1)) = true :=
  ⟨fires_one _ _ _, turn_zero _ _ _, by decide, rfl, ⟨_, _, rfl⟩, ⟨_, _, rfl⟩, ⟨_, _, _, _, rfl, rfl⟩, ⟨_, _, rfl⟩, by decide⟩

/-- A group of one replica, on this module; and an operand of 2. -/
theorem witness_ReplicatedLoads :
    let r : State := { State.reset with xl.groups := SMap.set (SMap.set default 0 0x0000000000000001) 1 0x0000000000100000 }
    let s := running r default (block [(0, some 0x0004000000000000), (1, some 0)])
    Fires s 0 0 0 0#2 true true (some 0x0004000000000000) (some 0) ∧ Turns s 0 0 0 ∧ 2 ≤ (2#64).toNat ∧ (0#64).toNat < 2 ∧ (1#64).toNat < 2 ∧
    (∃ (pa : Nat) (mt : MType) (t : State) (g o : Nat), ctTranslate s 0 (ctxOf s 0 0) 0 0x0004000000000000 .ldred 8 = (.at_ pa mt, t) ∧ place pa = .repl g o ∧
      (∀ i, i < groupCount s g → replicaHere s g i = true) ∧ Allows t 0 0 0 t ∧
      ∃ vs, (replicaRead 0 (ctxOf t 0 0) g o 8 mt (List.range (groupCount (storesBelow t 0 0 0) g)) [] (storesBelow t 0 0 0)).1 = .inr vs) :=
  ⟨fires_two _ _ _ _, turn_zero _ _ _, by decide, by decide, by decide, ⟨_, _, _, _, _, rfl, rfl, by decide, allowed rfl, ⟨_, rfl⟩⟩⟩

theorem witness_Atomics :
    let s := fresh [(0, some 0x1000), (1, some 7)]
    let act := ctxActor 0 (ctxOf s 0 0)
    let r (sc : Nat) : State := release (storesFirst (setIrrev s 0 0) 0 0 0) 0 sc
    Fires s 0 0 0 0#2 true true (some 0x1000) (some 7) ∧ Turns s 0 0 0 ∧ ¬((0x1000#64).extractLsb' 60 4 = 0xF#4 ∧ (0x1000#64).extractLsb' 24 36 = 0#36) ∧
    (∃ t, Reaches s 0 0 0 0x1000 .atomic 8 .wb 0x1000 t ∧ Allows t 0 0 0 t ∧ StoresPass t 0 0 0) ∧ (∃ b1, (homeRead s act .wb 0x1000 8).1 = .ok b1) ∧
    (∃ bs u, homeRead (r 0) act .wb 0x1000 8 = (.ok bs, u)) ∧ (∃ bs u, homeRead (r 4) act .wb 0x1000 8 = (.ok bs, u)) ∧
    (∃ t, Reaches s 0 0 0 0x1004 .atomic 4 .wb 0x1004 t) :=
  ⟨fires_two _ _ _ _, turn_zero _ _ _, by decide, ⟨_, ⟨rfl, near rfl⟩, allowed rfl, passing rfl⟩, ⟨_, rfl⟩, ⟨_, _, rfl⟩, ⟨_, _, rfl⟩, ⟨_, ⟨rfl, near rfl⟩⟩⟩

/-! #### Order, system, queues and streams -/

/-- A store of the block that waits under LSID 0. -/
def waiting : PendStore := { ix := 0, lsid := 0, va := 0x1000, pa := 0x1000, mt := 0, bytes := [7#8], rel := none }

/-- Its block may perform it. -/
theorem waiting_passes : StoresPass (running .reset default { block [] with stores := [waiting], lsids := 1 }) 0 0 1 := by
  intro p m _
  have m : p ∈ [waiting] := m
  obtain rfl := List.mem_singleton.mp m
  decide

/-- A request of a stream of core 0 that has left the module. -/
def farRead : FarReq := { (default : FarReq) with strm := 9, read := true }

/-- No lower store, and one that is performed first; an engine that is busy; a stream whose request is unanswered; an entry that stands in
a state, and one that does not; a DEV page and another. -/
theorem witness_OrderingForms :
    Fires (fresh []) 0 0 0 0#2 false false (some 0) (some 0) ∧ Turns (fresh []) 0 0 0 ∧ (frameOf (fresh []) 0 0).storesWait 0 = false ∧
    (let s := running .reset default { block [] with stores := [waiting], lsids := 1 }
     Fires s 0 0 0 0#2 false false (some 0) (some 0) ∧ Turns s 0 0 1 ∧ ∃ u, AfterStores s 0 0 1 u) ∧
    (engineBusy (fresh []) 0 0 0x3C || farBusy (fresh []) 0 0 0x3C 4) = false ∧ (0x3C#8).getLsbD 0 = false ∧
    (let r : State := { State.reset with eng.copies := [{ (default : CopyRun) with core := 0, ctx := 1 }] }
     engineBusy (running r default (block [])) 0 0 0x04 = true) ∧
    (let e (t : Tile) : Tile := (running (tiled t) default (block [])).st.tiles.at (tileKey 0 (3#8).toNat)
     (e readyTile).isDef = true ∧ (e readyTile).asid = 0#8 ∧ (e readyTile).st = .ready ∧ (e readyTile).drq = false ∧ (e readyTile).st ≠ .empty ∧
       (e readyTile).st ≠ .filling ∧ (e { readyTile with st := .empty }).st = .empty ∧ (e { readyTile with st := .filling }).st = .filling ∧
       (e default).isDef = false ∧ (e { readyTile with asid := 5 }).asid ≠ 0#8 ∧ 2#2 ≠ 3#2) ∧
    (let s := fresh [(0, some 5)]
     Fires s 0 0 0 0#2 (0#1 == 0#1) false (some 5) (some 0) ∧ Turns s 0 0 0 ∧
       let t : State := { coreFlush s 0 (fun _ => true) with eng.far := [farRead] }
       ∃ r ∈ t.eng.far, r.core = 0 ∧ r.strm ≠ 0 ∧ r.strm - 1 = 8) ∧
    (let s := fresh [(0, some 0x10300000000), (1, some 5)]
     Fires s 0 0 0 0#2 true true (some 0x10300000000) (some 5) ∧ Turns s 0 0 0 ∧
       (∃ t, bellTranslate s 0 (ctxOf s 0 0) 0 0x10300000000 8 = (.at_ 0x10300000000 .dev, t) ∧ Allows t 0 0 0 t ∧ StoresPass t 0 0 0) ∧
       (∃ r t, (0x1000#64).toNat % 8 = 0 ∧ walkWait s (ctxActor 0 (ctxOf s 0 0)) 0x1000 = false ∧
         translate s (ctxActor 0 (ctxOf s 0 0)) 0x1000 .store 8 = (r, t) ∧ r.st = .ok ∧ r.mt ≠ .dev ∧ mustCommit t 0 0 = false)) :=
  ⟨fires_none _ _, turn_zero _ _ _, rfl, ⟨⟨running_at _ _ _ rfl rfl (by decide), rfl⟩, ⟨by decide, by decide⟩, _, .inr ⟨by decide, _, rfl, waiting_passes, rfl⟩⟩,
    by decide, by decide, by decide, by decide, ⟨fires_one _ _ _, turn_zero _ _ _, _, List.mem_singleton.mpr rfl, rfl, by decide, rfl⟩, fires_two _ _ _ _,
    turn_zero _ _ _, ⟨_, rfl, allowed rfl, passing rfl⟩, ⟨_, _, by decide, rfl, rfl, rfl, by decide, rfl⟩⟩

/-- Every system register that can be read, and sev to a wrong operand, to a FREE context and to one of the tenant. -/
theorem witness_SystemForms :
    Fires (fresh []) 0 0 0 0#2 false false (some 0) (some 0) ∧ (ctxOf (fresh [(0, some 0)]) 0 0).asid = 0#8 ∧
    (∀ n ∈ [0#8, 1#8, 2#8, 3#8, 4#8, 8#8, 9#8, 10#8, 11#8], srReadable n = true) ∧
    Fires (fresh [(0, some 0)]) 0 0 0 0#2 true false (some 0) (some 0) ∧ (0x800#64).extractLsb' 11 53 ≠ 0#53 ∧
    ((0x100#64).extractLsb' 11 53 = 0#53 ∧ (ctxOf (fresh [(0, some 0x100)]) ((0x100#64).extractLsb' 0 8).toNat ((0x100#64).extractLsb' 8 3).toNat).st = .free) ∧
    ((0#64).extractLsb' 11 53 = 0#53 ∧ (ctxOf (fresh [(0, some 0)]) ((0#64).extractLsb' 0 8).toNat ((0#64).extractLsb' 8 3).toNat).st ≠ .free) :=
  ⟨fires_none _ _, rfl, by decide, fires_one _ _ _, by decide, by decide, by decide⟩

/-- ASID 5 is enabled, and tenant 2 tracks 100 pages. -/
def supervised : State :=
  { State.reset with
    xl.asids := SMap.set default 5 { (default : AsidDesc) with v := true }
    xl.dirty := SMap.set default 2 { (default : DirtyDesc) with on := true, npg := 100#27 } }

theorem witness_SystemCommands :
    let s (l r : Word) : State := running supervised default (block [(0, some l), (1, some r)])
    (ctxOf (s 3 0) 0 0).asid = 0#8 ∧ Commands (s 3 0) 0 0 0 ∧ Fires (s 3 0) 0 0 0 0#2 true true (some 3) (some 0) ∧
    (0x800#64).extractLsb' 11 53 ≠ 0#53 ∧ ((0x005#64).extractLsb' 11 53 = 0#53 ∧ (ctxOf (s 5 0) 0 ((0x005#64).extractLsb' 8 3).toNat).st ≠ .free) ∧
    ((0x700#64).extractLsb' 11 53 = 0#53 ∧ (ctxOf (s 0x700 0) 0 ((0x700#64).extractLsb' 8 3).toNat).st = .free ∧ (0x700#64).extractLsb' 0 8 = 0#8) ∧
    ((0x106#64).extractLsb' 11 53 = 0#53 ∧ (ctxOf (s 0x106 0) 0 ((0x106#64).extractLsb' 8 3).toNat).st = .free ∧ ((s 0x106 0).xl.asids.at ((0x106#64).extractLsb' 0 8).toNat).v = false) ∧
    ((0x105#64).extractLsb' 0 8 ≠ 0#8 ∧ ((s 0x105 0).xl.asids.at ((0x105#64).extractLsb' 0 8).toNat).v = true) ∧
    ((2#64).extractLsb' 6 58 = 0#58 ∧ ((s 2 1).xl.dirty.at (2#64).toNat).on = true ∧ (1#64).toNat * 64 < ((s 2 1).xl.dirty.at (2#64).toNat).npg.toNat ∧
      farOut (s 2 1) (fun b => ((s 2 1).xl.asids.at b.toNat).ten == 2#6) = false ∧
      farOut { s 2 1 with eng.far := [farRead] } (fun b => ((s 2 1).xl.asids.at b.toNat).ten == 0#6) = true) ∧
    ((64#64).extractLsb' 6 58 ≠ 0#58 ∧ ((s 3 0).xl.dirty.at (3#64).toNat).on = false ∧ ((s 2 2).xl.dirty.at (2#64).toNat).npg.toNat ≤ (2#64).toNat * 64) ∧
    (let k (l : Word) : State := running supervised default (block [(0, some l)])
     Fires (k 5) 0 0 0 0#2 true false (some 5) (some 0) ∧ (5#64).toNat < 256 ∧ 5#64 ≠ 0#64 ∧ ((k 5).xl.asids.at (5#64).toNat).v = true ∧
       ((k 255).xl.asids.at (255#64).toNat).v = false) :=
  ⟨rfl, command_first _ _ _, fires_two _ _ _ _, by decide, by decide, by decide, by decide, by decide, by decide, by decide,
    fires_one _ _ _, by decide, by decide, by decide, by decide⟩

/-- Queue 2 of core 0 belongs to region 1, whose control threads are its producer and the consumer of view 0, in which one record of
two tokens stands. -/
def queued (q : Queue) : State := { State.reset with qu.queues := SMap.set default 2 q }
def twoTokens : QEnt := { (default : QEnt) with recs := [{ toks := [ctlTok 0 8 256, 5#48], done := true, id := 1, ord := 1 }] }
def threadQueue : Queue :=
  { (default : Queue) with
    v := true, prod := .threads, rid := 1, cons := [0x8000], c := 4, slim := 1, llim := 1
    views := SMap.set default 0 { (default : QView) with ents := [twoTokens], claim := 1 } }
/-- A context of region 1. -/
def member : Ctx := { (default : Ctx) with rid := 1 }

theorem witness_QueueForms_producer :
    let s (q : Queue) (a : Word) : State := running (queued q) member (block [(0, some a)])
    let d (q : Queue) : Queue := (s q 0).qu.queues.at (queueKey 0 (2#6).toNat)
    Fires (s threadQueue 0xFFFFFF) 0 0 0 0#2 true false (some 0xFFFFFF) (some 0) ∧ Commands (s threadQueue 0xFFFFFF) 0 0 0 ∧
    ((d threadQueue).v = true ∧ (d threadQueue).asid = (ctxOf (s threadQueue 0) 0 0).asid ∧ isProducer (s threadQueue 0) 0 2 (ctxOf (s threadQueue 0) 0 0).rid = true) ∧
    (0xFFFFFF#64).toNat < 2 ^ 24 ∧ 2 ^ 24 ≤ (0x1000000#64).toNat ∧ (0x0000010000000100#64).extractLsb' 40 24 ≠ 0#24 ∧ (d default).v = false ∧
    ((d { threadQueue with asid := 5 }).v = true ∧ (d { threadQueue with asid := 5 }).asid ≠ (ctxOf (s threadQueue 0) 0 0).asid) ∧ polBad 0 1 1 = false ∧
    (let r : State := running (queued threadQueue) member (block [])
     Fires r 0 0 0 0#2 false false (some 0) (some 0)) :=
  ⟨fires_one _ _ _, command_first _ _ _, by decide, by decide, by decide, by decide, by decide, by decide, by decide, fires_none _ _⟩

/-- Counts of 0, up to the records that stand, above them, and the largest; the words of qstat; a token that stands, and a wrong one. -/
theorem witness_QueueForms_consumer :
    let s (a : Word) : State := running (queued threadQueue) member (block [(0, some a)])
    let d : Queue := (s 1).qu.queues.at (queueKey 0 (2#6).toNat)
    let v := d.views.at (0#2).toNat
    Fires (s 1) 0 0 0 0#2 true false (some 1) (some 0) ∧ consumerSt (s 1) 0 0 (2#6).toNat (0#2).toNat false = 0 ∧ 1#64 ≠ 0#64 ∧ (6#64).toNat ≤ countMax d ∧
    (1#64).toNat ≤ (v.readable d.ch).length ∧ (v.readable d.ch).length < (2#64).toNat ∧ (12#64).toNat ≤ 12 ∧
    ((0x1000#64).extractLsb' 21 43 = 0#43 ∧ ((0x1000#64).extractLsb' 0 12).toNat < v.claim ∧ readPoison (s 1) 0 2 0 0 = none) ∧
    (let w := d.slotWord 0 0 0 0
     ((v.readable d.ch)[0]?.any (fun l => decide (1 < l.length))) = true ∧ readPoison { s 1 with st.poison := [w] } 0 2 0 0 = some w) :=
  ⟨fires_one _ _ _, by decide, by decide, by decide, by decide, by decide, by decide, by decide, by decide⟩

/-- Ring 3 of core 0 of four entries, of which one is written. -/
def ringed (r : Ring) : State := { State.reset with eng.rings := SMap.set default 3 r }
def oneRecord : Ring := { (default : Ring) with v := true, log := 2, wr := 1 }

theorem witness_RingForms :
    let s (a : Word) : State := running (ringed oneRecord) default (block [(0, some a)])
    let r := (s 1).eng.rings.at (ringKey 0 (3#6).toNat)
    Fires (s 1) 0 0 0 0#2 true false (some 1) (some 0) ∧ (r.v = true ∧ r.asid = (ctxOf (s 1) 0 0).asid ∧ 1#64 ≠ 0#64 ∧ (1#64).toNat ≤ 2 ^ r.log.toNat) ∧
    (1#64).toNat ≤ (r.wr - r.rd).toNat ∧ (r.wr - r.rd).toNat < (4#64).toNat ∧ (4#64).toNat ≤ 2 ^ r.log.toNat ∧ ¬((5#64).toNat ≤ 2 ^ r.log.toNat) :=
  ⟨fires_one _ _ _, by decide, by decide, by decide, by decide, by decide⟩

/-! #### Streams, the tile table, regions and engines -/

/-- A descriptor of a read of 16 elements of 4 bytes at 0x2000, and its bytes at 0x1000. -/
def readDesc : List Word := [0x0000000000000000, 0x2000, 0x0000001000000000, 0, 0, 0, 0, 0]
def described (d : List Word) : State := { State.reset with mem := Mem.putN [] 0x1000 (d.map (fun w => leBytes 8 w.toNat)).flatten }
/-- Stream 0 of core 0 is open and belongs to region 1. -/
def streaming (t : Stream) : State := { State.reset with sm.streams := SMap.set default 0 t }
def openStream : Stream := { (default : Stream) with isOpen := true, rid := 1, desc := readDesc }

/-- A descriptor that opens, and one that is refused; a stream that is not open, one of another region, one whose access waits, and one that
closes; positions in and past the extent; an entry of the ASID, and none; a bank change that passes, and one that does not. -/
theorem witness_StreamForms_open :
    let s (d : List Word) : State := running (described d) member (block [(0, some 0x1000)])
    Fires (s readDesc) 0 0 0 0#2 true false (some 0x1000) (some 0) ∧ Turns (s readDesc) 0 0 0 ∧
    (∃ t ws u, ctTranslate (s readDesc) 0 (ctxOf (s readDesc) 0 0) 0 0x1000 .load 64 = (.at_ 0x1000 .wb, t) ∧
      descRead t 0 0 0 .wb 0x1000 = (some ws, u) ∧ openStatus u 0 8 { (default : Stream) with desc := ws } (ctxOf (s readDesc) 0 0).asid = 0 ∧
      ({ (default : Stream) with desc := ws } : Stream).til = false ∧ Allows u 0 0 0 u) ∧
    (∃ t ws u, ctTranslate (s []) 0 (ctxOf (s []) 0 0) 0 0x1000 .load 64 = (.at_ 0x1000 .wb, t) ∧
      descRead t 0 0 0 .wb 0x1000 = (some ws, u) ∧ openStatus u 0 8 { (default : Stream) with desc := ws } (ctxOf (s []) 0 0).asid ≠ 0) :=
  ⟨fires_one _ _ _, turn_zero _ _ _, ⟨_, _, _, rfl, rfl, rfl, rfl, allowed rfl⟩, ⟨_, _, _, rfl, rfl, by decide⟩⟩

/-- A stream that is not open, one of another region, one with an access that waits, and one that may close; a position in the extent and
one past it; an entry of the ownership table of the ASID, and none. -/
theorem witness_StreamForms_close :
    let s (t : Stream) : State := running (streaming t) member (block [])
    let over_ : Stream := { openStream with pos := 16 }
    let held : Stream := { openStream with desc := [0x4000000000000000, 0x2000, 0x0000001000000000], walking := true }
    Fires (s openStream) 0 0 0 0#2 false false (some 0) (some 0) ∧ Turns (s openStream) 0 0 0 ∧ (streamOf (s openStream) 0 (0#8).toNat).isOpen = true ∧
    (streamOf (s openStream) 0 0).rid = (ctxOf (s openStream) 0 0).rid ∧ ((streamOf (streamSettle (s over_) 0 0) 0 0).unsettled || farWrites (streamSettle (s over_) 0 0) 0 0) = false ∧
    Allows (streamSettle (s over_) 0 0) 0 0 0 (streamSettle (s over_) 0 0) ∧ (streamOf (s default) 0 0).isOpen = false ∧
    (streamOf (s { openStream with rid := 2 }) 0 0).rid ≠ (ctxOf (s openStream) 0 0).rid ∧
    (streamOf (streamSettle (s held) 0 0) 0 0).unsettled = true ∧
    (let k := running (streaming openStream) member (block [(0, some 15)])
     Fires k 0 0 0 0#2 true false (some 15) (some 0) ∧ ¬((streamOf k 0 0).count ≤ 15) ∧ (streamOf k 0 0).count ≤ 16) ∧
    (let r : State := { State.reset with sm.own := SMap.set default 3 { (default : OwnEnt) with v := true } }
     (r.sm.own.at (0 * 16 + (3#4).toNat)).v = true ∧ (r.sm.own.at (0 * 16 + (4#4).toNat)).v = false) :=
  ⟨fires_none _ _, turn_zero _ _ _, by decide, by decide, by decide, allowed rfl, by decide, by decide, by decide, ⟨fires_one _ _ _, by decide, by decide⟩,
    by decide⟩

/-- Banks 0 to 7 of the first tile of core 0 belong to region 1 in slot 0. -/
def allotted : State :=
  { State.reset with rg.slots := SMap.set default 0 { (default : GSlot) with rid := 1, live := true, allot := 0xFF } }

theorem witness_StreamForms_banks :
    let s (a : Word) : State := running allotted member (block [(0, some a)])
    Fires (s 0x108) 0 0 0 0#2 true false (some 0x108) (some 0) ∧ Turns (s 0x108) 0 0 0 ∧ (0x108#64).extractLsb' 12 52 = 0#52 ∧ (0#5).toNat < 24 ∧
    (∀ i, i < ((0x108#64).extractLsb' 3 5).toNat → (0#5).toNat + i < 24 →
      bankAllotted (s 0x108) 0 (ctxOf (s 0x108) 0 0).rid (((0x108#64).extractLsb' 0 3).toNat * 24 + (0#5).toNat + i) = true) ∧
    bankCheck (s 0x108) 0 0 1 { mode := .scratch, ilv := 0#2 } = .ok ∧ Allows (s 0x108) 0 0 0 (s 0x108) ∧ StoresPass (s 0x108) 0 0 0 ∧
    bankCheck (s 0x508) 0 0 1 { mode := .cache, ilv := 1#2 } ≠ .ok :=
  ⟨fires_one _ _ _, turn_zero _ _ _, by decide, by decide, by decide, by decide, allowed rfl, passing rfl, by decide⟩

/-- An entry in every state; one of another ASID, one that is not defined, and one that is a slot of a zone; the definition of an entry. -/
theorem witness_TileTableForms :
    let z : State := { tiled readyTile with zn.zones := SMap.set default 0 { (default : Zone) with v := true, tte := 3 } }
    Fires (running (tiled readyTile) default (block [])) 0 0 0 0#2 false false (some 0) (some 0) ∧ Commands (running (tiled readyTile) default (block [])) 0 0 0 ∧
    (∀ st ∈ [TileSt.empty, .filling, .ready, .draining],
      let s := running (tiled { readyTile with st := st }) default (block [])
      let e := s.st.tiles.at (tileKey 0 (3#8).toNat)
      e.isDef = true ∧ e.asid = (ctxOf s 0 0).asid ∧ inZone s 0 (3#8).toNat = false ∧ e.st = st ∧ e.drq = false) ∧
    ((tiled default).st.tiles.at (tileKey 0 3)).isDef = false ∧ ((tiled { readyTile with asid := 5 }).st.tiles.at (tileKey 0 3)).asid ≠ (default : Ctx).asid ∧
    inZone (running z default (block [])) 0 (3#8).toNat = true ∧
    (let s := running (tiled default) default (block [(0, some 0x0000030000000000)])
     Fires s 0 0 0 0#2 true false (some 0x0000030000000000) (some 0) ∧ Commands s 0 0 0 ∧ (s.st.tiles.at (tileKey 0 (3#8).toNat)).isDef = false ∧
       inZone s 0 (3#8).toNat = false ∧ (0x0000030000000000#64).extractLsb' 45 19 = 0#19 ∧ (0x0000030000000000#64).extractLsb' 26 13 = 0#13) :=
  ⟨fires_none _ _, command_first _ _ _, by decide, by decide, by decide, by decide, fires_one _ _ _, command_first _ _ _, by decide, by decide, by decide, by decide⟩

/-- Slot 1 of core 0 belongs to region 1, live or not; the region has a wave in flight or none. -/
def slotted (live flight : Bool) : State :=
  { State.reset with
    rg.slots := SMap.set default 1 { (default : GSlot) with rid := 1, live := live }
    rg.regions := SMap.set default 0 { (default : Region) with inFlight := flight } }

theorem witness_RegionForms :
    let s (live flight : Bool) (a : Word) : State := running (slotted live flight) member (block [(0, some a)])
    Fires (s false false 64) 0 0 0 0#2 true false (some 64) (some 0) ∧ Commands (s false false 64) 0 0 0 ∧ (ctxOf (s false false 64) 0 0).rid ≠ 0 ∧
    (∀ live flight, slotRid (s live flight 64) 0 (1#2).toNat = (ctxOf (s live flight 64) 0 0).rid ∧
      ((s live flight 64).rg.slots.at (slotIx 0 (1#2).toNat)).live = live ∧ (regionOf (s live flight 64) (ctxOf (s live flight 64) 0 0).rid).inFlight = flight) ∧
    slotRid (s true true 64) 0 (2#2).toNat ≠ (ctxOf (s true true 64) 0 0).rid ∧ (64#64).toNat % 64 = 0 ∧ (63#64).toNat % 64 ≠ 0 ∧ (frameOf (s true true 64) 0 0).irrev = false ∧
    Fires (running (slotted true true) member (block [])) 0 0 0 0#2 false false (some 0) (some 0) ∧
    (let r := running { streaming openStream with rg := (slotted true true).rg } member (block [])
     (streamOf r 0 (0#8).toNat).rid = (ctxOf r 0 0).rid ∧ (streamOf r 0 (1#8).toNat).rid ≠ (ctxOf r 0 0).rid ∧ slotRid r 0 ((1#8).toNat % 4) = (ctxOf r 0 0).rid ∧ 4 ≤ (4#6).toNat) :=
  ⟨fires_one _ _ _, command_first _ _ _, by decide, by decide, by decide, by decide, by decide, rfl, fires_none _ _, by decide⟩

/-- Template 2 of core 0, and copies that its island has accepted. -/
def templated (d : Template) (copies : Nat) (tile : Tile) : State :=
  { State.reset with
    eng.tmpls := SMap.set default 2 d
    eng.copies := List.replicate copies { (default : CopyRun) with tmpl := 2 }
    st.tiles := SMap.set default 3 tile }
def definedCopy : Template := { (default : Template) with v := true }
def fromTile : Template := { definedCopy with srck := 1, stile := 3 }

/-- Arming: refused, held for its source, and performed; firing and disarming: of no template, one that is not armed, an island that is full,
and one that takes the fire. -/
theorem witness_CopyMatrixAndTaskForms_copies :
    let s (d : Template) (n : Nat) (t : Tile) : State := running (templated d n t) default (block [(0, some 2), (1, some 0)])
    let c := ctxOf (s default 0 default) 0 0
    Fires (s default 0 default) 0 0 0 0#2 true true (some 2) (some 0) ∧ Commands (s default 0 default) 0 0 0 ∧
    armStatus (s default 0 default) 0 c 2 0 ≠ 0 ∧
    (armStatus (s fromTile 0 { readyTile with st := .filling }) 0 c 2 0 = 0 ∧ (tmplOf (s fromTile 0 default) 0 2).srck = 1#2 ∧
      ((s fromTile 0 { readyTile with st := .filling }).st.tiles.at (tileKey 0 (tmplOf (s fromTile 0 default) 0 2).stile.toNat)).canIssue = false) ∧
    (armStatus (s fromTile 0 readyTile) 0 c 2 0 = 0 ∧ ((s fromTile 0 readyTile).st.tiles.at (tileKey 0 3)).canIssue = true) ∧
    (2#64).extractLsb' 5 59 = 0#59 ∧ (tmplOf (s default 0 default) 0 2).v = false ∧ (tmplOf (s definedCopy 0 default) 0 2).arm = false ∧
    ((tmplOf (s { definedCopy with arm := true } 24 default) 0 2).arm = true ∧ islandFull (s { definedCopy with arm := true } 24 default) 0 2 = true ∧
      islandFull (s { definedCopy with arm := true } 23 default) 0 2 = false) ∧
    (let k := running (templated definedCopy 0 default) default (block [(0, some 2)])
     Fires k 0 0 0 0#2 true false (some 2) (some 0)) :=
  ⟨fires_two _ _ _ _, command_first _ _ _, by decide, by decide, by decide, by decide, by decide, by decide, by decide, fires_one _ _ _⟩

/-- A matrix task at a wrong address, past the quota, at an address that cannot be read, of this core, and for the Arbiter. -/
theorem witness_CopyMatrixAndTaskForms_tasks :
    let s (q : SchedQuota) (l r : Word) : State := running { State.reset with rg.schedQ := SMap.set default 0 q } default (block [(0, some l), (1, some r)])
    let a : Actor := { core := 0, path := .mx, asid := 0#8, gen := 0#16, rid := 0 }
    Fires (s default 0x1000 0) 0 0 0 0#2 true true (some 0x1000) (some 0) ∧ (0x1001#64).toNat % 64 ≠ 0 ∧ (2#64).extractLsb' 1 63 ≠ 0#63 ∧ (0x1000#64).toNat % 64 = 0 ∧
    ((s { (default : SchedQuota) with set := true } 0x1000 0).rg.schedQ.at (0#6).toNat).aqmax ≤ arbHeld (s default 0x1000 0) (0 / 64) 0 ∧
    (∃ e t, memWords (s default 0x0010000000000000 1) a (0x0010000000000000#64).toNat 8 = (.inl e, t)) ∧
    (∃ (ws : List Word) (t : State), memWords (s default 0x1000 1) a (0x1000#64).toNat 8 = (.inr ws, t) ∧ t.sim.stall = false) ∧
    (let e (t : Tile) : Tile := (tiled t).st.tiles.at (tileKey 0 3)
     (e default).badRef 0#8 = true ∧ ((e { readyTile with st := .filling }).badRef 0#8 = false ∧ (e { readyTile with st := .filling }).canIssue = false) ∧
       (e readyTile).badRef 0#8 = false ∧ (e readyTile).canIssue = true) ∧ arbHeld (s default 0x1000 0) (0 / 64) 0 < ((s default 0x1000 0).rg.schedQ.at 0).aqmax :=
  ⟨fires_two _ _ _ _, by decide, by decide, by decide, by decide, ⟨_, _, rfl⟩, ⟨_, _, rfl, rfl⟩, by decide, by decide⟩

/-- Replica group 1 has two members, and this module is its member 0. -/
def grouped : State := { State.reset with xl.groups := SMap.set default 128 2 }

/-- A collective of a descriptor that breaks its table, of a group of no members, and of a group of two. -/
theorem witness_CopyMatrixAndTaskForms_collectives :
    let s := running grouped default (block [(0, some 0x1000)])
    let a : Actor := ctxActor 0 (ctxOf s 0 0)
    let q (d : List Word) : CollRun := { id := 0, core := 0, asid := 0#8, gen := 0#16, rid := 0, desc := d, ctx := 1 }
    Fires s 0 0 0 0#2 true false (some 0x1000) (some 0) ∧ (∃ (ws : List Word) (t : State), memWords s a (0x1000#64).toNat 4 = (.inr ws, t) ∧ t.sim.stall = false) ∧
    (∃ (f : MemFault) (t : State), memWords s a (0x0010000000000000#64).toNat 4 = (.inl f, t) ∧ t.sim.stall = false ∧ f.kind ≠ .poison) ∧
    (q [1, 0, 0, 0]).bad = true ∧ (q [0, 0, 0, 0]).bad = false ∧ groupCount s (q [0, 0, 0, 0]).grp = 0 ∧
    (∃ d, (q d).bad = false ∧ groupLocal s (q d).grp ≠ 0x7F ∧ groupCount s (q d).grp ≠ 0) :=
  ⟨fires_one _ _ _, ⟨_, _, rfl, rfl⟩, ⟨_, _, rfl, rfl, by decide⟩, by decide, by decide, by decide, ⟨[0x0040000000000000, 0, 0, 0], by decide⟩⟩

/-- A region RCB at 0x3000 under a tenant RCB at 0x4000 that gives its fault domain, priority and segment budget. -/
def chained : List Host.Cell := Mem.putN (Mem.putN [] 0x3000 (leBytes 8 0x8000000000000000 ++ leBytes 8 0x4000)) 0x4000
  (leBytes 8 0x3800000000000000 ++ leBytes 8 0 ++ leBytes 8 4096)

/-- A launch at depth 7, one without a slot of the pool, and one with a slot. -/
theorem witness_CopyMatrixAndTaskForms_launch :
    let s (q : SchedQuota) : State := running { withMem chained with rg.schedQ := SMap.set default 0 q } default (block [(0, some 0x3000)])
    Fires (s default) 0 0 0 0#2 true false (some 0x3000) (some 0) ∧
    (∃ (st : Nat) (t : State), launchCheck (s default) 0 { ctxOf (s default) 0 0 with depth := 7 } 0x3000 = (st, none, t) ∧ t.sim.stall = false) ∧
    (∃ (q : Region) (t : State), launchCheck (s default) 0 (ctxOf (s default) 0 0) 0x3000 = (0, some q, t) ∧ t.sim.stall = false ∧
      poolFree (s default) (0 / 64) (ctxOf (s default) 0 0).ten q.depth (ctxKey 0 0) ≠ 0 ∧ StoresPass t 0 0 32) ∧
    (let z : SchedQuota := { set := true, qerr := false, aq := 64, hm := 0, lm := 0 }
     ∃ q t, launchCheck (s z) 0 (ctxOf (s z) 0 0) 0x3000 = (0, some q, t) ∧ poolFree (s z) (0 / 64) (ctxOf (s z) 0 0).ten q.depth (ctxKey 0 0) = 0) :=
  ⟨fires_one _ _ _, ⟨_, _, rfl, rfl⟩, ⟨_, _, rfl, rfl, by decide, passing rfl⟩, ⟨_, _, rfl, rfl⟩⟩

/-- Of a heap of one entry a tdeq takes that one, whatever the free choice is. -/
theorem heap_one (s : State) (die : Nat) (ten : BitVec 6) (h : s.rg.heaps.at (heapKey die ten) = [{ key := 7, val := 9, skips := 15 }]) :
    ∃ t, heapTake s die ten = (some { key := 7, val := 9, skips := 15 }, t) := by
  have e : (heapTake s die ten).1 = some { key := 7, val := 9, skips := 15 } := by
    simp only [heapTake, h]
    generalize hc : heapDue _ = c
    obtain rfl : c = [{ key := 7, val := 9, skips := 15 }] := by rw [← hc]; decide
    simp only [List.length_singleton, Nat.max_self, Nat.mod_one, List.drop_zero, List.head?_cons]
  exact ⟨_, Prod.ext e rfl⟩

/-- A heap of one entry and one of none; a schedule entry, and none. -/
theorem witness_CopyMatrixAndTaskForms_heap :
    let e : HeapEnt := { key := 7, val := 9, skips := 15 }
    let s : State := running { State.reset with rg.heaps := SMap.set default 0 [e] } default (block [])
    Fires s 0 0 0 0#2 false false (some 0) (some 0) ∧ Commands s 0 0 0 ∧ (∃ t, heapTake s (0 / 64) (ctxOf s 0 0).ten = (some e, t)) ∧
    (fresh []).rg.heaps.at (heapKey (0 / 64) 0) = [] ∧
    (let r : State := running { State.reset with rg.sched := SMap.set default 0 { (default : SchedEnt) with v := true } } { (default : Ctx) with schLen := 1 } (block [])
     (schedAt r 0 (ctxOf r 0 0)).v = true) ∧ (schedAt s 0 (ctxOf s 0 0)).v = false :=
  ⟨fires_none _ _, command_first _ _ _, heap_one _ _ _ (by decide), by decide, by decide, by decide⟩

/-- A zone that is and is not there, of its own ASID and another's; a handle whose reserved bits are set, that names no peer, of this module,
and one past a full table. -/
theorem witness_ZoneForms :
    let d : Zone := { (default : Zone) with v := true, tte := 3 }
    let s (z : Zone) (n : Nat) (l r : Word) : State :=
      running { State.reset with zn.zones := SMap.set default 0 z, zn.resv := SMap.set default 0 (List.replicate n default) } default (block [(0, some l), (1, some r)])
    Fires (s d 0 0x1000 0) 0 0 0 0#2 true true (some 0x1000) (some 0) ∧ Commands (s d 0 0x1000 0) 0 0 0 ∧ (0x10#64).extractLsb' 4 60 ≠ 0#60 ∧
    ((8#64).extractLsb' 4 60 = 0#60 ∧ (8#64).getLsbD 3 = true ∧ (zoneOf (s d 0 0 8) 0 0).v = true ∧ (zoneOf (s d 0 0 8) 0 0).asid = (ctxOf (s d 0 0 8) 0 0).asid ∧
      (zoneOf (s { d with asid := 5 } 0 0 8) 0 0).asid ≠ (ctxOf (s d 0 0 8) 0 0).asid ∧ (zoneOf (s default 0 0 8) 0 0).v = false) ∧
    ((0#64).getLsbD 3 = false ∧ (0x1000#64).toNat % 64 = 0 ∧ ∃ ws t, memWords (s d 0 0x1000 0) (ctxActor 0 (ctxOf (s d 0 0x1000 0) 0 0)) (0x1000#64).toNat 8 = (.inr ws, t)) ∧
    (0x80000#64).extractLsb' 19 22 ≠ 0#22 ∧ ((1#64).extractLsb' 19 22 = 0#22 ∧ (1#64).getLsbD 7 = false ∧ ((s d 0 1 0).xl.peers.at ((1#64).extractLsb' 0 7).toNat).v = false) ∧
    ((0x80#64).getLsbD 7 = true ∧ 64 ≤ ((s d 64 0x80 0).zn.resv.at 0).length ∧ ((s d 63 0x80 0).zn.resv.at 0).length + ((s d 63 0x80 0).ctl.pend.filter (fun w => w.core == 0 && w.kind == .zres)).length < 64) :=
  ⟨fires_two _ _ _ _, command_first _ _ _, by decide, by decide, ⟨by decide, by decide, ⟨_, _, rfl⟩⟩, by decide, by decide, by decide⟩

/-- Set 1 of core 0, of two elements and three rows, of ASID 0; its row 0 in a given state. -/
def accumulating (d : AccSet) (r : AccRow) : State :=
  { State.reset with ac.sets := SMap.set default 1 d, ac.rows := SMap.set default (rowKey 0 1 0) r }
def twoByThree : AccSet := { (default : AccSet) with v := true, nm1 := 1, nrow := 3 }

/-- The set, one of another ASID and none; a row that is open, that is held and that is not there; scopes that are open; images that are
written, read and refused. -/
theorem witness_AccumulatorForms :
    let l : Word := 0x1000000000000000
    let s (d : AccSet) (r : AccRow) (b : Word) : State := running (accumulating d r) default (block [(0, some l), (1, some b)])
    let d := accOf (s twoByThree default 0) 0 1
    let u := s twoByThree default 0
    Fires u 0 0 0 0#2 true true (some l) (some 0) ∧ Commands u 0 0 0 ∧ (l.extractLsb' 60 4).toNat = 1 ∧ (l.extractLsb' 40 16).toNat = 0 ∧ (l.extractLsb' 56 4).toNat = 0 ∧
    l.getLsbD 55 = false ∧ (0x1080000000000000#64).getLsbD 55 = true ∧ (accOf (s { twoByThree with asid := 5 } default 0) 0 1).asid ≠ (ctxOf u 0 0).asid ∧
    (d.v = true ∧ d.asid = (ctxOf u 0 0).asid ∧ l.extractLsb' 0 38 = 0#38 ∧ (l.extractLsb' 26 14).toNat < d.n ∧ (0x04000000#64).toNat / 2 ^ 26 < d.n) ∧
    rowHeld (s twoByThree { (default : AccRow) with hold := 9 } 0) 0 1 0 0 = true ∧ rowHeld u 0 1 0 0 = false ∧ scopesOpen { d with opn := 1 } 1 = true ∧ scopesOpen d 1 = false ∧
    rowOpen u 0 1 0 = true ∧ rowOpen (s twoByThree { (default : AccRow) with shut := true } 0) 0 1 0 = false ∧ rowOpen u 0 1 3 = false ∧
    (memHeld u (d.actor u 0) .store 0 (evictImage d (u.ac.rows.at (rowKey 0 1 0)) (l.getLsbD 39)).length = false ∧
      memHeld (scopeOpen u 0 1 0) (d.actor (scopeOpen u 0 1 0) 0) .load 0 (imageSize d (l.getLsbD 39)) = false) ∧
    (∃ t, memWrite u (d.actor u 0) 0 (evictImage d (u.ac.rows.at (rowKey 0 1 0)) (l.getLsbD 39)) = (none, t)) ∧
    (∃ img t, memRead (scopeOpen u 0 1 0) (d.actor (scopeOpen u 0 1 0) 0) 0 (imageSize d (l.getLsbD 39)) = (.inr img, t) ∧
      reloadRow d (t.ac.rows.at (rowKey 0 1 0)) (l.getLsbD 39) img = none) ∧
    (let v : State := scopeOpen { u with mem := [(2, 0x80#8), (3, 0x7F#8)] } 0 1 0
     ∃ img t row, memRead v (d.actor v 0) 0 (imageSize d true) = (.inr img, t) ∧ reloadRow d (t.ac.rows.at (rowKey 0 1 0)) true img = some row) ∧
    (let n := running (accumulating twoByThree default) default (block [(0, some l), (1, none)])
     Fires n 0 0 0 0#2 true true (some l) none ∧ Commands n 0 0 0) ∧
    (let m := running (accumulating twoByThree default) default (block [(0, some l)])
     Fires m 0 0 0 0#2 true false (some l) (some 0) ∧ Turns m 0 0 0 ∧ Allows m 0 0 0 m ∧
       acaddsWait m 0 (fun w => accSetOf w.a == 1 && accScopeOf w.a == 0) = false ∧
       acaddsWait (acaddIssue m 0 0 0 l) 0 (fun w => accSetOf w.a == 1 && accScopeOf w.a == 0) = true ∧ l.extractLsb' 0 56 = 0#56 ∧ (0x1000000000000001#64).extractLsb' 0 56 ≠ 0#56) :=
  ⟨fires_two _ _ _ _, command_first _ _ _, by decide, by decide, by decide, by decide, by decide, by decide, by decide, by decide, by decide, by decide, by decide,
    by decide, by decide, by decide, by decide, ⟨_, rfl⟩, ⟨_, _, rfl, rfl⟩, ⟨_, _, _, rfl, rfl⟩, ⟨fires_two _ _ _ _, command_first _ _ _⟩, fires_one _ _ _, turn_zero _ _ _,
    allowed rfl, by decide, by decide, by decide, by decide⟩

/-! #### The fabric -/

/-- `OnData` as a Boolean. -/
def isData (s : State) (h : HWord) : Bool :=
  !(handlerIn s 0 0).gapPend && (fireQs h).all (fun q => ((elemIn s 0).head q).all (fun t => !tokC t))

theorem onData_of (s : State) (h : HWord) (hd : isData s h = true) : OnData s 0 0 h := by
  simp only [isData, Bool.and_eq_true, Bool.not_eq_true', List.all_eq_true] at hd
  refine ⟨hd.1, fun q hq t ht => ?_⟩
  have := hd.2 q hq
  rw [ht] at this
  simpa using this

/-- The element of an operation with two heads, in its turn. -/
def twoHeads (op : BitVec 8) (h : HWord) (hd : Handler) (a b : FTok) : State := acting .reset (element op h hd [(0, a), (1, b)])
def oneHead (op : BitVec 8) (h : HWord) (hd : Handler) (a : FTok) : State := acting .reset (element op h hd [(0, a)])

/-- The operations of R332 to R334, on two values. -/
theorem witness_ValueOperations_data :
    ∀ op ∈ (List.range' 1 16 ++ List.range' 0x20 15 ++ [0x30, 0x31]),
      Runs (twoHeads (BitVec.ofNat 8 op) twoQueues default 5 7) 0 0 op twoQueues ∧ OnData (twoHeads (BitVec.ofNat 8 op) twoQueues default 5 7) 0 0 twoQueues := by
  intro op h
  refine ⟨runs_of _ _ _ rfl ?_, onData_of _ _ ?_⟩
  · exact (by decide : ∀ op ∈ (List.range' 1 16 ++ List.range' 0x20 15 ++ [0x30, 0x31]),
      mayRun (twoHeads (BitVec.ofNat 8 op) twoQueues default 5 7) op twoQueues = true) op h
  · exact (by decide : ∀ op ∈ (List.range' 1 16 ++ List.range' 0x20 15 ++ [0x30, 0x31]),
      isData (twoHeads (BitVec.ofNat 8 op) twoQueues default 5 7) twoQueues = true) op h

/-- A null operand; a weight token that is awaited; control tokens that agree, records of two weights, and tokens that do not agree. -/
theorem witness_ValueOperations_control :
    let s (a b : FTok) (g : Bool) : State := twoHeads 1 twoQueues { (default : Handler) with gapPend := g } a b
    let heads (a b : FTok) : List FTok := (fireQs twoQueues).filterMap (elemIn (s a b false) 0).head
    (Runs (s (tokNull 0) 7 false) 0 0 1 twoQueues ∧ OnData (s (tokNull 0) 7 false) 0 0 twoQueues ∧ tokN (operand (elemIn (s (tokNull 0) 7 false) 0) default false 0) = true) ∧
    (Runs (s 5 7 true) 0 0 1 twoQueues ∧ (handlerIn (s 5 7 true) 0 0).gapPend = true ∧ ∃ t r, heads 5 7 = t :: r) ∧
    (Runs (s (ctlTok 0 4 0) (ctlTok 0 4 0) false) 0 0 1 twoQueues ∧ heads (ctlTok 0 4 0) (ctlTok 0 4 0) = [ctlTok 0 4 0, ctlTok 0 4 0] ∧ tokC (ctlTok 0 4 0) = true) ∧
    (Runs (s (ctlTok 0 8 256) (ctlTok 0 8 512) false) 0 0 1 twoQueues ∧ isRec (ctlTok 0 8 256) = true ∧ isRec (ctlTok 0 8 512) = true) ∧
    (Runs (s (ctlTok 0 4 0) (ctlTok 0 2 0) false) 0 0 1 twoQueues ∧ (ctlTok 0 4 0).extractLsb' 0 32 ≠ (ctlTok 0 2 0).extractLsb' 0 32 ∧ isRec (ctlTok 0 4 0) = false) :=
  ⟨⟨runs_of _ _ _ rfl (by decide), onData_of _ _ (by decide), by decide⟩, ⟨runs_of _ _ _ rfl (by decide), rfl, ⟨_, _, rfl⟩⟩,
    ⟨runs_of _ _ _ rfl (by decide), by decide, by decide⟩, ⟨runs_of _ _ _ rfl (by decide), by decide, by decide⟩,
    ⟨runs_of _ _ _ rfl (by decide), by decide, by decide⟩⟩

/-- A firing of iadd: a result that is kept in st0 and sent, and one that is not sent. -/
theorem witness_FiringFrame :
    let s := twoHeads 1 twoQueues default 5 7
    let e := elemIn s 0
    let o : Fire := { Fire.of e (handlerIn s 0 0) with out := some 12#48, res := true, take := [0, 1] }
    o.e = e ∧ o.block = none ∧ o.also = none ∧ o.errs = [] ∧ o.take.Nodup ∧ (∀ q ∈ o.take, q < 4) ∧ (∀ q ∈ o.take, (e.head q).all (fun t => !tokC t) = true) ∧ e.seg = some 0 ∧
    (∀ q ∈ o.take, ((e.inq.at q).drop 1).head? = none) ∧ o.hd.word = (handlerIn s 0 0).word ∧ o.hd.present = (handlerIn s 0 0).present ∧
    (o.out.isSome ∧ (twoQueues.outmask ≠ 0#4 ∨ twoQueues.dsel ≠ 0#3)) ∧ ({ twoQueues with outmask := 0 } : HWord).outmask = 0#4 := by
  exact ⟨rfl, rfl, rfl, rfl, by decide, by decide, by decide, rfl, by decide, rfl, rfl, by decide, by decide⟩

/-- One-operand operations on a value, and on a control token where the operation takes one. -/
theorem witness_StreamOperations_one :
    (∀ op ∈ [0x40, 0x41, 0x42, 0x48, 0x49, 0x4A, 0x4B, 0x50, 0x51, 0x53, 0x54],
      Runs (oneHead (BitVec.ofNat 8 op) oneQueue default 5) 0 0 op oneQueue ∧ OnData (oneHead (BitVec.ofNat 8 op) oneQueue default 5) 0 0 oneQueue) ∧
    tokN (operand (elemIn (oneHead 0x49 oneQueue default 5) 0) default false 0) = false ∧
    (∀ op ∈ [0x40, 0x48, 0x54], Runs (oneHead (BitVec.ofNat 8 op) oneQueue default (ctlTok 0 3 0x100000)) 0 0 op oneQueue) := by
  have a : ∀ op ∈ [0x40, 0x41, 0x42, 0x48, 0x49, 0x4A, 0x4B, 0x50, 0x51, 0x53, 0x54],
      mayRun (oneHead (BitVec.ofNat 8 op) oneQueue default 5) op oneQueue = true ∧ isData (oneHead (BitVec.ofNat 8 op) oneQueue default 5) oneQueue = true := by decide
  have b : ∀ op ∈ [0x40, 0x48, 0x54], mayRun (oneHead (BitVec.ofNat 8 op) oneQueue default (ctlTok 0 3 0x100000)) op oneQueue = true := by decide
  exact ⟨fun op h => ⟨runs_of _ _ _ rfl (a op h).1, onData_of _ _ (a op h).2⟩, by decide, fun op h => runs_of _ _ _ rfl (b op h)⟩

/-- A handler word over queues 0, 1 and 2. -/
def threeQueues : HWord := ⟨0, 0, 0, 7, 0, 1, 2, 0, 1, 0, 0, 0, 0⟩
/-- The state of a handler at a phase. -/
def phased (n : BitVec 8) : Handler := { (default : Handler) with ph := n }
/-- The element of an operation on one head, with PARAM. -/
def paramHead (op : BitVec 8) (p : BitVec 16) (hd : Handler) (a : FTok) : State := oneHead op { oneQueue with param := p } hd a

/-- dup before and at its last repeat; bfly in both phases. -/
theorem witness_StreamOperations_phases :
    let d (n : BitVec 8) : State := paramHead 0x41 1 (phased n) 5
    let b (n : BitVec 8) : State := twoHeads 0x52 twoQueues (phased n) 5 7
    (Runs (d 0) 0 0 0x41 { oneQueue with param := 1 } ∧ OnData (d 0) 0 0 { oneQueue with param := 1 } ∧ (handlerIn (d 0) 0 0).ph.toNat < 1 % 256) ∧
    (Runs (d 1) 0 0 0x41 { oneQueue with param := 1 } ∧ 1 % 256 ≤ (handlerIn (d 1) 0 0).ph.toNat) ∧
    (Runs (b 0) 0 0 0x52 twoQueues ∧ OnData (b 0) 0 0 twoQueues ∧ (handlerIn (b 0) 0 0).ph = 0#8) ∧
    (Runs (b 1) 0 0 0x52 twoQueues ∧ (handlerIn (b 1) 0 0).ph ≠ 0#8) :=
  ⟨⟨runs_of _ _ _ rfl (by decide), onData_of _ _ (by decide), by decide⟩,
    ⟨runs_of _ _ _ rfl (by decide), by decide⟩,
    ⟨runs_of _ _ _ rfl (by decide), onData_of _ _ (by decide), by decide⟩,
    ⟨runs_of _ _ _ rfl (by decide), by decide⟩⟩

/-- tsel to either side, to a control token, and of a null; gate in both modes, holding and advancing, with and without a token to pass on. -/
theorem witness_StreamOperations_steering :
    let t (a c : FTok) : State := acting .reset (element 0x44 threeQueues default [(0, a), (1, 7), (2, c)])
    let g (p : BitVec 16) (a b : FTok) : State := twoHeads 0x43 { twoQueues with param := p } default a b
    Runs (t 5 0) 0 0 0x44 threeQueues ∧
    Runs (t 5 1) 0 0 0x44 threeQueues ∧
    Runs (t 5 (tokNull 0)) 0 0 0x44 threeQueues ∧
    (Runs (t (ctlTok 0 4 0) 1) 0 0 0x44 threeQueues ∧ tokC (ctlTok 0 4 0) = true) ∧
    (Runs (g 0 5 0) 0 0 0x43 { twoQueues with param := 0 } ∧ tokC 0#48 = false) ∧
    (Runs (g 0 5 1) 0 0 0x43 { twoQueues with param := 0 } ∧ tokC 1#48 = false) ∧
    (Runs (g 0 5 4) 0 0 0x43 { twoQueues with param := 0 } ∧ tokC 4#48 = false) ∧
    (Runs (g 0 5 5) 0 0 0x43 { twoQueues with param := 0 } ∧ tokC 5#48 = false) ∧
    (Runs (g 0 5 (tokNull 0)) 0 0 0x43 { twoQueues with param := 0 } ∧ tokC (tokNull 0) = false) ∧
    (Runs (g 1 5 0) 0 0 0x43 { twoQueues with param := 1 } ∧ tokC 0#48 = false) ∧
    (Runs (g 1 5 2) 0 0 0x43 { twoQueues with param := 1 } ∧ tokC 2#48 = false) ∧
    (Runs (g 2 5 0) 0 0 0x43 { twoQueues with param := 2 } ∧ tokC 0#48 = false) ∧
    (Runs (g 2 5 1) 0 0 0x43 { twoQueues with param := 2 } ∧ tokC 1#48 = false) ∧
    Runs (g 0 (ctlTok 0 4 0) 1) 0 0 0x43 { twoQueues with param := 0 } :=
  ⟨runs_of _ _ _ rfl (by decide),
    runs_of _ _ _ rfl (by decide),
    runs_of _ _ _ rfl (by decide),
    ⟨runs_of _ _ _ rfl (by decide), by decide⟩,
    ⟨runs_of _ _ _ rfl (by decide), by decide⟩,
    ⟨runs_of _ _ _ rfl (by decide), by decide⟩,
    ⟨runs_of _ _ _ rfl (by decide), by decide⟩,
    ⟨runs_of _ _ _ rfl (by decide), by decide⟩,
    ⟨runs_of _ _ _ rfl (by decide), by decide⟩,
    ⟨runs_of _ _ _ rfl (by decide), by decide⟩,
    ⟨runs_of _ _ _ rfl (by decide), by decide⟩,
    ⟨runs_of _ _ _ rfl (by decide), by decide⟩,
    ⟨runs_of _ _ _ rfl (by decide), by decide⟩,
    runs_of _ _ _ rfl (by decide)⟩

/-- merge, isect and union on coordinates that are less, equal and greater. -/
theorem witness_StreamOperations_coordinates :
    let s (op : BitVec 8) (b : FTok) : State := twoHeads op twoQueues default 6 b
    Runs (s 0x45 5) 0 0 0x45 twoQueues ∧
    Runs (s 0x45 6) 0 0 0x45 twoQueues ∧
    Runs (s 0x45 7) 0 0 0x45 twoQueues ∧
    Runs (s 0x46 5) 0 0 0x46 twoQueues ∧
    Runs (s 0x46 6) 0 0 0x46 twoQueues ∧
    Runs (s 0x46 7) 0 0 0x46 twoQueues ∧
    Runs (s 0x47 5) 0 0 0x47 twoQueues ∧
    Runs (s 0x47 6) 0 0 0x47 twoQueues ∧
    Runs (s 0x47 7) 0 0 0x47 twoQueues ∧
    ((elemIn (s 0x45 5) 0).head 0 = some 6 ∧ (elemIn (s 0x45 5) 0).head 1 = some 5) :=
  ⟨runs_of _ _ _ rfl (by decide),
    runs_of _ _ _ rfl (by decide),
    runs_of _ _ _ rfl (by decide),
    runs_of _ _ _ rfl (by decide),
    runs_of _ _ _ rfl (by decide),
    runs_of _ _ _ rfl (by decide),
    runs_of _ _ _ rfl (by decide),
    runs_of _ _ _ rfl (by decide),
    runs_of _ _ _ rfl (by decide),
    by decide⟩

/-- acc, accw and cnt at each trigger: EOR, a STOP of the level, EOT; in both phases. -/
theorem witness_StreamOperations_triggers :
    let s (op : BitVec 8) (p : BitVec 16) (n : BitVec 8) (t : FTok) : State := paramHead op p (phased n) t
    Runs (s 0x50 0 0 (ctlTok 0 4 0)) 0 0 0x50 { oneQueue with param := 0 } ∧
    Runs (s 0x50 0 1 (ctlTok 0 4 0)) 0 0 0x50 { oneQueue with param := 0 } ∧
    Runs (s 0x50 0x21 0 (ctlTok 0 3 0x200000)) 0 0 0x50 { oneQueue with param := 0x21 } ∧
    Runs (s 0x50 0x21 1 (ctlTok 0 3 0x200000)) 0 0 0x50 { oneQueue with param := 0x21 } ∧
    Runs (s 0x50 2 0 (ctlTok 0 2 0)) 0 0 0x50 { oneQueue with param := 2 } ∧
    Runs (s 0x50 2 1 (ctlTok 0 2 0)) 0 0 0x50 { oneQueue with param := 2 } ∧
    Runs (s 0x51 0 0 (ctlTok 0 4 1)) 0 0 0x51 { oneQueue with param := 0 } ∧
    Runs (s 0x51 0 1 (ctlTok 0 4 1)) 0 0 0x51 { oneQueue with param := 0 } ∧
    Runs (s 0x51 0x102 0 (ctlTok 0 2 0)) 0 0 0x51 { oneQueue with param := 0x102 } ∧
    Runs (s 0x51 0x102 1 (ctlTok 0 2 0)) 0 0 0x51 { oneQueue with param := 0x102 } ∧
    Runs (s 0x42 1 0 (ctlTok 0 2 0)) 0 0 0x42 { oneQueue with param := 1 } ∧
    Runs (s 0x42 1 1 (ctlTok 0 2 0)) 0 0 0x42 { oneQueue with param := 1 } ∧
    (fireQs { oneQueue with param := 0x21 } = [0] ∧ (elemIn (s 0x50 0 0 (ctlTok 0 4 0)) 0).head 0 = some (ctlTok 0 4 0) ∧ tokC (ctlTok 0 4 0) = true) ∧
    (isCode 4 (ctlTok 0 4 0) = true ∧ isCode 3 (ctlTok 0 3 0x200000) = true ∧ 0x21 / 16 % 16 ≤ tokArg (ctlTok 0 3 0x200000) / 2 ^ 20 ∧ isCode 2 (ctlTok 0 2 0) = true) :=
  ⟨runs_of _ _ _ rfl (by decide),
    runs_of _ _ _ rfl (by decide),
    runs_of _ _ _ rfl (by decide),
    runs_of _ _ _ rfl (by decide),
    runs_of _ _ _ rfl (by decide),
    runs_of _ _ _ rfl (by decide),
    runs_of _ _ _ rfl (by decide),
    runs_of _ _ _ rfl (by decide),
    runs_of _ _ _ rfl (by decide),
    runs_of _ _ _ rfl (by decide),
    runs_of _ _ _ rfl (by decide),
    runs_of _ _ _ rfl (by decide),
    by decide,
    by decide⟩

/-- gapw on a GAP, on its weight, and on another token. -/
theorem witness_StreamOperations_gaps :
    Runs (oneHead 0x54 oneQueue default (ctlTok 0 7 1)) 0 0 0x54 oneQueue ∧ isCode 7 (ctlTok 0 7 1) = true ∧
    Runs (oneHead 0x54 oneQueue { (default : Handler) with gapPend := true } 9) 0 0 0x54 oneQueue ∧ isCode 7 9#48 = false :=
  ⟨runs_of _ _ _ rfl (by decide), by decide, runs_of _ _ _ rfl (by decide), by decide⟩

/-- widen, cmpd on equal and on other tokens; join before its first record, with a record, with both keys in every phase. -/
theorem witness_NodeOperations_join :
    let k (t : FTok) : JoinSide := { weight := some 256, key := some t }
    let both (n : BitVec 8) (a b : FTok) : Handler := { phased n with sideA := k a, sideB := k b }
    Runs (paramHead 0x58 2 default 5) 0 0 0x58 { oneQueue with param := 2 } ∧
    Runs (twoHeads 0x59 twoQueues default 5 5) 0 0 0x59 twoQueues ∧
    Runs (twoHeads 0x59 twoQueues default 5 6) 0 0 0x59 twoQueues ∧
    (Runs (twoHeads 0x60 twoQueues default (ctlTok 0 8 256) 5) 0 0 0x60 twoQueues ∧ isRec (ctlTok 0 8 256) = true) ∧
    Runs (twoHeads 0x60 twoQueues { (default : Handler) with sideA := { weight := some 256, key := none } } 5 5) 0 0 0x60 twoQueues ∧
    Runs (twoHeads 0x60 twoQueues { (default : Handler) with sideA := { weight := some 256, key := none } } (ctlTok 0 8 256) 5) 0 0 0x60 twoQueues ∧
    Runs (twoHeads 0x60 twoQueues (both 0 6 5) 8 9) 0 0 0x60 twoQueues ∧
    Runs (twoHeads 0x60 twoQueues (both 0 6 6) 8 9) 0 0 0x60 twoQueues ∧
    Runs (twoHeads 0x60 twoQueues (both 0 6 7) 8 9) 0 0 0x60 twoQueues ∧
    Runs (twoHeads 0x60 twoQueues (both 1 6 6) 8 9) 0 0 0x60 twoQueues ∧
    Runs (twoHeads 0x60 twoQueues (both 2 6 6) 8 9) 0 0 0x60 twoQueues ∧
    Runs (twoHeads 0x60 twoQueues (both 3 6 6) 8 9) 0 0 0x60 twoQueues :=
  ⟨runs_of _ _ _ rfl (by decide),
    runs_of _ _ _ rfl (by decide),
    runs_of _ _ _ rfl (by decide),
    ⟨runs_of _ _ _ rfl (by decide), by decide⟩,
    runs_of _ _ _ rfl (by decide),
    runs_of _ _ _ rfl (by decide),
    runs_of _ _ _ rfl (by decide),
    runs_of _ _ _ rfl (by decide),
    runs_of _ _ _ rfl (by decide),
    runs_of _ _ _ rfl (by decide),
    runs_of _ _ _ rfl (by decide),
    runs_of _ _ _ rfl (by decide)⟩

/-- win before, at and after a full window; mxnode as an island's feed and as its result port; cpnode with and without a template that is armed; clnode in a group of two of which this module is member 0. -/
theorem witness_NodeOperations_ports :
    let r : State := { State.reset with eng.islands := SMap.set default 0 { (default : Island) with outq := [5] } }
    let o : HWord := { oneQueue with param := 1, fire := 0 }
    let c : State := { State.reset with eng.tmpls := SMap.set default 2 { (default : Template) with v := true, arm := true } }
    let ch : HWord := { oneQueue with outmask := 0, param := 2 }
    let cl : HWord := { oneQueue with param := 1 }
    let g : State := { State.reset with xl.groups := SMap.set default 128 2 }
    Runs (paramHead 0x61 0x8001 (phased 0) 5) 0 0 0x61 { oneQueue with param := 0x8001 } ∧
    Runs (paramHead 0x61 0x8001 (phased 1) 5) 0 0 0x61 { oneQueue with param := 0x8001 } ∧
    Runs (paramHead 0x61 0x8001 (phased 2) 5) 0 0 0x61 { oneQueue with param := 0x8001 } ∧
    ((0x8001#16).extractLsb' 0 15 = 1#15 ∧ (0x8002#16).extractLsb' 0 15 = 2#15) ∧
    Runs (oneHead 0x62 oneQueue default 5) 0 0 0x62 oneQueue ∧
    (Runs (acting r (element 0x62 o default [])) 0 0 0x62 o ∧ fireQs o = []) ∧
    Runs (acting c (element 0x63 ch default [(0, 5)])) 0 0 0x63 ch ∧
    Runs (acting .reset (element 0x63 ch default [(0, 5)])) 0 0 0x63 ch ∧
    Runs (acting g (element 0x64 cl default [(0, 5)])) 0 0 0x64 cl ∧
    (groupLocal g 1 < groupCount g 1 ∧ groupLocal g 1 ≠ 0x7F) :=
  ⟨runs_of _ _ _ rfl (by decide),
    runs_of _ _ _ rfl (by decide),
    runs_of _ _ _ rfl (by decide),
    by decide,
    runs_of _ _ _ rfl (by decide),
    ⟨runs_of _ _ _ rfl (by decide), by decide⟩,
    runs_of _ _ _ rfl (by decide),
    runs_of _ _ _ rfl (by decide),
    runs_of _ _ _ rfl (by decide),
    by decide⟩

/-! #### The hearth -/

/-- Episode 0 of hearth core 0, and the core that runs it or none; the current agent is the core. -/
def playing (e : Episode) (cur : BitVec 5) (u : Bool) : State :=
  { State.reset with
    sim.cur := .hart 0
    hth.eps := SMap.set default 0 e
    hth.harts := SMap.set default 0 { (default : Hart) with hepcur := cur, user := u, x := SMap.set (SMap.set default 1 61440) 2 4096 } }

/-- A LIVE episode of one slot, in a window of 64 KiB. -/
def live : Episode := { (default : Episode) with v := true, st := .live, base := 0x8000000, limit := 0x8000001 }
/-- Its queues: 1 for actions, 2 for observations, both with policy 5. -/
def boxed (ents : List QEnt) : SMap Queue :=
  let q : Queue := { (default : Queue) with v := true, pol := 5, prod := .threads, cons := [0x8000], len := 6, views := SMap.set default 0 { (default : QView) with ents := ents } }
  SMap.set (SMap.set default 1 q) 2 q
def bound : Episode := { live with aq := 1, oq := 2 }

/-- No current episode, one that is not LIVE, one whose slots are all busy; the last offset of the window and the first past it; LEN 0, 4,096 and
4,097. -/
theorem witness_HearthForms_ply :
    let h (e : Episode) : Hart := hartOf (playing e 0x10 false) 0
    (playing live 0 false).sim.cur = .hart 0 ∧ (hartOf (playing live 0 false) 0).hepcur.getLsbD 4 = false ∧ (h live).hepcur.getLsbD 4 = true ∧
    ((playing default 0x10 false).hth.eps.at (epKey 0 (((h live).hepcur.extractLsb' 0 4).toNat))).st = .free ∧ ((playing { live with st := .dead } 0x10 false).hth.eps.at 0).st = .dead ∧
    ((playing live 0x10 false).hth.eps.at (epKey 0 (((h live).hepcur.extractLsb' 0 4).toNat))).st = .live ∧ ((h live).reg 1).toNat = 61440 ∧ (((h live).reg 2).extractLsb' 0 13).toNat = 4096 ∧
    live.inWindow 61440 4096 = true ∧ live.inWindow 61441 4096 = false ∧ 4096 < 4097 ∧ live.slots = 1 ∧ live.busy.length < live.slots ∧
    live.slots ≤ ({ live with busy := [(0, 0)] } : Episode).busy.length := by decide

/-- ply.recv with a TRUNCATED message, an action, and none, in U-mode and M-mode; a buffer that is not aligned or past the window. -/
theorem witness_HearthForms_recv :
    live.inWindow 57344 4160 = true ∧ 57344 % 64 = 0 ∧ 57345 % 64 ≠ 0 ∧ live.inWindow 65536 4160 = false ∧ ({ live with trunc := some (1, 2, 3) } : Episode).trunc ≠ none ∧
    (live.trunc = none ∧ live.acts = []) ∧ ({ live with acts := [{ (default : Action) with kind := 1 }] } : Episode).acts ≠ [] ∧
    (hartOf (playing live 0x10 true) 0).user = true ∧ (hartOf (playing live 0x10 false) 0).user = false := by decide

/-- A binding that passes and one that does not; an entry to unbind; an action that is accepted and one that is refused; a flag that has fallen. -/
theorem witness_HearthForms_box :
    let arg : EvArg := default
    let s (e : Episode) (q : List QEnt) : State := { playing e 0x10 false with sim.arg := arg, qu.queues := boxed q, dev.gtsc := 1000 }
    let rec4 : List FTok := [ctlTok 0 8 256, 0, 0x01000000, 0, 0]
    let ent (t : List FTok) : QEnt := { (default : QEnt) with recs := [{ toks := t, done := true, id := 1, ord := 1 }] }
    let words (t : List FTok) : List (BitVec 32) := (t.drop 1).map (fun t => t.extractLsb' 0 32)
    arg.core.toNat = 0 ∧ arg.unit.toNat % 16 = 0 ∧ bindCheck (s { bound with v := false } []) (epKey 0 0) = 0 ∧ bindCheck (s default []) (epKey 0 0) ≠ 0 ∧
    ((s bound []).hth.eps.at (epKey 0 0)).v = true ∧ boxReads (s bound [ent rec4]) (epKey 0 0) = true ∧ readPoison (s bound [ent rec4]) bound.core bound.aq.toNat 0 0 = none ∧ actionOk bound (words rec4) = true ∧
    actionOk bound (words [ctlTok 0 8 256, 1, 0x01000000, 0, 0]) = false ∧ flagDown (s { bound with ivl := true, bud := 5, flag := 5 } []) (epKey 0 0) = true := by decide

/-- An access of U-mode in the window, and past it; a store under the key of the entry, and under another. -/
theorem witness_HearthForms_window :
    let s : State := { playing live 0x10 true with sim.arg := { (default : EvArg) with load := .hearth .load, v := 65535, n := 1 } }
    s.sim.arg.load = .hearth .load ∧ (hartOf s s.sim.arg.core.toNat).user = true ∧ (hartOf s 0).episode 0 = some 0 ∧ live.inWindow s.sim.arg.v.toNat s.sim.arg.n = true ∧
    live.inWindow 65535 2 = false ∧ ((0#64).extractLsb' 0 16 = live.kgen ∧ (0#64).extractLsb' 16 16 = live.key) ∧ ¬((1#64).extractLsb' 0 16 = live.kgen) := by decide

/-! #### Steps of the device -/

/-- An event with operands: the state that executes it. -/
def event (s : State) (a : EvArg) : State := { s with sim.arg := a }
def arg0 : EvArg := default

/-- A walk that waits and may take a slot; one that has a slot and ends in a leaf or not; a bank with a store, a change that waits and one that has
been reached. -/
theorem witness_EngineSteps_banks :
    let w : WalkReq := { (default : WalkReq) with id := 1, va := 0x0010000000000000 }
    let s (ws : List WalkReq) : State := { State.reset with xl.walks := ws }
    let b (k : Bank) : State := { State.reset with st.banks := SMap.set default 0 k }
    (∃ y, walkNext (s [w]) 0 = some y) ∧
    (s [{ w with granted := true }]).xl.walks.find? (fun w => w.die == 0 && w.granted) = some { w with granted := true } ∧
    (walk (s []) 0 0#8 0#16 0x0010000000000000).1.st ≠ .ok ∧ ({ w with stale := true } : WalkReq).stale = true ∧
    ((b { (default : Bank) with queue := [{ (default : PortStore) with asid := 0 }] }).st.banks.at (bankKey 0 0)).queue ≠ [] ∧
    (((b { (default : Bank) with pend := [{ mode := .cache, ilv := 0 }] }).st.banks.at (bankKey 0 0)).pend ≠ [] ∧
      ((b { (default : Bank) with pend := [{ mode := .cache, ilv := 0 }] }).st.banks.at (bankKey 0 0)).busy = false) ∧
    ((b { (default : Bank) with change := some { mode := .cache, ilv := 0 } }).st.banks.at (bankKey 0 0)).change = some { mode := .cache, ilv := 0 } :=
  ⟨⟨_, rfl⟩, by decide, by decide, by decide, by decide, by decide, by decide⟩

/-- A table of ASID 5 at 0x10000 whose first entry names a table at 0x20000, whose first entry is a leaf of 512 MiB at 0. -/
def tabled : State :=
  { State.reset with
    xl.asids := SMap.set default 5 { (default : AsidDesc) with v := true, root := 1 }
    mem := Mem.putN (Mem.putN [] 0x10000 (leBytes 8 0x20001)) 0x20000 (leBytes 8 0x3B) }

theorem witness_EngineSteps_walk : (walk tabled 0 5#8 0#16 0x1000).1.st = .ok := by decide

/-- A sector that the core cache and the L2 do and do not hold, in a core with a way and without. -/
theorem witness_EngineSteps_caches :
    let a : Actor := { core := 0, path := .ct, asid := 0#8, gen := genOf State.reset 0#8, rid := 0 }
    let s : State := { State.reset with st.banks := SMap.set default 0 { (default : Bank) with mode := .cache } }
    let c := ccFill s a 0x1000 false
    let l := (dramRead State.reset a 0x1000 8 false).2
    place 0x1000 = .dram ∧ ccHit s a 0x1000 = none ∧ ccWays s 0 (ccSlice 0x1000) ≠ [] ∧ (ccHit c a 0x1000).isSome = true ∧ l2Holds State.reset 0x1000 = false ∧
    l2Holds l 0x1000 = true ∧ gateFull State.reset a 0x1000 = false :=
  ⟨by decide, by decide, by decide, by decide, by decide, by decide, by decide⟩

/-- A write of an engine into an entry that is FILLING under its generation, and into another; a context held for an entry; a token of each kind;
a view without a spill; a stream that adds, one that has no token, one that reads a row; a scope that a stream still bears, and one that none does. -/
theorem witness_EngineSteps_queues :
    let t : Tile := { readyTile with st := .filling }
    let h : State := { tiled readyTile with ctl.ctxs := SMap.set default 2 { (default : Ctx) with st := .held, wcode := 5, widx := 3 } }
    let add : Stream := { (default : Stream) with isOpen := true, desc := [0x8000000000000000, 0, 0, 0, 0, 0, 0, 0], inp := [5] }
    let read : Stream := { (default : Stream) with isOpen := true, desc := [0xC000000000000000, 0, 0x0000000200000000, 0, 0, 0, 0, 0x1000000000000000] }
    (t.isDef = true ∧ t.st = .filling ∧ t.gen = arg0.sub) ∧ ¬(readyTile.st = .filling) ∧
    ((ctxOf h 0 2).st = .held ∧ (ctxOf h 0 2).wcode = 5 ∧ (h.st.tiles.at (tileKey 0 (ctxOf h 0 2).widx)).canIssue = true) ∧
    (isRec (ctlTok 0 8 256) = true ∧ tokC 5#48 = false ∧ tokC (ctlTok 0 4 0) = true ∧ isRec (ctlTok 0 4 0) = false) ∧
    ((State.reset.qu.queues.at (queueKey 0 0)).views.at 0).spill = [] ∧
    (stopped State.reset 0 = false ∧ add.inp = [5] ∧ add.isOpen = true ∧ add.dir = 2 ∧ add.halted = false ∧ tokC 5#48 = false ∧ add.count ≤ add.pos ∧ (default : Stream).inp = []) ∧
    (read.isOpen = true ∧ read.dir = 3 ∧ read.halted = false ∧ read.port = [] ∧ read.mark = none ∧ read.pos < read.count ∧ read.set = 1 ∧
      rowOpen (accumulating twoByThree default) 0 1 (read.row0 + read.pos / read.rowLen) = true ∧ scopesOpen (accOf (accumulating twoByThree default) 0 1) read.mask = false ∧
      rowHeld (accumulating twoByThree default) 0 1 0 0 = false ∧ rowOpen State.reset 0 1 0 = false) ∧
    (tokC (ctlTok 0 10 3) = true ∧ tokCode (ctlTok 0 10 3) = 10 ∧ ¬((State.reset.sm.own.at (0 * 16 + tokArg (ctlTok 0 10 3) % 16)).v = true)) ∧
    ((accOf (accumulating twoByThree default) 0 1).v = true ∧ (accOf (accumulating twoByThree default) 0 1).asid = arg0.asid ∧
      addStreamOpen (accumulating twoByThree default) 0 1 0 = false ∧ addStreamOpen { accumulating twoByThree default with sm.streams := SMap.set default 0 { add with desc := [0x8000000000000000, 0, 0, 0, 0, 0, 0, 0x1000000000000000] } } 0 1 0 = true) := by
  decide

/-- An operation of context 0 that waits. -/
def waits (k : PendKind) : PendOp := { (default : PendOp) with kind := k }
def pending (w : PendOp) : State := { State.reset with ctl.pend := [w] }

/-- A reply to a request that waits, in its time and past it; a cfgld of the region and of another; a drain, and none; a wave that may complete, and one
that may not; a region that wants a rollback, and one that does not. -/
theorem witness_EngineSteps_regions :
    remotePend (pending (waits .remote)) 0 0 = some (waits .remote) ∧ 500000 ≤ (({ pending (waits .remote) with dev.gtsc := 500000 }).dev.gtsc - (waits .remote).time).toNat ∧
    ((pending (waits .remote)).dev.gtsc - (waits .remote).time).toNat < 500000 ∧
    pendOf (pending (waits .cfgld)) 0 0 (fun k => k == .cfgld || k == .cfgsh) = some (waits .cfgld) ∧
    slotRid (pending (waits .cfgld)) 0 ((waits .cfgld).a.extractLsb' 0 2).toNat = (ctxOf (pending (waits .cfgld)) 0 0).rid ∧
    slotRid { pending (waits .cfgld) with rg.slots := SMap.set default 0 { (default : GSlot) with rid := 9 } } 0 0 ≠ (ctxOf (pending (waits .cfgld)) 0 0).rid ∧
    pendOf (pending (waits .rdrain)) 0 0 (· == .rdrain) = some (waits .rdrain) ∧ pendOf State.reset 0 0 (· == .rdrain) = none ∧
    waveClear (slotted true true) 1 = true ∧ waveClear (slotted true false) 1 = false ∧ (regionOf State.reset 1).want = false ∧
    (regionOf { State.reset with rg.regions := SMap.set default 0 { (default : Region) with want := true } } 1).want = true := by decide

/-- A template that a queue triggers; a copy of the module, and one whose write left through a port; an island without a task, one whose task runs and one
whose task may end, each with no pass and with a pass left; a collective whose answer has come. -/
theorem witness_EngineSteps_engines :
    let d : Template := { definedCopy with tq := true, arm := true, trigq := 2 }
    let s : State := { queued threadQueue with eng.tmpls := SMap.set default 2 d }
    let c : CopyRun := { (default : CopyRun) with id := 7 }
    let m : State := { State.reset with eng.copies := [c] }
    let t : MxTask := { (default : MxTask) with words := [0, 0, 0, 0, 0, 0, 0, 0] }
    let i (n : Word) : State := { State.reset with eng.islands := SMap.set default 0 { (default : Island) with task := some t }, dev.gtsc := n }
    let k : MxTask := { t with words := [0, 0, 0x0700000000000000, 0, 0, 0, 0, 0] }
    let g (n : Word) : State := { i n with st.tiles := SMap.set default (tileKey 0 7) { readyTile with sp := true, sz := 20#5 } }
    let q : CollRun := { (default : CollRun) with id := 7 }
    ((tmplOf s 0 2).v = true ∧ (tmplOf s 0 2).tq = true ∧ (tmplOf s 0 2).arm = true ∧ (s.qu.queues.at (queueKey 0 (tmplOf s 0 2).trigq.toNat)).v = true ∧ stopped s (tmplOf s 0 2).rid = false ∧
      islandFull s 0 2 = false ∧ ((s.qu.queues.at (queueKey 0 2)).views.at 0).readable threadQueue.ch = [[ctlTok 0 8 256, 5#48]] ∧ isRec (ctlTok 0 8 256) = true ∧ readPoison s 0 2 0 0 = none) ∧
    (m.eng.copies.find? (fun c => c.core == 0 && c.id == 7) = some c ∧ c.sent = false ∧ ((islandCopies m c.core c.tmpl).take 8).any (fun y => y.id == c.id) = true ∧ copyHeld m c = false ∧
      ({ c with port := some 3 } : CopyRun).port ≠ none) ∧
    ((islandOf State.reset 0).task = none ∧ (islandOf (i 0) 0).task = some t ∧ passLeft (i 0) 0 t = false ∧ taskDue (i 0) 0 t = false ∧ passLeft (i 1000000) 0 t = false ∧ taskDue (i 1000000) 0 t = true ∧
      passLeft (g 0) 0 k = true ∧ passDue (g 0) 0 k = false ∧ passLeft (g 1000000) 0 k = true ∧ passDue (g 1000000) 0 k = true) ∧
    (({ State.reset with eng.colls := [q] }).eng.colls.find? (fun y => y.core == 0 && y.id == 7) = some q ∧ ([] : List Byte).length = (groupCount State.reset q.grp - 1) * q.len) := by decide

/-- An element whose result its own queue may take; an element with a shadow whose heads are at the end of a segment, and one without a shadow. -/
theorem witness_EngineSteps_elements :
    let h : HWord := { oneQueue with dsel := 2, outmask := 0 }
    let s := acting .reset { element 0x40 h default [] with res := some 5#48, pend := [5] }
    let w := acting .reset { element 0x40 { oneQueue with outmask := 0 } default [(0, ctlTok 0 5 0)] with shv := true }
    ((elemIn s 0).res = some 5#48 ∧ (elemIn s 0).pend = [4 + 1] ∧ (elemIn s 0).emit = [] ∧ slotActs s (elemCore 0) (elemIn s 0).resSlot = true ∧ elemRoom s 0 1 5#48 = true) ∧
    ((elemIn w 0).shv = true ∧ (elemIn w 0).res = none ∧ (elemIn w 0).emit = [] ∧ (elemIn w 0).blocked.getLsbD (elemIn w 0).shvSlot = false ∧ slotActs w (elemCore 0) (elemIn w 0).shvSlot = true ∧
      (elemIn w 0).head 0 = some (ctlTok 0 5 0) ∧ isCode 5 (ctlTok 0 5 0) = true ∧ (elemIn w 0).tokSlot (ctlTok 0 5 0) = some 0 ∧ outChannels (elemIn w 0) 0 = []) ∧
    (elemIn s 0).shv = false := by decide

/-- Requests from another module: a reservation with and without a port; its answer and its refusal; a slot write of this module, and one that no window
admits; a slot that is late and one that is not; reads, writes and atomics that a window admits, and does not. -/
theorem witness_ArrivalsAndAdmission_requests :
    let w : InWin := { (default : InWin) with v := true, rd := true, w := true, a := true, limit := 1 }
    let s : State := { State.reset with xl.wins := SMap.set default 0 w }
    let d : Zone := { (default : Zone) with v := true, tte := 3, tmo := 5 }
    let z (t : Tile) (n : Word) : State := { tiled t with zn.zones := SMap.set default 0 d, dev.gtsc := n }
    let q : SlotWrite := { core := 0, zone := 0, slot := 0, gen := 0, off := 0, q := 0, src := 0, inPort := none, copyCore := 0, copyId := 0, data := [7] }
    (pendOf (pending (waits .zres)) 0 0 (· == .zres) = some (waits .zres) ∧ (5#64).extractLsb' 0 8 ≠ 0#8 ∧ (0x100#64).extractLsb' 0 8 = 0#8) ∧
    (slotAdmits (z { readyTile with st := .filling } 0) q = true ∧ (slotWrite (z { readyTile with st := .filling } 0) q).1 = .ok ∧ slotAdmits State.reset { q with inPort := some 2 } = false) ∧
    (d.v = true ∧ 0 ≤ d.ns1.toNat ∧ (slotEnt (z { readyTile with st := .filling } 5000) 0 0 0).st = .filling ∧ d.tmo ≠ 0#16 ∧
      d.tmo.toNat * 1000 ≤ ((z readyTile 5000).dev.gtsc - (blkOf (z readyTile 5000) 0 0 0).since).toNat ∧ ¬(d.tmo.toNat * 1000 ≤ ((z readyTile 4999).dev.gtsc - 0).toNat)) ∧
    (winFor s 0 (·.rd) 0xFFF8 8 = some w ∧ winFor s 0 (·.w) 0 4 = some w ∧ winFor s 0 (·.a) 0 8 = some w ∧ winFor s 0 (·.rd) 0xFFF9 8 = none ∧ winFor State.reset 0 (·.w) 0 4 = none) := by decide

/-- A remote atomic past its time; one that repeats an entry of the replay table, one that contradicts it, one past the quota, and one that is performed. -/
theorem witness_ArrivalsAndAdmission_atomics :
    let w : InWin := { (default : InWin) with v := true, rd := true, w := true, a := true, limit := 1 }
    let e : ReplayEnt := { (default : ReplayEnt) with time := 0 }
    let s (q : Nat) (n : Word) : State := { State.reset with
      xl.wins := SMap.set default 0 w, ctl.replay := SMap.set default 0 [e], ctl.replayQ := SMap.set default 0 { (default : ReplayQuota) with set := true, rmaxV := q }, dev.gtsc := n }
    let ra : RemoteAtomic := { (default : RemoteAtomic) with time := 0 }
    1000000 ≤ ((s 1 1000000).dev.gtsc - ra.time).toNat ∧ ((s 1 5).dev.gtsc - ra.time).toNat < 1000000 ∧ winFor (replayExpire (s 1 5) 0) ra.src (·.a) ra.addr.toNat 8 = some w ∧
    ((replayExpire (s 1 5) 0).ctl.replay.at 0).find? (fun e => e.src == ra.src && e.asid == ra.asid && e.tag == ra.tag) = some e ∧ (e.op = ra.op ∧ e.addr = ra.addr ∧ e.v = ra.v) ∧
    ¬(e.v = 1#64) ∧ ((replayExpire (s 1 5) 0).ctl.replay.at 0).find? (fun e => e.src == ra.src && e.asid == ra.asid && e.tag == 7#24) = none ∧ ((s 1 5).ctl.replayQ.at 0).rmax ≤ 1 ∧ 1 < ((s 2 5).ctl.replayQ.at 0).rmax ∧
    (inAtomic (replayExpire (s 2 5) 0) w 8 0 5).1 = 0 ∧ (inAtomic (replayExpire (s 2 5) 0) w 4 0 5).1 ≠ 0 := by decide

/-- Page 0 with one record waiting, of a kind; records that are wrong, that name a region, a tile task, a heap entry and an event. -/
def noticed (ws : List Word) : State :=
  { State.reset with
    mem := Mem.putN chained 0x1000 (ws.map (fun w => leBytes 8 w.toNat)).flatten
    rg.notify := SMap.set default 0 { (default : NotifyPage) with v := true, rbase := 0x40, logn := 4, tail := 1 } }

theorem witness_ArrivalsAndAdmission_records :
    recordNext State.reset 0 0 = (none, State.reset) ∧
    (∃ va e t, recordNext { noticed [] with rg.notify := SMap.set default 0 { (default : NotifyPage) with v := true, rbase := 0x400000000000, logn := 4, tail := 1 } } 0 0 = (some (va, .inl e), t)) ∧
    (∃ va ws t, recordNext (noticed [0x0100000000000000, 0x3000]) 0 0 = (some (va, .inr ws), t) ∧ recordKind ws = 1 ∧ arbFull t 0 0 = false ∧
      t.rg.notify = (noticed [0x0100000000000000, 0x3000]).rg.notify ∧ ∃ q u, rcbResolve t (admitActor t 0 0) (ws.getD 1 0#64).toNat 0 0 = (some q, u)) ∧
    (∃ va ws t, recordNext (noticed [0x0200000000000000, 0x1000]) 0 0 = (some (va, .inr ws), t) ∧ recordKind ws = 2 ∧ (ws.getD 1 0#64).toNat % 64 = 0 ∧
      ∃ r u, memWords t { admitActor t 0 0 with path := .mx } (ws.getD 1 0#64).toNat 8 = (.inr r, u)) ∧
    (∃ va ws t, recordNext (noticed [0x0300000000000001, 5]) 0 0 = (some (va, .inr ws), t) ∧ recordKind ws = 3) ∧
    (∃ va ws t, recordNext (noticed [0x0400000000000100, 0]) 0 0 = (some (va, .inr ws), t) ∧ recordKind ws = 4) ∧
    (∃ va ws t, recordNext (noticed [0x0500000000000000, 0]) 0 0 = (some (va, .inr ws), t) ∧ recordKind ws = 0) :=
  ⟨rfl, ⟨_, _, _, rfl⟩, ⟨_, _, _, rfl, by decide, by decide, by decide, ⟨_, _, rfl⟩⟩, ⟨_, _, _, rfl, by decide, by decide, ⟨_, _, rfl⟩⟩,
    ⟨_, _, _, rfl, by decide⟩, ⟨_, _, _, rfl, by decide⟩, ⟨_, _, _, rfl, by decide⟩⟩

/-- A kill and an inval that wait, with a flit of the ASID that its port keeps and without, within the bound and at it, with a request
of an engine that is not answered and without; a descriptor that is being cleared, and one that is not, and a store that waits under it. -/
theorem witness_ArrivalsAndAdmission_drains :
    let kept : Port := { (default : Port) with kept := [{ seq := 0, node := 1, core := 0, ctx := 0, load := .none, asid := 5 }] }
    let w (k : PendKind) : PendOp := { waits k with a := 5 }
    let l (n : Word) : State := { pending (w .kill) with lnk.ports := SMap.set default 0 kept, dev.gtsc := n }
    let i (r : List FarReq) : State := { pending (w .inval) with eng.far := r }
    let far : FarReq := { farRead with asid := 5 }
    let c (b : Bool) (fs : SMap Frame) : State :=
      { State.reset with
        xl.asids := SMap.set default 5 { (default : AsidDesc) with clearing := b }, ctl.ctxs := SMap.set default 0 { (default : Ctx) with asid := 5 }, ctl.frames := fs }
    let f : SMap Frame := SMap.set default 0 { block [] with stores := [waiting] }
    (pendOf (l 0) 0 0 (· == .kill) = some (w .kill) ∧ linksDrained (pending (w .kill)) 5 0 = true ∧ linksDrained (l 499999) 5 0 = false ∧
      linksDrained (l 500000) 5 0 = true ∧ linksDrained (l 0) 6 0 = true) ∧
    (pendOf (i []) 0 0 (· == .inval) = some (w .inval) ∧ farOut (i []) ((invKind 1 0).asids (i [])) = false ∧ farOut (i [{ far with asid := 0 }]) ((invKind 1 0).asids (i [])) = true) ∧
    ((c false []).xl.asids.at 5).clearing = false ∧ ((c true []).xl.asids.at 5).clearing = true ∧ storesUnder (c true []) 5 = false ∧ storesUnder (c true f) 5 = true ∧
    (farOut { c true [] with eng.far := [far] } (· == 5) && !linksDrained { c true [] with eng.far := [far] } 5 0) = true ∧ farOut (c true []) (· == 5) = false := by decide

/-- Writes that enable and disable a descriptor, or do neither; quotas at their sum and past it; every word of a tracking descriptor; NODEID and 0x3FF;
a context that is trapped, and one that is not; a page enabled by the right tenant. -/
theorem witness_RegisterWrites :
    (State.reset.xl.asids.at 5).v = false ∧ ((1#64).getLsbD 0 = true ∧ (0#64).getLsbD 0 = false) ∧ (supervised.xl.asids.at 5).v = true ∧
    (let sum (f : Nat → Nat) (v : Nat) : Nat := ((List.range 64).map (fun i => if i = 0 then v else f i)).sum
     (sum (fun i => (State.reset.zn.landQ.at i).rmax) 4096 ≤ 4096 ∨ sum (fun i => (State.reset.zn.landQ.at i).rmax) 0 ≤ 4096) ∧
       ¬(sum (fun i => (State.reset.zn.landQ.at i).rmax) 8191 ≤ 4096) ∧ ¬(sum (fun i => (State.reset.xl.walkQ.at i).min) 65 ≤ 64) ∧ sum (fun i => (State.reset.xl.walkQ.at i).min) 0 ≤ 64) ∧
    (3#16).toNat % 4 = 3 ∧ (0x123#64).extractLsb' 0 10 ≠ 0x3FF#10 ∧ (0x3FF#64).extractLsb' 0 10 = 0x3FF#10 ∧
    (ctxOf State.reset 0 0).trapped = false ∧ (ctxOf { State.reset with ctl.ctxs := SMap.set default 0 { (default : Ctx) with st := .wait } } 0 0).trapped = true ∧
    ((0x0084000000000000#64).getLsbD 55 = true ∧ (State.reset.xl.asids.at ((0x0084000000000000#64).extractLsb' 56 8).toNat).ten = BitVec.ofNat 6 (0 / 64) ∧
      4 ≤ ((0x0084000000000000#64).extractLsb' 48 5).toNat ∧ ((0x0090000000000000#64).extractLsb' 48 5).toNat ≤ 16) ∧ (∃ d o, place 0x10300000000 = .regs d o) := by
  refine ⟨by decide, by decide, by decide, by decide, by decide, by decide, by decide, by decide, by decide, by decide, ⟨_, _, rfl⟩⟩

/-- A READY context and a free frame, and none; a HELD block that may give up its frame, and one that may not. -/
theorem witness_BlocksAndPlacement_frames :
    let s (c : Ctx) (f : Frame) (n : Word) : State :=
      { State.reset with ctl.ctxs := SMap.set (SMap.set default 0 c) 1 { (default : Ctx) with st := .ready }, ctl.frames := SMap.set default 0 f, dev.gtsc := n }
    let held : Ctx := { (default : Ctx) with st := .held }
    frameFree (s default default 0) 0 = some 0 ∧ readyFirst (s default default 0) 0 = some 1 ∧ readyFirst State.reset 0 = none ∧
    maySurrender (s held (block []) 320) 0 0 = true ∧ maySurrender (s held (block []) 319) 0 0 = false := by decide

/-- A block at 0x1000 that starts, and one that does not; a context that its region bars; a block that is complete, with an exit that is plain, one that
pushes on a full link stack, and one that pops an empty one. -/
theorem witness_BlocksAndPlacement_blocks :
    let s (ws : List (BitVec 32)) : State :=
      { State.reset with
        mem := Mem.putN [] 0x1000 (ws.map (fun w => leBytes 4 w.toNat)).flatten
        ctl.ctxs := SMap.set default 0 { (default : Ctx) with st := .run, blk := 0x1000 }
        ctl.frames := SMap.set default 0 { (default : Frame) with own := 1 } }
    let ok : List (BitVec 32) := [0x080040CE, 0x260803A0, 0x0E7FF983, 0xF0000004]
    let c : Ctx := ctxOf (s ok) 0 0
    let f (w : BitVec 32) : Frame := { block [] with hdr := 0, words := [w], exit := some (0, 0x40) }
    (c.st = .run ∧ (frameOf (s ok) 0 0).own = 1 ∧ (frameOf (s ok) 0 0).loaded = false ∧ ctxBarred (s ok) 0 c = false) ∧
    ctxBarred { s ok with rg.regions := SMap.set default 0 { (default : Region) with want := true } } 0 { c with rid := 1 } = true ∧
    (∃ h ws t, blockRead (s ok) 0 0 c.blkAddr = (.ok (h, ws), t)) ∧ (∃ e t, blockRead (s []) 0 0 c.blkAddr = (.error e, t)) ∧
    ((f 0xF0000004).complete = true ∧ (f 0xF0000004).exit = some (0, 0x40) ∧ (exitOutcome c (f 0xF0000004) 0 0x40).flt = none ∧ (f 0xF0000004).stores = [] ∧ (f 0xF0000004).qwrites = [] ∧
      (f 0xF0000004).commits = [] ∧ (f 0xF0000004).defer = none ∧ Hdr.kind (f 0xF0000004).hdr ≠ 1 ∧ (f 0xF0000004).irrev = false) ∧
    (exitOutcome { c with link := List.replicate 32 0 } (f 0xF2000004) 0 0x40).flt ≠ none ∧ (exitOutcome { c with link := List.replicate 31 0 } (f 0xF2000004) 0 0x40).flt = none ∧
    (exitOutcome c (f 0xF80341A0) 0 0).flt ≠ none :=
  ⟨by decide, by decide, ⟨_, _, _, rfl⟩, ⟨_, _, rfl⟩, by decide, by decide, by decide, by decide⟩

/-- A wait for a record that stands, for one that does not, and for the event flag; an idle whose time has come. -/
theorem witness_BlocksAndPlacement_waits :
    let s (c : Ctx) : State := { queued threadQueue with ctl.ctxs := SMap.set default 0 c, dev.gtsc := 80 }
    let w (n : Nat) (p : Word) : Ctx := { (default : Ctx) with st := .wait, wcode := n, widx := 2, park := p }
    let i : Ctx := { (default : Ctx) with st := .wait, wcode := 11, widx := 0, deadline := 80, evf := true }
    waitHolds (s (w 3 1)) 0 0 = true ∧ waitHolds (s (w 3 2)) 0 0 = false ∧ ¬((w 3 1).wcode = 11) ∧ waitHolds (s i) 0 0 = true ∧ (i.st = .wait ∧ i.wcode = 11 ∧ i.widx = 0) ∧
    i.deadline ≠ 0#64 ∧ i.deadline.toNat ≤ (s i).dev.gtsc.toNat ∧ waitHolds (s { i with evf := false }) 0 0 = false := by decide

/-- An Arbiter queue with a region that can be tried, and an empty one; a tile task that has a core; a region that may be saved; a segment whose budget has run
out, and one whose has not. -/
theorem witness_BlocksAndPlacement_arbiter :
    let e : ArbEnt := { (default : ArbEnt) with rid := 1, ready := true }
    let s : State := { State.reset with rg.arb := SMap.set default 0 [e], rg.regions := SMap.set default 0 { (default : Region) with image := 0x60000000000000 } }
    let t : ArbEnt := { (default : ArbEnt) with tile := true, ready := true, words := [0, 0, 0x0300000000000000, 0, 0, 0, 0, 0] }
    let k : State := { tiled readyTile with rg.arb := SMap.set default 0 [t], dev.talw := SMap.set default 0 1 }
    let p : State := { State.reset with
      rg.regions := SMap.set default 0 { (default : Region) with placed := true, w := 1, h := 1, segb := 4096 }
      rg.slots := SMap.set default 0 { (default : GSlot) with rid := 1, live := true, preempt := true } }
    let b (n : Word) : State := { p with rg.slots := SMap.set default 0 { (default : GSlot) with rid := 1, live := true, segN := 1 }, dev.gtsc := n }
    let due (s : State) : Prop := (s.rg.slots.at 0).rid ≠ 0 ∧ (s.rg.slots.at 0).live = true ∧ (s.rg.slots.at 0).halted = false ∧ (s.rg.slots.at 0).segN ≠ 0 ∧ stopped s (s.rg.slots.at 0).rid = false ∧
      (s.rg.slots.at 0).preempt = false ∧ 5 * (regionOf s (s.rg.slots.at 0).rid).segb.toNat ≤ 4 * (s.dev.gtsc - (s.rg.slots.at 0).segAt).toNat
    (∃ u, regionsTry 0 (arbOrder s 0 false) s = some u) ∧ regionsTry 0 (arbOrder State.reset 0 false) State.reset = none ∧
    (arbOrder k 0 true = [t] ∧ tileCore k 0 (t.task k) = some 0) ∧ maySave p 1 = true ∧ maySave State.reset 0 = false ∧ due (b 5120) ∧ ¬due (b 5119) :=
  ⟨⟨_, rfl⟩, rfl, by decide, by decide, by decide, by decide, by decide⟩

/-- A region that the detector examines, due and not; its blocked nodes: none that waits outward, one that has a bound, one that has none, past the
stallout. A debug area of a slot, and entries of it that can return. -/
theorem witness_BlocksAndPlacement_watch :
    let r : RegionState := { State.reset.rg with regions := SMap.set default 0 default, slots := SMap.set default 0 { (default : GSlot) with rid := 1, live := true } }
    let c (k : Nat) : Ctx := { (default : Ctx) with st := .held, wcode := k, rid := 1 }
    let s (k : Nat) (n : Word) : State := { State.reset with rg := r, ctl.ctxs := SMap.set default 0 (c k), dev.gtsc := n }
    watchDue (s 5 5120) 0 0 = true ∧ watchDue (s 5 5119) 0 0 = false ∧ watched State.reset 0 0 = false ∧ (blockedNodes (s 5 5120) 0 0).all (fun b => !b.outward) = true ∧
    (blockedNodes (s 18 5120) 0 0).any (fun b => b.outward && b.bounded (s 18 5120) 0) = true ∧ (watched (s 17 20971520) 0 0 = true ∧
      20971520 ≤ ((s 17 20971520).dev.gtsc - ((s 17 20971520).rg.slots.at 0).prog2).toNat ∧ (blockedNodes (s 17 20971520) 0 0).any (fun b => b.outward && !b.bounded (s 17 20971520) 0) = true) ∧
    (let d : Dbga := { (default : Dbga) with v := true, ents := [{ (default : DbgEnt) with done := true }] }
     d.v = true ∧ dbgNext { State.reset with ctl.dbga := SMap.set default 0 d } 0 ≠ none ∧ dbgNext State.reset 0 = none ∧ (State.reset.rg.slots.at (slotIx 0 0)).halted = false) := by
  decide

/-- A port that is up, one in its window at and past 50,000 ns, one that is enabled and down; enables and modes. -/
theorem witness_PortsAndModule_ports :
    let s (q : Port) (n : Word) : State := { State.reset with lnk.ports := SMap.set default 0 q, dev.gtsc := n, dev.nodeC := 0x3FE, dev.phase := .ready }
    let up : Port := { (default : Port) with up := true, en := true }
    let win : Port := { (default : Port) with en := true, retrain := some 0 }
    (portOf (s up 0) 0).up = true ∧ (portOf (s default 0) 0).up = false ∧ (portOf (s win 0) 0).retrain = some 0 ∧ ((s win 49999).dev.gtsc - 0).toNat < 50000 ∧
    50000 ≤ ((s win 50000).dev.gtsc - 0).toNat ∧ ((s win 50000).dev.gtsc - 0).toNat ≤ 50000 ∧ 50000 < ((s win 50001).dev.gtsc - 0).toNat ∧
    ((0x1000000000000000#64).getLsbD 60 = true ∧ (portOf (s default 0) 0).en = false) ∧ ((0#64).getLsbD 60 = false ∧ (portOf (s { up with up := false } 0) 0).en = true ∧
      (portOf (s { up with up := false } 0) 0).up = false ∧ (portOf (s { up with up := false } 0) 0).retrain = none) ∧ (portOf (s win 0) 0).retrain ≠ none ∧
    ((0x4000000000000000#64).extractLsb' 61 2 ≠ 3#2 ∧ (0x6000000000000000#64).extractLsb' 61 2 = 3#2) ∧ (nodeId (s up 0) ≠ 0x3FF#10 ∧ (s up 0).dev.phase ≠ .safe ∧ up.kept = []) := by decide

/-- Flits in order and out of order; packets in their place, early, late and before one that is held; the sources' timeout. -/
theorem witness_PortsAndModule_flits :
    let s (q : Port) (n : Word) (a : EvArg) : State := { State.reset with lnk.ports := SMap.set default 0 q, dev.gtsc := n, dev.phase := .ready, sim.arg := a }
    let up : Port := { (default : Port) with up := true, en := true }
    let h : Port := { up with mode := 1, reseq := [{ node := 0, next := 0, held := [default], seen := 0 }] }
    (up.up = true ∧ up.mode = 0#2 ∧ (s up 0 arg0).dev.phase = .ready ∧ arg0.w.getLsbD 32 = false ∧ arg0.v.extractLsb' 0 32 = up.rxSeq ∧ (1#64).extractLsb' 0 32 ≠ up.rxSeq) ∧
    (h.mode = 1#2 ∧ (h.seqOf 0).held ≠ [] ∧ (h.seqOf 0).next + 1024 ≤ 1024 ∧ 0 = (h.seqOf 0).next ∧ 500000 ≤ ((s h 500000 arg0).dev.gtsc - (h.seqOf 0).seen).toNat) ∧
    (({ up with mode := 2, reseq := [{ node := 0, next := 1, held := [], seen := 0 }] } : Port).seqOf 0).held = [] ∧ (up.seqOf 0).held = [] := by decide

/-- Time that slews and time that does not; the first alignment; firmware that verifies, that is not signed and that is too old; temperatures on either side of
each limit; flow on either side of its limit, and its loss; a start with no image, and one with an image that is refused. -/
theorem witness_PortsAndModule_module :
    let t : State := { State.reset with dev.phase := .ready, lnk.ports := SMap.set default 23 { (default : Port) with up := true } }
    let a : State := { State.reset with dev.nodeC := 0x3FE }
    let low (n : Word) : State := { t with dev.cool := { (default : Coolant) with lowSince := some 0 }, dev.gtsc := n }
    let bad : State := { State.reset with dev.images := SMap.set default 0 { version := 0, digest := 0, signed := false } }
    (t.dev.phase = .ready ∧ t.dev.isRef = false ∧ (portOf t 23).up = true) ∧ ¬(State.reset.dev.phase = .ready) ∧
    (a.dev.phase = .off ∧ a.dev.aligned = false ∧ nodeId a ≠ 0x3FF#10) ∧ (State.reset.dev.minVer.at 0).toNat ≤ 0 ∧
    ((459#16).toInt < 460 ∧ 460 ≤ (460#16).toInt ∧ 340 < (341#16).toInt ∧ (332#16).toInt ≤ 332 ∧ (332 < (333#16).toInt ∧ (340#16).toInt ≤ 340)) ∧
    ((5999#16).toNat < 6000 ∧ ¬((6000#16).toNat < 6000)) ∧ ((low 0).dev.cool.lowSince = some 0 ∧ (low 0).dev.phase ≠ .safe ∧ 10 ^ 9 ≤ ((low 1000000000).dev.gtsc - 0).toNat ∧
      ((low 999999999).dev.gtsc - 0).toNat < 10 ^ 9) ∧
    (nodeId State.reset = 0x3FF#10 ∧ State.reset.dev.images = [] ∧ State.reset.dev.histNv = []) ∧
    imagesBad { State.reset with dev.images := bad.dev.images, dev.minVer := bad.dev.minVer } ≠ none := by decide

/-! #### The clauses that a bank, a poisoned word or a link decides -/

/-- Entry 3 of core 0, and whether its bank changes its mode. -/
def tileIn (busy : Bool) (t : Tile) : State :=
  { tiled t with st := { (tiled t).st with banks := SMap.set default 0 { (default : Bank) with busy := busy } } }

/-- An entry whose bank changes, and one whose bank does not; a read that must wait for a bank, and one that need not; a port store of whole bytes, and one of
one bit of a byte; an L2 that holds no sector. -/
theorem witness_EngineSteps_busy :
    let t : Tile := { readyTile with st := .filling }
    let p (m : Byte) : PortStore := { (default : PortStore) with bytes := [(3, 7#8, m)] }
    entryBusy (tileIn true t) 0 3 = true ∧ entryBusy (tileIn false t) 0 3 = false ∧ (t.isDef = true ∧ t.st = .filling ∧ t.gen = arg0.sub) ∧ ¬(readyTile.st = .filling) ∧
    inBusy (tileIn true t) 0x10000000008 8 = true ∧ inBusy (tileIn false t) 0x10000000008 8 = false ∧ inBusy State.reset 0x1000 8 = false ∧
    (∀ b ∈ (p 0xFF).bytes, b.2.2 = 0xFF#8) ∧ (p 0x01).bytes = [(3, 7#8, 0x01#8)] ∧
    (((State.reset.st.l2.at (l2Key 0x1000)).ways.at 0).lo.u = false ∧ ((State.reset.st.l2.at (l2Key 0x1000)).ways.at 0).hi.u = false) := by decide

/-- An access of an agent to the L2, through a flag that loses a tag, a read, and a write that no gate holds. -/
theorem witness_EngineSteps_l2 :
    let a : Actor := { core := 0, path := .ct, asid := 0#8, gen := 0#16, rid := 0 }
    ({ arg0 with flag := true } : EvArg).flag = true ∧ arg0.flag = false ∧ place (0x1000#64).toNat = .dram ∧
    ({ arg0 with load := .l2 0x1000 (.read 8 false) [] } : EvArg).load = .l2 0x1000 (.read 8 false) [] ∧
    ({ arg0 with load := .l2 0x1000 (.write false) [7] } : EvArg).load = .l2 0x1000 (.write false) [7] ∧ gateFull State.reset a (0x1000#64).toNat = false := by decide

/-- A view without a spill; one whose ring holds an entry that cannot return, and one whose entry can; the image of an entry is read. -/
theorem witness_EngineSteps_spill :
    let d (spl : Bool) (done : Bool) : Queue :=
      { threadQueue with c := 1, views := SMap.set default 0 { (default : QView) with spl := spl, spill := [{ toks := [], done := done, id := 1, ord := 1 }] } }
    let v (q : Queue) : QView := q.views.at 0
    ((threadQueue.views.at 9).spill = []) ∧ ((v (d true true)).spill = [{ toks := [], done := true, id := 1, ord := 1 }]) ∧ (v (d false true)).spl = false ∧ (v (d true true)).spl = true ∧
    (v (d true true)).occ < (d true true).c ∧
    (∃ bs t, memRead (queued (d true true)) ((d true true).actor (queued (d true true)) 0 true) ((d true true).ringVa 0) (d true true).slotBytes = (.inr bs, t)) := by
  refine ⟨by decide, by decide, by decide, by decide, by decide, ⟨_, _, rfl⟩⟩

/-- A row that is open, not held and sound takes an element, in the middle of its row and at its end, and one past the last of the stream. -/
theorem witness_EngineSteps_rows :
    let add (p : Nat) : Stream := { (default : Stream) with isOpen := true, pos := p, inp := [5], desc := [0x8000000000000000, 0, 0x0000000400000000, 0, 0, 0, 0, 0x1000000000001000] }
    let s : State := accumulating twoByThree default
    (∀ p ∈ [0, 1], stopped s (add p).rid = false ∧ (add p).isOpen = true ∧ (add p).dir = 2 ∧ (add p).halted = false ∧ tokC 5#48 = false ∧ (add p).pos < (add p).count ∧ (add p).chn = 0 ∧
      (add p).drop = false ∧ rowHeld s 0 (add p).set ((add p).row0 + (add p).pos / (add p).rowLen) 1 = false ∧ rowOpen s 0 (add p).set ((add p).row0 + (add p).pos / (add p).rowLen) = true ∧
      (accOf s 0 (add p).set).asid = (add p).asid ∧ rowPoisoned s 0 (add p).set ((add p).row0 + (add p).pos / (add p).rowLen) = false) ∧
    (add 0).pos % (add 0).rowLen + 1 ≠ (add 0).rowLen ∧ (add 1).pos % (add 1).rowLen + 1 = (add 1).rowLen ∧ (add 4).count ≤ (add 4).pos := by decide

/-- A HAND to an owner, from a node that holds the slice, from one that does not, and of a slice that is not set. -/
theorem witness_EngineSteps_hand :
    let h : FTok := ctlTok 0 10 3
    let st (dir : Nat) : Stream := { (default : Stream) with isOpen := true, inp := [h], desc := [BitVec.ofNat 64 (dir * 2 ^ 62), 0, 0, 0, 0, 0, 0, 0] }
    let o (n : Nat) : OwnEnt := { (default : OwnEnt) with v := true, owners := [n] }
    (st 0).dir = 0 ∧ (st 1).dir = 1 ∧ (st 1).blockFull = false ∧ (tokC h = true ∧ tokCode h = 10 ∧ tokArg h = 3 ∧ (st 0).isOpen = true) ∧
    ((o (streamNode 4)).owners.getD (o 0).cur 64 = streamNode 4) ∧ ((o 0).owners.getD (o 0).cur 64 ≠ streamNode 4) ∧ (default : OwnEnt).v = false := by decide

/-- A replicated load that waits for a replica on another module; a context whose next block acquires; a drain of a region that is being saved, and of one that is not;
a slot write whose entry's bank changes, and one whose bank does not. -/
theorem witness_Completions :
    let s : State := { pending { waits .remote with b := 6, c := 0x0020800000000000 } with xl.groups := SMap.set default 128 2, dev.gtsc := 500000 }
    let r (st : Nat) : State := { pending (waits .rdrain) with rg.regions := SMap.set default 0 { (default : Region) with rst := st } }
    (remotePend s 0 0).isSome = true ∧ ldredFar s { waits .remote with b := 6, c := 0x0020800000000000 } ≠ [] ∧
    ({ (default : Ctx) with acq := true } : Ctx).acq = true ∧ (regionOf (r 5) 1).rst = 5 ∧ (regionOf (r 1) 1).rst ≠ 5 ∧ (regionOf (r 1) 1).rst ≠ 7 := by decide

/-! ### Results that the manual writes out, and results worked out by hand from its rules -/

/-- The hold writes of the block after one instruction of context 0. -/
def holdsAfter (i : Instr) (opnd : List (Nat × Option (BitVec 64))) : Option (List (Nat × Option (BitVec 64))) :=
  match exec i (fresh opnd) with
  | .next t => some (frameOf t 0 0).holds
  | _ => none

/-- One instruction of context 0 sends this token, and no other, to hold register 3. -/
def gives (i : Instr) (opnd : List (Nat × Option (BitVec 64))) (r : Option (BitVec 64)) : Bool :=
  holdsAfter i opnd == some [(3, r)]

/-- The result register of the element after one operation on two tokens. -/
def resultOf (i : HWord → Instr) (op : BitVec 8) (h : HWord) (a b : FTok) : Option FTok :=
  match exec (i h) (twoHeads op h default a b) with
  | .next t => (elemIn t 0).res
  | _ => none

/-- The four words of R239's constant, its last step; the addi of the block of chapter 10. -/
theorem test_constants :
    holdsAfter (.movh 0xDEF0 0x184) [(0, some 0x0000123456789ABC)] = some [(4, some 0x123456789ABCDEF0)] ∧
    holdsAfter (.movc 0x8001 0x184) [] = some [(4, some 0xFFFFFFFFFFFF8001)] ∧ gives (.addi 0 0x3FFC 0x183) [(0, some 0x10)] (some 0xC) := by decide

/-- Division by zero, the quotient that does not fit, and signs (R232). -/
theorem test_division :
    gives (.divs 0 0x183 0x1A0) [(0, some 7), (1, some 0)] (some 0xFFFFFFFFFFFFFFFF) ∧
    gives (.rems 0 0x183 0x1A0) [(0, some 7), (1, some 0)] (some 7) ∧
    gives (.divs 0 0x183 0x1A0) [(0, some 0x8000000000000000), (1, some (-1))] (some 0x8000000000000000) ∧
    gives (.divs 0 0x183 0x1A0) [(0, some (-7)), (1, some 2)] (some (-3)) ∧ gives (.rems 0 0x183 0x1A0) [(0, some (-7)), (1, some 2)] (some (-1)) ∧
    gives (.divn 0 0x183 0x1A0) [(0, some (-7)), (1, some 2)] (some 0x7FFFFFFFFFFFFFFC) ∧ gives (.remn 0 0x183 0x1A0) [(0, some 7), (1, some 2)] (some 1) := by
  decide

/-- Saturation, high products and minima (R231). -/
theorem test_arithmetic :
    gives (.adds 0 0x183 0x1A0) [(0, some 0x7FFFFFFFFFFFFFFF), (1, some 1)] (some 0x7FFFFFFFFFFFFFFF) ∧
    gives (.mulh 0 0x183 0x1A0) [(0, some (-1)), (1, some 2)] (some (-1)) ∧ gives (.mulhn 0 0x183 0x1A0) [(0, some (-1)), (1, some 2)] (some 1) ∧
    gives (.sub 0 0x183 0x1A0) [(0, some 3), (1, some 5)] (some (-2)) ∧ gives (.min 0 0x183 0x1A0) [(0, some (-1)), (1, some 1)] (some (-1)) ∧
    gives (.minn 0 0x183 0x1A0) [(0, some (-1)), (1, some 1)] (some 1) ∧ gives (.andn 0 0x183 0x1A0) [(0, some 12), (1, some 10)] (some 4) := by decide

/-- Shifts by the low six bits, rotations, counts and fields (R234, R235, R236, R238). -/
theorem test_bits :
    gives (.shl 0 0x183 0x1A0) [(0, some 5), (1, some 65)] (some 10) ∧ gives (.sha 0 0x183 0x1A0) [(0, some (-8)), (1, some 2)] (some (-2)) ∧
    gives (.rol 0 0x183 0x1A0) [(0, some 0x8000000000000001), (1, some 4)] (some 0x18) ∧ gives (.clz 0 0x183 0x1A0) [(0, some 1)] (some 63) ∧
    gives (.ctz 0 0x183 0x1A0) [(0, some 0)] (some 64) ∧ gives (.popc 0 0x183 0x1A0) [(0, some 0xF0F)] (some 8) ∧
    gives (.sext 0 0 0x183 0x1A0) [(0, some 0x180)] (some 0xFFFFFFFFFFFFFF80) ∧ gives (.zext 0 1 0x183 0x1A0) [(0, some 0x1FFFF)] (some 0xFFFF) ∧
    gives (.bfx 0 8 7 0x183) [(0, some 0xABCD)] (some 0xAB) ∧ gives (.bfi 0 4 3 0x183) [(0, some 0xABCD), (1, some 0x7)] (some 0xAB7D) := by decide

/-- Signed and unsigned tests, zero-extended immediates, and predicates of bit 0 (R241, R242, R243). -/
theorem test_tests :
    gives (.tlt 0 0x183 0x1A0) [(0, some (-1)), (1, some 1)] (some 1) ∧ gives (.tltn 0 0x183 0x1A0) [(0, some (-1)), (1, some 1)] (some 0) ∧
    gives (.tlti 0 0x3FFF 0x183) [(0, some (-2))] (some 1) ∧ gives (.tltni 0 0x3FFF 0x183) [(0, some 0x3FFE)] (some 1) ∧
    gives (.pand 0 0x183 0x1A0) [(0, some 3), (1, some 2)] (some 0) ∧ gives (.pnot 0 0x183 0x1A0) [(0, some 2)] (some 1) := by decide

/-- A predicated-off instruction sends a null to its hold register, a firing null operand passes on (R209, R210, R227). -/
theorem test_nulls :
    gives (.mov 1 0x183 0x1A0) [(0, some 5), (2, some 0)] (none) ∧ gives (.add 0 0x183 0x1A0) [(0, none), (1, some 2)] (none) ∧
    gives (.sel 0 0x183 0x1A0) [(1, some 9)] (some 9) := by decide

/-- A trap names its block, its code and its index (R211, R377): a second exit is BADEXIT, 0x18. -/
theorem test_badexit :
    (match exec (.br 0 0 4) (running .reset { (default : Ctx) with blk := 0x1000 } { block [] with exit := some (1, 4#64) }) with
      | .next t => some ((ctxOf t 0 0).st, (ctxOf t 0 0).widx, (ctxOf t 0 0).flt1, (ctxOf t 0 0).flt0)
      | _ => none) = some (.wait, 0x18, 0x1000#64, 0x3018000000000000#64) := by decide

/-- A byte load extends its sign; a store of the block is not in memory before the commit, and lies little-endian in it after (R3, R143, R258, R262). -/
theorem test_memory :
    (match exec (.ldbs 0 0 0 0x183) (running (withMem [(0x1000, 0x80#8)]) default (block [(0, some 0x1000)])) with
      | .next t => (frameOf t 0 0).holds
      | _ => []) = [(3, some 0xFFFFFFFFFFFFFF80)] ∧
    (match exec (.sth 0 0 1) (fresh [(0, some 0x1000), (1, some 0xABCD)]) with
      | .next t => (Mem.getN t.mem 0x1002 2, (frameOf t 0 0).stores.map (fun p => (p.pa, p.bytes)))
      | _ => ([], [])) = ([0, 0], [(0x1002, [0xCD#8, 0xAB#8])]) := by decide

/-- Rows of the table of R327, and the special values of R328: sums that round, products that leave the range, zeros. -/
theorem test_xf42 :
    resultOf .fadd 0x20 twoQueues 0x1FF00000000 0x1DF00000000 = some 0x1FF00000000 ∧ resultOf .fadd 0x20 { twoQueues with rm := 2 } 0x1FF00000000 0x1DF00000000 = some 0x1FF00000001 ∧
    resultOf .fmul 0x22 twoQueues 0x0D300000000 0x0D300000000 = some 0 ∧ resultOf .fmul 0x22 { twoQueues with rm := 1 } 0x3FE7FFFFFFF 0x20000000000 = some 0x3FE7FFFFFFF ∧
    resultOf .fmul 0x22 twoQueues 0x3FE7FFFFFFF 0x20000000000 = some 0x3FF00000000 ∧ resultOf .fadd 0x20 { twoQueues with rm := 3 } 0x1FF00000000 0x1FF80000000 = some 0x80000000 := by decide

/-- Integer operations wrap and shift by five bits; a test gives an integer (R332, R333). -/
theorem test_integers :
    resultOf .iadd 0x01 twoQueues 0xFFFFFFFF 2 = some 1 ∧ resultOf .ishl 0x08 twoQueues 3 33 = some 6 ∧ resultOf .imulh 0x04 twoQueues 0xFFFFFFFF 2 = some 0xFFFFFFFF ∧
    resultOf .ilt 0x0E twoQueues 0xFFFFFFFF 1 = some 1 ∧ resultOf .iltn 0x0F twoQueues 0xFFFFFFFF 1 = some 0 ∧ resultOf .feq 0x2C twoQueues 0 0x80000000 = some 1 := by decide

/-- The INT4Q block that the manual decodes, at scale code 0x7E, and its two malformed neighbours (R92, R93). -/
theorem test_int4q :
    let w : ConvWord := { (default : ConvWord) with fmt := 12 }
    let read (codes : List Nat) := Machine.Conv.blockIn w default codes 0x7E 0 32
    (let r := read ([0x2, 0xF, 0x8, 0x5, 0x7, 0x9, 0x8, 0x0] ++ List.replicate 24 0)
     r.1.take 8 = [0x1FF00000000#48, 0x1FE80000000#48, 0x20340000000#48, 0#48, 0x20060000000#48, 0x200E0000000#48, 0x20100000000#48, 0#48] ∧ r.2.fmterr = 0) ∧
    (let r := read ([0x2, 0xF, 0x8, 0x8] ++ List.replicate 28 0)
     r.1 = List.replicate 32 Machine.Num.xfNaN ∧ r.2.fmterr = 1) ∧
    (let r := read (List.replicate 31 0 ++ [0x8])
     r.1 = List.replicate 32 Machine.Num.xfNaN ∧ r.2.fmterr = 1) := by decide

/-- ply.send past the longest payload answers BADARG, and without an episode ENDED (R412). -/
theorem test_ply :
    (match exec (.plySend 2 1 3) (playing { live with limit := 0x8000002 } 0x10 false) with
      | .next t => ((hartOf t 0).reg 3, (hartOf t 0).pc)
      | _ => (0, 0)) = (0#64, 4#64) ∧
    (match exec (.plyPoll 0 0 3) (playing live 0 false) with
      | .next t => (hartOf t 0).reg 3
      | _ => 0) = 0x0100000000000000#64 := by decide

/-- A double-bit error makes a bank's word poisoned and counts in its sub-array; the whole word, written, is good again (R50, R397). -/
theorem test_bit_error :
    let s := bitError (.word 0x1000000100C) .reset
    poisoned s 0x10000001008 1 = true ∧ poisoned s 0x10000001010 8 = false ∧ (s.dev.hist.at 1).unc = 1#16 ∧
    unpoison s.st.poison 0x10000001008 8 = [] ∧ unpoison s.st.poison 0x10000001008 4 ≠ [] := by decide

end Sys2Proof.Tests
end

/-! ## The statements of the scope: memory, reset, ports and the module -/

namespace Sys2Proof.Machine

/-! ### Memory: ranges of bytes and their little-endian value (R3) -/

/-- A write of consecutive bytes leaves every byte outside its range. -/
theorem Mem.get_putN_outside : ∀ (bs : List Byte) (m : List Host.Cell) (a b : Nat), b < a ∨ a + bs.length ≤ b →
    Mem.get (Mem.putN m a bs) b = Mem.get m b
  | [], _, _, _, _ => rfl
  | x :: xs, m, a, b, h => by
    rw [List.length_cons] at h
    rw [Mem.putN, Mem.get_putN_outside xs (Mem.put m a x) (a + 1) b (by omega), Mem.get_put, if_neg (by omega)]

/-- Consecutive bytes that were written are read back. -/
theorem Mem.getN_putN : ∀ (bs : List Byte) (m : List Host.Cell) (a : Nat), Mem.getN (Mem.putN m a bs) a bs.length = bs
  | [], _, _ => rfl
  | x :: xs, m, a => by
    have first : Mem.get (Mem.putN (Mem.put m a x) (a + 1) xs) a = x := by
      rw [Mem.get_putN_outside xs _ _ _ (Or.inl (Nat.lt_succ_self a)), Mem.get_put, if_pos rfl]
    rw [Mem.putN, List.length_cons, Mem.getN, first, Mem.getN_putN xs]

/-- Little-endian bytes hold a value up to their range. -/
theorem leNat_leBytes : ∀ n v, leNat (leBytes n v) = v % 256 ^ n
  | 0, v => (Nat.mod_one v).symm
  | n + 1, v => by
    rw [leBytes, leNat, leNat_leBytes n, Nat.pow_succ', Nat.mod_mul, BitVec.toNat_ofNat]

/-! ### Ports (R137, R418–R420) -/

/-- The port that the current event names. -/
abbrev eventPort (s : State) : Nat := s.sim.arg.port.toNat

/-- The state of that port. -/
abbrev atPort (s : State) : Port := portOf s (eventPort s)

theorem portOf_portUpd_same (s : State) (p : Nat) (f : Port → Port) : portOf (portUpd s p f) p = f (portOf s p) :=
  SMap.at_upd_same _ p f

/-- An update of a port changes that port alone. -/
theorem portUpd_only (s : State) (p : Nat) (f : Port → Port) :
    portUpd s p f = { s with lnk := (portUpd s p f).lnk } ∧ portOf (portUpd s p f) p = f (portOf s p) ∧
      ∀ k, k ≠ p → portOf (portUpd s p f) k = portOf s k :=
  ⟨rfl, portOf_portUpd_same s p f, fun _ hk => SMap.at_upd_other _ f hk⟩

/-- A node number is held as its distance from 0x3FF. -/
theorem node_sub_sub (n : BitVec 10) : 0x3FF#10 - (0x3FF#10 - n) = n := by bv_omega

variable {s : State}

theorem execLinkDown_of_up (h : (atPort s).up = true) :
    execLinkDown s = .next (portUpd s (eventPort s) (fun q => { q with up := false, lanes := 0#4, retrain := some s.dev.gtsc })) := by
  simp [execLinkDown, h]

theorem execLinkDown_of_down (h : (atPort s).up = false) : execLinkDown s = .next s := by
  simp [execLinkDown, h]

theorem execRetrainWindowExpiry_none (h : (atPort s).retrain = none) : execRetrainWindowExpiry s = .next s := by
  simp [execRetrainWindowExpiry, h]

theorem execRetrainWindowExpiry_some {b : Word} (h : (atPort s).retrain = some b) :
    execRetrainWindowExpiry s =
      .next (if 50000 ≤ (s.dev.gtsc - b).toNat then linkLost (portDown s (eventPort s)) (eventPort s) none else s) := by
  simp only [execRetrainWindowExpiry, h, retrainNs]
  rfl

theorem execLinkRetrained_none (h : (atPort s).retrain = none) : execLinkRetrained s = .next s := by
  simp [execLinkRetrained, h]

theorem execLinkRetrained_late {b : Word} (h : (atPort s).retrain = some b) (late : 50000 < (s.dev.gtsc - b).toNat) :
    execLinkRetrained s = .next s := by
  simp only [execLinkRetrained, h, retrainNs, gt_iff_lt, late, if_true]

/-- A link that retrains within its window is up on four lanes and replays every flit that it keeps. -/
theorem execLinkRetrained_inTime {b : Word} (h : (atPort s).retrain = some b) (inTime : (s.dev.gtsc - b).toNat ≤ 50000) :
    ∃ t, execLinkRetrained s = .next t ∧ (portOf t (eventPort s)).up = true ∧ (portOf t (eventPort s)).lanes = 4#4 ∧
      (portOf t (eventPort s)).retrain = none ∧ (portOf t (eventPort s)).kept = (atPort s).kept ∧
      t.sim.out = s.sim.out ++ (atPort s).kept.map (fun h => { port := eventPort s, node := h.node, load := h.load }) := by
  have hlate : ¬50000 < (s.dev.gtsc - b).toNat := by omega
  simp only [execLinkRetrained, h, retrainNs, gt_iff_lt, hlate, if_false]
  refine ⟨_, rfl, ?_⟩
  simp [replayFlits, portUpd, portOf]

theorem execPortEnable_sets (hv : s.sim.arg.v.getLsbD 60 = true) (h : (atPort s).en = false) :
    execPortEnable s = .next (portUpd s (eventPort s) (fun q => { q with en := true })) := by
  simp [execPortEnable, hv, h]

theorem execPortEnable_leaves (h : s.sim.arg.v.getLsbD 60 = false ∨ (atPort s).en = true) : execPortEnable s = .next s := by
  rcases h with h | h
  · simp only [execPortEnable, h, Bool.false_and, Bool.false_eq_true, if_false]
  · simp [execPortEnable, h]

theorem execPortDisable_clears (hv : s.sim.arg.v.getLsbD 60 = false) (he : (atPort s).en = true) :
    execPortDisable s =
      let t := portUpd s (eventPort s) (fun q => { q with en := false, kept := [] })
      .next (if (atPort s).up || (atPort s).retrain.isSome then linkLost (portDown t (eventPort s)) (eventPort s) none else t) := by
  simp only [execPortDisable, hv, he, Bool.not_true, Bool.or_false, Bool.false_eq_true, if_false]

theorem execPortDisable_untrained (hv : s.sim.arg.v.getLsbD 60 = false) (he : (atPort s).en = true) (hu : (atPort s).up = false)
    (hr : (atPort s).retrain = none) :
    execPortDisable s = .next (portUpd s (eventPort s) (fun q => { q with en := false, kept := [] })) := by
  simp [execPortDisable_clears hv he, hu, hr]

theorem execPortDisable_trained (hv : s.sim.arg.v.getLsbD 60 = false) (he : (atPort s).en = true)
    (h : (atPort s).up = true ∨ (atPort s).retrain ≠ none) :
    execPortDisable s = .next (linkLost
      (portDown (portUpd s (eventPort s) (fun q => { q with en := false, kept := [] })) (eventPort s)) (eventPort s) none) := by
  rw [execPortDisable_clears hv he]
  exact congrArg _ (if_pos (by simpa [Option.isSome_iff_ne_none] using h))

theorem execPortDisable_leaves (h : s.sim.arg.v.getLsbD 60 = true ∨ (atPort s).en = false) : execPortDisable s = .next s := by
  rcases h with h | h <;> simp [execPortDisable, h]

theorem execPortModeSet_sets (he : (atPort s).en = false) (hm : s.sim.arg.v.extractLsb' 61 2 ≠ 3#2) :
    execPortModeSet s = .next (portUpd s (eventPort s) (fun q => { q with mode := s.sim.arg.v.extractLsb' 61 2 })) := by
  simp [execPortModeSet, he, hm]

theorem execPortModeSet_leaves (h : (atPort s).en = true ∨ s.sim.arg.v.extractLsb' 61 2 = 3#2) : execPortModeSet s = .next s := by
  rcases h with h | h <;> simp [execPortModeSet, h]

/-- Where no flit is kept, none goes out again. -/
theorem replayFlits_nil (s : State) (p : Nat) : replayFlits s p [] = s := by
  simp [replayFlits]

theorem execLinkTrained_disabled (h : (atPort s).en = false) : execLinkTrained s = .next s := by
  simp [execLinkTrained, h]

/-- A port that keeps no flit trains with its partner and sends nothing. -/
theorem execLinkTrained_fresh (he : (atPort s).en = true) (hu : (atPort s).up = false) (hr : (atPort s).retrain = none)
    (hn : nodeId s ≠ 0x3FF#10) (hs : s.dev.phase ≠ .safe) (hk : (atPort s).kept = []) :
    ∃ t, execLinkTrained s = .next t ∧ (portOf t (eventPort s)).up = true ∧ (portOf t (eventPort s)).lanes = 4#4 ∧
      (portOf t (eventPort s)).peer = s.sim.arg.node ∧ (portOf t (eventPort s)).rxSeq = 0#32 ∧
      (portOf t (eventPort s)).txSeq = 0#32 ∧ t.sim.out = s.sim.out := by
  refine ⟨portUpd s (eventPort s) (fun q => { q with
    up := true, lanes := 4#4, peerC := 0x3FF#10 - s.sim.arg.node, rxSeq := 0#32, txSeq := 0#32, kept := [], reseq := [] }), ?_, ?_⟩
  · simp [execLinkTrained, he, hu, hr, hn, hs, hk, replayFlits_nil]
  · simp only [portOf_portUpd_same, Port.peer, node_sub_sub, portUpd_sim, and_self]

/-! ### Flits (R420) -/

theorem execFlitReceive_down (h : (atPort s).up = false) : execFlitReceive s = .next s := by
  simp [execFlitReceive, h]

/-- What a flit of mode 0 that acknowledges nothing and asks for no replay does: `hl` chooses the arm of its load. -/
theorem execFlitReceive_flit (hu : (atPort s).up = true) (hm : (atPort s).mode = 0#2) (hp : s.dev.phase = .ready)
    (ha : s.sim.arg.w.getLsbD 32 = false) (hl : ∀ n, s.sim.arg.load ≠ .replay n) :
    execFlitReceive s =
      if !s.sim.arg.flag || s.sim.arg.v.extractLsb' 0 32 != (atPort s).rxSeq then
        .next { histRetry s (eventPort s) with
          sim.out := (histRetry s (eventPort s)).sim.out ++
            [{ port := eventPort s, node := (atPort s).peer, load := .replay (atPort s).rxSeq }] }
      else .next (deliver (portUpd s (eventPort s) (fun q => { q with rxSeq := q.rxSeq + 1#32 })) (eventPort s) s.sim.arg.node
        s.sim.arg.core s.sim.arg.ctx s.sim.arg.words s.sim.arg.load) := by
  unfold execFlitReceive
  simp only [hu, hm, hp, ha, Bool.not_true, bne_self_eq_false, Bool.or_false, Bool.false_eq_true, if_false]

theorem execFlitReceive_inTurn (hu : (atPort s).up = true) (hm : (atPort s).mode = 0#2) (hp : s.dev.phase = .ready)
    (ha : s.sim.arg.w.getLsbD 32 = false) (hl : ∀ n, s.sim.arg.load ≠ .replay n) (hf : s.sim.arg.flag = true)
    (hq : s.sim.arg.v.extractLsb' 0 32 = (atPort s).rxSeq) :
    execFlitReceive s = .next (deliver (portUpd s (eventPort s) (fun q => { q with rxSeq := q.rxSeq + 1#32 })) (eventPort s)
      s.sim.arg.node s.sim.arg.core s.sim.arg.ctx s.sim.arg.words s.sim.arg.load) := by
  rw [execFlitReceive_flit hu hm hp ha hl, if_neg (by simp [hf, hq])]

/-- A flit that fails its CRC or is out of turn is asked for again, and changes no port. -/
theorem execFlitReceive_refused (hu : (atPort s).up = true) (hm : (atPort s).mode = 0#2) (hp : s.dev.phase = .ready)
    (ha : s.sim.arg.w.getLsbD 32 = false) (hl : ∀ n, s.sim.arg.load ≠ .replay n)
    (h : s.sim.arg.flag = false ∨ s.sim.arg.v.extractLsb' 0 32 ≠ (atPort s).rxSeq) :
    ∃ t, execFlitReceive s = .next t ∧ t.lnk = s.lnk ∧ t.sim.agenda = s.sim.agenda ∧
      t.sim.out = s.sim.out ++ [{ port := eventPort s, node := (atPort s).peer, load := .replay (atPort s).rxSeq }] := by
  rw [execFlitReceive_flit hu hm hp ha hl, if_pos (by simpa using h)]
  exact ⟨_, rfl, rfl, rfl, rfl⟩

/-! ### Re-sequencing (R423) -/

/-- The re-sequencing state of the source of the current packet, which has been heard from now. -/
abbrev sourceNow (s : State) : Reseq := { (atPort s).seqOf s.sim.arg.node with seen := s.dev.gtsc }

/-- The current packet, as a queue holds it. -/
abbrev packet (s : State) : Held :=
  { seq := s.sim.arg.v.toNat, node := s.sim.arg.node, core := s.sim.arg.core, ctx := s.sim.arg.ctx, load := s.sim.arg.load }

theorem execReseqPacketArrival_down (h : (atPort s).up = false) : execReseqPacketArrival s = .next s := by
  simp [execReseqPacketArrival, h]

/-- What a packet of a compatibility mode does at a port that is up. -/
theorem execReseqPacketArrival_packet (hu : (atPort s).up = true) (hm : (atPort s).mode = 1#2 ∨ (atPort s).mode = 2#2)
    (hp : s.dev.phase = .ready) :
    execReseqPacketArrival s =
      if (sourceNow s).next + 1024 ≤ s.sim.arg.v.toNat then
        .next (portUpd s (eventPort s) (fun q =>
          { q.setSeq (sourceNow s) with rsqd := if q.rsqd = 0xFFFFFFFF#32 then q.rsqd else q.rsqd + 1#32 }))
      else if decide (s.sim.arg.v.toNat < (sourceNow s).next) || (sourceNow s).held.any (fun h => h.seq == s.sim.arg.v.toNat) then
        .next (portUpd s (eventPort s) (fun q => q.setSeq (sourceNow s)))
      else
        let t := reseqRun 1024 { sourceNow s with held := (sourceNow s).held ++ [packet s] }
        .next (t.1.reverse.foldl (fun s' h => deliver s' (eventPort s) h.node h.core h.ctx [] h.load)
          (portUpd s (eventPort s) (fun q => q.setSeq t.2))) := by
  have hg : (!(atPort s).up || ((atPort s).mode != 1#2 && (atPort s).mode != 2#2) || s.dev.phase != .ready) = false := by
    rcases hm with hm | hm <;> simp [hu, hm, hp]
  unfold execReseqPacketArrival
  simp only [hg, Bool.false_eq_true, if_false]

/-- A 32-bit counter that stops at its highest value. -/
theorem saturating_toNat (n : BitVec 32) :
    (if n = 0xFFFFFFFF#32 then n else n + 1#32).toNat = min 0xFFFFFFFF (n.toNat + 1) := by
  split
  · rename_i h
    rw [h]
    rfl
  · bv_omega

/-- A packet beyond the window is dropped, and RSQD counts it. -/
theorem execReseqPacketArrival_beyond (hu : (atPort s).up = true) (hm : (atPort s).mode = 1#2 ∨ (atPort s).mode = 2#2)
    (hp : s.dev.phase = .ready) (h : (sourceNow s).next + 1024 ≤ s.sim.arg.v.toNat) :
    ∃ t, execReseqPacketArrival s = .next t ∧ t.sim = s.sim ∧
      (portOf t (eventPort s)).rsqd.toNat = min 0xFFFFFFFF ((atPort s).rsqd.toNat + 1) := by
  rw [execReseqPacketArrival_packet hu hm hp, if_pos h]
  refine ⟨_, rfl, rfl, ?_⟩
  rw [portOf_portUpd_same]
  exact saturating_toNat _

theorem execReseqPacketArrival_duplicate (hu : (atPort s).up = true) (hm : (atPort s).mode = 1#2 ∨ (atPort s).mode = 2#2)
    (hp : s.dev.phase = .ready) (h : s.sim.arg.v.toNat < (sourceNow s).next) :
    execReseqPacketArrival s = .next (portUpd s (eventPort s) (fun q => q.setSeq (sourceNow s))) := by
  rw [execReseqPacketArrival_packet hu hm hp, if_neg (by omega), if_pos (by simp [h])]

/-- A queue that holds only the packet next in sequence gives that packet. -/
theorem reseqRun_single (n : Nat) (r : Reseq) (h : Held) (hs : h.seq = r.next) :
    reseqRun (n + 1) { r with held := [h] } = ([h], { r with next := r.next + 1, held := [] }) := by
  have empty : ∀ n (r : Reseq), r.held = [] → reseqRun n r = ([], r) := by
    intro n r hr
    cases n <;> simp [reseqRun, hr]
  simp [reseqRun, hs, empty]

theorem execReseqPacketArrival_inTurn (hu : (atPort s).up = true) (hm : (atPort s).mode = 1#2 ∨ (atPort s).mode = 2#2)
    (hp : s.dev.phase = .ready) (h : s.sim.arg.v.toNat = (sourceNow s).next) (hh : (sourceNow s).held = []) :
    execReseqPacketArrival s = .next (deliver
      (portUpd s (eventPort s) (fun q => q.setSeq { sourceNow s with next := (sourceNow s).next + 1 })) (eventPort s)
      s.sim.arg.node s.sim.arg.core s.sim.arg.ctx [] s.sim.arg.load) := by
  have run : reseqRun 1024 { sourceNow s with held := (sourceNow s).held ++ [packet s] } =
      ([packet s], { sourceNow s with next := (sourceNow s).next + 1 }) := by
    rw [hh, List.nil_append, reseqRun_single 1023 (sourceNow s) (packet s) h, ← hh]
  rw [execReseqPacketArrival_packet hu hm hp, if_neg (by omega), if_neg (by rw [hh, h]; simp), run]
  rfl

theorem execReseqSourceTimeout_lost (h : ((atPort s).seqOf s.sim.arg.node).held ≠ [])
    (hs : 500000 ≤ (s.dev.gtsc - ((atPort s).seqOf s.sim.arg.node).seen).toNat) :
    execReseqSourceTimeout s = .next (linkLost
      (portUpd s (eventPort s) (fun q => q.setSeq { (atPort s).seqOf s.sim.arg.node with held := [] })) (eventPort s)
      (some s.sim.arg.node)) := by
  have hg : (((atPort s).seqOf s.sim.arg.node).held.isEmpty ||
      decide ((s.dev.gtsc - ((atPort s).seqOf s.sim.arg.node).seen).toNat < 500000)) = false := by
    simp only [Bool.or_eq_false_iff, List.isEmpty_eq_false_iff, decide_eq_false_iff_not]
    exact ⟨h, by omega⟩
  simp only [execReseqSourceTimeout, hg, Bool.false_eq_true, if_false]

theorem execReseqSourceTimeout_empty (h : ((atPort s).seqOf s.sim.arg.node).held = []) : execReseqSourceTimeout s = .next s := by
  simp [execReseqSourceTimeout, h]

/-! ### Time (R421, R426) -/

/-- The condition under which a time flit moves the clock. -/
abbrev Slews (s : State) : Prop :=
  s.dev.phase = .ready ∧ s.dev.isRef = false ∧ s.sim.arg.flag = true ∧ ∃ k, k < 24 ∧ (portOf s k).up = true

theorem execTimeSyncTick_slews (h : Slews s) : execTimeSyncTick s = .next { s with dev.gtsc := s.dev.gtsc + 1#64 } := by
  obtain ⟨hp, hr, hf, hk⟩ := h
  simp [execTimeSyncTick, hp, hr, hf, hk]

theorem execTimeSyncTick_leaves (h : ¬Slews s) : execTimeSyncTick s = .next s := by
  unfold execTimeSyncTick
  rw [if_neg]
  simpa [Slews, and_assoc] using h

/-- The condition under which start-up aligns the clock. -/
abbrev AlignDue (s : State) : Prop := s.dev.phase = .off ∧ s.dev.aligned = false ∧ nodeId s ≠ 0x3FF#10

theorem execGtscAlign_due (h : AlignDue s) :
    execGtscAlign s = .next { s with
      dev.gtsc := if s.dev.isRef then s.dev.gtsc else s.sim.arg.v, dev.aligned := true, dev.phase := .ready } := by
  obtain ⟨hp, ha, hn⟩ := h
  simp [execGtscAlign, hp, ha, hn]

theorem execGtscAlign_leaves (h : ¬AlignDue s) : execGtscAlign s = .next s := by
  unfold execGtscAlign
  rw [if_pos]
  simp only [AlignDue, not_and_or, ne_eq, not_not, Bool.not_eq_false] at h
  simpa [or_assoc] using h

/-! ### Firmware (R427) -/

/-- The image that the current event offers. -/
abbrev offered (s : State) : Firmware :=
  { version := s.sim.arg.v.extractLsb' 0 32, digest := digestOf s.sim.arg.data, signed := s.sim.arg.flag }

theorem imageBad_eq_none (s : State) (k : Nat) (f : Firmware) :
    imageBad s k f = none ↔ f.signed = true ∧ (s.dev.minVer.at k).toNat ≤ f.version.toNat := by
  cases hf : f.signed <;> simp [imageBad, hf]

/-- Does the offered image verify, at a version that the fuses allow? -/
abbrev OfferGood (s : State) : Prop :=
  s.sim.arg.flag = true ∧ (s.dev.minVer.at s.sim.arg.unit.toNat).toNat ≤ (s.sim.arg.v.extractLsb' 0 32).toNat

theorem execFirmwareInstall_refused (h : ¬OfferGood s) : execFirmwareInstall s = .next s := by
  have bad : imageBad s s.sim.arg.unit.toNat (offered s) ≠ none := fun e => h ((imageBad_eq_none ..).1 e)
  unfold execFirmwareInstall
  exact congrArg _ (if_pos (Option.isSome_iff_ne_none.2 bad))

/-- A good image is installed, and the fused minimum becomes its version. -/
theorem execFirmwareInstall_good (h : OfferGood s) :
    ∃ t, execFirmwareInstall s = .next t ∧ t.dev.images.at s.sim.arg.unit.toNat = offered s ∧
      t.dev.minVer.at s.sim.arg.unit.toNat = (offered s).version ∧ t.mem = s.mem := by
  have good : imageBad s s.sim.arg.unit.toNat (offered s) = none := (imageBad_eq_none ..).2 h
  have hle := h.2
  unfold execFirmwareInstall
  simp only [good, Option.isSome_none, Bool.false_eq_true, if_false]
  refine ⟨_, rfl, SMap.at_set_same .., ?_, rfl⟩
  dsimp only
  split
  · exact SMap.at_set_same ..
  · exact BitVec.eq_of_toNat_eq (by omega)

/-! ### SAFE state, sensors and cooling (R428–R432) -/

theorem enterSafe_phase (s : State) (step code die : Nat) (unit : BitVec 40) (det : List Word) :
    (enterSafe s step code die unit det).dev.phase = .safe := rfl

theorem enterSafe_mem (s : State) (step code die : Nat) (unit : BitVec 40) (det : List Word) :
    (enterSafe s step code die unit det).mem = s.mem := rfl

theorem enterSafe_diags_length (s : State) (step code die : Nat) (unit : BitVec 40) (det : List Word) :
    (enterSafe s step code die unit det).dev.diags.length = s.dev.diags.length + 1 := by
  simp [enterSafe]

/-- In SAFE state every port is down. -/
theorem enterSafe_ports_down (s : State) (step code die : Nat) (unit : BitVec 40) (det : List Word) :
    ∀ e ∈ (enterSafe s step code die unit det).lnk.ports, e.2.up = false := by
  intro e he
  obtain ⟨x, _, rfl⟩ := List.mem_map.1 he
  rfl

/-- A sample below 115 °C, or of a stack, changes what the sensors hold alone. -/
theorem sample_cold (s : State) (k : Nat) {t : BitVec 16} (step : Option Nat) (h : t.toInt < hotLimit) :
    ∃ w b, sample s k t step = { s with dev.talw := w, dev.hbm := b } := by
  unfold sample
  split
  · rw [if_neg (by simp [h])]
    exact ⟨_, _, rfl⟩
  · exact ⟨_, _, rfl⟩

theorem execSensorSample_junction (h : s.sim.arg.flag = false) :
    execSensorSample s = .next (sample s s.sim.arg.core.toNat (s.sim.arg.v.extractLsb' 0 16) none) := by
  simp [execSensorSample, h]

/-- A junction below 115 °C writes its TALW. -/
theorem sample_junction_cold (s : State) {k : Nat} {t : BitVec 16} (step : Option Nat) (hk : k < 256) (h : t.toInt < 460) :
    sample s k t step = { s with dev.talw := s.dev.talw.set k (talwOf t.toInt) } := by
  have cold : (decide (hotLimit ≤ t.toInt) && s.dev.phase != .safe) = false := by
    rw [decide_eq_false (by unfold hotLimit; omega), Bool.false_and]
  simp only [sample, hk, if_true, cold, Bool.false_eq_true, if_false]

/-- A junction of 115 °C or more enters SAFE state. -/
theorem sample_junction_hot (s : State) {k : Nat} {t : BitVec 16} (hk : k < 256) (h : 460 ≤ t.toInt) (hs : s.dev.phase ≠ .safe) :
    ∃ u step det, u.mem = s.mem ∧ u.dev.diags = s.dev.diags ∧
      sample s k t none = enterSafe u step 7 (k / 64) (BitVec.ofNat 40 (k % 64)) det := by
  have hh : (decide (hotLimit ≤ t.toInt) && s.dev.phase != .safe) = true := by simp [hotLimit, h, hs]
  simp only [sample, hk, if_true, hh]
  refine ⟨(freeN { s with dev.talw := s.dev.talw.set k (talwOf t.toInt) }).2, _, _, rfl, rfl, rfl⟩

/-- A stack's sensor writes that stack's word. -/
theorem execSensorSample_stack (h : s.sim.arg.flag = true) :
    ∃ t, execSensorSample s = .next t ∧ t.dev.hbm.at (s.sim.arg.unit.toNat % 8) =
      (s.dev.hbm.at (s.sim.arg.unit.toNat % 8)).sample (s.sim.arg.v.extractLsb' 0 16) := by
  refine ⟨{ s with dev.hbm := s.dev.hbm.upd (s.sim.arg.unit.toNat % 8) (·.sample (s.sim.arg.v.extractLsb' 0 16)) },
    ?_, SMap.at_upd_same s.dev.hbm _ (·.sample (s.sim.arg.v.extractLsb' 0 16))⟩
  simp [execSensorSample, sample, h]

/-- The refresh rate of a stack doubles above 85 °C and returns at 83 °C. -/
theorem Stack.sample_dbl (k : Stack) (t : BitVec 16) :
    (340 < t.toInt → (k.sample t).dbl = true) ∧ (t.toInt ≤ 332 → (k.sample t).dbl = false) ∧
      (332 < t.toInt → t.toInt ≤ 340 → (k.sample t).dbl = k.dbl) := by
  refine ⟨fun h => ?_, fun h => ?_, fun h h' => ?_⟩
  · simp [Stack.sample, h]
  · simp [Stack.sample, h, show ¬340 < t.toInt by omega]
  · simp [Stack.sample, show ¬340 < t.toInt by omega, show ¬t.toInt ≤ 332 by omega]

/-- A report stands as it came, and the time since which the flow is low stands exactly while it is low. -/
theorem execCoolantReport_keeps (s : State) :
    ∃ t, execCoolantReport s = .next t ∧ t.dev.cool.inlet = s.sim.arg.v.extractLsb' 0 16 ∧
      t.dev.cool.flow = s.sim.arg.w.extractLsb' 0 16 ∧
      ((s.sim.arg.w.extractLsb' 0 16).toNat < flowMin ↔ t.dev.cool.lowSince ≠ none) := by
  refine ⟨_, rfl, rfl, rfl, ?_⟩
  by_cases low : (s.sim.arg.w.extractLsb' 0 16).toNat < flowMin
  · refine iff_of_true low ?_
    simp only [decide_eq_true low, Bool.not_true, Bool.false_eq_true, if_false]
    cases s.dev.cool.lowSince <;> exact Option.some_ne_none _
  · refine iff_of_false low ?_
    simp only [decide_eq_false low, Bool.not_false, if_true, ne_eq, not_true, not_false_eq_true]

theorem execFlowLoss_early {b : Word} (hb : s.dev.cool.lowSince = some b) (h : (s.dev.gtsc - b).toNat < 10 ^ 9) :
    execFlowLoss s = .next s := by
  simp only [execFlowLoss, hb, h, decide_true, Bool.or_true, if_true]

theorem execFlowLoss_late {b : Word} (hb : s.dev.cool.lowSince = some b) (hs : s.dev.phase ≠ .safe)
    (h : 10 ^ 9 ≤ (s.dev.gtsc - b).toNat) :
    execFlowLoss s = .next (enterSafe (freeN s).2 ((freeN s).1 % 256) 7 0xFF 0#40 []) := by
  have hg : (s.dev.phase == .safe || decide ((s.dev.gtsc - b).toNat < 10 ^ 9)) = false := by
    simp only [Bool.or_eq_false_iff, beq_eq_false_iff_ne, decide_eq_false_iff_not]
    exact ⟨hs, by omega⟩
  simp only [execFlowLoss, hb, hg, Bool.false_eq_true, if_false]

/-! ### Start-up (R426) -/

/-- The module at power-on, before the first step of start-up: what is non-volatile, the clock, and memory as log entry 46 gives it. -/
def powerOnBase (s : State) : State :=
  { State.reset with
    sim := { s.sim with agenda := [], cur := .none }
    dev := { (default : Device) with
      gtsc := s.dev.gtsc, images := s.dev.images, minVer := s.dev.minVer, keyHash := s.dev.keyHash, histNv := s.dev.histNv
      hist := s.dev.histNv }
    mem := if s.dev.phase == .off then s.mem else [] }

theorem powerOnBase_phase (s : State) : (powerOnBase s).dev.phase = .off := rfl

/-- The condition under which start-up runs. -/
abbrev Starts (s : State) : Prop := s.dev.phase = .off ∧ nodeId s = 0x3FF#10 ∨ s.dev.phase = .safe

theorem Starts.guard (h : Starts s) : (s.dev.phase == .ready || (s.dev.phase == .off && nodeId s != 0x3FF#10)) = false := by
  rcases h with ⟨h, hn⟩ | h
  · simp [h, hn]
  · simp [h]

theorem execPowerOn_ready (h : s.dev.phase = .ready) : execPowerOn s = .next s := by
  simp [execPowerOn, h]

/-- Images that verification refuses are found from the images and the fused minima alone. -/
theorem imagesBad_powerOnBase (s : State) :
    imagesBad (powerOnBase s) = imagesBad { State.reset with dev.images := s.dev.images, dev.minVer := s.dev.minVer } := rfl

/-- Start-up with an image that verification refuses ends in SAFE state. -/
theorem execPowerOn_badImage (h : Starts s) (hb : imagesBad (powerOnBase s) ≠ none) :
    ∃ t, execPowerOn s = .next t ∧ t.dev.phase = .safe ∧ t.mem = (powerOnBase s).mem := by
  obtain ⟨⟨k, c, g⟩, e⟩ := Option.ne_none_iff_exists'.1 hb
  refine ⟨enterSafe (powerOnBase s) 1 c 0xFF (BitVec.ofNat 40 k) [g.extractLsb' 0 64, g.extractLsb' 64 64], ?_,
    enterSafe_phase .., enterSafe_mem ..⟩
  unfold powerOnBase at e ⊢
  simp only [execPowerOn, h.guard, Bool.false_eq_true, if_false, e]

/-- First samples that are all below 115 °C change what the sensors hold alone. -/
theorem firstSamples_cold {ws : List Word} (hl : ws.length = 264) (hc : ∀ w ∈ ws, (w.extractLsb' 0 16).toInt < hotLimit) :
    ∀ (n : Nat) (s : State), ∃ w b, firstSamples n ws s = { s with dev.talw := w, dev.hbm := b }
  | 0, s => ⟨_, _, rfl⟩
  | n + 1, s => by
    have hk : 263 - n < ws.length := by omega
    obtain ⟨w, b, e⟩ := sample_cold s (263 - n) (some 2) (hc _ (List.getElem_mem hk))
    obtain ⟨w', b', e'⟩ := firstSamples_cold hl hc n { s with dev.talw := w, dev.hbm := b }
    refine ⟨w', b', ?_⟩
    simp only [firstSamples, hk, if_true, List.getD_eq_getElem _ _ hk, e, e']

/-- Ports that are enabled one after the other are enabled. -/
theorem en_at_enabled (k : Nat) : ∀ (ps : List Nat) (m : SMap Port), k ∈ ps ∨ (m.at k).en = true →
    ((ps.foldl (fun m p => m.upd p (fun q => { q with en := true })) m).at k).en = true
  | [], _, h => h.resolve_left (List.not_mem_nil)
  | p :: ps, m, h => by
    refine en_at_enabled k ps _ ?_
    by_cases hp : k = p
    · exact .inr (by rw [hp, SMap.at_upd_same])
    · rw [SMap.at_upd_other _ _ hp]
      exact h.imp_left (fun hm => (List.mem_cons.1 hm).resolve_left hp)

theorem en_portOf_enabled (s : State) (d : Device) {k : Nat} {ps : List Nat} (h : k ∈ ps) :
    (portOf { s with dev := d, lnk.ports := ps.foldl (fun m p => m.upd p (fun q => { q with en := true })) s.lnk.ports } k).en = true :=
  en_at_enabled k ps s.lnk.ports (.inl h)

/-- A node number other than 0x3FF, written to NODEID, is the module's. -/
theorem nodeidOp_node (s : State) {n : BitVec 10} (h : n ≠ 0x3FF#10) :
    nodeidOp s (n.setWidth 64) = { s with dev.nodeC := 0x3FF#10 - n } := by
  have e : (n.setWidth 64).extractLsb' 0 10 = n := by
    apply BitVec.eq_of_toNat_eq
    simp only [BitVec.extractLsb'_toNat, BitVec.toNat_setWidth, Nat.shiftRight_zero]
    omega
  simp [nodeidOp, e, h]

/-- A list without units retires nothing. -/
theorem retireUnits_nil (s : State) : retireUnits s [] = s := rfl

/-- Start-up whose images, samples, self-test and histograms are good runs through to NODEID and the ports. -/
theorem execPowerOn_through (h : Starts s) (hi : imagesBad (powerOnBase s) = none) {u : State}
    (hu : firstSamples 264 s.sim.arg.words (powerOnBase s) = u) (hp : u.dev.phase = .off)
    (hd : selfTestBad s.sim.arg.data = none) (hn : u.dev.histNv = []) (hg : s.sim.arg.node ≠ 0x3FF#10) :
    ∃ t, execPowerOn s = .next t ∧ t.dev.phase = .off ∧ nodeId t = s.sim.arg.node ∧ t.dev.isRef = s.sim.arg.flag ∧
      (∀ k, k < 24 → (portOf t k).en = true) ∧ t.mem = u.mem := by
  have cold : (u.dev.phase == .safe) = false := by rw [hp]; rfl
  have covered : uncovered [] = none := rfl
  refine ⟨{ u with
    dev.nodeC := 0x3FF#10 - s.sim.arg.node, dev.isRef := s.sim.arg.flag
    lnk.ports := (List.range 24).foldl (fun m p => m.upd p (fun q => { q with en := true })) u.lnk.ports },
    ?_, hp, node_sub_sub _, rfl, fun k hk => en_portOf_enabled u _ (List.mem_range.2 hk), rfl⟩
  unfold powerOnBase at hi hu
  simp only [execPowerOn, h.guard, Bool.false_eq_true, if_false, hi, hu, cold, hd, hn, List.filter_nil, List.map_nil, covered,
    retireUnits_nil, nodeidOp_node u hg]

/-- Start-up without images or saved histograms, with cold samples and no self-test failure, names the node and enables the ports. -/
theorem execPowerOn_good (h : Starts s) (hi : s.dev.images = []) (hn : s.dev.histNv = [])
    (hd : s.sim.arg.data.length < 7) (hl : s.sim.arg.words.length = 264)
    (hc : ∀ w ∈ s.sim.arg.words, (w.extractLsb' 0 16).toInt < hotLimit) (hg : s.sim.arg.node ≠ 0x3FF#10) :
    ∃ t, execPowerOn s = .next t ∧ t.dev.phase = .off ∧ nodeId t = s.sim.arg.node ∧ t.dev.isRef = s.sim.arg.flag ∧
      (∀ k, k < 24 → (portOf t k).en = true) ∧ t.mem = (powerOnBase s).mem := by
  have images : imagesBad (powerOnBase s) = none := by
    rw [imagesBad_powerOnBase]
    simp [imagesBad, hi]
  have noFailure : selfTestBad s.sim.arg.data = none := if_pos hd
  obtain ⟨w, b, e⟩ := firstSamples_cold hl hc 264 (powerOnBase s)
  obtain ⟨t, ht⟩ := execPowerOn_through h images e (powerOnBase_phase s) noFailure hn hg
  exact ⟨t, ht⟩

end Sys2Proof.Machine

namespace Sys2Proof.Proofs.Scope
open Sys2Proof Sys2Proof.Machine

/-- Settles O1: each operation on memory is a put, a sequence of puts, or a filter, and each of them keeps the canonical form. -/
theorem memoryOperationsKeepForm : Obligations.MemoryOperationsKeepForm :=
  ⟨Mem.wf_reset, fun m h => ⟨fun a x => Mem.wf_put m a x h, fun a bs => Mem.wf_putN bs m a h,
    fun bs => Mem.wf_foldl Prod.fst Prod.snd bs m h, fun a n => Mem.wf_clear m a n h⟩⟩

/-- Settles O2, by induction on the bytes written and on the width of the word. -/
theorem memoryReadsWhatWasWritten : Obligations.MemoryReadsWhatWasWritten :=
  fun m a bs => ⟨Mem.getN_putN bs m a, fun b h => Mem.get_putN_outside bs m a b h, leNat_leBytes⟩

/-- Settles O3: after reset every map lists nothing (`SMap.at_nil`), so that each object stands at the default of its structure. -/
theorem resetContexts : Obligations.ResetContexts :=
  ⟨fun _ _ => ⟨rfl, rfl, rfl⟩, fun _ _ => rfl, fun _ => rfl, fun _ => rfl, fun _ => rfl, fun _ => rfl, fun _ => rfl, fun _ => rfl,
    fun _ => rfl, fun _ => rfl, fun _ => rfl, fun _ => ⟨rfl, rfl⟩, fun _ => rfl, fun _ => ⟨rfl, rfl⟩, fun _ => rfl, rfl, rfl⟩

/-- Settles O60, clause by clause from what each step of the ports and the module does. -/
theorem portsAndModule : Obligations.PortsAndModule := by
  intro s g p q gives only
  refine ⟨fun h => ⟨_, execLinkDown_of_up h, portUpd_only s p _⟩, execLinkDown_of_down,
    fun b h => ⟨fun hw => ?window, fun hl => ?lost, execLinkRetrained_late h, execLinkRetrained_inTime h⟩,
    fun h => ⟨execRetrainWindowExpiry_none h, execLinkRetrained_none h⟩,
    fun hv h => ⟨_, execPortEnable_sets hv h, portUpd_only s p _⟩, execPortEnable_leaves,
    fun hv he hu hr => ⟨_, execPortDisable_untrained hv he hu hr, portUpd_only s p _⟩, execPortDisable_trained,
    execPortDisable_leaves, fun he hm => ⟨_, execPortModeSet_sets he hm, portUpd_only s p _⟩, execPortModeSet_leaves,
    execLinkTrained_fresh, execLinkTrained_disabled,
    fun hu hm hp ha hl => ⟨execFlitReceive_inTurn hu hm hp ha hl, execFlitReceive_refused hu hm hp ha hl⟩,
    fun h => ⟨execFlitReceive_down h, execReseqPacketArrival_down h⟩,
    fun hu hm hp => ⟨execReseqPacketArrival_beyond hu hm hp, execReseqPacketArrival_duplicate hu hm hp,
      execReseqPacketArrival_inTurn hu hm hp⟩,
    ⟨execReseqSourceTimeout_lost, execReseqSourceTimeout_empty⟩,
    ⟨execTimeSyncTick_slews, execTimeSyncTick_leaves⟩, ⟨execGtscAlign_due, execGtscAlign_leaves⟩,
    ⟨execFirmwareInstall_refused, execFirmwareInstall_good⟩,
    ⟨_, rfl, _, rfl, rfl, rfl, rfl, rfl⟩, ⟨_, rfl, rfl⟩,
    fun hf => ⟨fun hv => ?cold, fun hv hs => ?hot⟩,
    fun hf => ?stack, execCoolantReport_keeps s,
    fun b hb => ⟨fun hs hl => ⟨_, execFlowLoss_late hb hs hl, enterSafe_phase .., enterSafe_mem ..⟩, execFlowLoss_early hb⟩,
    execPowerOn_ready,
    fun hp hn hb => ?bad, fun hp hb => ?cycle, fun hp hn hi hh hd hg hw => ?good,
    ⟨_, rfl, rfl, rfl, rfl, rfl, rfl, rfl, rfl, rfl, rfl⟩⟩
  case window => exact (execRetrainWindowExpiry_some h).trans (congrArg _ (if_neg (by omega)))
  case lost => exact (execRetrainWindowExpiry_some h).trans (congrArg _ (if_pos hl))
  case cold =>
    refine ⟨_, (execSensorSample_junction hf).trans (congrArg _ (sample_junction_cold s none g.core.isLt hv)), ?_, rfl⟩
    exact (congrArg BitVec.toNat (SMap.at_set_same ..)).trans (BitVec.toNat_ofNat ..)
  case hot =>
    obtain ⟨u, step, det, hm, hd, e⟩ := sample_junction_hot s g.core.isLt hv hs
    refine ⟨_, (execSensorSample_junction hf).trans (congrArg _ e), enterSafe_phase .., (enterSafe_mem ..).trans hm, ?_,
      enterSafe_ports_down u _ _ _ _ _⟩
    rw [enterSafe_diags_length, hd]
  case stack =>
    obtain ⟨t, e, ht⟩ := execSensorSample_stack hf
    refine ⟨t, e, ?_⟩
    rw [ht]
    exact ⟨rfl, Stack.sample_dbl _ _⟩
  case bad =>
    obtain ⟨t, e, ht, hm⟩ := execPowerOn_badImage (.inl ⟨hp, hn⟩) hb
    exact ⟨t, e, ht, hm.trans (if_pos (by rw [hp]; rfl))⟩
  case cycle =>
    obtain ⟨t, e, ht, hm⟩ := execPowerOn_badImage (.inr hp) hb
    exact ⟨t, e, ht, hm.trans (if_neg (by rw [hp]; decide))⟩
  case good =>
    have cold : ∀ w ∈ g.words, (w.extractLsb' 0 16).toInt < hotLimit := by
      rw [hw]
      intro w h
      rw [List.eq_of_mem_replicate h]
      decide
    obtain ⟨t, e, ht, hid, href, hen, hm⟩ := execPowerOn_good (.inl ⟨hp, hn⟩) hi hh hd (by rw [hw, List.length_replicate]) cold hg
    exact ⟨t, e, ht, hid, href, hen 0 (by decide), hen 23 (by decide), hm.trans (if_pos (by rw [hp]; rfl))⟩

end Sys2Proof.Proofs.Scope

/-! ## The statements of the scope: address spaces, accesses, and the steps of the device -/

namespace Sys2Proof.Machine

/-! ### Addresses under ASID 0 (R8, R9, R15, R18, R34) -/

/-- Under ASID 0 an address whose bits [63:52] are zero is its own physical address, of the type that its window requires. -/
theorem translate_identity {s : State} {a : Actor} {va : Word} (acc : Acc) (n : Nat) (h : a.asid = 0#8)
    (hv : va.extractLsb' 52 12 = 0#12) :
    translate s a va acc n =
      ({ st := placeCheck s a (identityMt va.toNat) acc va.toNat n, pa := va.toNat, mt := identityMt va.toNat, level := 0 }, s) := by
  simp [translate, h, hv]

theorem translate_identity_noncanon {s : State} {a : Actor} {va : Word} (acc : Acc) (n : Nat) (h : a.asid = 0#8)
    (hv : va.extractLsb' 52 12 ≠ 0#12) :
    translate s a va acc n = ({ st := .noncanon, pa := 0, mt := .wb, level := 0 }, s) := by
  simp [translate, h, hv]

/-- The windows of the module's own memory: local DRAM, the bank windows and the anvil windows. -/
def ownMemory (pl : Place) : Prop := pl = .dram ∨ (∃ c o, pl = .bank c o) ∨ ∃ c o, pl = .anvil c o

theorem identityMt_ownMemory {pa : Nat} (h : ownMemory (place pa)) : identityMt pa = .wb := by
  rcases h with h | ⟨c, o, h⟩ | ⟨c, o, h⟩ <;> simp [identityMt, h]

theorem placeCheck_ownMemory {s : State} {a : Actor} {acc : Acc} {pa n : Nat} (h : ownMemory (place pa)) (hl : acc ≠ .ldred) :
    placeCheck s a .wb acc pa n = .ok := by
  have hl : (acc == .ldred) = false := by simpa using hl
  have wb : (MType.wb == MType.dev) = false := rfl
  rcases h with h | ⟨c, o, h⟩ | ⟨c, o, h⟩ <;> simp [placeCheck, h, hl, wb]

theorem placeCheck_hole {s : State} {a : Actor} {mt : MType} {acc : Acc} {pa n : Nat} (h : place pa = .hole) :
    placeCheck s a mt acc pa n = .type := by
  simp [placeCheck, h]

/-- A register takes aligned words of 8 bytes, and no atomics. -/
theorem placeCheck_regs {s : State} {a : Actor} {mt : MType} {acc : Acc} {pa n d o : Nat} (h : place pa = .regs d o)
    (bad : n ≠ 8 ∨ pa % 8 ≠ 0 ∨ acc = .atomic) : placeCheck s a mt acc pa n = .type := by
  have shape : (a.asid == 0#8 && n == 8 && pa % 8 == 0 && acc != .atomic) = false := by
    rcases bad with h | h | h <;> simp [h]
  simp only [placeCheck, h, shape]
  simp

end Sys2Proof.Machine

namespace Sys2Proof.Proofs.AddressSpaces
open Sys2Proof Sys2Proof.Machine

/-- Settles O34: under ASID 0 translation is the identity, and what remains is the check of the window (`placeCheck`), window by
window. -/
theorem supervisorAddresses : Obligations.SupervisorAddresses := by
  intro s a va acc n ha
  by_cases hv : va.extractLsb' 52 12 = 0#12
  · rw [translate_identity acc n ha hv]
    refine ⟨rfl, fun h => absurd hv h, fun _ => ⟨rfl, fun hl own => ?_, fun h => placeCheck_hole h,
      fun ⟨d, o, h⟩ bad => placeCheck_regs h bad⟩⟩
    exact ⟨(identityMt_ownMemory own).symm ▸ placeCheck_ownMemory own hl, identityMt_ownMemory own⟩
  · rw [translate_identity_noncanon acc n ha hv]
    exact ⟨rfl, fun _ => rfl, fun h => absurd h hv⟩

end Sys2Proof.Proofs.AddressSpaces

namespace Sys2Proof.Safety
open Sys2Proof Sys2Proof.Machine

/-! ### Accesses that fail a check (R254, R255, R378) -/

section
variable {s u : State} {core x ix l n : Nat} {ts : List (BitVec 9)} {va : Word} {acc : Acc} {e : Flt}

/-- `t` is what a memory token gives where the checks of its access end in a fault: that fault. -/
def FaultsAs (s : State) (core x ix l : Nat) (ts : List (BitVec 9)) (va : Word) (acc : Acc) (n : Nat) (t : State) : Prop :=
  ∀ e u, ctTranslate s core (ctxOf s core x) ix va acc n = (.fault e, u) → t = ctMemFault u core x ix l ts e

/-- Nothing that R255 refuses besides: the status of translation stands. -/
theorem XRes.refuse_none (r : XRes) : r.refuse (fun _ => false) = r := by
  simp [XRes.refuse]

/-- Step 2 of R254: an address that is no multiple of the width. -/
theorem ctTranslate_misaligned (s : State) (core : Nat) (c : Ctx) (ix : Nat) (acc : Acc) (h : va.toNat % n ≠ 0) :
    ctTranslate s core c ix va acc n = (.fault (addrFlt 0x12 ix va), s) := by
  simp [ctTranslate, ctTranslateBut, h]

/-- Step 3 of R254: a status other than OK. -/
theorem ctTranslate_refused {c : Ctx} {r : XRes} (ha : va.toNat % n = 0) (hw : walkWait s (ctxActor core c) va = false)
    (ht : translate s (ctxActor core c) va acc n = (r, u)) (hr : r.st ≠ .ok) :
    ctTranslate s core c ix va acc n = (.fault (xlateFlt r.st.code ix va), u) := by
  simp [ctTranslate, ctTranslateBut, XRes.refuse_none, ha, hw, ht, hr]

/-- An access that fails its alignment traps at the block. -/
theorem FaultsAs.misaligned {t : State} (h : FaultsAs s core x ix l ts va acc n t) (hm : mustCommit s core x = false)
    (ha : va.toNat % n ≠ 0) : t = takeTrap s core x (addrFlt 0x12 ix va) (ctxOf s core x).blk none :=
  (h _ _ (ctTranslate_misaligned s core _ ix acc ha)).trans (memFault_trap hm)

/-- An aligned access that fails translation traps at the block, after the translation. -/
theorem FaultsAs.refused {t : State} {r : XRes} (h : FaultsAs s core x ix l ts va acc n t) (ha : va.toNat % n = 0)
    (hw : walkWait s (ctxActor core (ctxOf s core x)) va = false)
    (ht : translate s (ctxActor core (ctxOf s core x)) va acc n = (r, u)) (hr : r.st ≠ .ok) (hm : mustCommit u core x = false) :
    t = takeTrap u core x (xlateFlt r.st.code ix va) (ctxOf u core x).blk none :=
  (h _ _ (ctTranslate_refused ha hw ht hr)).trans (memFault_trap hm)

end

variable {s : State} {core x ix : Nat} {p : BitVec 2} {l : BitVec 5} {a b va : Word}

theorem Fires.load_faultsAs (h : Fires s core x ix p true false (some a) (some 0#64)) (ht : Turns s core x l.toNat) (t : BitVec 9)
    (n : Nat) (home : Bool) (addr ext : Word → Word) (hv : va = addr a) :
    FaultsAs s core x ix l.toNat [t] va .load n (ctLoad s p l t n home addr ext) := by
  subst hv
  intro e u hc
  rw [ctLoad, h.mem ht]
  simp only [hc, MRes.fault]

theorem Fires.store_faultsAs (h : Fires s core x ix p true true (some a) (some b)) (ht : Turns s core x l.toNat) (n : Nat)
    (rel : Option Nat) (addr : Word → Word) (hv : va = addr a) :
    FaultsAs s core x ix l.toNat [] va .store n (ctStore s p l n rel addr) := by
  subst hv
  intro e u hc
  rw [ctStore, h.mem ht]
  simp only [hc, MRes.fault]

theorem isRetry_false (h : ¬(a.extractLsb' 60 4 = 0xF#4 ∧ a.extractLsb' 24 36 = 0#36)) : isRetry a = false := by
  simpa [isRetry] using h

theorem Fires.atomic_faultsAs (h : Fires s core x ix p true true (some a) (some b)) (ht : Turns s core x l.toNat)
    (hr : ¬(a.extractLsb' 60 4 = 0xF#4 ∧ a.extractLsb' 24 36 = 0#36)) (c : BitVec 3) (t : BitVec 9) {n : Nat} (op : Nat)
    (hn : n = atomicWidth op) : FaultsAs s core x ix l.toNat [t] a .atomic n (ctAtomic s p l c t op) := by
  subst hn
  intro e u hc
  rw [ctAtomic, h.mem ht]
  simp only [isRetry_false hr, Bool.false_eq_true, if_false, hc, MRes.fault]

end Sys2Proof.Safety

namespace Sys2Proof.Proofs.AddressSpaces
open Sys2Proof Sys2Proof.Machine Sys2Proof.Safety

/-- Settles O33: each form is one of the three shared operations on its address and width, each of which takes the fault that the
checks of R254 end in (`FaultsAs`). -/
theorem accessFaults : Obligations.AccessFaults := by
  intro s core x ix p l k m c o t a b i acc n va turn now form
  obtain ⟨u, ts, hu, faults⟩ : ∃ u ts, exec i s = .next u ∧ FaultsAs s core x ix l.toNat ts va acc n u := by
    rcases form with ⟨h, rfl, plain | ⟨rfl, rfl, rfl⟩⟩ | ⟨h, rfl, plain | ⟨rfl, rfl, rfl⟩⟩ | ⟨h, rfl, rfl, hr, four | eight⟩
    · obtain ⟨⟨rfl | rfl, rfl⟩ | ⟨rfl | rfl, rfl⟩ | ⟨rfl, rfl⟩ | ⟨rfl | rfl, rfl⟩, rfl⟩ := plain <;>
        exact ⟨_, _, rfl, h.load_faultsAs turn _ _ _ _ _ rfl⟩
    · exact ⟨_, _, rfl, h.load_faultsAs turn _ _ _ _ _ rfl⟩
    · obtain ⟨⟨rfl, rfl⟩ | ⟨rfl, rfl⟩ | ⟨rfl, rfl⟩ | ⟨rfl, rfl⟩, rfl⟩ := plain <;>
        exact ⟨_, _, rfl, h.store_faultsAs turn _ _ _ rfl⟩
    · exact ⟨_, _, rfl, h.store_faultsAs turn _ _ _ rfl⟩
    · obtain ⟨rfl | rfl, rfl⟩ := four <;> exact ⟨_, _, rfl, h.atomic_faultsAs turn hr _ _ _ rfl⟩
    · obtain ⟨rfl | rfl | rfl | rfl | rfl | rfl | rfl | rfl | rfl | rfl, rfl⟩ := eight <;>
        exact ⟨_, _, rfl, h.atomic_faultsAs turn hr _ _ _ rfl⟩
  rw [hu]
  exact ⟨fun ha => congrArg _ (faults.misaligned now ha),
    fun r s1 ha hw ht hr hm => congrArg _ (faults.refused ha hw ht hr hm)⟩

end Sys2Proof.Proofs.AddressSpaces

namespace Sys2Proof.Safety
open Sys2Proof Sys2Proof.Machine

/-! ### System forms (R13, R277, R278, R313, R314) -/

/-- The fields of CTXID fix it: GEN, TEN and ASID, and zeros (R13). -/
theorem ctxid_of_fields {c : Ctx} {v : Word} (ha : v.extractLsb' 0 8 = c.asid) (ht : v.extractLsb' 8 6 = c.ten)
    (h0 : v.extractLsb' 14 2 = 0#2) (hg : v.extractLsb' 16 16 = c.gen) (hz : v.extractLsb' 32 32 = 0#32) : v = c.ctxid := by
  have ha := congrArg BitVec.toNat ha
  have ht := congrArg BitVec.toNat ht
  have h0 := congrArg BitVec.toNat h0
  have hg := congrArg BitVec.toNat hg
  have hz := congrArg BitVec.toNat hz
  simp only [BitVec.extractLsb'_toNat, Nat.shiftRight_eq_div_pow, BitVec.toNat_ofNat] at ha ht h0 hg hz
  apply BitVec.eq_of_toNat_eq
  rw [Ctx.ctxid, BitVec.toNat_ofNat, ← ha, ← ht, ← hg]
  omega

variable {s : State} {core x ix : Nat} {p : BitVec 2} {a : Word}

/-- A privileged form that is no command, in a context of ASID 0. -/
theorem Fires.priv {left right : Bool} {ts : List (BitVec 9)} {b : Word} (h : Fires s core x ix p left right (some a) (some b))
    (ha : (ctxOf s core x).asid = 0#8) (k : Nat → Nat → Nat → Word → Word → State) : ctPriv s p left right ts k = k core x ix a b := by
  simp [ctPriv, h.form, ha]

theorem Fires.rdsr (h : Fires s core x ix p false false (some 0#64) (some 0#64)) (t : BitVec 9) (n : BitVec 8) :
    exec (.rdsr p t n) s = token s core x ix [t] (some (sysRead s core x n.toNat)) :=
  congrArg Host.Outcome.next (h.form _)

/-- sev: BADARG, NOCTX, or the event at the commit (R278). -/
theorem Fires.sev (h : Fires s core x ix p true false (some a) (some 0#64)) (t u : BitVec 9) :
    exec (.sev p t u) s =
      if a.extractLsb' 11 53 ≠ 0#53 then token s core x ix [t, u] (some 2#64)
      else if (ctxOf s (a.extractLsb' 0 8).toNat (a.extractLsb' 8 3).toNat).st = .free ∨
          (ctxOf s (a.extractLsb' 0 8).toNat (a.extractLsb' 8 3).toNat).ten ≠ (ctxOf s core x).ten then
        token s core x ix [t, u] (some 1#64)
      else token (atCommit s core x ix (.sev (a.extractLsb' 0 8).toNat (a.extractLsb' 8 3).toNat)) core x ix [t, u] (some 0#64) := by
  simp only [exec, execSev, h.form, bne_iff_ne, Bool.or_eq_true, beq_iff_eq, token]
  split
  · rfl
  · split <;> rfl

end Sys2Proof.Safety

namespace Sys2Proof.Proofs.AddressSpaces
open Sys2Proof Sys2Proof.Machine Sys2Proof.Safety

/-- Settles O40: each form runs its meaning where it fires (`Fires.form`, `Fires.priv`); the values of rdsr come register by
register, and the answers of sev by its two checks. -/
theorem systemForms : Obligations.SystemForms := by
  refine ⟨fun s core x ix p t u h => ?atFiring, fun s core x ix p t u a n h => ?withOperand⟩
  case atFiring =>
    refine ⟨congrArg _ (h.form _), congrArg _ (h.form _), congrArg _ (h.form _), congrArg _ (h.form _), congrArg _ (h.form _),
      fun n v value => ?_⟩
    suffices e : sysRead s core x n.toNat = v by rw [h.rdsr, e]
    rcases value with ⟨rfl, rfl⟩ | ⟨rfl, ha, ht, h0, hg, hz⟩ | ⟨rfl, rfl⟩ | ⟨rfl, rfl⟩ | ⟨rfl, rfl⟩ | ⟨rfl, rfl⟩ | ⟨rfl, rfl⟩ |
      ⟨rfl, rfl⟩ | ⟨rfl, rfl⟩
    case inr.inl => exact (ctxid_of_fields ha ht h0 hg hz).symm
    all_goals rfl
  case withOperand =>
    refine ⟨congrArg _ (h.form _), congrArg _ (h.form _), congrArg _ (h.form _),
      fun ha => ⟨congrArg _ (h.priv ha _), congrArg _ (h.priv ha _)⟩, fun hb => ?_, fun hb hc => ?_, fun hb hf ht => ?_⟩
    · rw [h.sev, if_pos hb]
    · rw [h.sev, if_neg (not_not.2 hb), if_pos hc]
    · rw [h.sev, if_neg (not_not.2 hb), if_neg (not_or.2 ⟨hf, not_not.2 ht⟩)]

end Sys2Proof.Proofs.AddressSpaces

namespace Sys2Proof

/-- A map of whose entries each value changes in one way reads as that change, where it keeps the value of an entry that is not listed. -/
theorem SMap.at_mapValues {α β : Type} [Inhabited α] [Inhabited β] (f : α → β) (h : f default = default) (m : SMap α) (k : Nat) :
    SMap.at (m.map (fun e => (e.1, f e.2))) k = f (m.at k) := by
  induction m with
  | nil => exact h.symm
  | cons e m ih =>
    obtain ⟨j, v⟩ := e
    simp only [SMap.at, SMap.getD, List.map_cons] at ih ⊢
    split
    · rfl
    · exact ih

end Sys2Proof

namespace Sys2Proof.Safety
open Sys2Proof Sys2Proof.Machine

/-! ### The state of one context -/

theorem ctxOf_ctxUpd_same (s : State) (core x : Nat) (f : Ctx → Ctx) : ctxOf (ctxUpd s core x f) core x = f (ctxOf s core x) :=
  SMap.at_upd_same s.ctl.ctxs (ctxKey core x) f

theorem ctxUpd_other (s : State) {core x k : Nat} (f : Ctx → Ctx) (h : k ≠ ctxKey core x) :
    (ctxUpd s core x f).ctl.ctxs.at k = s.ctl.ctxs.at k :=
  SMap.at_upd_other s.ctl.ctxs f h

/-! ### System commands (R29, R33, R314, R394) -/

section
variable {s : State} {core x ix : Nat} {p : BitVec 2} {l r : Word}

/-- A command of ASID 0 whose turn has come. -/
theorem Fires.privCommand {left right : Bool} {ts : List (BitVec 9)} (h : Fires s core x ix p left right (some l) (some r))
    (c : Commands s core x ix) (ha : (ctxOf s core x).asid = 0#8) (k : Nat → Nat → Nat → Word → Word → State) :
    ctCommand s p left right true ts k = k core x ix l r :=
  h.command c (fun _ => ha) k

theorem Fires.setctx (h : Fires s core x ix p true true (some l) (some r)) (c : Commands s core x ix)
    (ha : (ctxOf s core x).asid = 0#8) (t u : BitVec 9) :
    exec (.setctx p t u) s =
      if l.extractLsb' 11 53 ≠ 0#53 then performs s core x ix [t, u] none
      else if (ctxOf s core (l.extractLsb' 8 3).toNat).st ≠ .free then performs s core x ix [t, u] (some 1#64)
      else if l.extractLsb' 0 8 = 0#8 ∨ (s.xl.asids.at (l.extractLsb' 0 8).toNat).v = false then
        performs s core x ix [t, u] (some 2#64)
      else performs (ctxSet s core (l.extractLsb' 8 3).toNat (l.extractLsb' 0 8) r) core x ix [t, u] (some 0#64) := by
  simp only [exec, execSetctx, h.privCommand c ha, bne_iff_ne, Bool.or_eq_true, decide_eq_true_eq, Bool.not_eq_true', performs]
  split
  · rfl
  · split
    · rfl
    · split <;> rfl

/-- The context that setctx starts, and what it leaves (R314). -/
theorem ctxOf_ctxSet (s : State) (core y : Nat) (asid : BitVec 8) (r : Word) :
    ctxOf (ctxSet s core y asid r) core y = { ctxOf s core y with
      st := .ready, gen := (s.xl.asids.at asid.toNat).gen, ten := (s.xl.asids.at asid.toNat).ten, asid := asid, h := []
      modef := 0#6, link := [], evf := false, blk := r.setWidth 55, blkHi := r.extractLsb' 55 9, exitIx := 0, depth := 0
      rcba := 0#55, rid := 0, wcode := 0, widx := 0, resume := none, since := (stamp s).1 } := by
  rw [ctxSet, ctxOf_ctxUpd_same]
  rfl

theorem ctxSet_other (s : State) {core y k : Nat} (asid : BitVec 8) (r : Word) (h : k ≠ ctxKey core y) :
    (ctxSet s core y asid r).ctl.ctxs.at k = s.ctl.ctxs.at k := by
  rw [ctxSet, ctxUpd_other _ _ h, stamp_ctl]

/-- Invalidating the whole of translation empties the translation cache of every core. -/
theorem invalidate_all_tlbs (s : State) (k : Nat) : (invalidate s .all).xl.tlbs.at k = [] := by
  refine (SMap.at_mapValues (fun ls : List Tlb => ls.filter (fun l => !InvKind.all.hits s l)) rfl s.xl.tlbs k).trans ?_
  simp [InvKind.hits]

theorem ctxOf_ctHold_st (s : State) (core x wcode widx : Nat) : (ctxOf (ctHold s core x wcode widx) core x).st = .held := by
  rw [ctHold, ctxOf_ctxUpd_same]

theorem ctHold_xl (s : State) (core x wcode widx : Nat) : (ctHold s core x wcode widx).xl = s.xl := by
  unfold ctHold
  split <;> rfl

theorem Fires.invalAll (h : Fires s core x ix p true true (some 3#64) (some 0#64)) (c : Commands s core x ix)
    (ha : (ctxOf s core x).asid = 0#8) (t u : BitVec 9) :
    exec (.inval p t u) s = .next
      (pushEv (pendIssue (setIrrev (invalidate s .all) core x) core x ix .inval 0 0 3#64 0#64 0#64) .invalidationComplete
        { (default : EvArg) with core := BitVec.ofNat 8 core, ctx := BitVec.ofNat 3 x }) := by
  simp only [exec, execInval, h.privCommand c ha]
  rfl

theorem Fires.dsnap (h : Fires s core x ix p true true (some l) (some r)) (c : Commands s core x ix)
    (ha : (ctxOf s core x).asid = 0#8) (t u : BitVec 9) :
    exec (.dsnap p t u) s =
      if l.extractLsb' 6 58 ≠ 0#58 ∨ (s.xl.dirty.at l.toNat).on = false ∨ (s.xl.dirty.at l.toNat).npg.toNat ≤ r.toNat * 64 then
        performs s core x ix [t, u] none
      else if farOut s (fun b => (s.xl.asids.at b.toNat).ten == l.setWidth 6) = true then .next (ctHold s core x 0 0)
      else performs (dirtySnap s l.toNat r.toNat).2 core x ix [t, u] (some (dirtySnap s l.toNat r.toNat).1) := by
  simp only [exec, execDsnap, h.privCommand c ha, bne_iff_ne, Bool.or_eq_true, decide_eq_true_eq, Bool.not_eq_true', performs, or_assoc]
  split
  · rfl
  · split <;> rfl

theorem Fires.kill (h : Fires s core x ix p true false (some l) (some 0#64)) (c : Commands s core x ix)
    (ha : (ctxOf s core x).asid = 0#8) (hl : l.toNat < 256) (t u : BitVec 9) :
    exec (.kill p t u) s =
      if l = 0#64 ∨ (s.xl.asids.at l.toNat).v = false then performs s core x ix [t, u] (some 1#64)
      else .next (pushEv (pendIssue (setIrrev (killBegin s (l.setWidth 8)) core x) core x ix .kill 0 0 l 0#64 0#64)
        .killDrainComplete { (default : EvArg) with core := BitVec.ofNat 8 core, ctx := BitVec.ofNat 3 x }) := by
  have hz : l.extractLsb' 8 56 = 0#56 := by
    apply BitVec.eq_of_toNat_eq
    rw [BitVec.extractLsb'_toNat, Nat.shiftRight_eq_div_pow, Nat.div_eq_of_lt hl]
    rfl
  simp only [exec, execKill, h.privCommand c ha, hz, bne_self_eq_false, Bool.false_eq_true, if_false, Bool.or_eq_true,
    decide_eq_true_eq, Bool.not_eq_true', performs]
  split <;> rfl

end

end Sys2Proof.Safety

namespace Sys2Proof.Proofs.AddressSpaces
open Sys2Proof Sys2Proof.Machine Sys2Proof.Safety

/-- Settles O42: each command's answer by its checks in their order (log entry 23), and what setctx and inval change. -/
theorem systemCommands : Obligations.SystemCommands := by
  intro s core x ix p t u l r ha c
  refine ⟨fun h => ⟨?setctx, ?inval, ?dsnap, fun none => ?noWord⟩, fun h hl => ⟨fun bad => ?badAsid, fun h0 hv => ?kill⟩⟩
  case setctx =>
    intro y d
    rw [h.setctx c ha]
    refine ⟨fun hb => if_pos hb, fun hb hf => ?_, fun hb hf hd => ?_, fun hb hf h0 hv => ?_⟩
    · rw [if_neg (not_not.2 hb), if_pos hf]
    · rw [if_neg (not_not.2 hb), if_neg (not_not.2 hf), if_pos hd]
    · rw [if_neg (not_not.2 hb), if_neg (not_not.2 hf), if_neg (not_or.2 ⟨h0, Bool.not_eq_false _ ▸ hv⟩)]
      refine ⟨_, rfl, ?_, fun k hk => ctxSet_other _ _ _ hk, rfl⟩
      rw [ctxOf_ctxSet]
      exact ⟨rfl, rfl, rfl, rfl, rfl, rfl, rfl, rfl, rfl, rfl⟩
  case inval =>
    rintro rfl rfl
    refine ⟨_, h.invalAll c ha t u, ctxOf_ctHold_st _ core x 0 0, fun k => ?_⟩
    rw [pushEv_xl, pendIssue, ctHold_xl]
    exact invalidate_all_tlbs s k
  case dsnap =>
    intro hb hon hr out
    rw [h.dsnap c ha, if_neg (by simp [hb, hon, hr])]
    exact ⟨fun far => if_pos far, fun near => if_neg (by rw [show farOut s _ = false from near]; simp)⟩
  case noWord => rw [h.dsnap c ha, if_pos none]
  case badAsid => rw [h.kill c ha hl, if_pos bad]
  case kill => rw [h.kill c ha hl, if_neg (by simp [h0, hv])]

end Sys2Proof.Proofs.AddressSpaces

namespace Sys2Proof.Machine

/-! ### Repeated changes of the state, and the writes that wait (R36, R153) -/

/-- What each of a row of changes leaves, the row leaves. -/
theorem foldl_keeps {σ α β : Type} (g : σ → β) (f : σ → α → σ) (h : ∀ s x, g (f s x) = g s) :
    ∀ (l : List α) (s : σ), g (l.foldl f s) = g s
  | [], _ => rfl
  | x :: l, s => (foldl_keeps g f h l (f s x)).trans (h s x)

/-- Flushing the units of a node queues stores at bank ports, and leaves translation. -/
theorem nodeFlush_xl (s : State) (core node : Nat) (p : CoalUnit → Bool) : (nodeFlush s core node p).xl = s.xl :=
  foldl_keeps State.xl (fun s u => unitFlush s core u) (fun _ _ => rfl) _ _

theorem portDrain_xl (s : State) (core bank : Nat) : (portDrain s core bank).xl = s.xl := by
  rw [(Safety.portDrain_side s core bank).rest]

theorem drainWrites_xl (s : State) : (drainWrites s).xl = s.xl := by
  rw [drainWrites, foldl_keeps State.xl _ fun s k => portDrain_xl s _ _]
  exact foldl_keeps State.xl _ (fun s k => nodeFlush_xl s _ _ _) _ s

/-! ### Address-space descriptors (R10, R11) -/

/-- A descriptor write that sets V: GEN increments, ROOT and TEN are taken, and the descriptor stands so. -/
theorem asidWrite_sets {s : State} {i : Nat} {w : Word} (hv : (s.xl.asids.at i).v = false) (hw : w.getLsbD 0 = true) :
    (asidWrite s i w).mem = s.mem ∧ (asidWrite s i w).xl.asids.at i =
      { root := w.extractLsb' 16 36, ten := w.extractLsb' 2 6, v := true, gen := (s.xl.asids.at i).gen + 1#16, clearing := false
        since := (s.xl.asids.at i).since } := by
  simp only [asidWrite, hv, hw, Bool.false_eq_true, if_false, if_true]
  split
  · exact ⟨rfl, SMap.at_set_same ..⟩
  · exact ⟨rfl, SMap.at_set_same ..⟩

/-- A descriptor write that clears V leaves ROOT, TEN and GEN, and waits for the accesses translated before it. -/
theorem asidWrite_clears {s : State} {i : Nat} {w : Word} (hv : (s.xl.asids.at i).v = true) (hw : w.getLsbD 0 = false) :
    (asidWrite s i w).xl.asids.at i = { s.xl.asids.at i with v := false, clearing := true, since := s.dev.gtsc } ∧
      (asidWrite s i w).mem = s.mem := by
  simp only [asidWrite, hv, hw, Bool.false_eq_true, if_false, if_true]
  exact ⟨SMap.at_set_same .., rfl⟩

variable {s : State}

/-- The descriptor that the current event names. -/
abbrev eventAsid (s : State) : AsidDesc := s.xl.asids.at s.sim.arg.asid.toNat

theorem execAsidEnable_sets (hv : (eventAsid s).v = false) (hw : s.sim.arg.v.getLsbD 0 = true) :
    execAsidEnable s = .next (asidWrite s s.sim.arg.asid.toNat s.sim.arg.v) := by
  simp only [execAsidEnable, hv, hw, Bool.not_false, Bool.and_self, if_true]

theorem execAsidEnable_leaves (h : (eventAsid s).v = true ∨ s.sim.arg.v.getLsbD 0 = false) : execAsidEnable s = .next s := by
  rcases h with h | h <;>
    simp only [execAsidEnable, h, Bool.not_true, Bool.false_and, Bool.and_false, Bool.false_eq_true, if_false]

theorem execAsidDisable_clears (hv : (eventAsid s).v = true) (hw : s.sim.arg.v.getLsbD 0 = false) :
    execAsidDisable s = .next (asidWrite s s.sim.arg.asid.toNat s.sim.arg.v) := by
  simp only [execAsidDisable, hv, hw, Bool.not_false, Bool.and_self, if_true]

theorem execAsidDisable_leaves (h : (eventAsid s).v = false ∨ s.sim.arg.v.getLsbD 0 = true) : execAsidDisable s = .next s := by
  rcases h with h | h <;>
    simp only [execAsidDisable, h, Bool.not_true, Bool.false_and, Bool.and_false, Bool.false_eq_true, if_false]

/-! ### Quotas (R27, R130, R171, R196) -/

/-- The sum of a quota over the 64 tenants, where tenant `k` has `v`. -/
abbrev tenantTotal (k : Nat) (f : Nat → Nat) (v : Nat) : Nat := ((List.range 64).map (fun i => if i = k then v else f i)).sum

theorem tenantSum_eq_total (f : Nat → Nat) (k v : Nat) : tenantSum f k v = tenantTotal k f v := by
  rw [tenantSum, tenantTotal, List.sum_eq_foldl, List.foldl_map]

/-- A walker quota takes its fields where they stay within the 64 slots of a die, and else sets QERR. -/
theorem walkQuotaWrite_writes (s : State) (k : Nat) (w : Word) :
    ∃ n : WalkQuota, walkQuotaWrite s k w = { s with xl.walkQ := s.xl.walkQ.set k n } ∧
      let mx := (w.extractLsb' 8 7).toNat
      let mn := (w.extractLsb' 0 7).toNat
      let ok := tenantTotal k (fun i => (s.xl.walkQ.at i).min) mn ≤ 64 ∧ mn ≤ mx ∧ 1 ≤ mx ∧ mx ≤ 64
      (ok → n.min = mn ∧ 64 - n.maxC = mx ∧ n.qerr = ((s.xl.walkQ.at k).qerr && !w.getLsbD 16)) ∧
        (¬ok → n = { s.xl.walkQ.at k with qerr := true }) := by
  simp only [walkQuotaWrite, tenantSum_eq_total]
  split
  · rename_i bad
    simp only [Bool.or_eq_true, decide_eq_true_eq] at bad
    exact ⟨_, rfl, fun ok => by omega, fun _ => rfl⟩
  · rename_i good
    simp only [Bool.or_eq_true, decide_eq_true_eq] at good
    exact ⟨_, rfl, fun ok => ⟨rfl, by dsimp only; omega, rfl⟩, fun bad => by omega⟩

/-- A landing quota takes its fields where the reservations stay within 4,096; an SMAX beyond its range takes a free value. -/
theorem landQuotaWrite_writes (s : State) (k : Nat) (w : Word) :
    ∃ (n : LandQuota) (i : Nat), landQuotaWrite s k w = { s with zn.landQ := s.zn.landQ.set k n, sim.freeIdx := i } ∧
      let ok := tenantTotal k (fun i => (s.zn.landQ.at i).rmax) (w.extractLsb' 0 13).toNat ≤ 4096
      (ok → n.rmax = (w.extractLsb' 0 13).toNat ∧ n.qerr = ((s.zn.landQ.at k).qerr && !w.getLsbD 48) ∧
        ((w.extractLsb' 16 13).toNat ≤ 4096 → 4096 - n.smaxC = (w.extractLsb' 16 13).toNat)) ∧
        (¬ok → n = { s.zn.landQ.at k with qerr := true }) := by
  simp only [landQuotaWrite, tenantSum_eq_total]
  split
  · exact ⟨_, s.sim.freeIdx, rfl, fun ok => by omega, fun _ => rfl⟩
  · by_cases free : 4096 < (w.extractLsb' 16 13).toNat
    · simp only [gt_iff_lt, free, if_true]
      exact ⟨_, s.sim.freeIdx + 1, rfl, fun ok => ⟨rfl, rfl, fun h => by omega⟩, fun bad => by omega⟩
    · simp only [gt_iff_lt, free, if_false]
      exact ⟨_, s.sim.freeIdx, rfl, fun ok => ⟨rfl, rfl, fun h => by dsimp only; omega⟩, fun bad => by omega⟩

/-- A replay quota takes RMAX where the sum stays within 4,096. -/
theorem replayQuotaOp_writes (s : State) (k : Nat) (w : Word) :
    ∃ n : ReplayQuota, replayQuotaOp s k w = { s with ctl.replayQ := s.ctl.replayQ.set k n } ∧
      let ok := tenantTotal k (fun i => (s.ctl.replayQ.at i).rmax) (w.extractLsb' 0 13).toNat ≤ 4096
      (ok → n.rmax = (w.extractLsb' 0 13).toNat ∧ n.qerr = ((s.ctl.replayQ.at k).qerr && !w.getLsbD 16)) ∧
        (¬ok → n = { s.ctl.replayQ.at k with qerr := true }) := by
  simp only [replayQuotaOp, tenantSum_eq_total]
  split
  · exact ⟨_, rfl, fun ok => by omega, fun _ => rfl⟩
  · exact ⟨_, rfl, fun ok => ⟨rfl, rfl⟩, fun bad => by omega⟩

/-- A scheduling quota takes its fields where each sum stays within its limit, and LMAX is 0 or at least 8. -/
theorem schedQuotaOp_writes (s : State) (k : Nat) (w : Word) :
    ∃ n : SchedQuota, schedQuotaOp s k w = { s with rg.schedQ := s.rg.schedQ.set k n } ∧
      let aq := (w.extractLsb' 36 12).toNat
      let hm := (w.extractLsb' 16 16).toNat
      let lm := (w.extractLsb' 0 11).toNat
      let ok := tenantTotal k (fun i => (s.rg.schedQ.at i).aqmax) aq ≤ 4096 ∧
        tenantTotal k (fun i => (s.rg.schedQ.at i).hmax) hm ≤ 65536 ∧
        tenantTotal k (fun i => (s.rg.schedQ.at i).lmax) lm ≤ 1024 ∧ (lm = 0 ∨ 8 ≤ lm)
      (ok → n.aqmax = aq ∧ n.hmax = hm ∧ n.lmax = lm ∧ n.qerr = ((s.rg.schedQ.at k).qerr && !w.getLsbD 48)) ∧
        (¬ok → n = { s.rg.schedQ.at k with qerr := true }) := by
  simp only [schedQuotaOp, tenantSum_eq_total]
  split
  · rename_i bad
    simp only [Bool.or_eq_true, Bool.and_eq_true, decide_eq_true_eq] at bad
    exact ⟨_, rfl, fun ok => by omega, fun _ => rfl⟩
  · rename_i good
    simp only [Bool.or_eq_true, Bool.and_eq_true, decide_eq_true_eq] at good
    exact ⟨_, rfl, fun ok => ⟨rfl, rfl, rfl, rfl⟩, fun bad => by omega⟩

/-! ### Dirty tracking (R31, R32) -/

/-- Word 0: BASE is taken, and ON where NPG is in its range; the rest of the descriptor stays. -/
theorem dirtyWrite_word0 (s : State) (k : Nat) (w : Word) :
    let d := s.xl.dirty.at k
    let n := (dirtyWrite s k 0 w).xl.dirty.at k
    n.base = w.extractLsb' 16 36 ∧ n.on = (w.getLsbD 0 && d.npg != 0#27 && decide (d.npg.toNat ≤ 2 ^ 26)) ∧ n.vlo = d.vlo ∧
      n.npg = d.npg := by
  have stands : (dirtyWrite s k 0 w).xl.dirty.at k = { s.xl.dirty.at k with
      base := w.extractLsb' 16 36
      on := w.getLsbD 0 && (s.xl.dirty.at k).npg != 0#27 && decide ((s.xl.dirty.at k).npg.toNat ≤ 2 ^ 26) } := by
    simp only [dirtyWrite]
    split
    · rw [drainWrites_xl]
      exact SMap.at_set_same ..
    · exact SMap.at_set_same ..
  rw [stands]
  exact ⟨rfl, rfl, rfl, rfl⟩

/-! ### NODEID, fault windows and notify pages (R193, R380, R418) -/

theorem nodeidOp_takes (s : State) {w : Word} (h : w.extractLsb' 0 10 ≠ 0x3FF#10) :
    nodeId (nodeidOp s w) = w.extractLsb' 0 10 ∧ (nodeidOp s w).mem = s.mem := by
  unfold nodeidOp
  rw [if_neg h]
  exact ⟨node_sub_sub _, rfl⟩

theorem faultWindowOp_untrapped {core x : Nat} (h : (ctxOf s core x).trapped = false) (n : Nat) (w : Word) :
    faultWindowOp s core x n w = s := by
  simp [faultWindowOp, h]

/-- A write of a fault window changes the trapped context alone, and there the word that it names. -/
theorem faultWindowOp_trapped {core x : Nat} (h : (ctxOf s core x).trapped = true) (n : Nat) (w : Word) :
    (∀ j, j ≠ ctxKey core x → (faultWindowOp s core x n w).ctl.ctxs.at j = s.ctl.ctxs.at j) ∧
      ctxOf (faultWindowOp s core x n w) core x =
        (if n = 0 then { ctxOf s core x with flt0 := w &&& 0xFFFFFFFF00000000#64 }
        else if n = 1 then { ctxOf s core x with
          flt1 := w &&& 0x007FFFFFFFFFFFFF#64, flt0 := (ctxOf s core x).flt0 &&& ~~~(1#64 <<< 37) }
        else if n = 2 then { ctxOf s core x with flt2 := w } else { ctxOf s core x with flt3 := w }) := by
  simp only [faultWindowOp, h, Bool.not_true, Bool.false_eq_true, if_false]
  refine ⟨fun j hj => Safety.ctxUpd_other _ _ hj, ?_⟩
  rw [Safety.ctxOf_ctxUpd_same]
  rcases n with _ | _ | _ | n <;> simp

/-- NCFG: V only for an ASID of the page's tenant and a LOGN of 4 to 16; a V that rises clears HEAD and TAIL. -/
theorem notifyEnableOp_writes (s : State) (die n : Nat) (w : Word) :
    let p := s.rg.notify.at (die * 4096 + n)
    let q := (notifyEnableOp s die n w).rg.notify.at (die * 4096 + n)
    let ok := w.getLsbD 55 = true ∧ (s.xl.asids.at (w.extractLsb' 56 8).toNat).ten = BitVec.ofNat 6 (n / 64) ∧
      4 ≤ (w.extractLsb' 48 5).toNat ∧ (w.extractLsb' 48 5).toNat ≤ 16
    q.asid = w.extractLsb' 56 8 ∧ q.logn = w.extractLsb' 48 5 ∧ (q.v = true ↔ ok) ∧ q.rbase = p.rbase ∧
      (ok → p.v = false → q.head = 0#32 ∧ q.tail = 0#32) ∧ (¬ok ∨ p.v = true → q.head = p.head ∧ q.tail = p.tail) := by
  intro p q ok
  have hok : (w.getLsbD 55 && (s.xl.asids.at (w.extractLsb' 56 8).toNat).ten == BitVec.ofNat 6 (n / 64) &&
      decide (4 ≤ (w.extractLsb' 48 5).toNat) && decide ((w.extractLsb' 48 5).toNat ≤ 16)) = true ↔ ok := by
    simp only [Bool.and_eq_true, beq_iff_eq, decide_eq_true_eq, and_assoc, ok]
  simp only [q, notifyEnableOp, SMap.at_set_same]
  generalize (w.getLsbD 55 && (s.xl.asids.at (w.extractLsb' 56 8).toNat).ten == BitVec.ofNat 6 (n / 64) &&
      decide (4 ≤ (w.extractLsb' 48 5).toNat) && decide ((w.extractLsb' 48 5).toNat ≤ 16)) = v at hok ⊢
  rw [← hok]
  cases v <;> cases hp : p.v <;> simp [p, hp] at hp ⊢

/-! ### The device space (R12, R34, R425) -/

theorem leBytes_length : ∀ n v, (leBytes n v).length = n
  | 0, _ => rfl
  | n + 1, v => congrArg (· + 1) (leBytes_length n (v / 256))

theorem leWord_leBytes (w : Word) : leWord (leBytes 8 w.toNat) = w := by
  rw [leWord, leNat_leBytes]
  apply BitVec.eq_of_toNat_eq
  simpa using w.isLt

/-- A device write under another ASID, or of less than a word, leaves the registers. -/
theorem deviceWrite_regs_refused {pa d o : Nat} {asid : BitVec 8} {bs : List Byte} (hp : place pa = .regs d o)
    (h : asid ≠ 0#8 ∨ bs.length ≠ 8) : deviceWrite s pa asid bs = s := by
  rcases h with h | h <;> simp [deviceWrite, hp, h]

theorem deviceWrite_regs {pa d o : Nat} {bs : List Byte} (hp : place pa = .regs d o) (h : bs.length = 8) :
    deviceWrite s pa 0#8 bs = regWrite s d (o / 8 * 8) (leWord bs) := by
  simp [deviceWrite, hp, h]

end Sys2Proof.Machine

namespace Sys2Proof.Proofs.AddressSpaces
open Sys2Proof Sys2Proof.Machine Sys2Proof.Safety

/-- Settles O58, register by register; what a landing quota takes for an SMAX beyond its range is a free value (log entry 11). -/
theorem registerWrites : Obligations.RegisterWrites := by
  intro s g w k gives sum
  refine ⟨⟨fun hv hw => ⟨_, execAsidEnable_sets hv hw, asidWrite_sets hv hw⟩, fun hv hw => ⟨_, execAsidDisable_clears hv hw, asidWrite_clears hv hw⟩,
      execAsidEnable_leaves, execAsidDisable_leaves⟩,
    ?walker, ?landing, ?replay, ?sched, ⟨fun h => ?base, fun h => ?vlo, fun h => ?npg, fun h => ?none⟩,
    fun h => ⟨_, rfl, nodeidOp_takes s h⟩, fun h => congrArg _ (if_pos h),
    ⟨fun h => congrArg Host.Outcome.next (faultWindowOp_untrapped h _ _), fun h => ⟨_, rfl, faultWindowOp_trapped h _ _⟩⟩,
    ⟨fun h => congrArg _ (if_neg h), fun h => ⟨_, congrArg Host.Outcome.next (if_pos h), notifyEnableOp_writes s _ _ w⟩⟩,
    rfl, fun d o hp => ⟨fun h => ?asid, fun h => ?part, fun h hn => ?word⟩⟩
  case walker =>
    obtain ⟨n, e, hn⟩ := walkQuotaWrite_writes s k w
    refine ⟨_, congrArg Host.Outcome.next e, rfl, fun j hj => SMap.at_set_other _ _ hj, ?_⟩
    rw [SMap.at_set_same]
    exact hn
  case landing =>
    obtain ⟨n, i, e, hn⟩ := landQuotaWrite_writes s k w
    refine ⟨_, congrArg Host.Outcome.next e, rfl, fun j hj => SMap.at_set_other _ _ hj, ?_⟩
    rw [SMap.at_set_same]
    exact hn
  case replay =>
    obtain ⟨n, e, hn⟩ := replayQuotaOp_writes s k w
    refine ⟨_, congrArg Host.Outcome.next e, rfl, fun j hj => SMap.at_set_other _ _ hj, ?_⟩
    rw [SMap.at_set_same]
    exact hn
  case sched =>
    obtain ⟨n, e, hn⟩ := schedQuotaOp_writes s k w
    refine ⟨_, congrArg Host.Outcome.next e, rfl, fun j hj => SMap.at_set_other _ _ hj, ?_⟩
    rw [SMap.at_set_same]
    exact hn
  case base =>
    exact ⟨_, congrArg (fun n => Host.Outcome.next (dirtyWrite s k n w)) h, dirtyWrite_word0 s k w⟩
  case vlo => exact ⟨_, congrArg (fun n => Host.Outcome.next (dirtyWrite s k n w)) h, SMap.at_set_same ..⟩
  case npg => exact ⟨_, congrArg (fun n => Host.Outcome.next (dirtyWrite s k n w)) h, SMap.at_set_same ..⟩
  case none => exact congrArg (fun n => Host.Outcome.next (dirtyWrite s k n w)) h
  case asid => exact congrArg _ (deviceWrite_regs_refused hp (.inl h))
  case part =>
    refine congrArg _ (deviceWrite_regs_refused hp (.inr ?_))
    rw [List.length_take, leBytes_length, Nat.min_eq_left (Nat.le_of_lt h)]
    exact Nat.ne_of_lt h
  case word =>
    have whole : (leBytes 8 g.w.toNat).take g.n = leBytes 8 g.w.toNat := List.take_of_length_le (by rw [leBytes_length]; exact hn)
    show Host.Outcome.next (deviceWrite s g.v.toNat g.asid ((leBytes 8 g.w.toNat).take g.n)) = _
    rw [whole, h, deviceWrite_regs hp (leBytes_length 8 _), leWord_leBytes]

end Sys2Proof.Proofs.AddressSpaces

namespace Sys2Proof.Machine

variable {s : State}

/-! ### Landing zones: reservations, slot writes, notices and time-outs (R127, R131, R133, R136) -/

/-- What the core that a reservation request names decides. -/
abbrev resvDecision (s : State) (rq : ResvReq) : ResvSt × Nat × BitVec 16 × State :=
  resvDecide s ((rq.zh.extractLsb' 8 2).toNat * 64 + (rq.zh.extractLsb' 10 6).toNat) rq

/-- Its answer to the requester. -/
abbrev resvAnswer (s : State) (rq : ResvReq) : Payload :=
  let d := resvDecision s rq
  .resvReply rq.core rq.ctx (resvWord d.1 d.2.2.1 d.2.1) rq.zh rq.ring rq.outPort

theorem execReservationRequest_inside {rq : ResvReq} (h : s.sim.arg.load = .resv rq) (hp : rq.inPort = none) :
    execReservationRequest s =
      .next (pushEv (resvDecision s rq).2.2.2 .reservationReply { (default : EvArg) with load := resvAnswer s rq }) := by
  simp only [execReservationRequest, h, hp]

theorem execReservationRequest_outside {rq : ResvReq} {q : Nat} (h : s.sim.arg.load = .resv rq) (hp : rq.inPort = some q) :
    execReservationRequest s =
      .next (sendOut (resvDecision s rq).2.2.2 { port := q, node := rq.node, load := resvAnswer s rq }) := by
  simp only [execReservationRequest, h, hp]

/-- The reservation entry that an OK reply makes for the core of its requester. -/
def granted (s : State) (c : BitVec 8) (y : BitVec 3) (v zh : Word) (ring : BitVec 6) (port : Option Nat) : State :=
  let e : Resv := {
    zh := zh, slot := v.extractLsb' 42 6, gen := v.extractLsb' 48 16, port := port, ring := ring.toNat
    asid := (ctxOf s c.toNat y.toNat).asid, rid := (ctxOf s c.toNat y.toNat).rid }
  { s with zn.resv := s.zn.resv.upd c.toNat (fun es => es ++ [e]) }

section
variable {c : BitVec 8} {y : BitVec 3} {v zh : Word} {ring : BitVec 6} {port : Option Nat} {w : PendOp}

theorem execReservationReply_refused (h : s.sim.arg.load = .resvReply c y v zh ring port)
    (hw : pendOf s c.toNat y.toNat (· == .zres) = some w) (hv : v.extractLsb' 0 8 ≠ 0#8) :
    execReservationReply s = .next (zresEnd s w v) := by
  simp only [execReservationReply, h, hv, if_false, hw]

theorem execReservationReply_granted (h : s.sim.arg.load = .resvReply c y v zh ring port)
    (hw : pendOf s c.toNat y.toNat (· == .zres) = some w) (hv : v.extractLsb' 0 8 = 0#8) :
    execReservationReply s = .next (zresEnd (granted s c y v zh ring port) w v) := by
  have hw' : pendOf (granted s c y v zh ring port) c.toNat y.toNat (· == .zres) = some w := hw
  simp only [granted] at hw' ⊢
  simp only [execReservationReply, h, hv, if_true, hw']

end

section
variable {w : SlotWrite}

/-- The entry of the tile table behind the slot that a write names takes writes now (R42, R57). -/
abbrev slotOpen (s : State) (w : SlotWrite) : Prop :=
  entryBusy s w.core.toNat (slotTile (zoneOf s w.core.toNat w.zone.toNat) w.slot.toNat) = false

theorem execSlotWriteArrival_refused (h : s.sim.arg.load = .slotWrite w) (hb : slotOpen s w) (ha : slotAdmits s w = false) :
    execSlotWriteArrival s = .next (slotAnswer s w .refused 0 false) := by
  simp only [execSlotWriteArrival, h, show entryBusy _ _ _ = false from hb, ha, Bool.not_false, Bool.false_eq_true, if_false, if_true]

theorem execSlotWriteArrival_performed (h : s.sim.arg.load = .slotWrite w) (hb : slotOpen s w) (ha : slotAdmits s w = true)
    (hw : (slotWrite s w).1 = .ok) :
    execSlotWriteArrival s = .next (slotAnswer (slotWrite s w).2 w .ok w.data.length false) := by
  simp only [execSlotWriteArrival, h, show entryBusy _ _ _ = false from hb, ha, hw, Bool.not_true, Bool.false_eq_true, if_false]

theorem execSlotEndToken_refused (h : s.sim.arg.load = .slotEnd w) (hb : slotOpen s w) (ha : slotAdmits s w = false) :
    execSlotEndToken s = .next (slotAnswer s w .refused 0 true) := by
  simp only [execSlotEndToken, h, show entryBusy _ _ _ = false from hb, ha, Bool.not_false, Bool.false_eq_true, if_false, if_true]

theorem execSlotEndToken_performed (h : s.sim.arg.load = .slotEnd w) (hb : slotOpen s w) (ha : slotAdmits s w = true) :
    execSlotEndToken s = .next (slotAnswer (slotEnd s w).2 w (slotEnd s w).1 0 true) := by
  simp only [execSlotEndToken, h, show entryBusy _ _ _ = false from hb, ha, Bool.not_true, Bool.false_eq_true, if_false]

end

/-- A phase notice is written to its ring for the reservation that it names, which is removed; those of other cores stay. -/
theorem execPhaseNoticeArrival_rings (s : State) :
    let g := s.sim.arg
    ∃ o t, execPhaseNoticeArrival s = .next t ∧
      t = { ringPush s g.core.toNat (g.unit.toNat % 64) o g.v g.w with zn := t.zn } ∧
      (∀ r, o = some r → r ∈ s.zn.resv.at g.core.toNat ∧ r.slot = g.v.extractLsb' 21 6 ∧ r.gen = g.v.extractLsb' 0 16) ∧
      ∀ c, c ≠ g.core.toNat →
        t.zn.resv.at c = (ringPush s g.core.toNat (g.unit.toNat % 64) o g.v g.w).zn.resv.at c := by
  refine ⟨_, _, rfl, rfl, fun r hr => ?_, fun c hc => ?_⟩
  · have named := List.find?_some hr
    simp only [Bool.and_eq_true, beq_iff_eq] at named
    obtain ⟨⟨⟨⟨⟨hslot, hgen⟩, -⟩, -⟩, -⟩, -⟩ := named
    exact ⟨List.mem_of_find?_eq_some hr, hslot, hgen⟩
  · dsimp only
    exact SMap.at_upd_other _ _ hc

/-- The slot that the current event names is FILLING past the time-out of its zone. -/
abbrev SlotLate (s : State) : Prop :=
  let core := s.sim.arg.core.toNat
  let z := s.sim.arg.unit.toNat % 8
  let k := s.sim.arg.sub.toNat % 64
  let d := zoneOf s core z
  d.v = true ∧ k ≤ d.ns1.toNat ∧ (slotEnt s core z k).st = .filling ∧ d.tmo ≠ 0#16 ∧
    d.tmo.toNat * 1000 ≤ (s.dev.gtsc - (blkOf s core z k).since).toNat

theorem execReservationTimeout_eq (s : State) [Decidable (SlotLate s)] :
    execReservationTimeout s = .next (if SlotLate s then
      slotFail s s.sim.arg.core.toNat (s.sim.arg.unit.toNat % 8) (s.sim.arg.sub.toNat % 64) 4 none else s) := by
  simp only [execReservationTimeout, SlotLate, Bool.and_eq_true, beq_iff_eq, bne_iff_ne, decide_eq_true_eq, and_assoc]

/-! ### Inbound requests (R18, R43, R167) -/

section
variable {src : BitVec 10} {addr : BitVec 44} {data : List Byte}

/-- A reply to the requester that the current event names. -/
abbrev inReply (s : State) (src : BitVec 10) (st : Nat) (v : Word) (bs : List Byte) (t : State) : Out :=
  .next (replySend t s.sim.arg.port.toNat src s.sim.arg.core s.sim.arg.ctx st v bs)

theorem execInboundRequest_read {n : Nat} (h : s.sim.arg.load = .inbound src (.read n) addr data) :
    (winFor s src (·.rd) addr.toNat n = none → execInboundRequest s = inReply s src 10 0#64 [] s) ∧
      ∀ w, winFor s src (·.rd) addr.toNat n = some w → inBusy s addr.toNat n = false →
        execInboundRequest s = inReply s src (inRead s w addr.toNat n).1 (leWord ((inRead s w addr.toNat n).2.1.take 8))
          (inRead s w addr.toNat n).2.1 (inRead s w addr.toNat n).2.2 := by
  refine ⟨fun hw => ?_, fun w hw hb => ?_⟩
  · simp only [execInboundRequest, h, hw]
  · simp only [execInboundRequest, h, hw, hb, Bool.false_eq_true, if_false]

theorem execInboundRequest_write (h : s.sim.arg.load = .inbound src .write addr data) :
    (winFor s src (·.w) addr.toNat data.length = none → execInboundRequest s = inReply s src 10 0#64 [] s) ∧
      ∀ w, winFor s src (·.w) addr.toNat data.length = some w → inBusy s addr.toNat data.length = false →
        execInboundRequest s =
          inReply s src (if (inWrite s w addr.toNat data).1 then 0 else 10) 0#64 [] (inWrite s w addr.toNat data).2 := by
  refine ⟨fun hw => ?_, fun w hw hb => ?_⟩
  · simp only [execInboundRequest, h, hw]
  · simp only [execInboundRequest, h, hw, hb, Bool.false_eq_true, if_false]

theorem execInboundRequest_atomic {op : BitVec 5} {n : BitVec 2} (h : s.sim.arg.load = .inbound src (.atomic op n) addr data) :
    (winFor s src (·.a) addr.toNat (atomicWidth op.toNat) = none → execInboundRequest s = inReply s src 10 0#64 [] s) ∧
      ∀ w, winFor s src (·.a) addr.toNat (atomicWidth op.toNat) = some w → inBusy s addr.toNat 8 = false →
        let r := inAtomic s w addr.toNat op.toNat (leWord (data.take 8))
        execInboundRequest s = inReply s src r.1 r.2.1 [] r.2.2 := by
  refine ⟨fun hw => ?_, fun w hw hb => ?_⟩
  · simp only [execInboundRequest, h, hw]
  · simp only [execInboundRequest, h, hw, hb, Bool.false_eq_true, if_false]

end

/-! ### Remote atomics (R169, R171) -/

section
variable {ra : RemoteAtomic}

/-- A reply to the requester of a remote atomic. -/
abbrev atomicReply (s : State) (ra : RemoteAtomic) (st : Nat) (v : Word) (t : State) : Out :=
  .next (replySend t s.sim.arg.port.toNat ra.src ra.score ra.sctx st v [])

/-- The state in which an atomic that came in time is decided: entries of its port that have lived their time are gone. -/
abbrev replayNow (s : State) : State := replayExpire s s.sim.arg.port.toNat

/-- The window that admits it. -/
abbrev atomicWindow (s : State) (ra : RemoteAtomic) : Option InWin :=
  winFor (replayNow s) ra.src (·.a) ra.addr.toNat (atomicWidth ra.op.toNat)

/-- The replay entry of the same source, ASID and tag. -/
abbrev replayFind (s : State) (ra : RemoteAtomic) : Option ReplayEnt :=
  ((replayNow s).ctl.replay.at s.sim.arg.port.toNat).find? (fun e => e.src == ra.src && e.asid == ra.asid && e.tag == ra.tag)

/-- The tenant of the atomic, and the replay entries that it holds at the port. -/
abbrev atomicTen (s : State) (ra : RemoteAtomic) : BitVec 6 := ((replayNow s).xl.asids.at ra.asid.toNat).ten
abbrev replayHeld (s : State) (ra : RemoteAtomic) : Nat :=
  (((replayNow s).ctl.replay.at s.sim.arg.port.toNat).filter
    (fun e => ((replayNow s).xl.asids.at e.asid.toNat).ten == atomicTen s ra)).length

theorem execRemoteAtomicArrival_late (h : s.sim.arg.load = .remoteAtomic ra) (ht : 1000000 ≤ (s.dev.gtsc - ra.time).toNat) :
    execRemoteAtomicArrival s = .next s := by
  simp only [execRemoteAtomicArrival, h, replayLife, ht, if_true]

theorem not_late (ht : (s.dev.gtsc - ra.time).toNat < 1000000) : ¬replayLife ≤ (s.dev.gtsc - ra.time).toNat := Nat.not_le.2 ht

theorem execRemoteAtomicArrival_refused (h : s.sim.arg.load = .remoteAtomic ra) (ht : (s.dev.gtsc - ra.time).toNat < 1000000)
    (hw : atomicWindow s ra = none) : execRemoteAtomicArrival s = atomicReply s ra 10 0#64 (replayNow s) := by
  simp only [execRemoteAtomicArrival, h, not_late ht, if_false, show winFor _ _ _ _ _ = none from hw]

/-- A matching entry answers REPLAYED, and one of the same tag but another request TAGCLASH. -/
theorem execRemoteAtomicArrival_entry {w : InWin} {e : ReplayEnt} (h : s.sim.arg.load = .remoteAtomic ra)
    (ht : (s.dev.gtsc - ra.time).toNat < 1000000) (hw : atomicWindow s ra = some w) (he : replayFind s ra = some e) :
    execRemoteAtomicArrival s = if e.op = ra.op ∧ e.addr = ra.addr ∧ e.v = ra.v then atomicReply s ra 17 e.result (replayNow s)
      else atomicReply s ra 20 0#64 (replayNow s) := by
  simp only [execRemoteAtomicArrival, h, not_late ht, if_false, show winFor _ _ _ _ _ = some w from hw,
    show List.find? _ _ = some e from he, Bool.and_eq_true, beq_iff_eq, and_assoc]

theorem execRemoteAtomicArrival_full {w : InWin} (h : s.sim.arg.load = .remoteAtomic ra)
    (ht : (s.dev.gtsc - ra.time).toNat < 1000000) (hw : atomicWindow s ra = some w) (he : replayFind s ra = none)
    (hq : ((replayNow s).ctl.replayQ.at (atomicTen s ra).toNat).rmax ≤ replayHeld s ra) :
    execRemoteAtomicArrival s = atomicReply s ra 19 0#64 (replayNow s) := by
  simp only [execRemoteAtomicArrival, h, not_late ht, if_false, show winFor _ _ _ _ _ = some w from hw,
    show List.find? _ _ = none from he, if_pos hq]

/-- An atomic that is new, and for which there is room, is performed; only one that succeeds leaves an entry. -/
theorem execRemoteAtomicArrival_new {w : InWin} (h : s.sim.arg.load = .remoteAtomic ra)
    (ht : (s.dev.gtsc - ra.time).toNat < 1000000) (hw : atomicWindow s ra = some w) (he : replayFind s ra = none)
    (hq : replayHeld s ra < ((replayNow s).ctl.replayQ.at (atomicTen s ra).toNat).rmax)
    (hb : inBusy (replayNow s) ra.addr.toNat 8 = false) :
    let r := inAtomic (replayNow s) w ra.addr.toNat ra.op.toNat ra.v
    (r.1 ≠ 0 → execRemoteAtomicArrival s = atomicReply s ra r.1 0#64 r.2.2) ∧
      (r.1 = 0 → ∃ t, execRemoteAtomicArrival s = atomicReply s ra 0 r.2.1 t ∧
        t = { r.2.2 with ctl.replay := t.ctl.replay }) := by
  simp only [execRemoteAtomicArrival, h, not_late ht, if_false, show winFor _ _ _ _ _ = some w from hw,
    show List.find? _ _ = none from he, if_neg (Nat.not_le.2 hq), hb, Bool.false_eq_true, bne_iff_ne]
  refine ⟨fun hr => if_pos hr, fun hr => ?_⟩
  rw [if_neg (not_not.2 hr)]
  exact ⟨_, rfl, rfl⟩

theorem execReplayEntryExpiry_expires (s : State) :
    let p := s.sim.arg.port.toNat
    ∃ t, execReplayEntryExpiry s = .next t ∧ t = { s with ctl.replay := t.ctl.replay } ∧
      t.ctl.replay.at p = (s.ctl.replay.at p).filter (fun e => !e.dead s.dev.gtsc) ∧
      ∀ q, q ≠ p → t.ctl.replay.at q = s.ctl.replay.at q :=
  ⟨_, rfl, rfl, SMap.at_upd_same s.ctl.replay _ _, fun _ hq => SMap.at_upd_other s.ctl.replay _ hq⟩

end

/-! ### Notify pages (R194, R195) -/

theorem execDoorbellWrite_table (s : State) :
    let k := s.sim.arg.die.toNat * 4096 + s.sim.arg.unit.toNat
    let p := s.rg.notify.at k
    let v := s.sim.arg.v.extractLsb' 0 32
    ∃ t, execDoorbellWrite s = .next t ∧ t = { s with rg.notify := t.rg.notify } ∧
      (∀ j, j ≠ k → t.rg.notify.at j = s.rg.notify.at j) ∧
      t.rg.notify.at k =
        (if p.v = false then { p with nst := 1#8 }
         else if v = p.tail then { p with nst := 0#8 }
         else if (v - p.head).toNat < (p.tail - p.head).toNat then { p with nst := 2#8, ovr := true }
         else if 2 ^ p.logn.toNat < (v - p.head).toNat then { p with nst := 3#8, ovr := true }
         else { p with nst := 0#8, tail := v }) := by
  refine ⟨_, rfl, rfl, fun j hj => SMap.at_set_other s.rg.notify _ hj, (SMap.at_set_same s.rg.notify _ _).trans ?_⟩
  simp only [Bool.not_eq_true', gt_iff_lt]

section
variable {k : Nat} {f : Nat → Nat → List Word → State → Option (Nat × Nat) × State}

/-- The page that the current event names, and the record that it admits next. -/
abbrev eventRecordNext (s : State) : Option (Nat × (MemFault ⊕ List Word)) × State :=
  recordNext s s.sim.arg.die.toNat s.sim.arg.unit.toNat

/-- Where nothing waits at the page, no step admits anything. -/
theorem recordAdmit_idle (h : eventRecordNext s = (none, s)) : recordAdmit s k f = s := by
  simp only [recordAdmit, show recordNext _ _ _ = (none, s) from h]

/-- A record that cannot be read is passed by whichever step meets it. -/
theorem recordAdmit_unread {va : Nat} {e : MemFault} {s1 : State} (h : eventRecordNext s = (some (va, .inl e), s1)) :
    recordAdmit s k f = recordSkip s1 s.sim.arg.die.toNat s.sim.arg.unit.toNat := by
  simp only [recordAdmit, show recordNext _ _ _ = (some (va, .inl e), s1) from h]

variable {va : Nat} {ws : List Word} {s1 : State}

theorem recordAdmit_bad (h : eventRecordNext s = (some (va, .inr ws), s1)) (hk : recordKind ws = 0) :
    recordAdmit s k f = recordDone s1 s.sim.arg.die.toNat s.sim.arg.unit.toNat va 1 0 := by
  simp only [recordAdmit, show recordNext _ _ _ = (some (va, .inr ws), s1) from h, hk, if_true]

/-- A record of the step's KIND that can be admitted ends with the status and code that admission gives. -/
theorem recordAdmit_done {st code : Nat} {s2 : State} (h : eventRecordNext s = (some (va, .inr ws), s1)) (hk : recordKind ws = k)
    (h0 : k ≠ 0) (hf : f s.sim.arg.die.toNat s.sim.arg.unit.toNat ws s1 = (some (st, code), s2)) :
    recordAdmit s k f = recordDone s2 s.sim.arg.die.toNat s.sim.arg.unit.toNat va st code := by
  simp only [recordAdmit, show recordNext _ _ _ = (some (va, .inr ws), s1) from h, hk, h0, if_false, bne_self_eq_false,
    Bool.false_eq_true, hf]

/-- The ASID of the page. -/
abbrev eventPageAsid (s : State) : BitVec 8 := (s.rg.notify.at (pageKey s.sim.arg.die.toNat s.sim.arg.unit.toNat)).asid

theorem execAdmitRegion_admits {q : Region} {s2 : State} (h : eventRecordNext s = (some (va, .inr ws), s1)) (hk : recordKind ws = 1)
    (hn : s1.rg.notify = s.rg.notify) (hf : arbFull s1 s.sim.arg.die.toNat (s1.xl.asids.at (eventPageAsid s).toNat).ten = false)
    (hv : (ws.getD 1 0#64).extractLsb' 55 9 = 0#9)
    (hq : rcbResolve s1 (admitActor s1 s.sim.arg.die.toNat (eventPageAsid s)) (ws.getD 1 0#64).toNat s.sim.arg.die.toNat 0 =
      (some q, s2)) :
    execAdmitRegion s = .next (recordDone (regionAdmit s2 q) s.sim.arg.die.toNat s.sim.arg.unit.toNat va 0 0) := by
  refine congrArg _ (recordAdmit_done h hk Nat.one_ne_zero ?_)
  simp only [hn, hv, if_true, admitActor, hf, Bool.false_eq_true, if_false] at hq ⊢
  simp only [hq]

theorem execAdmitTile_admits {t : List Word} {s2 : State} (h : eventRecordNext s = (some (va, .inr ws), s1)) (hk : recordKind ws = 2)
    (hn : s1.rg.notify = s.rg.notify) (hf : arbFull s1 s.sim.arg.die.toNat (s1.xl.asids.at (eventPageAsid s).toNat).ten = false)
    (hv : (ws.getD 1 0#64).toNat % 64 = 0)
    (hq : memWords s1 { admitActor s1 s.sim.arg.die.toNat (eventPageAsid s) with path := .mx } (ws.getD 1 0#64).toNat 8 = (.inr t, s2)) :
    execAdmitTile s = .next (recordDone
      (arbAdd (tileEntry s2 t (eventPageAsid s) 0 0 0).2 s.sim.arg.die.toNat (tileEntry s2 t (eventPageAsid s) 0 0 0).1)
      s.sim.arg.die.toNat s.sim.arg.unit.toNat va 0 0) := by
  refine congrArg _ (recordAdmit_done h hk (by decide) ?_)
  simp only [hn, hv, admitActor, hf, bne_self_eq_false, Bool.false_eq_true, if_false] at hq ⊢
  simp only [hq]

theorem execAdmitHeap_admits (h : eventRecordNext s = (some (va, .inr ws), s1)) (hk : recordKind ws = 3)
    (hn : s1.rg.notify = s.rg.notify) :
    let p := heapPut s1 ((ws.getD 0 0#64).extractLsb' 0 2).toNat (s1.xl.asids.at (eventPageAsid s).toNat).ten (ws.getD 1 0#64)
      (ws.getD 2 0#64)
    execAdmitHeap s = .next (recordDone p.2 s.sim.arg.die.toNat s.sim.arg.unit.toNat va (if p.1 then 0 else 3) 0) := by
  refine congrArg _ (recordAdmit_done h hk (by decide) ?_)
  rw [hn]

/-- An EVENT record sets the flag of a context of its own tenant, and of no other. -/
theorem execAdmitEvent_admits (h : eventRecordNext s = (some (va, .inr ws), s1)) (hk : recordKind ws = 4)
    (hn : s1.rg.notify = s.rg.notify) :
    let c := ((ws.getD 0 0#64).extractLsb' 0 8).toNat
    let y := ((ws.getD 0 0#64).extractLsb' 8 3).toNat
    let own := (ctxOf s1 c y).st ≠ .free ∧ (ctxOf s1 c y).ten = (s1.xl.asids.at (eventPageAsid s).toNat).ten
    (own → execAdmitEvent s = .next (recordDone (eventTo s1 c y) s.sim.arg.die.toNat s.sim.arg.unit.toNat va 0 0)) ∧
      (¬own → execAdmitEvent s = .next (recordDone s1 s.sim.arg.die.toNat s.sim.arg.unit.toNat va 0 0)) := by
  intro c y own
  have passes : ((ctxOf s1 c y).st != .free && (ctxOf s1 c y).ten == (s1.xl.asids.at (eventPageAsid s).toNat).ten) = true ↔ own := by
    simp only [Bool.and_eq_true, bne_iff_ne, beq_iff_eq, own]
  refine ⟨fun ho => congrArg _ (recordAdmit_done h hk (by decide) ?_), fun ho => congrArg _ (recordAdmit_done h hk (by decide) ?_)⟩
  · rw [hn]
    exact congrArg (some (0, 0), ·) (if_pos (passes.2 ho))
  · rw [hn]
    exact congrArg (some (0, 0), ·) (if_neg (mt passes.1 ho))

end

/-! ### The ends of a kill, an invalidation and the clear of V (R11, R29, R394) -/

theorem execKillDrainComplete_some {w : PendOp} (h : pendOf s s.sim.arg.core.toNat s.sim.arg.ctx.toNat (· == .kill) = some w) :
    execKillDrainComplete s = .next (if linksDrained s (w.a.setWidth 8) w.time = true then
      pendAnswer (killEnd s s.sim.arg.core.toNat s.sim.arg.ctx.toNat (w.a.setWidth 8)) w 0#64 else s) := by
  simp only [execKillDrainComplete, h, Bool.not_eq_true']
  split
  · rename_i e
    rw [e, if_neg Bool.false_ne_true]
  · rename_i e
    rw [if_pos (Bool.not_eq_false _ ▸ e)]

theorem execInvalidationComplete_some {w : PendOp}
    (h : pendOf s s.sim.arg.core.toNat s.sim.arg.ctx.toNat (· == .inval) = some w) :
    execInvalidationComplete s =
      .next (if farOut s ((invKind w.a w.va).asids s) = true then s else pendAnswer (drainWrites s) w 0#64) := by
  simp only [execInvalidationComplete, h]

/-- What the acknowledgement of the clear of V waits for. -/
abbrev clearWaits (s : State) : Prop :=
  storesUnder s s.sim.arg.asid = true ∨
    (farOut s (· == s.sim.arg.asid) && !linksDrained s s.sim.arg.asid (eventAsid s).since) = true

theorem execAsidDisableDrained_idle (h : (eventAsid s).clearing = false) : execAsidDisableDrained s = .next s := by
  simp only [execAsidDisableDrained, h, Bool.not_false, Bool.true_or, if_true]

theorem execAsidDisableDrained_waits (h : clearWaits s) : execAsidDisableDrained s = .next s := by
  rcases h with h | h
  · simp only [execAsidDisableDrained, h, Bool.or_true, if_true]
  · simp only [execAsidDisableDrained, h, if_true, ite_self]

theorem execAsidDisableDrained_ends (hc : (eventAsid s).clearing = true) (hs : storesUnder s s.sim.arg.asid = false)
    (hl : (farOut s (· == s.sim.arg.asid) && !linksDrained s s.sim.arg.asid (eventAsid s).since) = false) :
    ∃ t, execAsidDisableDrained s = .next t ∧ t.xl.asids.at s.sim.arg.asid.toNat = { eventAsid s with clearing := false } := by
  simp only [execAsidDisableDrained, hc, hs, hl, Bool.not_true, Bool.or_self, Bool.false_eq_true, if_false]
  exact ⟨_, rfl, SMap.at_set_same ..⟩

end Sys2Proof.Machine

namespace Sys2Proof.Proofs.AddressSpaces
open Sys2Proof Sys2Proof.Machine Sys2Proof.Safety

/-- Settles O57, clause by clause from what each step does to what arrives; a step that finds nothing to do leaves the state (log
entry 2), and the ends of a kill and an invalidation wait as log entry 23 says. -/
theorem arrivalsAndAdmission : Obligations.ArrivalsAndAdmission := by
  intro s g core u x die gives
  refine ⟨fun rq h => ⟨execReservationRequest_inside h, fun q => execReservationRequest_outside h⟩,
    fun c y v zh ring p w h hw => ⟨execReservationReply_refused h hw, execReservationReply_granted h hw⟩,
    fun w h hb => ⟨execSlotWriteArrival_refused h hb, execSlotWriteArrival_performed h hb⟩,
    fun w h hb => ⟨execSlotEndToken_refused h hb, execSlotEndToken_performed h hb⟩,
    execPhaseNoticeArrival_rings s, ?late,
    fun src addr data => ⟨fun n => execInboundRequest_read, execInboundRequest_write, fun op n => execInboundRequest_atomic⟩,
    fun ra h => ⟨execRemoteAtomicArrival_late h, fun ht => ⟨execRemoteAtomicArrival_refused h ht, fun w hw => ⟨fun e he => ?entry, fun he =>
      ⟨execRemoteAtomicArrival_full h ht hw he, execRemoteAtomicArrival_new h ht hw he⟩⟩⟩⟩,
    execReplayEntryExpiry_expires s, execDoorbellWrite_table s,
    ⟨fun h => ?idle, fun va e s1 h => ?unread, fun va ws s1 h hk => congrArg _ (recordAdmit_bad h hk),
      fun va ws s1 h hn ha hg => ⟨fun hk hf hv q s2 hq => execAdmitRegion_admits h hk hn hf hv hq,
        fun hk hf hv t s2 hq => execAdmitTile_admits h hk hn hf hv hq, fun hk => execAdmitHeap_admits h hk hn,
        fun hk => execAdmitEvent_admits h hk hn⟩⟩,
    fun w h => ⟨fun hl => ?killed, fun hl => ?killWaits⟩, fun w h => ⟨fun ho => ?invalWaits, fun ho => ?invalEnds⟩,
    execAsidDisableDrained_idle, fun hc hw => execAsidDisableDrained_waits hw, execAsidDisableDrained_ends⟩
  case late =>
    classical
    exact ⟨fun h => (execReservationTimeout_eq s).trans (congrArg _ (if_pos h)),
      fun h => (execReservationTimeout_eq s).trans (congrArg _ (if_neg h))⟩
  case entry =>
    exact ⟨fun same => (execRemoteAtomicArrival_entry h ht hw he).trans (if_pos same),
      fun clash => (execRemoteAtomicArrival_entry h ht hw he).trans (if_neg clash)⟩
  case idle =>
    exact ⟨congrArg _ (recordAdmit_idle h), congrArg _ (recordAdmit_idle h), congrArg _ (recordAdmit_idle h),
      congrArg _ (recordAdmit_idle h)⟩
  case unread =>
    exact ⟨congrArg _ (recordAdmit_unread h), congrArg _ (recordAdmit_unread h), congrArg _ (recordAdmit_unread h),
      congrArg _ (recordAdmit_unread h)⟩
  case killed => exact (execKillDrainComplete_some h).trans (congrArg _ (if_pos hl))
  case killWaits => exact (execKillDrainComplete_some h).trans (congrArg _ (if_neg (by rw [hl]; exact Bool.false_ne_true)))
  case invalWaits => exact (execInvalidationComplete_some h).trans (congrArg _ (if_pos ho))
  case invalEnds => exact (execInvalidationComplete_some h).trans (congrArg _ (if_neg (by rw [ho]; exact Bool.false_ne_true)))

end Sys2Proof.Proofs.AddressSpaces


namespace Sys2Proof.Proofs.AddressSpaces
open Machine

/-- A HAND token that names entry 0 of the ownership table. -/
def handOfEntry0 : FTok := ctlTok 0#4 10 0

/-- A coalescing unit at the start of the bank window, into which no byte has been written. -/
def idleUnit : CoalUnit := { (default : CoalUnit) with unit := 0 }

/-- A HAND token waits at the port of an add stream whose number is 256, one past the last of core 0, so that its node is 64. Entry 0 of
the ownership table is valid and covers the first 64 bytes, and its list of owners has no place CUR. Node 0 holds a unit in the range. -/
def handState : State := { State.reset with
  sim.arg := { (default : EvArg) with unit := 256#12 }
  sm.streams := [(streamKey 0 256, { (default : Stream) with isOpen := true, desc := [0x8000000000000000#64], inp := [handOfEntry0] })]
  sm.own := [(0, { (default : OwnEnt) with v := true, owners := [], cur := 0, base := 0#26, lim := 64#26 })]
  sm.coal := [(coalKey 0 0, [idleUnit])] }

/-- The units of node 0 of core 0 after a step that answers a next state. -/
def node0Units : Out → List CoalUnit
  | .next t => t.sm.coal.at (coalKey 0 0)
  | _ => []

/-- The next state that the statement's clause on HAND gives at `handState`: the units of node 64, the stream's own, are flushed. -/
def handedByNode64 : State :=
  let s := nodeFlushWait (streamUpd handState 0 256 inpPop) 0 64 (fun v => decide (0 ≤ v.unit * 64) && decide (v.unit * 64 < 64))
  progress { s with sm.own := s.sm.own.upd 0 (fun n => { n with cur := (n.cur + 1) % (n.no + 1) }) } 0 0

/-- The model takes node 0 for the owner where the list of owners has no place CUR, and flushes its units. -/
theorem handToken_flushes_node0 : node0Units (exec .handToken handState) = [] := by decide

theorem handedByNode64_keeps_node0 : node0Units (.next handedByNode64) = [idleUnit] := by decide

/-- The statement's clause on HAND, at `handState`: all its hypotheses hold there. -/
theorem handToken_of_engineSteps (h : Obligations.EngineSteps) : exec .handToken handState = .next handedByNode64 := by
  obtain ⟨_, _, _, _, _, _, _, _, _, _, _, streams, _⟩ := h handState
  obtain ⟨_, _, _, _, _, hand⟩ := streams (by decide)
  obtain ⟨_, owner⟩ := hand handOfEntry0 [] (by decide) (by decide) (by decide) (by decide) (by decide)
  obtain ⟨sink, _⟩ := owner (by decide) (by decide) (by decide)
  exact sink (by decide)

/-- Refutes O56: in its clause on HAND (R156) the owner that the token must reach is `owners.getD cur 64`, and the node whose units are
flushed is the stream's own, `streamNode u`; `handOver` flushes `owners.getD cur 0`. The two differ where the list of owners has no place
CUR, and then the clause's test still passes for the unit numbers 256 to 259, whose node is 64. The statement ranges over every state and
every 12-bit unit number; for the 256 streams that a core has the node is below 64 and the two are the same. -/
theorem not_engineSteps : ¬ Obligations.EngineSteps := by
  intro h
  have hand := congrArg node0Units (handToken_of_engineSteps h)
  rw [handToken_flushes_node0, handedByNode64_keeps_node0] at hand
  exact absurd hand (by decide)

end Sys2Proof.Proofs.AddressSpaces

/-! ## The statements of on-chip memory: stores that are performed, tile accesses, and the tile table -/

namespace Sys2Proof.Machine

/-! ### Bytes written at consecutive addresses -/

/-- Each of the consecutive bytes that were written is read back at its place. -/
theorem Mem.get_putN_inside : ∀ (bs : List Byte) (m : List Host.Cell) (a i : Nat), i < bs.length →
    some (Mem.get (Mem.putN m a bs) (a + i)) = bs[i]?
  | [], _, _, i, h => absurd h (Nat.not_lt_zero i)
  | x :: xs, m, a, 0, _ => by
    rw [Nat.add_zero, Mem.putN, Mem.get_putN_outside xs _ _ _ (Or.inl (Nat.lt_succ_self a)), Mem.get_put, if_pos rfl]
    rfl
  | x :: xs, m, a, i + 1, h => by
    rw [Mem.putN, List.getElem?_cons_succ, ← Mem.get_putN_inside xs _ (a + 1) i (Nat.lt_of_succ_lt_succ h),
      Nat.add_right_comm a 1 i, Nat.add_assoc]

/-- Bytes that are put one by one, each at its index from an address, are those of one write at that address. -/
theorem foldl_put_zipIdx (a : Nat) : ∀ (bs : List Byte) (n : Nat) (m : List Host.Cell),
    ((bs.zipIdx n).map (fun x => (a + x.2, x.1))).foldl (fun m b => Mem.put m b.1 b.2) m = Mem.putN m (a + n) bs
  | [], _, _ => rfl
  | x :: xs, n, m => by
    rw [List.zipIdx_cons, List.map_cons, List.foldl_cons, foldl_put_zipIdx a xs (n + 1), Mem.putN, Nat.add_assoc]

/-! ### Stores to local DRAM that bypass the core cache, and to the anvil windows (R47, R50, R52) -/

variable {s : State} {a : Actor} {pa : Nat}

theorem l2TagCheck_good (h : l2BadTag s pa = none) : l2TagCheck s pa = s := by
  simp only [l2TagCheck, h]

/-- An access that allocates no line gives none up, so that memory stands as it was. -/
theorem l2Touch_mem_unallocated (s : State) (pa : Nat) (write : Bool) (asid : BitVec 8) :
    (l2Touch s pa write false asid).mem = s.mem := by
  unfold l2Touch
  dsimp only
  split
  · split <;> rfl
  · rfl

theorem dramCommit_mem_uncached (s : State) (a : Actor) (pa : Nat) (bs : List Byte) :
    (dramCommit s a pa bs true).mem = Mem.putN s.mem pa bs := by
  simp [dramCommit, l2Touch_mem_unallocated]

/-- An ungated store past the caches, to a line whose tag is not poisoned, changes its own bytes. -/
theorem dramWrite_mem_uncached (bs : List Byte) (live : staleGen s a.asid a.gen = false) (good : l2BadTag s pa = none)
    (ungated : gates a = false) : (dramWrite s a pa bs true).mem = Mem.putN s.mem pa bs := by
  have tag : l2TagCheck (lrBreak s pa) pa = lrBreak s pa := l2TagCheck_good good
  simp only [dramWrite, live, tag, ungated, Bool.false_eq_true, if_false, dramCommit_mem_uncached]
  rfl

theorem performWrite_anvil_mem {core o : Nat} (bs : List Byte) (live : staleGen s a.asid a.gen = false)
    (hp : place pa = .anvil core o) (mt : MType) : (performWrite s a mt pa bs).2.mem = Mem.putN s.mem pa bs := by
  simp only [performWrite, live, hp, Bool.false_eq_true, if_false, storeBytes, foldl_put_zipIdx, Nat.add_zero]

theorem performWrite_uc_mem (bs : List Byte) (live : staleGen s a.asid a.gen = false) (hp : place pa = .dram)
    (good : l2BadTag s pa = none) (ungated : gates a = false) :
    (performWrite s a .uc pa bs).2.mem = Mem.putN s.mem pa bs := by
  have room : gateFull s a pa = false := by simp [gateFull, ungated]
  simp only [performWrite, live, hp, room, Bool.false_eq_true, if_false, dramWrite_mem_uncached bs live good ungated]

/-- The CT path of a context is not gated (R388). -/
theorem gates_ctxActor (core : Nat) (c : Ctx) : gates (ctxActor core c) = false := by
  simp [gates, ctxActor]

/-- A store without a scope to memory of this module is one write by the CT path (R143). -/
theorem storePerform_own {p : PendStore} (core : Nat) (c : Ctx) (hr : p.rel = none) (own : ownMemory (place p.pa)) :
    storePerform core c s p = (performWrite s (ctxActor core c) (MType.ofBits p.mt) p.pa p.bytes).2 := by
  rcases own with h | ⟨_, _, h⟩ | ⟨_, _, h⟩ <;> simp [storePerform, hr, placeWrite, h]

end Sys2Proof.Machine

namespace Sys2Proof.Proofs.OnchipMemory
open Sys2Proof Sys2Proof.Machine Sys2Proof.Safety

/-- Settles O32: in either window the store is one write by the CT path, which no gate holds, and memory after it is one write of its
bytes at its address. -/
theorem storePerformed : Obligations.StorePerformed := by
  intro core c s p live hr window
  have own : ownMemory (place p.pa) := window.imp And.left Or.inr
  have mem : (storePerform core c s p).mem = Mem.putN s.mem p.pa p.bytes := by
    rw [storePerform_own core c hr own]
    rcases window with ⟨hp, hm, good⟩ | ⟨d, o, hp⟩
    · have uc : MType.ofBits p.mt = .uc := by rw [hm]; rfl
      rw [uc]
      exact performWrite_uc_mem p.bytes live hp good (gates_ctxActor core c)
    · exact performWrite_anvil_mem p.bytes live hp _
  refine ⟨?side, fun i hi => ?inside, fun y hy => ?outside⟩
  case side =>
    rw [storePerform_own core c hr own]
    exact performWrite_side s _ _ p.pa p.bytes
  case inside =>
    rw [mem]
    exact Mem.get_putN_inside p.bytes s.mem p.pa i hi
  case outside =>
    rw [mem]
    exact Mem.get_putN_outside p.bytes s.mem p.pa y hy

end Sys2Proof.Proofs.OnchipMemory

namespace Sys2Proof

/-- Of two writes to one entry the later stands. -/
theorem SMap.set_set {α : Type} (k : Nat) (v w : α) : ∀ m : SMap α, (m.set k v).set k w = m.set k w
  | [] => by simp [SMap.set]
  | (j, u) :: m => by
    by_cases lt : k < j
    · simp [SMap.set, lt]
    · by_cases eq : k = j
      · simp [SMap.set, eq]
      · simp only [SMap.set, lt, eq, if_false, SMap.set_set k v w m]

theorem SMap.upd_upd {α : Type} [Inhabited α] (m : SMap α) (k : Nat) (f g : α → α) :
    (m.upd k f).upd k g = m.upd k (fun v => g (f v)) := by
  simp only [SMap.upd, SMap.at_set_same, SMap.set_set]

end Sys2Proof

namespace Sys2Proof.Safety
open Sys2Proof Sys2Proof.Machine

/-! ### Accesses through the tile table (R56, R260) -/

/-- Two changes of one frame are one. -/
theorem frameUpd_frameUpd (s : State) (core x : Nat) (f g : Frame → Frame) :
    frameUpd (frameUpd s core x f) core x g = frameUpd s core x (fun fr => g (f fr)) :=
  congrArg (fun m => { s with ctl.frames := m }) (SMap.upd_upd s.ctl.frames _ f g)

/-- The entry that a tile reference names. -/
abbrev tileAt (s : State) (core k : Nat) : Tile := s.st.tiles.at (tileKey core k)

section
variable {t : Tile} {asid : BitVec 8}

theorem badRef_true (h : t.isDef = false ∨ t.asid ≠ asid) : t.badRef asid = true := by
  rcases h with h | h <;> simp [Tile.badRef, h]

theorem badRef_false (hd : t.isDef = true) (ha : t.asid = asid) : t.badRef asid = false := by
  simp [Tile.badRef, hd, ha]

theorem canIssue_true (hs : t.st = .ready) (hq : t.drq = false) (hu : t.use ≠ 255#8) : t.canIssue = true := by
  simp [Tile.canIssue, hs, hq, hu]

theorem canIssue_false (h : t.st ≠ .ready ∨ t.drq = true ∨ t.use = 255#8) : t.canIssue = false := by
  rcases h with h | h | h <;> simp [Tile.canIssue, h]

end

section
variable {s : State} {core ix k : Nat} {c : Ctx} {o : Word}

theorem tileCheck_dead (h : staleGen s c.asid c.gen = true) : tileCheck s core c ix k o = some (xlateFlt 2 ix o) := by
  simp only [tileCheck, h, if_true]
  rfl

theorem tileCheck_badRef (live : staleGen s c.asid c.gen = false) (h : (tileAt s core k).badRef c.asid = true) :
    tileCheck s core c ix k o = some (addrFlt 0x14 ix o) := by
  simp [tileCheck, live, h]

theorem tileCheck_outside (live : staleGen s c.asid c.gen = false) (hr : (tileAt s core k).badRef c.asid = false)
    (h : o.toNat % 8 ≠ 0 ∨ (tileAt s core k).size < o.toNat + 8) : tileCheck s core c ix k o = some (addrFlt 0x15 ix o) := by
  rcases h with h | h <;> simp [tileCheck, live, hr, h]

theorem tileCheck_good (live : staleGen s c.asid c.gen = false) (hr : (tileAt s core k).badRef c.asid = false)
    (ha : o.toNat % 8 = 0) (hb : o.toNat + 8 ≤ (tileAt s core k).size) : tileCheck s core c ix k o = none := by
  simp [tileCheck, live, hr, ha, hb]

end

variable {s : State} {core x ix : Nat} {p : BitVec 2} {l : BitVec 5} {k : BitVec 8} {t : BitVec 9} {a b o : Word}

/-- `u` is what ldt or stt comes to where its checks of R260 fail, where its entry may not issue, and where a bank of the entry
changes its mode. -/
structure TileAccess (s : State) (core x ix l k : Nat) (ts : List (BitVec 9)) (o : Word) (u : State) : Prop where
  fault : ∀ {e}, tileCheck s core (ctxOf s core x) ix k o = some e → u = ctMemFault s core x ix l ts e
  notIssued : tileCheck s core (ctxOf s core x) ix k o = none → (tileAt s core k).canIssue = false → u = ctHold s core x 5 k
  busy : tileCheck s core (ctxOf s core x) ix k o = none → (tileAt s core k).canIssue = true →
    tileBusy s core (tileAt s core k) o.toNat 8 = true → u = ctHold s core x 9 l

/-- A tile access that fails a check traps at the block. -/
theorem TileAccess.trap {u : State} {e : Flt} {l k : Nat} {ts : List (BitVec 9)} (h : TileAccess s core x ix l k ts o u)
    (hc : tileCheck s core (ctxOf s core x) ix k o = some e) (hm : mustCommit s core x = false) :
    u = takeTrap s core x e (ctxOf s core x).blk none :=
  (h.fault hc).trans (memFault_trap hm)

theorem Fires.ldt_access (h : Fires s core x ix p true false (some o) (some 0#64)) (ht : Turns s core x l.toNat) :
    ∃ u, exec (.ldt p l k t) s = .next u ∧ TileAccess s core x ix l.toNat k.toNat [t] o u :=
  ⟨_, congrArg Host.Outcome.next (h.mem ht _), fun hc => by simp only [hc], fun hc hi => by simp [hc, hi],
    fun hc hi hb => by simp [hc, hi, hb]⟩

theorem Fires.stt_access (h : Fires s core x ix p true true (some o) (some b)) (ht : Turns s core x l.toNat) :
    ∃ u, exec (.stt p l k) s = .next u ∧ TileAccess s core x ix l.toNat k.toNat [] o u :=
  ⟨_, congrArg Host.Outcome.next (h.mem ht _), fun hc => by simp only [hc], fun hc hi => by simp [hc, hi],
    fun hc hi hb => by simp [hc, hi, hb]⟩

/-- ldt whose entry issues takes its use, reads, and gives the use back. -/
theorem Fires.ldt (h : Fires s core x ix p true false (some o) (some 0#64)) (ht : Turns s core x l.toNat)
    (hc : tileCheck s core (ctxOf s core x) ix k.toNat o = none) (hi : (tileAt s core k.toNat).canIssue = true)
    (hb : tileBusy s core (tileAt s core k.toNat) o.toNat 8 = false) {bs : List Byte} {u : State}
    (hr : ctRead (tileUse s core k.toNat) core x l.toNat .wb (tilePa core (tileAt s core k.toNat) o.toNat) 8 false = (some bs, u)) :
    exec (.ldt p l k t) s = tokenMem (tileDone u core k.toNat) core x ix l.toNat [t] (some (leWord bs)) := by
  refine (congrArg Host.Outcome.next (h.mem ht _)).trans ?_
  simp only [hc, hi, hb, hr, Bool.not_true, Bool.false_eq_true, if_false]
  rfl

/-- stt whose entry issues leaves its store and its use for the commit. -/
theorem Fires.stt (h : Fires s core x ix p true true (some o) (some b)) (ht : Turns s core x l.toNat)
    (hc : tileCheck s core (ctxOf s core x) ix k.toNat o = none) (hi : (tileAt s core k.toNat).canIssue = true)
    (hb : tileBusy s core (tileAt s core k.toNat) o.toNat 8 = false) :
    exec (.stt p l k) s = tokenMem (frameUpd (tileUse s core k.toNat) core x (fun f => { f with
        commits := f.commits ++ [(ix, .stt k.toNat)]
        stores := f.stores ++ [{
          ix := ix, lsid := l.toNat, va := o, pa := tilePa core (tileAt s core k.toNat) o.toNat, mt := 0#2, bytes := leBytes 8 b.toNat,
          rel := none, tile := true }] }))
      core x ix l.toNat [] none := by
  refine (congrArg Host.Outcome.next (h.mem ht _)).trans ?_
  simp only [hc, hi, hb, Bool.not_true, Bool.false_eq_true, if_false, ctPend, atCommit, frameUpd_frameUpd]
  rfl

/-! ### The prefetch (R27, R42, R261) -/

/-- The translation of the address that prf names. -/
abbrev prfXlate (s : State) (core x : Nat) (a : Word) (k : BitVec 9) : XRes × State :=
  translate s (ctxActor core (ctxOf s core x)) (a + k.signExtend 64 * 128#64) .load 1

/-- An address of a WB page of local DRAM, which the core cache may hold. -/
abbrev Cached (r : XRes) : Prop := r.st = .ok ∧ r.mt = .wb ∧ place r.pa = .dram

section
variable {k : BitVec 9}

/-- prf waits for a walk slot as a load does. -/
theorem Fires.prf_walkWait (h : Fires s core x ix p true false (some a) (some 0#64)) (ht : Turns s core x l.toNat)
    (hw : walkWait s (ctxActor core (ctxOf s core x)) (a + k.signExtend 64 * 128#64) = true) :
    exec (.prf p l k) s = .next (ctHold s core x 9 l.toNat) :=
  (congrArg Host.Outcome.next (h.mem ht _)).trans (congrArg _ (if_pos hw))

/-- prf whose walk may start fills the sector of a cached address, or is held for a bank that changes; else it does nothing but
translate. -/
theorem Fires.prf_walked (h : Fires s core x ix p true false (some a) (some 0#64)) (ht : Turns s core x l.toNat)
    (hw : walkWait s (ctxActor core (ctxOf s core x)) (a + k.signExtend 64 * 128#64) = false) :
    exec (.prf p l k) s =
      let act := ctxActor core (ctxOf s core x)
      let r := prfXlate s core x a k
      if Cached r.1 then
        if accBusy r.2 act .wb r.1.pa 1 = true then .next (ctHold r.2 core x 9 l.toNat)
        else tokenMem (ccRead r.2 act (r.1.pa / 128 * 128) 128).2 core x ix l.toNat [] none
      else tokenMem r.2 core x ix l.toNat [] none := by
  refine (congrArg Host.Outcome.next ((h.mem ht _).trans (if_neg (ne_true_of_eq_false hw)))).trans ?_
  simp only [Bool.and_eq_true, beq_iff_eq, and_assoc, apply_ite Host.Outcome.next]
  rfl

end

end Sys2Proof.Safety

namespace Sys2Proof.Proofs.OnchipMemory
open Sys2Proof Sys2Proof.Machine Sys2Proof.Safety

/-- Settles O35: ldt and stt take the first outcome of R260 that applies (`TileAccess`), and else their use of the entry; prf by its
walk, its translation and its banks in that order. The WIDX of a hold is the model's (log entry 32); NOCTX of a dead generation is R13's. -/
theorem tileAccesses : Obligations.TileAccesses := by
  refine ⟨fun s core x ix p l k t o b i turn form => ?tile, fun s core x ix p l k a h turn => ?prefetch⟩
  case tile =>
    obtain ⟨ts, u, hu, access⟩ : ∃ ts u, exec i s = .next u ∧ TileAccess s core x ix l.toNat k.toNat ts o u := by
      rcases form with ⟨h, rfl⟩ | ⟨h, rfl⟩
      · exact ⟨[t], h.ldt_access turn⟩
      · exact ⟨[], h.stt_access turn⟩
    refine ⟨fun dead hm => ?dead, fun live bad hm => ?ref, fun live hd ha out hm => ?bound, fun live hd ha h8 hz => ?inside⟩
    case dead => rw [hu, access.trap (tileCheck_dead dead) hm]; rfl
    case ref => rw [hu, access.trap (tileCheck_badRef live (badRef_true bad)) hm]
    case bound => rw [hu, access.trap (tileCheck_outside live (badRef_false hd ha) out) hm]
    case inside =>
      have hc := tileCheck_good (ix := ix) live (badRef_false hd ha) h8 hz
      refine ⟨fun no => hu.trans (congrArg _ (access.notIssued hc (canIssue_false no))),
        fun hs hq hn busy => hu.trans (congrArg _ (access.busy hc (canIssue_true hs hq hn) busy)),
        fun hs hq hn idle => ⟨fun bs v hi hr => ?read, fun hi => ?store⟩⟩
      case read =>
        subst hi
        rcases form with ⟨h, _⟩ | ⟨_, hi⟩
        · exact h.ldt turn hc (canIssue_true hs hq hn) idle hr
        · cases hi
      case store =>
        subst hi
        rcases form with ⟨_, hi⟩ | ⟨h, _⟩
        · cases hi
        · exact h.stt turn hc (canIssue_true hs hq hn) idle
  case prefetch =>
    refine ⟨h.prf_walkWait turn, fun hw cached busy => ?_, fun hw cached idle => ?_, fun hw uncached => ?_⟩
    · rw [h.prf_walked turn hw, if_pos cached, if_pos busy]
    · rw [h.prf_walked turn hw, if_pos cached, if_neg (ne_true_of_eq_false idle)]
    · rw [h.prf_walked turn hw, if_neg uncached]

end Sys2Proof.Proofs.OnchipMemory

namespace Sys2Proof.Safety
open Sys2Proof Sys2Proof.Machine

/-! ### The ttset forms (R54, R55, R300) -/

variable {s : State} {core x ix : Nat} {p : BitVec 2} {k : BitVec 8} {t : BitVec 9} {a : Word}

/-- How a ttset form without an operand answers: TILEREF, BADSTATE for the slot of a zone, the move to `after` where its entry stands
in `frm` and `extra` holds, and `wrong` in every other state. -/
structure TileMove (s : State) (core x ix : Nat) (k : BitVec 8) (t : BitVec 9) (i : Instr) (frm : TileSt) (extra : Prop) (after : State)
    (wrong : TileStatus) : Prop where
  foreign : (tileAt s core k.toNat).badRef (ctxOf s core x).asid = true → exec i s = performs s core x ix [t] (some 6#64)
  zoned : (tileAt s core k.toNat).badRef (ctxOf s core x).asid = false → inZone s core k.toNat = true →
    exec i s = performs s core x ix [t] (some 5#64)
  moves : (tileAt s core k.toNat).badRef (ctxOf s core x).asid = false → inZone s core k.toNat = false →
    (tileAt s core k.toNat).st = frm → extra → exec i s = performs after core x ix [t] (some 0#64)
  stays : (tileAt s core k.toNat).badRef (ctxOf s core x).asid = false → inZone s core k.toNat = false →
    (tileAt s core k.toNat).st ≠ frm → exec i s = performs s core x ix [t] (some (stTok wrong.code))

/-- What a form's own check answers for its entry gives the form's answers. -/
theorem Fires.tileMove (h : Fires s core x ix p false false (some 0#64) (some 0#64)) (c : Commands s core x ix) {i : Instr}
    {g : Nat → Tile → State → TileStatus × State} (hi : exec i s = .next (ctTile s p k t g)) {frm : TileSt} {extra : Prop}
    {after : State} {wrong : TileStatus}
    (moves : (tileAt s core k.toNat).st = frm → extra → g core (tileAt s core k.toNat) s = (.ok, after))
    (stays : (tileAt s core k.toNat).st ≠ frm → g core (tileAt s core k.toNat) s = (wrong, s)) :
    TileMove s core x ix k t i frm extra after wrong := by
  have hg := hi.trans (congrArg Host.Outcome.next (h.cmd c _))
  refine ⟨fun bad => hg.trans ?_, fun own zone => hg.trans ?_, fun own free hs he => hg.trans ?_, fun own free hs => hg.trans ?_⟩
  · rw [if_pos bad]
    rfl
  · rw [if_neg (ne_true_of_eq_false own), if_pos zone]
    rfl
  · rw [if_neg (ne_true_of_eq_false own), if_neg (ne_true_of_eq_false free), moves hs he]
    rfl
  · rw [if_neg (ne_true_of_eq_false own), if_neg (ne_true_of_eq_false free), stays hs]
    rfl

/-- An event of R55 that asks for one state moves an entry in it. -/
theorem tileEvent_moves {e : Tile} {frm : TileSt} (f : Tile → Tile) (h : e.st = frm) :
    tileEvent k frm f core e s = (.ok, tileUpd s core k.toNat f) :=
  if_pos (beq_iff_eq.2 h)

/-- In every other state it answers BADSTATE. -/
theorem tileEvent_stays {e : Tile} {frm : TileSt} (f : Tile → Tile) (h : e.st ≠ frm) :
    tileEvent k frm f core e s = (.badstate, s) :=
  if_neg (fun b => h (beq_iff_eq.1 b))

/-- ttset define answers the first failing check of R54; its must-be-zero bits are zero. -/
theorem Fires.ttsetDefine (h : Fires s core x ix p true false (some a) (some 0#64)) (c : Commands s core x ix)
    (own : (tileAt s core k.toNat).isDef = false ∨ (tileAt s core k.toNat).asid = (ctxOf s core x).asid)
    (free : inZone s core k.toNat = false) (hi : a.extractLsb' 45 19 = 0#19) (lo : a.extractLsb' 26 13 = 0#13) :
    exec (.ttsetDefine p k t) s =
      let asid := (ctxOf s core x).asid
      let st := tileDefCheck s core k.toNat (a.getLsbD 44) (a.extractLsb' 39 5).toNat (a.extractLsb' 0 26).toNat asid
      performs (if st = .ok then
        tileDefine s core k.toNat (a.getLsbD 44) (a.extractLsb' 39 5).toNat (a.extractLsb' 0 26).toNat asid else s)
        core x ix [t] (some (stTok st.code)) := by
  have mine : ((tileAt s core k.toNat).isDef && (tileAt s core k.toNat).asid != (ctxOf s core x).asid) = false := by
    rcases own with h | h <;> simp [h]
  refine (congrArg Host.Outcome.next (h.cmd c _)).trans ?_
  simp only [mine, free, hi, lo, bne_self_eq_false, Bool.or_self, Bool.false_and, Bool.false_eq_true, if_false, beq_iff_eq]
  rfl

theorem Fires.ttsetDefine_foreign (h : Fires s core x ix p true false (some a) (some 0#64)) (c : Commands s core x ix)
    (hd : (tileAt s core k.toNat).isDef = true) (ha : (tileAt s core k.toNat).asid ≠ (ctxOf s core x).asid) :
    exec (.ttsetDefine p k t) s = performs s core x ix [t] (some 6#64) :=
  (congrArg Host.Outcome.next (h.cmd c _)).trans (congrArg _ (if_pos (by simp [hd, ha])))

theorem Fires.ttq (h : Fires s core x ix p false false (some 0#64) (some 0#64)) (w : BitVec 1) :
    exec (.ttq p w k t) s = token s core x ix [t]
      (if (tileAt s core k.toNat).isDef = true ∧ (tileAt s core k.toNat).asid ≠ (ctxOf s core x).asid then none
        else some ((tileAt s core k.toNat).word w.toNat)) := by
  refine (congrArg Host.Outcome.next (h.form _)).trans ?_
  simp only [Bool.and_eq_true, bne_iff_ne]
  rfl

end Sys2Proof.Safety

namespace Sys2Proof.Proofs.OnchipMemory
open Sys2Proof Sys2Proof.Machine Sys2Proof.Safety

/-- Settles O46: each form without an operand is its own check of the entry's state under the shared checks (`TileMove`); define and
ttq by their own equations. -/
theorem tileTableForms : Obligations.TileTableForms := by
  refine ⟨fun s core x ix p k t h => ⟨fun c f hf => ?forms, h.ttq⟩, fun s core x ix p k t a h c => ?define⟩
  case define => exact ⟨h.ttsetDefine_foreign c, h.ttsetDefine c⟩
  case forms =>
    have move : TileMove s core x ix k t f.1 f.2.1 (f.1 = .ttsetDrain p k t → (tileAt s core k.toNat).drq = false) f.2.2
        (if f.1 = .ttsetUndefine p k t then .live else .badstate) := by
      simp only [List.mem_cons, List.not_mem_nil, or_false] at hf
      rcases hf with rfl | rfl | rfl | rfl | rfl | rfl
      -- undefine and drain check their entry themselves; the other four forms are events of R55
      case inl => exact h.tileMove c rfl (fun hs _ => if_pos (beq_iff_eq.2 hs)) (fun hs => by simpa using hs)
      case inr.inr.inr.inr.inl => exact h.tileMove c rfl (fun hs hq => by simp [hs, hq rfl]) (fun hs => by simp [hs])
      all_goals exact h.tileMove c rfl (fun hs _ => tileEvent_moves _ hs) (fun hs => by simpa using tileEvent_stays _ hs)
    refine ⟨fun hd ha free => ⟨fun ⟨hs, hq⟩ => move.moves (badRef_false hd ha) free hs hq, fun hs => ?_⟩,
      fun bad => move.foreign (badRef_true bad), fun hd ha zone => move.zoned (badRef_false hd ha) zone⟩
    rw [move.stays (badRef_false hd ha) free hs]
    split <;> rfl

end Sys2Proof.Proofs.OnchipMemory

/-! ## The statements of queues and shedding: the queue forms -/

namespace Sys2Proof.Safety
open Sys2Proof Sys2Proof.Machine

/-! ### Statuses and operands of the queue forms (R284) -/

/-- The descriptor of queue n of a core. -/
abbrev queueAt (s : State) (core n : Nat) : Queue := s.qu.queues.at (queueKey core n)

/-- View v of queue n of a core. -/
abbrev viewAt (s : State) (core n v : Nat) : QView := (queueAt s core n).views.at v

section
variable {s : State} {core x n view : Nat} {a : Word}

/-- A queue that is not defined answers NOQ. -/
theorem producerSt_undefined (hv : (queueAt s core n).v = false) : producerSt s core x n = 1 := by
  simp [producerSt, hv]

/-- A queue of another ASID answers NOTOWNER. -/
theorem producerSt_foreign (hv : (queueAt s core n).v = true) (ha : (queueAt s core n).asid ≠ (ctxOf s core x).asid) :
    producerSt s core x n = 2 := by
  simp [producerSt, hv, ha]

/-- The producer of a queue of its ASID is not refused. -/
theorem producerSt_own (hv : (queueAt s core n).v = true) (ha : (queueAt s core n).asid = (ctxOf s core x).asid)
    (hp : isProducer s core n (ctxOf s core x).rid = true) : producerSt s core x n = 0 := by
  simp [producerSt, hv, ha, hp]

/-- A consumer form is not refused by a view of a queue of its ASID, of which all but qstat are to be the consumer. -/
theorem consumerSt_eq_zero {stat : Bool} : consumerSt s core x n view stat = 0 ↔
    (queueAt s core n).v = true ∧ (queueAt s core n).asid = (ctxOf s core x).asid ∧ view ≤ (queueAt s core n).nv ∧
      (stat = false → isConsumer s core n view (ctxOf s core x).rid = true) := by
  simp only [consumerSt]
  split_ifs <;> simp_all

/-- qstat is admitted wherever a consumer is. -/
theorem consumerSt_stat (h : consumerSt s core x n view false = 0) : consumerSt s core x n view true = 0 := by
  obtain ⟨hv, ha, hn, _⟩ := consumerSt_eq_zero.1 h
  exact consumerSt_eq_zero.2 ⟨hv, ha, hn, Bool.noConfusion⟩

/-- Bits [63:24] of a word are zero where its value has 24 bits. -/
theorem high40_zero_iff (a : Word) : a.extractLsb' 24 40 = 0#40 ↔ a.toNat < 2 ^ 24 := by
  rw [← BitVec.toNat_inj, BitVec.extractLsb'_toNat, Nat.shiftRight_eq_div_pow]
  have := a.isLt
  simp only [BitVec.toNat_ofNat]
  omega

end

variable {s : State} {core x ix : Nat} {p : BitVec 2} {n : BitVec 6} {t : BitVec 9} {a : Word}

/-! ### Producer forms (R80, R285, R287) -/

section
variable {bad : Word → Bool} {k : Nat → Nat → Word → State → Nat × State}

/-- A producer form that is not refused and has a good operand is performed. -/
theorem Fires.producer (h : Fires s core x ix p true false (some a) (some 0#64)) (c : Commands s core x ix)
    (hs : producerSt s core x n.toNat = 0) (hb : bad a = false) :
    ctProducer s p t n bad k = ctPerformed (k core x a s).2 core x ix (outsOf [t] (some (stVal 0 (k core x a s).1))) := by
  simp only [ctProducer, h.cmd c, hs, hb]
  rfl

/-- A producer form that is not refused answers BADARG on a bad operand. -/
theorem Fires.producer_badarg (h : Fires s core x ix p true false (some a) (some 0#64)) (c : Commands s core x ix)
    (hs : producerSt s core x n.toNat = 0) (hb : bad a = true) :
    ctProducer s p t n bad k = ctPerformed s core x ix (outsOf [t] (some (stVal 4 0))) := by
  simp only [ctProducer, h.cmd c, hs, hb]
  rfl

/-- A producer form that is refused answers why, whatever its operand. -/
theorem Fires.producer_refused {st : Nat} (h : Fires s core x ix p true false (some a) (some 0#64)) (c : Commands s core x ix)
    (hs : producerSt s core x n.toNat = st) (h0 : st ≠ 0) :
    ctProducer s p t n bad k = ctPerformed s core x ix (outsOf [t] (some (stVal st 0))) := by
  simp only [ctProducer, h.cmd c, hs, h0, decide_false, Bool.false_and, Bool.false_eq_true, if_false, bne_iff_ne, ne_eq,
    not_false_eq_true, if_true]
  rfl

end

/-- qpol by a context of the queue's ASID, producer or not, leaves a policy word that R61 admits for the next arrival. -/
theorem Fires.qpol (h : Fires s core x ix p true false (some a) (some 0#64)) (c : Commands s core x ix)
    (hv : (queueAt s core n.toNat).v = true) (ha : (queueAt s core n.toNat).asid = (ctxOf s core x).asid)
    (hp : polBad a (queueAt s core n.toNat).slim (queueAt s core n.toNat).llim = false) :
    exec (.qpol p n t) s = performs
      { s with qu.queues := s.qu.queues.set (queueKey core n.toNat) { queueAt s core n.toNat with pol1 := some a } }
      core x ix [t] (some 0#64) := by
  refine (congrArg Host.Outcome.next (h.cmd c _)).trans ?_
  simp only [hv, ha, hp, bne_self_eq_false, Bool.not_true, Bool.false_eq_true, if_false]
  rfl

/-- qpush leaves the end of the context's write for the commit. -/
theorem Fires.qpush (h : Fires s core x ix p false false (some 0#64) (some 0#64)) (hs : producerSt s core x n.toNat = 0) :
    ∃ v, exec (.qpush p n t) s = token (atCommit s core x ix (.qpush n.toNat)) core x ix [t] (some (stVal 0 v)) :=
  ⟨_, (congrArg Host.Outcome.next (h.form _)).trans (congrArg Host.Outcome.next (if_neg (by simp [hs])))⟩

/-! ### Consumer forms (R50, R286) -/

variable {w : BitVec 2}

section
variable {stat : Bool} {bad : Queue → Word → Bool} {k : Nat → Nat → Nat → Word → Word × State}

/-- A consumer form that is not refused and has a good operand does what it names. -/
theorem Fires.consumer (h : Fires s core x ix p true false (some a) (some 0#64))
    (hs : consumerSt s core x n.toNat w.toNat stat = 0) (hb : bad (queueAt s core n.toNat) a = false) :
    ctConsumer s p t w n stat bad k = ctDone (k core x ix a).2 core x ix none (outsOf [t] (some (k core x ix a).1)) := by
  simp only [ctConsumer, h.form, hs, hb]
  rfl

end

/-- A count that qwait and qpadv take: 1 to the largest (R286). -/
theorem countBad_false (h0 : a ≠ 0#64) {d : Queue} (hm : a.toNat ≤ countMax d) : (a = 0#64 || decide (countMax d < a.toNat)) = false := by
  simp [h0, hm]

/-- qwait of n entries claims them where they are readable, and else waits for them. -/
theorem Fires.qwait (h : Fires s core x ix p true false (some a) (some 0#64)) (hs : consumerSt s core x n.toNat w.toNat false = 0)
    (h0 : a ≠ 0#64) (hm : a.toNat ≤ countMax (queueAt s core n.toNat)) :
    exec (.qwait p w n t) s =
      if (readableOf s core n.toNat w.toNat).length < a.toNat then .next (ctWait s core x (some .wait) 3 n.toNat a w.toNat)
      else token (viewUpd s core n.toNat w.toNat (fun v => { v with claim := max v.claim a.toNat })) core x ix [t]
        (some (stVal 0 (readableOf s core n.toNat w.toNat).length)) := by
  refine (congrArg Host.Outcome.next (h.form _)).trans ?_
  simp only [hs, countBad_false h0 hm, Bool.and_false, Bool.false_eq_true, if_false, bne_self_eq_false, apply_ite Host.Outcome.next]
  rfl

/-- qwait of no entries answers BADARG. -/
theorem Fires.qwait_zero (h : Fires s core x ix p true false (some 0#64) (some 0#64))
    (hs : consumerSt s core x n.toNat w.toNat false = 0) :
    exec (.qwait p w n t) s = token s core x ix [t] (some (stVal 4 0)) := by
  refine (congrArg Host.Outcome.next (h.form _)).trans ?_
  simp only [hs]
  rfl

/-- The operand of qpop names an entry that is claimed, and its bits [63:21] are zero. -/
abbrev PopsClaimed (v : QView) (a : Word) : Prop := a.extractLsb' 21 43 = 0#43 ∧ (a.extractLsb' 0 12).toNat < v.claim

/-- Token k of an entry, the entry's count of tokens less one above it (R286). -/
def entryTok (toks : List FTok) (k : Nat) : Tok :=
  toks[k]?.map (fun f => BitVec.ofNat 64 (f.toNat + (toks.length - 1) % 512 * 2 ^ 48))

theorem entryTok_isSome {toks : List FTok} {k : Nat} (h : k < toks.length) : (entryTok toks k).isSome = true := by
  simp [entryTok, h]

/-- The check of qpop on its operand is that of a claimed entry. -/
theorem popRefused_iff {v : QView} : (a.extractLsb' 21 43 != 0#43 || decide (v.claim ≤ (a.extractLsb' 0 12).toNat)) = true ↔ ¬PopsClaimed v a := by
  rw [Bool.or_eq_true, bne_iff_ne, decide_eq_true_eq, not_and_or, Nat.not_lt]

/-- qpop reads the token that its operand names of a claimed entry, and else null. -/
theorem qpopTok_eq (s : State) (core n view : Nat) (a : Word) :
    qpopTok s core n view a =
      if PopsClaimed (viewAt s core n view) a then
        (readableOf s core n view)[(a.extractLsb' 0 12).toNat]?.bind (fun toks => entryTok toks (a.extractLsb' 12 9).toNat)
      else none := by
  by_cases hc : PopsClaimed (viewAt s core n view) a
  · rw [if_pos hc, qpopTok, if_neg (mt popRefused_iff.1 (not_not.2 hc))]
    cases (readableOf s core n view)[(a.extractLsb' 0 12).toNat]? with
    | none => rfl
    | some toks =>
      simp only [entryTok, Option.bind_some]
      cases toks[(a.extractLsb' 12 9).toNat]? <;> rfl
  · rw [if_neg hc, qpopTok, if_pos (popRefused_iff.2 hc)]

/-- qpop of a token of an entry with a poisoned word faults. -/
theorem Fires.qpop_poisoned {pa : Nat} (h : Fires s core x ix p true false (some a) (some 0#64))
    (hs : consumerSt s core x n.toNat w.toNat false = 0) (ht : (qpopTok s core n.toNat w.toNat a).isSome = true)
    (hp : readPoison s core n.toNat w.toNat (a.extractLsb' 0 12).toNat = some pa) :
    exec (.qpop p w n t) s = .next (ctFault s core x (addrFlt 0x13 ix (BitVec.ofNat 64 pa))) := by
  refine (congrArg Host.Outcome.next (h.form _)).trans ?_
  simp only [hs, ht, hp, bne_self_eq_false, Bool.false_eq_true, if_false, if_true]

/-- qpop of an entry without a poisoned word answers what it reads. -/
theorem Fires.qpop (h : Fires s core x ix p true false (some a) (some 0#64))
    (hs : consumerSt s core x n.toNat w.toNat false = 0)
    (hp : readPoison s core n.toNat w.toNat (a.extractLsb' 0 12).toNat = none) :
    exec (.qpop p w n t) s = token s core x ix [t] (qpopTok s core n.toNat w.toNat a) := by
  refine (congrArg Host.Outcome.next (h.form _)).trans ?_
  simp only [hs, hp, ite_self, bne_self_eq_false, Bool.false_eq_true, if_false]
  rfl

end Sys2Proof.Safety

namespace Sys2Proof.Proofs.QueuesShedding
open Sys2Proof Sys2Proof.Machine Sys2Proof.Safety

/-- Settles O43: the producer forms by the status of the producer and the operand (`Fires.producer`), the consumer forms by their
operand (`Fires.consumer`), and qwait, qpop, qpush and qpol by their own equations. That qstat answers no bits [63:56] of its word, and
the order of the statuses, are the model's choice (log entry 16). -/
theorem queueForms : Obligations.QueueForms := by
  refine ⟨fun s core x ix p n t a => ⟨fun h c => ?producer, fun h ⟨hv, ha, hp⟩ => h.qpush (producerSt_own hv ha hp)⟩,
    fun s core x ix p w n t a h hs => ?consumer⟩
  case producer =>
    refine ⟨fun ⟨hv, ha, hp⟩ small => ?tagged, fun ⟨hv, ha, hp⟩ count => ?gap, fun ⟨hv, ha, hp⟩ large => ?reserved,
      fun hv => ?undefined, fun hv ha => ?foreign, h.qpol c⟩
    case tagged =>
      have good : (a.extractLsb' 24 40 != 0#40) = false := by simpa using (high40_zero_iff a).2 small
      exact ⟨congrArg _ (h.producer c (producerSt_own hv ha hp) good), congrArg _ (h.producer c (producerSt_own hv ha hp) good)⟩
    case gap => exact congrArg _ (h.producer c (producerSt_own hv ha hp) (by simpa using count))
    case reserved =>
      have bad : (a.extractLsb' 24 40 != 0#40) = true := by simpa [high40_zero_iff] using large
      exact congrArg _ (h.producer_badarg c (producerSt_own hv ha hp) bad)
    case undefined => exact congrArg _ (h.producer_refused c (producerSt_undefined hv) (by decide))
    case foreign => exact congrArg _ (h.producer_refused c (producerSt_foreign hv ha) (by decide))
  case consumer =>
    refine ⟨fun h0 hm => ⟨fun enough => ?claims, fun few => ?waits, ?qpadv⟩, fun h0 => ?qadv, fun h0 => ?zero, fun hw => ?qstat,
      fun pa ⟨hz, hc, toks, he, hk⟩ hp => ?poisoned, fun hp => ?pops⟩
    case claims => exact ⟨_, (h.qwait hs h0 hm).trans (if_neg (Nat.not_lt.2 enough)), rfl⟩
    case waits => exact (h.qwait hs h0 hm).trans (if_pos few)
    case qpadv => exact congrArg _ (h.consumer hs (countBad_false h0 hm))
    case qadv => exact congrArg _ (h.consumer hs (by simpa using h0))
    case zero =>
      subst h0
      exact h.qwait_zero hs
    case qstat => exact congrArg _ (h.consumer (consumerSt_stat hs) (by simpa using hw))
    case poisoned =>
      have reads : qpopTok s core n.toNat w.toNat a = entryTok toks (a.extractLsb' 12 9).toNat := by
        rw [qpopTok_eq, if_pos ⟨hz, hc⟩, readableOf, he, Option.bind_some]
      exact h.qpop_poisoned hs (reads ▸ entryTok_isSome hk) hp
    case pops =>
      rw [h.qpop hs hp, qpopTok_eq, readableOf]
      split
      · split <;> next he => rw [he]; rfl
      · rfl

end Sys2Proof.Proofs.QueuesShedding

/-! ## The statements of storage formats: the system registers -/

namespace Sys2Proof.Safety
open Sys2Proof Sys2Proof.Machine

/-! ### A field under a mask -/

/-- A field whose bits the mask all keeps is as it was. -/
theorem extractLsb'_and_kept {w : Nat} (v : BitVec w) {m : BitVec w} {lo n : Nat} (h : m.extractLsb' lo n = BitVec.allOnes n) :
    (v &&& m).extractLsb' lo n = v.extractLsb' lo n := by
  rw [BitVec.extractLsb'_and, h, BitVec.and_allOnes]

/-- A field whose bits the mask all clears reads 0. -/
theorem extractLsb'_and_cleared {w : Nat} (v : BitVec w) {m : BitVec w} {lo n : Nat} (h : m.extractLsb' lo n = 0#n) :
    (v &&& m).extractLsb' lo n = 0#n := by
  rw [BitVec.extractLsb'_and, h, BitVec.and_zero]

/-! ### System registers (R98, R256, R313, R377) -/

section
variable (s : State) (core x : Nat) (v : Word)

/-- MODEF has six bits. -/
theorem ctxOf_sysWrite_modef : ctxOf (sysWrite s core x 2 v) core x = { ctxOf s core x with modef := v.setWidth 6 } :=
  ctxOf_ctxUpd_same ..

/-- ASTAT keeps ST and KND above bit 52 and TAG below bit 24. -/
theorem ctxOf_sysWrite_astat :
    ctxOf (sysWrite s core x 3 v) core x = { ctxOf s core x with astat := v &&& 0xFFF0000000FFFFFF#64 } :=
  ctxOf_ctxUpd_same ..

/-- Word 0 of FLTREC keeps what stands above bit 31. -/
theorem ctxOf_sysWrite_flt0 :
    ctxOf (sysWrite s core x 8 v) core x = { ctxOf s core x with flt0 := v &&& 0xFFFFFFFF00000000#64 } :=
  ctxOf_ctxUpd_same ..

/-- Word 1 of FLTREC takes its 55 address bits. That PV of word 0 stays is the model's choice (log entry 62). -/
theorem ctxOf_sysWrite_flt1 :
    ctxOf (sysWrite s core x 9 v) core x = { ctxOf s core x with flt1 := v &&& 0x007FFFFFFFFFFFFF#64 } :=
  ctxOf_ctxUpd_same ..

theorem ctxOf_sysWrite_flt2 : ctxOf (sysWrite s core x 10 v) core x = { ctxOf s core x with flt2 := v } :=
  ctxOf_ctxUpd_same ..

theorem ctxOf_sysWrite_flt3 : ctxOf (sysWrite s core x 11 v) core x = { ctxOf s core x with flt3 := v } :=
  ctxOf_ctxUpd_same ..

/-- GTSC, CTXID and TALW are only read. -/
theorem ctxOf_sysWrite_readOnly {n : Nat} (h : n = 0 ∨ n = 1 ∨ n = 4) : ctxOf (sysWrite s core x n v) core x = ctxOf s core x := by
  rcases h with rfl | rfl | rfl <;> exact ctxOf_ctxUpd_same ..

/-- A write of any system register is of one context alone. -/
theorem sysWrite_other (n : Nat) {k : Nat} (h : k ≠ ctxKey core x) : (sysWrite s core x n v).ctl.ctxs.at k = s.ctl.ctxs.at k :=
  ctxUpd_other s _ h

theorem sysWrite_mem (n : Nat) : (sysWrite s core x n v).mem = s.mem :=
  ctxUpd_mem ..

end

end Sys2Proof.Safety

namespace Sys2Proof.Proofs.StorageFormats
open Sys2Proof Sys2Proof.Machine Sys2Proof.Safety

/-- Settles O41: the context after a write of each register (`ctxOf_sysWrite_…`), and for ASTAT and the first two words of FLTREC which
fields the mask of the writable bits keeps and which it clears. That a write of word 1 of FLTREC leaves PV as it stands is the model's
choice (log entry 62). -/
theorem systemRegisterWrites : Obligations.SystemRegisterWrites := by
  intro s core x v c w
  have astat : w 3 = { c with astat := v &&& 0xFFF0000000FFFFFF#64 } := ctxOf_sysWrite_astat s core x v
  have flt0 : w 8 = { c with flt0 := v &&& 0xFFFFFFFF00000000#64 } := ctxOf_sysWrite_flt0 s core x v
  have flt1 : w 9 = { c with flt1 := v &&& 0x007FFFFFFFFFFFFF#64 } := ctxOf_sysWrite_flt1 s core x v
  refine ⟨ctxOf_sysWrite_modef s core x v, ?astat, ?flt0, ?flt1, ctxOf_sysWrite_flt2 s core x v, ctxOf_sysWrite_flt3 s core x v,
    fun n => ctxOf_sysWrite_readOnly s core x v, fun n => ⟨fun k => sysWrite_other s core x v n, sysWrite_mem s core x v n⟩⟩
  case astat =>
    rw [astat]
    exact ⟨rfl, extractLsb'_and_kept v (by decide), extractLsb'_and_cleared v (by decide), extractLsb'_and_kept v (by decide)⟩
  case flt0 =>
    rw [flt0]
    exact ⟨rfl, extractLsb'_and_kept v (by decide), extractLsb'_and_cleared v (by decide)⟩
  case flt1 =>
    rw [flt1]
    exact ⟨rfl, extractLsb'_and_kept v (by decide), extractLsb'_and_cleared v (by decide)⟩

end Sys2Proof.Proofs.StorageFormats

/-! ## The statements of the accumulators: the accumulator forms -/

namespace Sys2Proof.Machine

/-! ### The checks of an accumulator set (R109, R311) -/

section
variable {s : State} {core a : Nat} {asid : BitVec 8}

/-- The set of another ASID, whatever the operand fields. -/
theorem accPre_foreign (resv : Bool) (hv : (accOf s core a).v = true) (ha : (accOf s core a).asid ≠ asid) :
    accPre s core a asid resv = .notowner := by
  simp [accPre, hv, ha]

/-- A set that is not of another ASID: an undefined set has no owner to compare (log entry 22). -/
theorem accPre_own (resv : Bool) (own : (accOf s core a).v = false ∨ (accOf s core a).asid = asid) :
    accPre s core a asid resv = if resv then .badrange else .ok := by
  rcases own with h | h <;> simp [accPre, h]

end

/-- A row that an eviction has closed is not open (R119). -/
theorem rowOpen_rowPut_closed (s : State) (core a j : Nat) (r : AccRow) : rowOpen (rowPut s core a j r.closed) core a j = false := by
  simp [rowOpen, rowPut, AccRow.closed, SMap.at_set_same]

/-- The token that acadd adds: its right operand, or a null (R311). -/
def acaddTok : Tok → FTok
  | some v => v.setWidth 48 &&& 0x03FFFFFFFFFF#48
  | none => 0x040000000000#48

end Sys2Proof.Machine

namespace Sys2Proof.Safety
open Sys2Proof Sys2Proof.Machine

/-! ### Fields of a word that are zero -/

/-- A bit of a field that is zero. -/
theorem getLsbD_of_field_zero {v : Word} {lo n i : Nat} (h : v.extractLsb' lo n = 0#n) (hlo : lo ≤ i) (hi : i < lo + n) :
    v.getLsbD i = false := by
  have bit := congrArg (fun f : BitVec n => f.getLsbD (i - lo)) h
  simpa [BitVec.getLsbD_extractLsb', show i - lo < n by omega, show lo + (i - lo) = i by omega] using bit

/-- A field within a field that is zero. -/
theorem field_zero_within {v : Word} {lo n lo' n' : Nat} (h : v.extractLsb' lo n = 0#n) (hlo : lo ≤ lo') (hi : lo' + n' ≤ lo + n) :
    v.extractLsb' lo' n' = 0#n' := by
  ext i hlt
  rw [BitVec.getElem_extractLsb', BitVec.getElem_zero]
  exact getLsbD_of_field_zero h (by omega) (by omega)

/-- The fields of a word from bit k on are zero where its value is below 2^k. -/
theorem field_zero_of_lt {v : Word} {k : Nat} (h : v.toNat < 2 ^ k) (n : Nat) : v.extractLsb' k n = 0#n := by
  apply BitVec.eq_of_toNat_eq
  rw [BitVec.extractLsb'_toNat, Nat.shiftRight_eq_div_pow, Nat.div_eq_of_lt h]
  simp

/-- The low bits of a word are zero where its value is a multiple. -/
theorem low_zero_of_mod {v : Word} {n : Nat} (h : v.toNat % 2 ^ n = 0) : v.extractLsb' 0 n = 0#n := by
  apply BitVec.eq_of_toNat_eq
  rw [BitVec.extractLsb'_toNat, Nat.shiftRight_zero, h]
  simp

/-! ### The accumulator forms (R110, R111, R116, R117, R119, R120, R311, R312) -/

/-- The set that an operand names. -/
abbrev accNamed (s : State) (core : Nat) (l : Word) : AccSet := accOf s core (accSetOf l)

/-- The image of the row that an operand names, as acevict writes it. -/
abbrev namedImage (s : State) (core : Nat) (l : Word) : List Byte :=
  evictImage (accNamed s core l) (s.ac.rows.at (rowKey core (accSetOf l) (accRowOf l))) (l.getLsbD 39)

/-- A command on a set answers a status to both its targets. -/
def accPerforms (s : State) (core x ix : Nat) (t u : BitVec 9) (st : AccSt) : Out :=
  performs s core x ix [t, u] (some (BitVec.ofNat 64 st.code))

/-- A context is held for the row that its operand names. -/
def rowWaits (s : State) (core x : Nat) (l : Word) : Out := .next (ctHold s core x 8 (accSetOf l * 65536 + accRowOf l))

variable {s : State} {core x ix : Nat} {p : BitVec 2} {l r : Word} {t u : BitVec 9}

/-- The set that the left operand names is defined, and of the context's ASID. -/
structure OwnSet (s : State) (core x : Nat) (l : Word) : Prop where
  v : (accNamed s core l).v = true
  asid : (accNamed s core l).asid = (ctxOf s core x).asid

/-- The set that the left operand names is defined, and of another ASID. -/
structure ForeignSet (s : State) (core x : Nat) (l : Word) : Prop where
  v : (accNamed s core l).v = true
  asid : (accNamed s core l).asid ≠ (ctxOf s core x).asid

theorem OwnSet.pre (own : OwnSet s core x l) : accPre s core (accSetOf l) (ctxOf s core x).asid false = .ok :=
  accPre_own false (.inr own.asid)

theorem ForeignSet.pre (far : ForeignSet s core x l) (resv : Bool) :
    accPre s core (accSetOf l) (ctxOf s core x).asid resv = .notowner :=
  accPre_foreign resv far.v far.asid

/-! #### acopen -/

theorem Fires.acopen_undefine (h : Fires s core x ix p true true (some l) (some r)) (c : Commands s core x ix)
    (hs : l.extractLsb' 56 4 = 0#4) (hv : l.getLsbD 55 = false) :
    exec (.acopen p t u) s =
      let y := accUndefine s core (accSetOf l) (ctxOf s core x).asid
      accPerforms y.2 core x ix t u y.1 := by
  refine (congrArg Host.Outcome.next (h.cmd c _)).trans ?_
  simp only [hs, hv, bne_self_eq_false, Bool.false_eq_true, if_false, Bool.not_false, if_true]
  rfl

theorem Fires.acopen_define (h : Fires s core x ix p true true (some l) (some r)) (c : Commands s core x ix)
    (hs : l.extractLsb' 56 4 = 0#4) (hv : l.getLsbD 55 = true) :
    exec (.acopen p t u) s =
      let n := { accImage l r with asid := (ctxOf s core x).asid, rid := (ctxOf s core x).rid }
      let st := accDefine s core (accSetOf l) n (l.extractLsb' 48 7 != 0#7 || l.extractLsb' 30 5 != 0#5 || r.extractLsb' 42 22 != 0#22)
      accPerforms (if st = .ok then accOpenSet s core (accSetOf l) n else s) core x ix t u st := by
  refine (congrArg Host.Outcome.next (h.cmd c _)).trans ?_
  simp only [hs, hv, bne_self_eq_false, Bool.false_eq_true, if_false, Bool.not_true, beq_iff_eq]
  rfl

/-! #### acadd -/

section
variable {k : Tok}

/-- The status of the checks that acadd makes first: owner, reserved bits, element. -/
def acaddSt (s : State) (core x : Nat) (l : Word) : AccSt :=
  let st := accPre s core (accSetOf l) (ctxOf s core x).asid (l.extractLsb' 0 26 != 0#26)
  if st == .ok && (accNamed s core l).v && decide ((accNamed s core l).n ≤ accElemOf l) then .badrange else st

theorem acaddSt_foreign (far : ForeignSet s core x l) : acaddSt s core x l = .notowner := by
  simp [acaddSt, far.pre]

theorem acaddSt_own (own : OwnSet s core x l) (hz : l.extractLsb' 0 26 = 0#26) (he : accElemOf l < (accNamed s core l).n) :
    acaddSt s core x l = .ok := by
  simp [acaddSt, hz, own.pre, Nat.not_le.2 he]

/-- acadd in its turn; its right operand may be null. -/
theorem Fires.acadd (h : Fires s core x ix p true true (some l) k) (c : Commands s core x ix) :
    exec (.acadd p t u) s =
      let a := accSetOf l
      let d := accNamed s core l
      if acaddSt s core x l ≠ .ok then accPerforms s core x ix t u (acaddSt s core x l)
      else if (d.v && rowHeld s core a (accRowOf l) 0) = true then rowWaits (acaddIssue s core x ix l) core x l
      else
        let y := rowAdd (acaddEnd s core x ix) core a (accRowOf l) (accElemOf l) (accScopeOf l) [acaddTok k]
        accPerforms (progress y.2 core d.rid) core x ix t u y.1 := by
  refine (congrArg Host.Outcome.next (h.toCtAt.withCt _)).trans ?_
  simp only [h.ready, c.mem, c.first, Bool.not_true, Bool.or_self, Bool.false_eq_true, if_false, bne_iff_ne, apply_ite Host.Outcome.next]
  rfl

theorem Fires.acadd_foreign (h : Fires s core x ix p true true (some l) k) (c : Commands s core x ix) (far : ForeignSet s core x l) :
    exec (.acadd p t u) s = accPerforms s core x ix t u .notowner := by
  rw [h.acadd c, acaddSt_foreign far]
  rfl

section
variable (h : Fires s core x ix p true true (some l) k) (c : Commands s core x ix) (own : OwnSet s core x l)
  (hz : l.extractLsb' 0 26 = 0#26) (he : accElemOf l < (accNamed s core l).n)
include h c own hz he

theorem Fires.acadd_waits (held : rowHeld s core (accSetOf l) (accRowOf l) 0 = true) :
    exec (.acadd p t u) s = rowWaits (acaddIssue s core x ix l) core x l := by
  simp only [h.acadd c, acaddSt_own own hz he, own.v, held, ne_eq, not_true_eq_false, if_false, Bool.and_self, if_true]

theorem Fires.acadd_adds (free : rowHeld s core (accSetOf l) (accRowOf l) 0 = false) :
    exec (.acadd p t u) s =
      let y := rowAdd (acaddEnd s core x ix) core (accSetOf l) (accRowOf l) (accElemOf l) (accScopeOf l) [acaddTok k]
      accPerforms (progress y.2 core (accNamed s core l).rid) core x ix t u y.1 := by
  simp only [h.acadd c, acaddSt_own own hz he, free, ne_eq, not_true_eq_false, if_false, Bool.and_false, Bool.false_eq_true]

end
end

/-! #### acnorm -/

/-- acnorm of one element to its target, of the context's own set: the temper read waits for scopes, then for its row. -/
theorem Fires.acnorm (h : Fires s core x ix p true true (some l) (some r)) (c : Commands s core x ix) (own : OwnSet s core x l)
    (hs : l.extractLsb' 56 4 = 0#4) (h12 : l.extractLsb' 0 12 = 0#12) (hn : l.extractLsb' 12 14 = 0#14)
    (he : accElemOf l < (accNamed s core l).n) (hr : r.toNat < 2 ^ 16) :
    exec (.acnorm p t u) s =
      let a := accSetOf l
      let j := accRowOf l
      let d := accNamed s core l
      if scopesOpen d (r.setWidth 16) = true then .next (ctHold s core x 7 (scopeIdx d a (r.setWidth 16)))
      else if rowOpen s core a j = false then
        .next (ctPerformed s core x ix [(0, t, none), (1, u, some (BitVec.ofNat 64 AccSt.accrow.code))])
      else if rowHeld s core a j 0 = true then rowWaits s core x l
      else .next (ctPerformed (progress (temperDone s core a j) core d.rid) core x ix
        [(0, t, some (((temperToks d (s.ac.rows.at (rowKey core a j)) false false (accElemOf l) 1).headD 0#48).setWidth 64)),
          (1, u, some 0#64)]) := by
  have noLn : l.getLsbD 11 = false := getLsbD_of_field_zero h12 (by decide) (by decide)
  have noStats : l.getLsbD 10 = false := getLsbD_of_field_zero h12 (by decide) (by decide)
  have low : l.extractLsb' 0 10 = 0#10 := field_zero_within h12 (by decide) (by decide)
  have high := field_zero_of_lt hr 48
  have noQueue : r.getLsbD 22 = false := getLsbD_of_field_zero high (by decide) (by decide)
  have reserved : r.extractLsb' 23 41 = 0#41 := field_zero_within high (by decide) (by decide)
  have inRange : ¬(accNamed s core l).n < accElemOf l + 1 := by omega
  refine (congrArg Host.Outcome.next (h.cmd c _)).trans ?_
  simp only [hs, low, reserved, hn, noLn, noStats, noQueue, own.pre, own.v, inRange, BitVec.toNat_ofNat, Nat.zero_mod, Nat.zero_add,
    bne_self_eq_false, Bool.or_self, Bool.and_false, Bool.false_and, decide_false, Bool.not_true, Bool.false_eq_true, if_false,
    Bool.not_eq_true', apply_ite Host.Outcome.next]
  rfl

/-! #### acevict -/

theorem Fires.acevict_foreign (h : Fires s core x ix p true true (some l) (some r)) (c : Commands s core x ix)
    (far : ForeignSet s core x l) : exec (.acevict p t u) s = accPerforms s core x ix t u .notowner :=
  (congrArg Host.Outcome.next (h.cmd c _)).trans (by simp only [far.pre]; rfl)

/-- What acevict comes to once its image is written: the row is closed where CLOSE is set. -/
def evicted (s : State) (core : Nat) (l : Word) (rid : Nat) : State :=
  let a := accSetOf l
  let j := accRowOf l
  let s1 := progress s core rid
  if l.getLsbD 38 = true then
    rowPut (rowSnap s1 core a j) core a j ((rowSnap s1 core a j).ac.rows.at (rowKey core a j)).closed
  else s1

theorem evicted_open (s : State) (core : Nat) {l : Word} (rid : Nat) (hc : l.getLsbD 38 = false) :
    evicted s core l rid = progress s core rid :=
  if_neg (ne_true_of_eq_false hc)

theorem rowOpen_evicted (s : State) (core : Nat) {l : Word} (rid : Nat) (hc : l.getLsbD 38 = true) :
    rowOpen (evicted s core l rid) core (accSetOf l) (accRowOf l) = false := by
  simp only [evicted, hc, if_true, rowOpen_rowPut_closed]

section
variable (h : Fires s core x ix p true true (some l) (some r)) (c : Commands s core x ix) (own : OwnSet s core x l)
  (hs : l.extractLsb' 56 4 = 0#4) (hz : l.extractLsb' 0 38 = 0#38) (hr : r.extractLsb' 0 6 = 0#6)
include h c own hs hz hr

theorem Fires.acevict_closed (ho : rowOpen s core (accSetOf l) (accRowOf l) = false) :
    exec (.acevict p t u) s = accPerforms s core x ix t u .accrow := by
  refine (congrArg Host.Outcome.next (h.cmd c _)).trans ?_
  simp only [hs, hz, hr, own.pre, ho, bne_self_eq_false, Bool.or_self, Bool.false_eq_true, if_false, Bool.not_false, if_true]
  rfl

theorem Fires.acevict_waits (ho : rowOpen s core (accSetOf l) (accRowOf l) = true)
    (held : rowHeld s core (accSetOf l) (accRowOf l) 0 = true) : exec (.acevict p t u) s = rowWaits s core x l := by
  refine (congrArg Host.Outcome.next (h.cmd c _)).trans ?_
  simp only [hs, hz, hr, own.pre, ho, held, bne_self_eq_false, Bool.or_self, Bool.false_eq_true, if_false, Bool.not_true, if_true]
  rfl

theorem Fires.acevict_writes {s1 : State} (ho : rowOpen s core (accSetOf l) (accRowOf l) = true)
    (free : rowHeld s core (accSetOf l) (accRowOf l) 0 = false)
    (idle : memHeld s ((accNamed s core l).actor s core) .store r.toNat (namedImage s core l).length = false)
    (hw : memWrite s ((accNamed s core l).actor s core) r.toNat (namedImage s core l) = (none, s1)) :
    exec (.acevict p t u) s = accPerforms (evicted s1 core l (accNamed s core l).rid) core x ix t u .ok := by
  refine (congrArg Host.Outcome.next (h.cmd c _)).trans ?_
  simp only [hs, hz, hr, own.pre, ho, free, idle, hw, bne_self_eq_false, Bool.or_self, Bool.false_eq_true, if_false, Bool.not_true]
  unfold evicted
  split <;> rfl

end

/-! #### acload -/

theorem Fires.acload_foreign (h : Fires s core x ix p true true (some l) (some r)) (c : Commands s core x ix)
    (far : ForeignSet s core x l) : exec (.acload p t u) s = accPerforms s core x ix t u .notowner :=
  (congrArg Host.Outcome.next (h.cmd c _)).trans (by simp only [far.pre]; rfl)

/-- The state in which an acload has opened its scope. -/
abbrev loadOpened (s : State) (core : Nat) (l : Word) : State := scopeOpen s core (accSetOf l) (accScopeOf l)

/-- An acload waits: its row is held, or a bank that its image is read from changes its mode. -/
abbrev loadWaits (s : State) (core : Nat) (l r : Word) (d : AccSet) : Bool :=
  rowHeld s core (accSetOf l) (accRowOf l) 0 || memHeld s (d.actor s core) .load r.toNat (imageSize d (l.getLsbD 39))

/-- What acload comes to once its image is read: the row that the image restores stands in the set, or the image is bad. -/
def loaded (s : State) (core x ix : Nat) (l : Word) (t u : BitVec 9) (rid : Nat) : Option AccRow → Out
  | none => accPerforms s core x ix t u .badimg
  | some row => accPerforms (progress (rowReload s core (accSetOf l) (accRowOf l) (l.getLsbD 39) row) core rid) core x ix t u .ok

section
variable (h : Fires s core x ix p true true (some l) (some r)) (c : Commands s core x ix) (own : OwnSet s core x l)
  (hz : l.extractLsb' 0 39 = 0#39) (hr : r.extractLsb' 0 6 = 0#6) (hj : accRowOf l < (accNamed s core l).nrow)
include h c own hz hr hj

theorem Fires.acload_waits (held : loadWaits (loadOpened s core l) core l r (accNamed s core l) = true) :
    exec (.acload p t u) s = rowWaits (loadOpened s core l) core x l := by
  refine (congrArg Host.Outcome.next (h.cmd c _)).trans ?_
  simp only [hz, hr, own.pre, own.v, Nat.not_le.2 hj, held, bne_self_eq_false, Bool.or_self, Bool.false_eq_true, if_false, Bool.not_true,
    if_true]
  rfl

theorem Fires.acload_reads {img : List Byte} {s2 : State} {o : Option AccRow}
    (idle : loadWaits (loadOpened s core l) core l r (accNamed s core l) = false)
    (hm : memRead (loadOpened s core l) ((accNamed s core l).actor (loadOpened s core l) core) r.toNat
      (imageSize (accNamed s core l) (l.getLsbD 39)) = (.inr img, s2))
    (ho : reloadRow (accNamed s core l) (s2.ac.rows.at (rowKey core (accSetOf l) (accRowOf l))) (l.getLsbD 39) img = o) :
    exec (.acload p t u) s = loaded s2 core x ix l t u (accNamed s core l).rid o := by
  refine (congrArg Host.Outcome.next (h.cmd c _)).trans ?_
  simp only [hz, hr, own.pre, own.v, Nat.not_le.2 hj, idle, hm, ho, bne_self_eq_false, Bool.or_self, Bool.false_eq_true, if_false,
    Bool.not_true]
  cases o <;> rfl

end

/-! #### acscope -/

section
variable {n : BitVec 5} (h : Fires s core x ix p true false (some l) (some 0#64)) (turn : Turns s core x n.toNat)
  (own : (accNamed s core l).v = false ∨ (accNamed s core l).asid = (ctxOf s core x).asid)
include h turn own

theorem Fires.acscope_badrange (hz : l.extractLsb' 0 56 ≠ 0#56) :
    exec (.acscope p t n) s = tokenMem s core x ix n.toNat [t] (some (BitVec.ofNat 64 AccSt.badrange.code)) := by
  refine (congrArg Host.Outcome.next (h.mem turn _)).trans ?_
  simp only [accPre_own _ own, bne_iff_ne.2 hz, if_true]
  rfl

/-- acscope whose fields are in range waits for the acadds that its scope has issued, and then closes the scope once R144 lets it. -/
theorem Fires.acscope (hz : l.extractLsb' 0 56 = 0#56) :
    exec (.acscope p t n) s =
      if acaddsWait s core (fun w => accSetOf w.a == accSetOf l && accScopeOf w.a == accScopeOf l) = true then
        .next (ctHold s core x 9 n.toNat)
      else .next (ctIrrev s core x n.toNat (fun v =>
        let y := scopeClose (setIrrev v core x) core (accSetOf l) (accScopeOf l) (ctxOf v core x).asid
        ctDone y.2 core x ix (some n.toNat) (outsOf [t] (some (BitVec.ofNat 64 y.1.code))))) := by
  refine (congrArg Host.Outcome.next (h.mem turn _)).trans ?_
  simp only [accPre_own _ own, hz, bne_self_eq_false, Bool.false_eq_true, if_false, apply_ite Host.Outcome.next]
  rfl

end

end Sys2Proof.Safety

namespace Sys2Proof.Proofs.Accumulators
open Sys2Proof Sys2Proof.Machine Sys2Proof.Safety

/-- Settles O50: acopen by its two meanings; acadd, acevict and acload answer NOTOWNER for a set of another ASID (`ForeignSet`), and on a
set of the context's own (`OwnSet`) each form, acnorm too, meets its waits in their order and then performs what it names. That
acscope finds no owner to compare at an undefined set is log entry 22, the index of each wait log entry 32. -/
theorem accumulatorForms : Obligations.AccumulatorForms := by
  intro s core x ix p t u l r c a j e sc d gives held mine
  have named : mine → OwnSet s core x l := fun ⟨hv, ha⟩ => ⟨hv, ha⟩
  have scope0 : sc = 0 → l.extractLsb' 56 4 = 0#4 := fun h => BitVec.eq_of_toNat_eq h
  have aligned : r.toNat % 64 = 0 → r.extractLsb' 0 6 = 0#6 := fun h => low_zero_of_mod h
  refine ⟨fun cmd h => ⟨fun hs => h.acopen_undefine cmd (scope0 hs), fun hs => h.acopen_define cmd (scope0 hs), fun hv ha => ?foreign,
      fun own hz he => ⟨h.acadd_waits cmd (named own) hz he, h.acadd_adds cmd (named own) hz he⟩,
      fun own hs h12 hn he hr => ?acnorm, fun own hs hz hr => ?acevict, fun own hz hr hj => ?acload⟩,
    fun cmd h own hz he => h.acadd_adds cmd (named own) hz he,
    fun m h turn => ⟨fun hz own => h.acscope_badrange turn own hz, fun hz own wait => (h.acscope turn own hz).trans (if_pos wait),
      fun s1 hz own idle allow => ?acscope⟩⟩
  case foreign =>
    have far : ForeignSet s core x l := ⟨hv, ha⟩
    exact ⟨h.acadd_foreign cmd far, h.acevict_foreign cmd far, h.acload_foreign cmd far⟩
  case acnorm =>
    have norm := h.acnorm (t := t) (u := u) cmd (named own) (scope0 hs) h12 hn he hr
    refine ⟨fun wait => norm.trans (if_pos wait), fun closed => ?_⟩
    have norm := norm.trans (if_neg (ne_true_of_eq_false closed))
    refine ⟨fun shut => norm.trans (if_pos shut), fun ho wait => ?_, fun ho free => ?_⟩
    · exact norm.trans ((if_neg (ne_false_of_eq_true ho)).trans (if_pos wait))
    · exact norm.trans ((if_neg (ne_false_of_eq_true ho)).trans (if_neg (ne_true_of_eq_false free)))
  case acevict =>
    exact ⟨h.acevict_closed cmd (named own) (scope0 hs) hz (aligned hr), h.acevict_waits cmd (named own) (scope0 hs) hz (aligned hr),
      fun s1 ho free idle hw => ⟨evicted s1 core l d.rid, h.acevict_writes cmd (named own) (scope0 hs) hz (aligned hr) ho free idle hw,
        evicted_open s1 core d.rid, rowOpen_evicted s1 core d.rid⟩⟩
  case acload =>
    refine ⟨fun wait => h.acload_waits cmd (named own) hz (aligned hr) hj (Bool.or_eq_true_iff.2 wait), fun img s2 free idle hm => ?_⟩
    have idle := Bool.or_eq_false_iff.2 ⟨free, idle⟩
    exact ⟨h.acload_reads cmd (named own) hz (aligned hr) hj idle hm, fun row => h.acload_reads cmd (named own) hz (aligned hr) hj idle hm⟩
  case acscope =>
    refine (h.acscope turn own hz).trans ((if_neg (ne_true_of_eq_false idle)).trans ?_)
    rw [allow.irrev]
    rfl

end Sys2Proof.Proofs.Accumulators

/-! ## The statements of the landing zones: the zone forms -/

namespace Sys2Proof.Machine

/-- The zres requests that count against the reservation table of a core: its records, and the requests that await their reply (R129, log
entry 60). -/
def zresAsked (s : State) (core : Nat) : Nat :=
  (s.zn.resv.at core).length + (s.ctl.pend.filter (fun w => w.core == core && w.kind == .zres)).length

/-- The status with which the sender refuses a zres: the first of its checks that fails (R127). -/
def zresRefusal (s : State) (core : Nat) (l : Word) : Option ResvSt :=
  if l.extractLsb' 19 22 ≠ 0#22 then some .badh
  else if l.getLsbD 7 = false ∧ (s.xl.peers.at (l.extractLsb' 0 7).toNat).v = false then some .nopeer
  else if 64 ≤ zresAsked s core then some .norec
  else none

section
variable {s : State} {core : Nat} {l : Word}

theorem zresRefusal_reserved (hz : l.extractLsb' 19 22 ≠ 0#22) : zresRefusal s core l = some .badh := if_pos hz

theorem zresRefusal_noPeer (hz : l.extractLsb' 19 22 = 0#22) (far : l.getLsbD 7 = false)
    (hv : (s.xl.peers.at (l.extractLsb' 0 7).toNat).v = false) : zresRefusal s core l = some .nopeer := by
  rw [zresRefusal, if_neg (not_not_intro hz), if_pos ⟨far, hv⟩]

/-- Past the checks of the handle, the table's room decides. -/
theorem zresRefusal_named (hz : l.extractLsb' 19 22 = 0#22)
    (named : l.getLsbD 7 = true ∨ (s.xl.peers.at (l.extractLsb' 0 7).toNat).v = true) :
    zresRefusal s core l = if 64 ≤ zresAsked s core then some .norec else none := by
  have peer : ¬(l.getLsbD 7 = false ∧ (s.xl.peers.at (l.extractLsb' 0 7).toNat).v = false) := by
    rintro ⟨far, hv⟩
    rcases named with loc | v
    · exact absurd loc (ne_true_of_eq_false far)
    · exact absurd v (ne_true_of_eq_false hv)
  rw [zresRefusal, if_neg (not_not_intro hz), if_neg peer]

end

end Sys2Proof.Machine

namespace Sys2Proof.Safety
open Sys2Proof Sys2Proof.Machine

/-! ### The zone forms (R126, R127, R132, R136, R307) -/

variable {s : State} {core x ix : Nat} {p : BitVec 2} {l r : Word} {t u : BitVec 9}

/-- zrel answers the status of the release that its operand names (R136). -/
theorem Fires.zrel (h : Fires s core x ix p true true (some l) (some r)) (c : Commands s core x ix) :
    exec (.zrel p t u) s =
      let q := zoneRel s core (l.extractLsb' 0 3).toNat (l.extractLsb' 3 6).toNat (l.getLsbD 9) (l.extractLsb' 10 54 != 0#54)
        (ctxOf s core x).asid
      performs q.2 core x ix [t, u] (some (stTok q.1.code)) :=
  congrArg Host.Outcome.next (h.cmd c _)

/-- zbar answers the status of the barrier that its operands name (R132). -/
theorem Fires.zbar (h : Fires s core x ix p true true (some l) (some r)) (c : Commands s core x ix) :
    exec (.zbar p t u) s =
      let q := zoneBar s core (l.extractLsb' 0 3).toNat (l.extractLsb' 3 6).toNat (r.extractLsb' 52 12).toNat (r.extractLsb' 0 21).toNat
        (l.extractLsb' 9 6).toNat (l.extractLsb' 15 49 != 0#49 || r.extractLsb' 21 31 != 0#31) (ctxOf s core x).asid
      performs q.2 core x ix [t, u] (some (stTok q.1.code)) :=
  congrArg Host.Outcome.next (h.cmd c _)

/-! #### zanno -/

/-- The zone that the right operand of zanno names. -/
abbrev zoneNamed (s : State) (core : Nat) (r : Word) : Zone := zoneOf s core (r.extractLsb' 0 3).toNat

/-- A zanno answers a status to both its targets. -/
def zonePerforms (s : State) (core x ix : Nat) (t u : BitVec 9) (st : ZoneSt) : Out :=
  performs s core x ix [t, u] (some (stTok st.code))

section
variable (h : Fires s core x ix p true true (some l) (some r)) (c : Commands s core x ix)
include h c

theorem Fires.zanno_reserved (hr : r.extractLsb' 4 60 ≠ 0#60) :
    exec (.zanno p t u) s = zonePerforms s core x ix t u .badzone :=
  (congrArg Host.Outcome.next (h.cmd c _)).trans (congrArg _ (if_pos (by simp [hr])))

/-- A zone of another ASID is LIVE, to define and to undefine. -/
theorem Fires.zanno_foreign (hr : r.extractLsb' 4 60 = 0#60) (al : r.getLsbD 3 = true ∨ l.toNat % 64 = 0)
    (hv : (zoneNamed s core r).v = true) (ha : (zoneNamed s core r).asid ≠ (ctxOf s core x).asid) :
    exec (.zanno p t u) s = zonePerforms s core x ix t u .live := by
  have good : (r.extractLsb' 4 60 != 0#60 || (!r.getLsbD 3 && l.toNat % 64 != 0)) = false := by
    rcases al with h | h <;> simp [hr, h]
  refine (congrArg Host.Outcome.next (h.cmd c _)).trans (congrArg _ ?_)
  exact (if_neg (ne_true_of_eq_false good)).trans (if_pos (Bool.and_eq_true_iff.2 ⟨hv, bne_iff_ne.2 ha⟩))

/-- Undefining a zone that is not there is OK, and the zone's own operation decides for one of the context's ASID. -/
theorem Fires.zanno_undefine (hr : r.extractLsb' 4 60 = 0#60) (hu : r.getLsbD 3 = true)
    (own : (zoneNamed s core r).v = true → (zoneNamed s core r).asid = (ctxOf s core x).asid) :
    exec (.zanno p t u) s =
      if (zoneNamed s core r).v = false then zonePerforms s core x ix t u .ok
      else
        let q := zoneUndefine s core (r.extractLsb' 0 3).toNat
        zonePerforms q.2 core x ix t u q.1 := by
  have mine : ((zoneNamed s core r).v && (zoneNamed s core r).asid != (ctxOf s core x).asid) = false := by simpa using own
  refine (congrArg Host.Outcome.next (h.cmd c _)).trans ?_
  simp only [hr, hu, mine, bne_self_eq_false, Bool.not_true, Bool.false_and, Bool.or_self, Bool.false_eq_true, if_false, if_true,
    Bool.not_eq_true', apply_ite Host.Outcome.next]
  rfl

/-- Once its header is read, defining a zone answers the first check that fails (R126). -/
theorem Fires.zanno_define {ws : List Word} {s1 : State} (hr : r.extractLsb' 4 60 = 0#60) (hd : r.getLsbD 3 = false)
    (hl : l.toNat % 64 = 0) (own : (zoneNamed s core r).v = true → (zoneNamed s core r).asid = (ctxOf s core x).asid)
    (hm : memWords s (ctxActor core (ctxOf s core x)) l.toNat 8 = (.inr ws, s1)) :
    exec (.zanno p t u) s =
      let z := (r.extractLsb' 0 3).toNat
      let n := Zone.ofWords ws (ctxOf s core x).asid (ctxOf s core x).rid
      let st := zoneDefCheck s1 core z n.1 n.2
      zonePerforms (if st = .ok then zoneDefine s1 core z n.1 else s1) core x ix t u st := by
  have mine : ((zoneNamed s core r).v && (zoneNamed s core r).asid != (ctxOf s core x).asid) = false := by simpa using own
  refine (congrArg Host.Outcome.next (h.cmd c _)).trans ?_
  simp only [hr, hd, hl, hm, mine, bne_self_eq_false, Bool.and_false, Bool.or_self, Bool.false_eq_true, if_false]
  rfl

/-! #### zres -/

/-- A zres that the sender refuses answers the status, and no slot (R127). -/
theorem Fires.zres_refused {st : ResvSt} (hs : zresRefusal s core l = some st) :
    exec (.zres p t u) s = performs s core x ix [t, u] (some (resvWord st 0#16 0)) := by
  refine congrArg Host.Outcome.next ((h.cmd c _).trans ?_)
  unfold zresRefusal at hs
  split_ifs at hs with reserved noPeer full <;> cases hs
  · exact if_pos (bne_iff_ne.2 reserved)
  · exact (if_neg (by simpa using reserved)).trans (if_pos (by simpa using noPeer))
  · exact (if_neg (by simpa using reserved)).trans ((if_neg (by simpa using noPeer)).trans (if_pos full))

/-- A zres for a slot of this module sends its request and waits for the reply in its frame (R127, R307). -/
theorem Fires.zres_here (hs : zresRefusal s core l = none) (loc : l.getLsbD 7 = true) :
    exec (.zres p t u) s = .next (pushEv (pendIssue (setIrrev s core x) core x ix .zres 18 0 l 0#64 0#64) .reservationRequest
      { (default : EvArg) with load := .resv {
          zh := l, node := nodeId s, core := BitVec.ofNat 8 core, ctx := BitVec.ofNat 3 x, ring := r.extractLsb' 0 6
          inPort := none, outPort := none } }) := by
  refine congrArg Host.Outcome.next ((h.cmd c _).trans ?_)
  unfold zresRefusal at hs
  split_ifs at hs with reserved noPeer full
  exact (if_neg (by simpa using reserved)).trans
    ((if_neg (by simpa using noPeer)).trans ((if_neg full).trans (if_pos loc)))

end

end Sys2Proof.Safety

namespace Sys2Proof.Proofs.LandingZones
open Sys2Proof Sys2Proof.Machine Sys2Proof.Safety

/-- Settles O49: zrel and zbar by their equations; zanno by its refusals, and by the zone's own operation where none applies; zres by the
first of the sender's checks that fails (`zresRefusal`), and by its request where none does. That a zres which awaits its reply counts
among the 64 is log entry 60, its wait code 18 log entry 32. -/
theorem zoneForms : Obligations.ZoneForms := by
  intro s core x ix p t u l r h cmd c gives
  refine ⟨h.zrel cmd, h.zbar cmd, ⟨h.zanno_reserved cmd, fun hr hu => ⟨h.zanno_foreign cmd hr (.inl hu), fun hv => ?free, fun hv ha => ?own⟩,
    fun hr hd hl own ws s1 => h.zanno_define cmd hr hd hl own⟩, ?zres⟩
  case free => exact (h.zanno_undefine cmd hr hu (fun v => absurd v (ne_true_of_eq_false hv))).trans (if_pos hv)
  case own => exact (h.zanno_undefine cmd hr hu (fun _ => ha)).trans (if_neg (ne_false_of_eq_true hv))
  case zres =>
    exact ⟨fun hz => h.zres_refused cmd (zresRefusal_reserved hz), fun hz far hv => h.zres_refused cmd (zresRefusal_noPeer hz far hv),
      fun hz named full => h.zres_refused cmd ((zresRefusal_named hz named).trans (if_pos full)),
      fun hz loc room => h.zres_here cmd ((zresRefusal_named hz (.inl loc)).trans (if_neg (Nat.not_le.2 room))) loc⟩

end Sys2Proof.Proofs.LandingZones

/-! ## The statements of the order core: loads, stores and streams -/

namespace Sys2Proof.Machine

/-! ### Bytes of a range, and bytes that several writes put (R3) -/

theorem Mem.length_getN (m : List Host.Cell) : ∀ n a : Nat, (Mem.getN m a n).length = n
  | 0, _ => rfl
  | n + 1, a => congrArg (· + 1) (Mem.length_getN m n (a + 1))

/-- A byte of a range is the byte at its address. -/
theorem Mem.getN_getElem? (m : List Host.Cell) : ∀ n a i : Nat, i < n → (Mem.getN m a n)[i]? = some (Mem.get m (a + i))
  | 0, _, i, h => absurd h (Nat.not_lt_zero i)
  | _ + 1, _, 0, _ => rfl
  | n + 1, a, i + 1, h => by
    rw [Mem.getN, List.getElem?_cons_succ, Mem.getN_getElem? m n (a + 1) i (Nat.lt_of_succ_lt_succ h), Nat.add_right_comm a 1 i,
      Nat.add_assoc]

/-- Memory in which the bytes of a store stand. -/
def Mem.putStore (m : List Host.Cell) (p : PendStore) : List Host.Cell := Mem.putN m p.pa p.bytes

/-- Does a store cover an address? -/
abbrev PendStore.Covers (p : PendStore) (y : Nat) : Prop := p.pa ≤ y ∧ y < p.pa + p.bytes.length

/-- A byte that no store covers stands as before them. -/
theorem Mem.get_putStores_uncovered {y : Nat} : ∀ (ps : List PendStore) (m : List Host.Cell), (∀ q ∈ ps, ¬q.Covers y) →
    Mem.get (ps.foldl Mem.putStore m) y = Mem.get m y
  | [], _, _ => rfl
  | p :: ps, m, h => by
    have first : ¬p.Covers y := h p List.mem_cons_self
    rw [List.foldl_cons, Mem.get_putStores_uncovered ps _ (fun q hq => h q (List.mem_cons_of_mem p hq))]
    exact Mem.get_putN_outside p.bytes m p.pa y (by omega)

/-- A byte that stores cover is the byte of the last of them. -/
theorem Mem.get_putStores_last {p : PendStore} {y : Nat} (before after : List PendStore) (m : List Host.Cell) (hp : p.Covers y)
    (ha : ∀ q ∈ after, ¬q.Covers y) :
    some (Mem.get ((before ++ p :: after).foldl Mem.putStore m) y) = p.bytes[y - p.pa]? := by
  obtain ⟨lo, hi⟩ := hp
  rw [List.foldl_append, List.foldl_cons, Mem.get_putStores_uncovered after _ ha,
    ← Mem.get_putN_inside p.bytes (before.foldl Mem.putStore m) p.pa (y - p.pa) (by omega), Nat.add_sub_cancel' lo]
  rfl

/-! ### How many bytes a read gives -/

variable {s t : State} {a : Actor} {mt : MType} {pa n core l : Nat} {home : Bool} {c : Ctx} {bs : List Byte}

theorem dramRead_length (s : State) (a : Actor) (pa n : Nat) (u : Bool) : (dramRead s a pa n u).1.length = n := by
  simp [dramRead]

theorem ccRead_length (h : (ccRead s a pa n).1 = some bs) : bs.length = n := by
  -- the sector may have been filled first; what is read after that has n bytes
  unfold ccRead at h
  generalize (if ((ccHit s a pa).isNone && !(ccWays s a.core (ccSlice pa)).isEmpty) = true then ccFill s a pa false else s) = u at h
  dsimp only at h
  split at h
  · split at h
    · cases h
    · rw [← Option.some.inj h]
      exact dramRead_length ..
  · split at h
    · cases h
    · rw [← Option.some.inj h, List.length_map, List.length_range]

theorem performRead_length (h : (performRead s a mt pa n).1 = .ok bs) : bs.length = n := by
  unfold performRead at h
  split at h
  case h_1 =>
    split at h
    · cases h
    · split at h <;> cases h
      simp
  case h_2 =>
    split at h <;> cases h
    exact Mem.length_getN ..
  case h_3 =>
    split at h
    · dsimp only at h
      split at h <;> cases h
      exact ccRead_length ‹_›
    · split at h
      · cases h
      · cases mt <;> cases h
        · exact dramRead_length ..
        · exact dramRead_length ..
        · simp
  case h_4 =>
    cases h
    exact Mem.length_getN ..

/-! ### What a load of a block reads (R142, R163, R258) -/

/-- At a place other than a device target a load reads the home point or memory. -/
theorem loadAt_memory (core : Nat) (c : Ctx) (mt : MType) (n : Nat) (home : Bool) (s : State) (hr : ∀ d o, place pa ≠ .regs d o)
    (hn : ∀ d k o, place pa ≠ .notify d k o) :
    loadAt core c mt pa n home s = if home then homeRead s (ctxActor core c) mt pa n else performRead s (ctxActor core c) mt pa n := by
  unfold loadAt
  split
  · exact absurd ‹_› (hr _ _)
  · exact absurd ‹_› (hn _ _ _)
  · rfl

theorem loadAt_length (hr : ∀ d o, place pa ≠ .regs d o) (hn : ∀ d k o, place pa ≠ .notify d k o)
    (h : (loadAt core c mt pa n home s).1 = .ok bs) : bs.length = n := by
  rw [loadAt_memory core c mt n home s hr hn] at h
  cases home
  · exact performRead_length h
  · exact performRead_length h

/-- In an anvil window a load gives the bytes of memory. -/
theorem loadAt_anvil {d o : Nat} (hp : place pa = .anvil d o) (h : (loadAt core c mt pa n home s).1 = .ok bs) :
    bs = Mem.getN s.mem pa n := by
  have read (a : Actor) (h : (performRead s a mt pa n).1 = .ok bs) : bs = Mem.getN s.mem pa n := by
    simp only [performRead, hp] at h
    split at h <;> cases h
    rfl
  have sync : homeSync s core pa = s := if_pos (by simp [hp])
  rw [loadAt_memory core c mt n home s (by simp [hp]) (by simp [hp])] at h
  cases home
  · exact read _ h
  · refine read { ctxActor core c with path := .inb } ?_
    rw [if_pos rfl, homeRead, show homeSync s (ctxActor core c).core pa = s from sync] at h
    exact h

/-- What a read that is performed gives: the bytes as they stand after the lower stores of the block, and the state after a read
without them. -/
theorem ctRead_some {x : Nat} (h : ctRead s core x l mt pa n home = (some bs, t)) :
    (loadAt core (ctxOf s core x) mt pa n home (if (frameOf s core x).storesWait l then storesBelow s core x l else s)).1 = .ok bs ∧
      t = (loadAt core (ctxOf s core x) mt pa n home s).2 := by
  unfold ctRead at h
  dsimp only at h
  rw [apply_ite (fun u => (loadAt core (ctxOf s core x) mt pa n home u).1)]
  split at h
  · rename_i v hv
    simp only [Prod.mk.injEq, Option.some.injEq] at h
    exact ⟨hv.trans (congrArg _ h.1), h.2.symm⟩
  · cases h

/-- The stores of a block below an LSID, in ascending LSID. -/
def lowerStores (s : State) (core x l : Nat) : List PendStore :=
  ((List.range l).map (fun k => (frameOf s core x).stores.filter (fun p => p.lsid == k))).flatten

/-- A block with a store below an LSID has stores that wait. -/
theorem storesWait_of_mem {x : Nat} {p : PendStore} (h : p ∈ lowerStores s core x l) : (frameOf s core x).storesWait l = true := by
  obtain ⟨ps, hps, hp⟩ := List.mem_flatten.1 h
  obtain ⟨k, hk, rfl⟩ := List.mem_map.1 hps
  obtain ⟨mem, lsid⟩ := List.mem_filter.1 hp
  have below : p.lsid < l := by
    rw [beq_iff_eq.1 lsid]
    exact List.mem_range.1 hk
  exact List.any_eq_true.2 ⟨p, mem, decide_eq_true below⟩

/-- A store without a scope to an anvil window. -/
def PendStore.ToAnvil (p : PendStore) : Prop := p.rel = none ∧ ∃ d o, place p.pa = .anvil d o

end Sys2Proof.Machine

namespace Sys2Proof.Safety
open Sys2Proof Sys2Proof.Machine

/-! ### What a read changes, and the stores that it sees (R142, R144, R163) -/

variable {s t : State}

theorem MemSide.ctl (h : MemSide s t) : t.ctl = s.ctl := by rw [h.rest]

theorem MemSide.xl (h : MemSide s t) : t.xl = s.xl := by rw [h.rest]

theorem homeSync_side (s : State) (core pa : Nat) : MemSide s (homeSync s core pa) := by
  unfold homeSync
  split
  · exact .refl s
  · refine MemSide.foldl _ (fun s b => ?_) _ s
    dsimp only
    exact .ite ((ccBack_side s ..).trans (.of rfl id rfl)) (.refl s)

theorem homeRead_side (s : State) (a : Actor) (mt : MType) (pa n : Nat) : MemSide s (homeRead s a mt pa n).2 :=
  (homeSync_side s a.core pa).trans (performRead_side ..)

theorem loadAt_side (core : Nat) (c : Ctx) (mt : MType) (pa n : Nat) (home : Bool) (s : State) :
    MemSide s (loadAt core c mt pa n home s).2 := by
  unfold loadAt
  split
  · exact .refl s
  · exact .refl s
  · split
    · exact homeRead_side ..
    · exact performRead_side ..

/-- A read of a block changes the memory side alone, whatever it answers. -/
theorem ctRead_side (s : State) (core x l : Nat) (mt : MType) (pa n : Nat) (home : Bool) :
    MemSide s (ctRead s core x l mt pa n home).2 := by
  unfold ctRead
  dsimp only
  split <;> exact loadAt_side ..

/-- Stores to anvil windows, performed in order, put their bytes one after another. -/
theorem storesPerform_anvil_mem (core : Nat) (c : Ctx) : ∀ (ps : List PendStore) (s : State), staleGen s c.asid c.gen = false →
    (∀ p ∈ ps, p.ToAnvil) → (ps.foldl (storePerform core c) s).mem = ps.foldl Mem.putStore s.mem
  | [], _, _, _ => rfl
  | p :: ps, s, live, h => by
    obtain ⟨hr, d, o, hp⟩ := h p List.mem_cons_self
    have one : storePerform core c s p = (performWrite s (ctxActor core c) (MType.ofBits p.mt) p.pa p.bytes).2 :=
      storePerform_own core c hr (.inr (.inr ⟨d, o, hp⟩))
    have live' : staleGen (storePerform core c s p) c.asid c.gen = false := by
      rw [one, staleGen, (performWrite_side ..).xl]
      exact live
    have mem : (storePerform core c s p).mem = Mem.putStore s.mem p := by
      rw [one]
      exact performWrite_anvil_mem p.bytes live hp _
    rw [List.foldl_cons, List.foldl_cons, storesPerform_anvil_mem core c ps _ live' (fun q hq => h q (List.mem_cons_of_mem p hq)), mem]

/-- Memory once the stores of a block below an LSID are performed, where they go to anvil windows. -/
theorem storesBelow_anvil_mem {core x l : Nat} (live : staleGen s (ctxOf s core x).asid (ctxOf s core x).gen = false)
    (h : ∀ p ∈ lowerStores s core x l, p.ToAnvil) :
    (storesBelow s core x l).mem = (lowerStores s core x l).foldl Mem.putStore s.mem :=
  storesPerform_anvil_mem core (ctxOf s core x) (lowerStores s core x l)
    (frameUpd s core x (fun f => { f with stores := f.stores.filter (fun p => l ≤ p.lsid) })) live h

/-! ### Loads (R254, R258, R259) -/

/-- An instruction that is a load, at its address and width, sends the bytes that it reads, extended, after the read. -/
theorem Fires.load_sends {core x ix n pa : Nat} {p : BitVec 2} {l : BitVec 5} {t : BitVec 9} {a : Word} {mt : MType}
    {s1 s0 s2 u : State} {bs : List Byte} {home : Bool} {addr ext : Word → Word} {i : Instr}
    (h : Fires s core x ix p true false (some a) (some 0#64)) (ht : Turns s core x l.toNat)
    (hm : mt ≠ MType.dev ∧ s0 = s1 ∨ mt = .dev ∧ Allows s1 core x l.toNat s0)
    (hi : exec i s = .next (ctLoad s p l t n home addr ext))
    (hr : Reaches s core x ix (addr a) .load n mt pa s1 ∧ ctRead s0 core x l.toNat mt pa n home = (some bs, s2))
    (hu : u = if home then ccInval s2 core else s2) :
    exec i s = tokenMem (if mt = .dev then setIrrev u core x else u) core x ix l.toNat [t] (some (ext (leWord bs))) := by
  subst hu
  exact hi.trans (congrArg Host.Outcome.next (h.load ht hm hr.1 hr.2))

/-! ### Stores (R143, R262, R263) -/

section
variable {core x ix : Nat}

/-- A change of the frame before one of the frame and its context. -/
theorem FrameOnly.after_frameUpd {g : Frame → Frame} (h : FrameOnly (frameUpd s core x g) t core x) : FrameOnly s t core x :=
  ⟨h.rest, fun k hk => (h.frames k hk).trans (SMap.at_upd_other s.ctl.frames g hk), h.ctxs, h.ctx⟩

/-- A store that waits fires its instruction, completes its LSID and joins the stores of its frame. -/
theorem ctPend_eq {l : Nat} (st : PendStore) (own : (frameOf s core x).lsidDone l = false) :
    ctPend s core x ix l st =
      ctLsid (ctFired (frameUpd s core x (fun f => { f with stores := f.stores ++ [st] })) core x ix) core x l := by
  have fresh : (frameOf (ctFired (frameUpd s core x (fun f => { f with stores := f.stores ++ [st] })) core x ix) core x).lsidDone l =
      false := by
    rw [frameOf_ctFired, frameOf_frameUpd]
    exact own
  simp only [ctPend, ctDone, fresh, Bool.false_eq_true, if_false, ctSend]

theorem ctPend_only {l : Nat} (st : PendStore) (own : (frameOf s core x).lsidDone l = false) :
    FrameOnly s (ctPend s core x ix l st) core x := by
  rw [ctPend_eq st own]
  exact ((ctFired_only ..).upd _).after_frameUpd

theorem frameOf_ctPend {l : Nat} (st : PendStore) (own : (frameOf s core x).lsidDone l = false) :
    frameOf (ctPend s core x ix l st) core x =
      let f := lsidIn (firedIn (frameOf s core x) ix) l
      { f with stores := f.stores ++ [st] } := by
  rw [ctPend_eq st own, ctLsid, frameOf_frameUpd, frameOf_ctFired, frameOf_frameUpd]
  rfl

/-- A store whose access passes its checks at a place of this module waits for the commit. -/
theorem Fires.store_waits {n pa : Nat} {p : BitVec 2} {l : BitVec 5} {a b : Word} {mt : MType} {s1 : State} {rel : Option Nat}
    {addr : Word → Word} (h : Fires s core x ix p true true (some a) (some b)) (ht : Turns s core x l.toNat)
    (hr : Reaches s core x ix (addr a) .store n mt pa s1) :
    ctStore s p l n rel addr = ctPend s1 core x ix l.toNat
      { ix := ix, lsid := l.toNat, va := addr a, pa := pa, mt := mt.bits, bytes := leBytes n b.toNat, rel := rel } := by
  unfold ctStore
  rw [h.mem ht]
  simp only [hr.passes, MRes.at_, Bool.false_eq_true, if_false]
  split
  · exact absurd ‹_› (hr.here _ _)
  · rfl

end

/-! ### What translation leaves (R22, R25, R31) -/

theorem pteRead_ctl (s : State) (pa : Nat) : (pteRead s pa).2.ctl = s.ctl := by
  unfold pteRead
  split
  · rfl
  · exact (MemSide.trans (.ite (.refl s) (stackRead_side s pa)) (l2Touch_side ..)).ctl

/-- A level of a walk keeps the control threads where what goes on from a table entry keeps them. -/
theorem walkStep_ctl {asid : BitVec 8} {gen : BitVec 16} {va : Word} {level t idx : Nat} {k : State → Word → WalkOut × State}
    (hk : ∀ u p, (k u p).2.ctl = u.ctl) : (walkStep s asid gen va level t idx k).2.ctl = s.ctl := by
  unfold walkStep
  dsimp only
  split
  · exact pteRead_ctl ..
  · split
    · exact pteRead_ctl ..
    · split
      · exact pteRead_ctl ..
      · exact (hk ..).trans (pteRead_ctl ..)

theorem walk3_ctl (s : State) (asid : BitVec 8) (gen : BitVec 16) (va : Word) (t : Nat) : (walk3 s asid gen va t).2.ctl = s.ctl :=
  walkStep_ctl fun _ _ => rfl

theorem walk2_ctl (s : State) (die : Nat) (asid : BitVec 8) (gen : BitVec 16) (va : Word) (t : Nat) :
    (walk2 s die asid gen va t).2.ctl = s.ctl :=
  walkStep_ctl fun _ _ => walk3_ctl ..

theorem walk_ctl (s : State) (die : Nat) (asid : BitVec 8) (gen : BitVec 16) (va : Word) : (walk s die asid gen va).2.ctl = s.ctl := by
  unfold walk
  dsimp only
  split
  · rfl
  · split
    · rfl
    · split
      · exact walk3_ctl ..
      · split
        · exact walk2_ctl ..
        · exact walkStep_ctl fun _ _ => walk2_ctl ..

theorem installLeaf_ctl (s : State) (l : Tlb) (va : Word) : (installLeaf s l va).2.ctl = s.ctl := by
  unfold installLeaf
  dsimp only
  split
  · dsimp only
    generalize (if l.big then { l with big := false, vpn := va.extractLsb' 16 39, ppn := BitVec.ofNat 36 (leafPa l va / 0x10000) }
      else l) = m
    split
    · exact (dramCommit_side ..).ctl
    · rfl
  · rfl

/-- A translation leaves the control threads. -/
theorem translate_ctl (s : State) (a : Actor) (va : Word) (acc : Acc) (n : Nat) : (Machine.translate s a va acc n).2.ctl = s.ctl := by
  unfold Machine.translate
  dsimp only
  split
  · split <;> rfl
  · split
    · rfl
    · split
      · rfl
      · split
        · rfl
        · split
          · exact (installLeaf_ctl ..).trans (walk_ctl ..)
          · exact walk_ctl ..

/-- So do the checks of an access. -/
theorem ctTranslate_ctl (s : State) (core : Nat) (c : Ctx) (ix : Nat) (va : Word) (acc : Acc) (n : Nat) :
    (ctTranslate s core c ix va acc n).2.ctl = s.ctl := by
  unfold ctTranslate ctTranslateBut
  dsimp only
  split
  · rfl
  · split
    · rfl
    · split
      · exact translate_ctl ..
      · generalize (if (acc == Acc.ldred) = true then _ else _) = pa
        split
        · exact translate_ctl ..
        · split
          · split <;> exact translate_ctl ..
          · exact translate_ctl ..

/-! ### Streams and banks (R291, R292, R293, R299) -/

section
variable {core x ix : Nat} {p : BitVec 2} {l : BitVec 5} {k : BitVec 8} {t : BitVec 9} {a : Word}

/-- The stream that a descriptor describes. -/
abbrev streamFrom (ws : List Word) : Stream := { (default : Stream) with desc := ws }

/-- sopen that has its descriptor does what the descriptor says, for the context as it was: neither the checks of the address nor the
read change it. -/
theorem Fires.sopen {pa : Nat} {mt : MType} {s1 s2 : State} {ws : List Word}
    (h : Fires s core x ix p true false (some a) (some 0#64)) (ht : Turns s core x l.toNat)
    (hx : ctTranslate s core (ctxOf s core x) ix a .load 64 = (.at_ pa mt, s1)) (here : ∀ q o, place pa ≠ .remote q o)
    (hd : descRead s1 core x l.toNat mt pa = (some ws, s2)) :
    exec (.sopen p l k t) s = .next (sopenWith s2 core x ix l.toNat k.toNat t a ws) ∧ ctxOf s2 core x = ctxOf s core x := by
  refine ⟨congrArg Host.Outcome.next ((h.mem ht _).trans ?_), ?_⟩
  · -- by `here` the access takes the branch of a place of this module
    simp only [hx, hd, MRes.at_, Bool.false_eq_true, if_false]
  · have read : s2.ctl = s1.ctl := (congrArg (·.2.ctl) hd).symm.trans (ctRead_side ..).ctl
    have checks : s1.ctl = s.ctl := (congrArg (·.2.ctl) hx).symm.trans (ctTranslate_ctl ..)
    rw [ctxOf, read, checks, ctxOf]

/-- A descriptor that may not be opened answers its status. -/
theorem sopenWith_refused {k : Nat} {l : Nat} {ws : List Word}
    (hs : openStatus s core k (streamFrom ws) (ctxOf s core x).asid ≠ 0) :
    sopenWith s core x ix l k t a ws =
      ctDone s core x ix (some l) [(0, t, some (stTok (openStatus s core k (streamFrom ws) (ctxOf s core x).asid)))] :=
  if_pos (bne_iff_ne.2 hs)

/-- A descriptor that may be opened, and whose tile entry may issue where it names one, opens the stream where R144 lets it. -/
theorem sopenWith_opens {k : Nat} {l : Nat} {ws : List Word} {s3 : State}
    (hs : openStatus s core k (streamFrom ws) (ctxOf s core x).asid = 0)
    (tile : (streamFrom ws).til = true → (tileAt s core (streamFrom ws).tile).badRef (ctxOf s core x).asid = false ∧
      openBound s core (streamFrom ws) = false ∧ (tileAt s core (streamFrom ws).tile).canIssue = true)
    (hu : Allows s core x l s3) :
    sopenWith s core x ix l k t a ws =
      ctDone (streamOpen (if (streamFrom ws).til = true then tileUse (setIrrev s3 core x) core (streamFrom ws).tile
        else setIrrev s3 core x) core k ws (ctxOf s core x)) core x ix (some l) [(0, t, some 0#64)] := by
  have good : ((streamFrom ws).til && (tileAt s core (streamFrom ws).tile).badRef (ctxOf s core x).asid) = false ∧
      ((streamFrom ws).til && openBound s core (streamFrom ws)) = false ∧
      ((streamFrom ws).til && !(tileAt s core (streamFrom ws).tile).canIssue) = false := by
    cases ht : (streamFrom ws).til
    · exact ⟨rfl, rfl, rfl⟩
    · obtain ⟨ref, bound, issue⟩ := tile ht
      exact ⟨ref, bound, by rw [issue]; rfl⟩
  obtain ⟨ref, bound, issue⟩ := good
  unfold sopenWith
  dsimp only
  rw [if_neg (by simp [hs]), if_neg (ne_true_of_eq_false ref), if_neg (ne_true_of_eq_false bound), if_neg (ne_true_of_eq_false issue),
    hu.irrev]
  rfl

/-- The condition under which a stream of the region is not there to close or to seek. -/
theorem streamForeign_iff {n : Stream} {rid : Nat} : (!n.isOpen || n.rid != rid) = true ↔ n.isOpen = false ∨ n.rid ≠ rid := by
  simp

theorem Fires.sclose_foreign (h : Fires s core x ix p false false (some 0#64) (some 0#64)) (ht : Turns s core x l.toNat)
    (far : (streamOf s core k.toNat).isOpen = false ∨ (streamOf s core k.toNat).rid ≠ (ctxOf s core x).rid) :
    exec (.sclose p l k t) s = tokenMem s core x ix l.toNat [t] none :=
  congrArg Host.Outcome.next ((h.mem ht _).trans (if_pos (streamForeign_iff.2 far)))

/-- sclose of an open stream of the region settles it, and is held while an access is still to be performed or acknowledged. -/
theorem Fires.sclose (h : Fires s core x ix p false false (some 0#64) (some 0#64)) (ht : Turns s core x l.toNat)
    (ho : (streamOf s core k.toNat).isOpen = true) (hr : (streamOf s core k.toNat).rid = (ctxOf s core x).rid) :
    let s1 := streamSettle s core k.toNat
    let pending := (streamOf s1 core k.toNat).unsettled || farWrites s1 core k.toNat
    (pending = true → exec (.sclose p l k t) s = .next (ctHold s1 core x 9 l.toNat)) ∧
      ∀ s2, pending = false → Allows s1 core x l.toNat s2 →
        let s3 := streamShut (setIrrev s2 core x) core k.toNat
        exec (.sclose p l k t) s = tokenMem s3 core x ix l.toNat [t] (some (BitVec.ofNat 64 (streamOf s3 core k.toNat).counts)) := by
  have own : ¬(!(streamOf s core k.toNat).isOpen || (streamOf s core k.toNat).rid != (ctxOf s core x).rid) = true := by
    simp [ho, hr]
  refine ⟨fun hp => congrArg Host.Outcome.next ((h.mem ht _).trans ((if_neg own).trans (if_pos hp))), fun s2 hp hu => ?_⟩
  exact congrArg Host.Outcome.next
    ((h.mem ht _).trans ((if_neg own).trans ((if_neg (ne_true_of_eq_false hp)).trans (hu.irrev _))))

/-- sseek answers its status, and under OK leaves the move for the commit. -/
theorem Fires.sseek (h : Fires s core x ix p true false (some a) (some 0#64)) :
    let n := streamOf s core k.toNat
    let st := if n.isOpen = false ∨ n.rid ≠ (ctxOf s core x).rid then 1
      else if n.count ≤ a.toNat ∨ n.pat = 2 ∨ 2 ≤ n.dir then 2 else 0
    exec (.sseek p k t) s =
      token (if st = 0 then atCommit s core x ix (.sseek k.toNat a.toNat) else s) core x ix [t] (some (stTok st)) := by
  refine (congrArg Host.Outcome.next (h.form _)).trans ?_
  simp only [streamForeign_iff]
  simp only [Bool.or_eq_true, decide_eq_true_eq, ge_iff_le, or_assoc]
  rfl

/-- shand answers its status, and under OK leaves the hand-over for the commit. -/
theorem Fires.shand {o : BitVec 4} (h : Fires s core x ix p false false (some 0#64) (some 0#64)) :
    let e := s.sm.own.at (core * 16 + o.toNat)
    let st := if e.v = true ∧ e.asid = (ctxOf s core x).asid then 0 else 1
    exec (.shand p o t) s = token (if st = 0 then atCommit s core x ix (.shand o.toNat) else s) core x ix [t] (some (stTok st)) := by
  intro e st
  have status : (if (!e.v || e.asid != (ctxOf s core x).asid) = true then 1 else 0) = st := by
    simp only [st]
    by_cases hv : e.v = true <;> by_cases ha : e.asid = (ctxOf s core x).asid <;> simp [hv, ha]
  refine (congrArg Host.Outcome.next (h.form _)).trans ?_
  dsimp only
  rw [status]
  rfl

/-! #### bankm -/

/-- The change that the operand of bankm asks for (R299). -/
def bankmChange (a : Word) : BankChange :=
  let m := a.extractLsb' 8 2
  { mode := if m = 0#2 then .cache else if m = 1#2 then .scratch else if m = 2#2 then .fifo else .accum, ilv := a.extractLsb' 10 2 }

/-- What bankm does with the change that it asks for: it answers the first check of R40 that fails, and else makes the change where R144
lets it and once the lower stores of its block can go first. -/
def bankmWith (s : State) (core x ix l first n : Nat) (t : BitVec 9) (c : BankChange) : State :=
  let done (st : BankSt) (s : State) : State := ctDone s core x ix (some l) [(0, t, some (stTok st.code))]
  match bankCheck s core first n c with
  | .ok => ctIrrev s core x l (fun s => storesReady s core x l (fun s =>
      let r := bankChange (storesFirst (setIrrev s core x) core x l) core first n c
      done r.1 r.2))
  | st => done st s

section
variable {first n : Nat} {c : BankChange} {l : Nat}

theorem bankmWith_changes {s1 : State} (hc : bankCheck s core first n c = .ok) (hu : Allows s core x l s1)
    (hp : StoresPass s1 core x l) :
    bankmWith s core x ix l first n t c =
      let r := bankChange (storesFirst (setIrrev s1 core x) core x l) core first n c
      ctDone r.2 core x ix (some l) [(0, t, some (stTok r.1.code))] := by
  simp only [bankmWith, hc]
  exact (hu.irrev _).trans (hp.ready _)

theorem bankmWith_refused (hc : bankCheck s core first n c ≠ .ok) :
    bankmWith s core x ix l first n t c = ctDone s core x ix (some l) [(0, t, some (stTok (bankCheck s core first n c).code))] := by
  unfold bankmWith
  dsimp only
  split
  · exact absurd ‹_› hc
  · rfl

end

/-- bankm of banks of the region's allotment, without must-be-zero bits, is left to the checks of R40. -/
theorem Fires.bankm {b : BitVec 5} (h : Fires s core x ix p true false (some a) (some 0#64)) (ht : Turns s core x l.toNat)
    (hz : a.extractLsb' 12 52 = 0#52) (hb : b.toNat < 24)
    (allotted : ∀ i, i < (a.extractLsb' 3 5).toNat → b.toNat + i < 24 →
      bankAllotted s core (ctxOf s core x).rid ((a.extractLsb' 0 3).toNat * 24 + b.toNat + i) = true) :
    exec (.bankm p l b t) s = .next (bankmWith s core x ix l.toNat ((a.extractLsb' 0 3).toNat * 24 + b.toNat) (a.extractLsb' 3 5).toNat t
      (bankmChange a)) := by
  have own : ¬((List.range (a.extractLsb' 3 5).toNat).any (fun i => decide (b.toNat + i < 24) &&
      !bankAllotted s core (ctxOf s core x).rid ((a.extractLsb' 0 3).toNat * 24 + b.toNat + i))) = true := by
    simp only [List.any_eq_true, List.mem_range, Bool.and_eq_true, decide_eq_true_eq, Bool.not_eq_true', not_exists, not_and,
      Bool.not_eq_false]
    exact allotted
  have good : ¬(a.extractLsb' 12 52 != 0#52 || decide (24 ≤ b.toNat)) = true := by
    simp [hz, hb]
  refine congrArg Host.Outcome.next ((h.mem ht _).trans ((if_neg own).trans ((if_neg good).trans ?_)))
  unfold bankmChange
  generalize a.extractLsb' 8 2 = m
  obtain rfl | rfl | rfl | rfl : m = 0#2 ∨ m = 1#2 ∨ m = 2#2 ∨ m = 3#2 := by
    revert m
    decide
  all_goals rfl

end

end Sys2Proof.Safety

namespace Sys2Proof.Proofs.OrderCore
open Sys2Proof Sys2Proof.Machine Sys2Proof.Safety

/-- Settles O29: each form is the shared load at its address and width, with its own extension of the bytes read. -/
theorem loads : Obligations.Loads := by
  intro s core x ix p l k c t a mt pa s1 s0 bs s2 h turn hm at_ mark gives v
  have plain {i : Instr} (n : Nat) (ext : Word → Word) (read : at_ n)
      (hi : exec i s = .next (ctLoad s p l t n false (offAddr · (k.signExtend 64) n) ext)) : gives i (ext v) :=
    h.load_sends turn hm hi read rfl
  refine ⟨fun r => ⟨plain 1 (zx · 8) r rfl, plain 1 (sx · 8) r rfl⟩, fun r => ⟨plain 2 (zx · 16) r rfl, plain 2 (sx · 16) r rfl⟩,
    fun r => ⟨plain 4 (zx · 32) r rfl, plain 4 (sx · 32) r rfl⟩, fun r => plain 8 id r rfl, fun hr hc => ?acquire⟩
  case acquire => exact h.load_sends (addr := id) (ext := id) turn hm rfl ⟨hr, hc⟩ (by simp only [decide_eq_true_eq])

/-- Settles O30: a read of a block is one read at its place (`ctRead_some`), which changes the memory side alone. In an anvil window it
gives the bytes of memory, in which the lower stores have put theirs one after another, so that the last store over a byte decides it. -/
theorem loadsLeaveMemory : Obligations.LoadsLeaveMemory := by
  intro s core x l mt pa n home bs t hr hn h c below
  obtain ⟨read, ht⟩ := ctRead_some h
  refine ⟨?side, loadAt_length hr hn read, read, fun i before p after hi ⟨d, o, hp⟩ live anvil split lo up last => ?seen⟩
  case side =>
    rw [ht]
    exact loadAt_side ..
  case seen =>
    have waits : (frameOf s core x).storesWait l = true :=
      storesWait_of_mem (show p ∈ below by simp [split])
    rw [if_pos waits] at read
    rw [loadAt_anvil hp read, Mem.getN_getElem? _ n pa i hi, storesBelow_anvil_mem live anvil,
      show lowerStores s core x l = before ++ p :: after from split]
    exact Mem.get_putStores_last before after s.mem ⟨lo, up⟩ last

/-- Settles O31: each form is the shared store at its address and width, which leaves its bytes to its frame (`ctPend_only`,
`frameOf_ctPend`). -/
theorem stores : Obligations.Stores := by
  intro s core x ix p l k c o a b i n rel va mt pa s1 h turn form hr own
  obtain ⟨addr, hv, hi⟩ : ∃ addr : Word → Word, va = addr a ∧ exec i s = .next (ctStore s p l n rel addr) := by
    rcases form with ⟨rfl, rfl, rfl, rfl⟩ | ⟨rfl, rfl, rfl, rfl⟩ | ⟨rfl, rfl, rfl, rfl⟩ | ⟨rfl, rfl, rfl, rfl⟩ |
      ⟨rfl, rfl, rfl, rfl⟩
    -- a byte's offset is not scaled
    case inl => exact ⟨_, (congrArg (a + ·) (BitVec.mul_one _)).symm, rfl⟩
    all_goals exact ⟨_, rfl, rfl⟩
  subst hv
  refine ⟨_, hi.trans (congrArg _ (h.store_waits turn hr)), ctPend_only _ own, frameOf_ctPend _ own, fun y => ?_⟩
  rw [(ctPend_only _ own).mem]

/-- Settles O45: sopen by what its descriptor says (`sopenWith`), sclose by whether the settled stream still waits, sseek and shand by
their equations, bankm by the checks of R40 (`bankmWith`). That bankm performs the lower stores before the commit is log entry 14, what
sclose settles and waits for is log entry 17, and the WIDX of its hold log entry 32. -/
theorem streamForms : Obligations.StreamForms := by
  refine ⟨fun s core x ix p l k t a pa mt s1 ws s2 h turn hx here hd => ?sopen, fun s core x ix p l k t h turn => ?sclose,
    fun s core x ix p k t a h => h.sseek, fun s core x ix p o t h => h.shand,
    fun s core x ix p l b t a s1 h turn hz hb allotted => ?bankm⟩
  case sopen =>
    obtain ⟨run, same⟩ := h.sopen (k := k) (t := t) turn hx here hd
    rw [← same]
    refine ⟨fun hs => run.trans (congrArg _ (sopenWith_refused hs)), fun hs tile s3 hu => run.trans (congrArg _ ?_)⟩
    exact sopenWith_opens hs tile hu
  case sclose =>
    exact ⟨h.sclose_foreign turn, fun ho hr => (h.sclose turn ho hr).1, fun s2 ho hr => (h.sclose turn ho hr).2 s2⟩
  case bankm =>
    have run := h.bankm (t := t) turn hz hb allotted
    exact ⟨fun hc hu hp => run.trans (congrArg _ (bankmWith_changes hc hu hp)), fun hc => run.trans (congrArg _ (bankmWith_refused hc))⟩

end Sys2Proof.Proofs.OrderCore

/-! ## The statements of the wide order: replicated loads, the ordering forms, and the nodes of the fabric -/

namespace Sys2Proof.Machine

/-! ### Replicated loads (R14, R168, R266) -/

section
variable {pa g o : Nat} {mt : MType} {fp : Bool}

/-- From 2^51 on, an address names another module. -/
theorem lt_of_place_repl (h : place pa = .repl g o) : pa < 2 ^ 51 := by
  by_contra hpa
  have far : 0x80 ≤ pa / 2 ^ 44 := by omega
  have : place pa = .remote (pa / 2 ^ 44 % 128) (pa % 2 ^ 44) := by
    unfold place
    dsimp only
    rw [if_neg (by omega), if_neg (by omega), if_neg (by omega)]
  rw [this] at h
  cases h

theorem ldredWord_toNat (hpa : pa < 2 ^ 51) : (ldredWord pa mt fp).toNat = pa * 8 + mt.bits.toNat * 2 + if fp then 1 else 0 := by
  have hb : mt.bits.toNat < 4 := mt.bits.isLt
  rw [ldredWord, BitVec.toNat_ofNat, Nat.mod_eq_of_lt]
  split <;> omega

theorem ldredWord_place (hpa : pa < 2 ^ 51) : (ldredWord pa mt fp).toNat / 8 = pa := by
  have hb : mt.bits.toNat < 4 := mt.bits.isLt
  rw [ldredWord_toNat hpa]
  split <;> omega

theorem ldredWord_kind (hpa : pa < 2 ^ 51) : (ldredWord pa mt fp).getLsbD 0 = fp := by
  rw [BitVec.getLsbD, ldredWord_toNat hpa, Nat.testBit_zero]
  cases fp <;> simp <;> omega

theorem MType.ofBits_bits (mt : MType) : MType.ofBits mt.bits = mt := by
  cases mt <;> rfl

theorem ldredWord_type (hpa : pa < 2 ^ 51) : MType.ofBits ((ldredWord pa mt fp).extractLsb' 1 2) = mt := by
  have hb : mt.bits.toNat < 4 := mt.bits.isLt
  have : (ldredWord pa mt fp).extractLsb' 1 2 = mt.bits := by
    apply BitVec.eq_of_toNat_eq
    rw [BitVec.extractLsb'_toNat, ldredWord_toNat hpa, Nat.shiftRight_eq_div_pow]
    split <;> omega
  rw [this, MType.ofBits_bits]

/-- The values of the replicas of a group, all of which stand on this module, as a state gives them. -/
abbrev replicaValues (core : Nat) (c : Ctx) (g o n : Nat) (mt : MType) (s : State) : (Nat ⊕ List Word) × State :=
  replicaRead core c g o n mt (List.range (groupCount s g)) [] s

/-- A replicated load whose replicas give their values, once the lower stores of its block are performed, is an acquire and sends
their sum. -/
theorem ldredDone_sends {s : State} {core x ix l c : Nat} {t : BitVec 9} {vs : List Word} (hp : place pa = .repl g o)
    (hv : (replicaValues core (ctxOf s core x) g o (if fp then 4 else 8) mt (storesBelow s core x l)).1 = .inr vs) :
    ldredDone s core x ix l t c (ldredWord pa mt fp) [] =
      ctDone (acquire (setIrrev (replicaValues core (ctxOf s core x) g o (if fp then 4 else 8) mt s).2 core x) core c) core x ix
        (some l) [(0, t, some (ldredSum fp vs))] := by
  have hpa := lt_of_place_repl hp
  simp only [ldredDone, ldredWord_place hpa, ldredWord_kind hpa, ldredWord_type hpa, hp, hv]

/-- The sum of integers starts from nothing. -/
theorem ldredSum_int (vs : List Word) : ldredSum false vs = vs.foldl (· + ·) 0#64 := by
  cases vs with
  | nil => rfl
  | cons v vs => rw [List.foldl_cons, BitVec.zero_add]; rfl

end

end Sys2Proof.Machine

namespace Sys2Proof.Safety
open Sys2Proof Sys2Proof.Machine

section
variable {s : State} {core x ix : Nat} {p : BitVec 2} {l : BitVec 5} {c : BitVec 3} {t : BitVec 9} {a b : Word}

/-- KIND is a single bit. -/
theorem extractLsb'_kind_ne_zero : b.extractLsb' 1 63 ≠ 0#63 ↔ 2 ≤ b.toNat := by
  rw [ne_eq, ← BitVec.toNat_inj, BitVec.extractLsb'_toNat, Nat.shiftRight_eq_div_pow, BitVec.toNat_ofNat]
  have := b.isLt
  omega

theorem Fires.ldred_badKind (h : Fires s core x ix p true true (some a) (some b)) (ht : Turns s core x l.toNat) (hb : 2 ≤ b.toNat)
    (now : mustCommit s core x = false) :
    exec (.ldred p l c t) s = .next (takeTrap s core x (addrFlt 0x1D ix a) (ctxOf s core x).blk none) :=
  congrArg Host.Outcome.next
    ((h.mem ht _).trans ((if_pos (bne_iff_ne.2 (extractLsb'_kind_ne_zero.2 hb))).trans (memFault_trap now)))

/-- ldred on a group whose replicas all stand on this module sends no request: it completes in its own step. -/
theorem Fires.ldred_here {pa g o : Nat} {mt : MType} {s1 s2 : State} {vs : List Word}
    (h : Fires s core x ix p true true (some a) (some b)) (ht : Turns s core x l.toNat) (hb : b.toNat < 2)
    (hx : ctTranslate s core (ctxOf s core x) ix a .ldred (if b = 0#64 then 8 else 4) = (.at_ pa mt, s1)) (hp : place pa = .repl g o)
    (here : ∀ i, i < groupCount s g → replicaHere s g i = true) (hu : Allows s1 core x l.toNat s2)
    (hv : (replicaValues core (ctxOf s2 core x) g o (if b = 0#64 then 8 else 4) mt (storesBelow s2 core x l.toNat)).1 = .inr vs) :
    exec (.ldred p l c t) s =
      tokenMem (acquire (setIrrev (replicaValues core (ctxOf s2 core x) g o (if b = 0#64 then 8 else 4) mt s2).2 core x) core c.toNat)
        core x ix l.toNat [t] (some (ldredSum (b != 0#64) vs)) := by
  have kind : ¬(b.extractLsb' 1 63 != 0#63) = true := by
    rw [bne_iff_ne, extractLsb'_kind_ne_zero]
    omega
  have near : (List.range (groupCount s g)).filter (fun i => !replicaHere s g i) = [] := by
    simpa [List.filter_eq_nil_iff] using here
  have width : (if b = 0#64 then 8 else 4) = if (b != 0#64) = true then 4 else 8 := by
    by_cases hz : b = 0#64 <;> simp [hz]
  refine congrArg Host.Outcome.next ((h.mem ht _).trans ((if_neg kind).trans ?_))
  simp only [hx, MRes.at_, Bool.false_eq_true, if_false, hp, near]
  rw [width] at hv ⊢
  exact (hu.irrev _).trans (ldredDone_sends hp hv)

end

end Sys2Proof.Safety

namespace Sys2Proof.Proofs.OrderWide
open Sys2Proof Sys2Proof.Machine Sys2Proof.Safety

/-- Settles O37: the address, memory type and kind that ldred holds are read back (`ldredWord_place` and its like), and no replica is
elsewhere. -/
theorem replicatedLoads : Obligations.ReplicatedLoads := by
  intro s core x ix p l c t a b h turn
  refine ⟨h.ldred_badKind turn, fun pa mt s1 s2 g o vs hb hx hp here hu hv => ⟨h.ldred_here turn hb hx hp here hu hv, ?sum⟩⟩
  rintro rfl
  exact ldredSum_int vs

end Sys2Proof.Proofs.OrderWide

namespace Sys2Proof.Safety
open Sys2Proof Sys2Proof.Machine

/-! ### Fences and barriers (R175, R271–R276) -/

section
variable {s : State} {core x ix : Nat} {p : BitVec 2} {l : BitVec 5} {c : BitVec 3} {t : BitVec 9}
variable (h : Fires s core x ix p false false (some 0#64) (some 0#64)) (ht : Turns s core x l.toNat)
include h ht

theorem Fires.fence_thread : exec (.fence p l 0#3 t) s = tokenMem s core x ix l.toNat [t] (some 0#64) :=
  congrArg Host.Outcome.next (h.mem ht _)

theorem Fires.wbar_thread : exec (.wbar p l 0#3) s = tokenMem s core x ix l.toNat [] none :=
  congrArg Host.Outcome.next (h.mem ht _)

/-- A fence of a wider scope comes after the lower stores of its block. -/
theorem Fires.fence_wider {u : State} (hc : c ≠ 0#3) (hu : AfterStores s core x l.toNat u) :
    exec (.fence p l c t) s = tokenMem (acquire (release u core c.toNat) core c.toNat) core x ix l.toNat [t] (some 0#64) :=
  congrArg Host.Outcome.next ((h.mem ht _).trans ((if_neg hc).trans (hu.run _)))

theorem Fires.wbar_wider {u : State} (hc : c ≠ 0#3) (hu : AfterStores s core x l.toNat u) :
    exec (.wbar p l c) s = tokenMem (release u core c.toNat) core x ix l.toNat [] none :=
  congrArg Host.Outcome.next ((h.mem ht _).trans ((if_neg hc).trans (hu.run _)))

section
variable {f : BitVec 8} {g : BitVec 7}

theorem Fires.xfence_holds (hb : (engineBusy s core x f || farBusy s core (ctxOf s core x).rid f c.toNat) = true) :
    exec (.xfence p l f g c) s = .next (ctHold s core x 9 l.toNat) :=
  congrArg Host.Outcome.next ((h.mem ht _).trans (if_pos hb))

/-- An xfence with CT among its F paths comes after the lower stores of its block, any other at once. -/
theorem Fires.xfence_goes {u : State} (hb : (engineBusy s core x f || farBusy s core (ctxOf s core x).rid f c.toNat) = false)
    (hu : f.getLsbD 0 = false ∧ u = s ∨ f.getLsbD 0 = true ∧ AfterStores s core x l.toNat u) :
    exec (.xfence p l f g c) s =
      let rid := (ctxOf s core x).rid
      let act := xfenceActs f g c.toNat
      tokenMem (xfenceTo (xfenceFrom u core rid f act) core rid g act) core x ix l.toNat [] none := by
  refine congrArg Host.Outcome.next ((h.mem ht _).trans ((if_neg (ne_true_of_eq_false hb)).trans ?_))
  rcases hu with ⟨hf, rfl⟩ | ⟨hf, hu⟩
  · exact if_neg (ne_true_of_eq_false hf)
  · exact (if_pos hf).trans (hu.run _)

end

theorem Fires.abar (m : BitVec 8) : exec (.abar p l m) s = tokenMem s core x ix l.toNat [] none :=
  congrArg Host.Outcome.next (h.mem ht _)

end

/-- An entry stands in the state that tbar names: for READY, without a drain request (R276). -/
def TileStands (q : BitVec 2) (e : Tile) : Prop :=
  (q = 0#2 ∧ e.st = .empty) ∨ (q = 1#2 ∧ e.st = .filling) ∨ (q = 2#2 ∧ e.st = .ready ∧ e.drq = false)

theorem tileStands_iff {q : BitVec 2} {e : Tile} (hq : q ≠ 3#2) :
    (e.st == tbarState q && (q != 2#2 || !e.drq)) = true ↔ TileStands q e := by
  obtain rfl | rfl | rfl : q = 0#2 ∨ q = 1#2 ∨ q = 2#2 := by
    revert q
    decide
  all_goals simp [TileStands, tbarState]

section
variable {s : State} {core x ix : Nat} {p q : BitVec 2} {l : BitVec 5} {k : BitVec 8}
variable (h : Fires s core x ix p false false (some 0#64) (some 0#64)) (ht : Turns s core x l.toNat)
include h ht

theorem Fires.tbar_badRef (hr : (tileAt s core k.toNat).badRef (ctxOf s core x).asid = true) (now : mustCommit s core x = false) :
    exec (.tbar p l q k) s = .next (takeTrap s core x (addrFlt 0x14 ix 0#64) (ctxOf s core x).blk none) :=
  congrArg Host.Outcome.next ((h.mem ht _).trans ((if_pos hr).trans (memFault_trap now)))

variable (hq : q ≠ 3#2) (hr : (tileAt s core k.toNat).badRef (ctxOf s core x).asid = false)
include hq hr

theorem Fires.tbar_stands (hs : TileStands q (tileAt s core k.toNat)) :
    exec (.tbar p l q k) s = tokenMem s core x ix l.toNat [] none :=
  congrArg Host.Outcome.next
    ((h.mem ht _).trans ((if_neg (ne_true_of_eq_false hr)).trans (if_pos ((tileStands_iff hq).2 hs))))

theorem Fires.tbar_holds (hs : ¬TileStands q (tileAt s core k.toNat)) :
    exec (.tbar p l q k) s = .next (ctHold s core x 5 k.toNat) :=
  congrArg Host.Outcome.next
    ((h.mem ht _).trans ((if_neg (ne_true_of_eq_false hr)).trans (if_neg (mt (tileStands_iff hq).1 hs))))

end

section
variable {s : State} {core x ix : Nat} {p : BitVec 2} {l : BitVec 5} {all : BitVec 1} {g : BitVec 2} {m : Word}

/-- An access outside the module, of a stream that a predicate names, has no answer yet. -/
def StreamOut (s : State) (core : Nat) (named : Nat → Bool) : Prop :=
  ∃ r ∈ s.eng.far, r.core = core ∧ r.strm ≠ 0 ∧ named (r.strm - 1) = true

theorem streamOut_iff (s : State) (core : Nat) (named : Nat → Bool) :
    s.eng.far.any (fun r => r.core == core && r.strm != 0 && named (r.strm - 1)) = true ↔ StreamOut s core named := by
  simp [StreamOut, List.any_eq_true, and_assoc]

variable (h : Fires s core x ix p (all == 0#1) false (some m) (some 0#64)) (ht : Turns s core x l.toNat)
include h ht

/-- sbar flushes what its streams wrote; then it completes, or is held by an access that is unanswered. -/
theorem Fires.sbar :
    let rid := (ctxOf s core x).rid
    let named (k : Nat) : Bool := (all == 1#1 || (k / 64 == g.toNat && m.getLsbD (k % 64))) &&
      (s.sm.streams.at (core * 256 + k)).isOpen && (s.sm.streams.at (core * 256 + k)).rid == rid
    let s1 := coreFlush s core (fun u => u.streams.any named)
    (¬StreamOut s1 core named → exec (.sbar p l all g) s = tokenMem s1 core x ix l.toNat [] none) ∧
      (StreamOut s1 core named → exec (.sbar p l all g) s = .next (ctHold s1 core x 9 l.toNat)) := by
  intro rid named s1
  refine ⟨fun no => congrArg Host.Outcome.next ((h.mem ht _).trans ?_), fun out => congrArg Host.Outcome.next ((h.mem ht _).trans ?_)⟩
  · dsimp only
    rw [if_neg (mt (streamOut_iff s1 core named).1 no)]
    rfl
  · dsimp only
    rw [if_pos ((streamOut_iff s1 core named).2 out)]

end

/-! ### Doorbell writes (R255, R279) -/

section
variable {s s1 : State} {core x ix : Nat} {p : BitVec 2} {l : BitVec 5} {z : BitVec 1} {a b : Word}

/-- A doorbell write to a page that is not DEV, or to the replicated window, is refused with TYPE, ahead of the peer's status. -/
theorem bellTranslate_refused {c : Ctx} {n : Nat} {r : XRes} (ha : a.toNat % n = 0) (hw : walkWait s (ctxActor core c) a = false)
    (hx : translate s (ctxActor core c) a .store n = (r, s1)) (hs : r.st = .ok ∨ r.st = .nopeer)
    (bad : r.mt ≠ .dev ∨ ∃ g o, place r.pa = .repl g o) :
    bellTranslate s core c ix a n = (.fault (xlateFlt 7 ix a), s1) := by
  have page : (r.mt != .dev || replPlace r.pa) = true := by
    rcases bad with hm | ⟨g, o, hp⟩
    · simp [hm]
    · simp [replPlace, hp]
  have refused : r.refuse (fun x => x.mt != .dev || replPlace x.pa) = { r with st := .type } := by
    rcases hs with hs | hs <;> simp [XRes.refuse, hs, page]
  simp [bellTranslate, ctTranslateBut, ha, hw, hx, refused, XSt.code]

variable (h : Fires s core x ix p true true (some a) (some b)) (ht : Turns s core x l.toNat)
include h ht

theorem Fires.nwrite_refused (hx : bellTranslate s core (ctxOf s core x) ix a (if z = 1#1 then 8 else 4) = (.fault (xlateFlt 7 ix a), s1))
    (now : mustCommit s1 core x = false) :
    exec (.nwrite p l z) s = .next (takeTrap s1 core x (xlateFlt 7 ix a) (ctxOf s1 core x).blk none) := by
  refine congrArg Host.Outcome.next ((h.mem ht _).trans ?_)
  simp only [hx, MRes.fault]
  exact memFault_trap now

/-- nwrite to a page of this module is performed where R144 lets it, once the lower stores of its block and a release have gone
first. -/
theorem Fires.nwrite_here {pa : Nat} {mt : MType} {s2 : State}
    (hx : bellTranslate s core (ctxOf s core x) ix a (if z = 1#1 then 8 else 4) = (.at_ pa mt, s1)) (here : ∀ q o, place pa ≠ .remote q o)
    (hu : Allows s1 core x l.toNat s2) (hp : StoresPass s2 core x l.toNat) :
    exec (.nwrite p l z) s = tokenMem (placeWrite (setIrrev (release (storesFirst s2 core x l.toNat) core 4) core x)
      (ctxActor core (ctxOf s core x)) .dev pa (leBytes (if z = 1#1 then 8 else 4) b.toNat) false) core x ix l.toNat [] none := by
  refine congrArg Host.Outcome.next ((h.mem ht _).trans ?_)
  simp only [hx, MRes.at_, Bool.false_eq_true, if_false]
  -- by `here` the write takes the branch of a place of this module
  exact (hu.irrev _).trans (hp.ready _)

end

end Sys2Proof.Safety

namespace Sys2Proof.Proofs.OrderWide
open Sys2Proof Sys2Proof.Machine Sys2Proof.Safety

/-- Settles O39: each form by its equation, the fences after the lower stores of their block (`AfterStores.run`). That those stores are
performed before the commit is log entry 14, the WIDX of the holds log entry 32, and that abar never waits rests on the grain of a step,
log entry 2. -/
theorem orderingForms : Obligations.OrderingForms := by
  refine ⟨fun s core x ix p l c t f g m h turn => ⟨?thread, fun u hu hc => ?wider, fun u hb hu => h.xfence_goes turn hb hu,
    h.xfence_holds turn, h.abar turn m, fun q k hq => ⟨fun hd ha => ?tile, fun hr now => ?badRef⟩⟩,
    fun s core x ix p l all g m h turn => h.sbar turn,
    fun s core x ix p l z a b pa s1 s2 mt h turn => ⟨h.nwrite_here turn, fun r ha hw hx hs bad now => ?refused⟩⟩
  case thread =>
    rintro rfl
    exact ⟨h.fence_thread turn, h.wbar_thread turn⟩
  case wider => exact ⟨h.fence_wider turn hc hu, h.wbar_wider turn hc hu⟩
  case tile =>
    have hr := badRef_false hd ha
    exact ⟨h.tbar_stands turn hq hr, h.tbar_holds turn hq hr⟩
  case badRef => exact h.tbar_badRef turn (badRef_true hr) now
  case refused => exact h.nwrite_refused turn (bellTranslate_refused ha hw hx hs bad) now

end Sys2Proof.Proofs.OrderWide

namespace Sys2Proof.Safety
open Sys2Proof Sys2Proof.Machine

/-! ### Firings (R322, R324) -/

section
variable {s : State} {key hnd op : Nat} {h : HWord}

/-- The firing of a handler before its operation has done anything. -/
abbrev fireOf (s : State) (key hnd : Nat) : Fire := Fire.of (elemIn s key) (handlerIn s key hnd)

/-- What a firing does, and what follows it elsewhere. -/
theorem Runs.fires_as (r : Runs s key hnd op h) {f : Elem → Handler → Fire} {after : Nat → Fire → State → State} {o : Fire}
    (ho : f (elemIn s key) (handlerIn s key hnd) = o) :
    handlerFire s op h f after = after key o (fireEnd s key hnd op h o) := by
  subst ho
  exact r.fire f after

/-- An operation without an effect elsewhere is its firing. -/
theorem Runs.firing (r : Runs s key hnd op h) {f : Elem → Handler → Fire} {o : Fire}
    (ho : f (elemIn s key) (handlerIn s key hnd) = o) : Host.Outcome.next (handlerFire s op h f) = fired s key hnd op h o :=
  congrArg Host.Outcome.next (r.fires_as ho)

/-- An operand that is a queue is the token at its head. -/
theorem operand_queue {e : Elem} {q : Nat} {t : FTok} (hd : Handler) (flt : Bool) (hq : q < 4) (ht : e.head q = some t) :
    operand e hd flt q = t := by
  rw [operand, if_pos hq, ht, Option.getD_some]

/-- A token at the head of a queue is passed on. -/
theorem passFire_queue {e : Elem} {hd : Handler} {t : FTok} (ha : h.a.toNat < 4) (ht : e.head h.a.toNat = some t) :
    passFire h e hd = { Fire.of e hd with out := some (tokOn t h.och), res := !tokC t, take := fireQs h } := by
  rw [passFire, operand_queue hd false ha ht]
  rfl

theorem lt_of_mem_fireQs {q : Nat} (hq : q ∈ fireQs h) : q < 4 := by
  have : q ∈ [0, 1, 2, 3] := List.mem_of_mem_filter hq
  simp at this
  omega

/-- A firing on data has no control token at a head. -/
theorem OnData.none_control (d : OnData s key hnd h) : ((fireQs h).filterMap (elemIn s key).head).any tokC = false := by
  rw [List.any_eq_false]
  intro t ht
  obtain ⟨q, hq, hqt⟩ := List.mem_filterMap.1 ht
  rw [d.data q hq t hqt]
  exact Bool.false_ne_true

end

/-! ### widen and cmpd (R166, R345) -/

section
variable {s : State} {key hnd : Nat} {h : HWord}

theorem Runs.widen (r : Runs s key hnd 0x58 h) :
    exec (.widen h) s =
      let t := fireEnd s key hnd 0x58 h (passFire h (elemIn s key) (handlerIn s key hnd))
      .next (release (regionFlush t (elemCore key) (slotRid t (elemCore key) h.graph.toNat)) (elemCore key) h.param.toNat) :=
  congrArg Host.Outcome.next (r.fire _ _)

theorem Runs.cmpd {t u : FTok} (r : Runs s key hnd 0x59 h) (ht : (elemIn s key).head h.a.toNat = some t)
    (hu : (elemIn s key).head h.b.toNat = some u) :
    exec (.cmpd h) s = fired s key hnd 0x59 h (if t = u then passFire h (elemIn s key) (handlerIn s key hnd)
      else { fireOf s key hnd with take := fireQs h, errs := [0x19] }) := by
  refine r.firing ?_
  simp only [ht, hu, Option.getD_some]

end

/-! ### join (R346) -/

section
variable {h : HWord} {o : Fire} {q : Nat} {t : FTok} {left : Bool}

/-- A side that stands between records takes the weight of a REC. -/
theorem joinTake_rec (hw : o.hd.side left = default) (ht : o.e.head q = some t) (rec : isRec t = true) :
    joinTake h left q o = some { o with take := [q], hd := o.hd.withSide left { weight := some (tokArg t), key := none } } := by
  simp only [joinTake, ht, hw, rec]
  rfl

/-- A side that has a record's weight takes a data token as its key. -/
theorem joinTake_key {w : Nat} (hw : (o.hd.side left).weight = some w) (hk : (o.hd.side left).key = none) (ht : o.e.head q = some t)
    (hc : tokC t = false) (hn : tokN t = false) :
    joinTake h left q o = some (coordTake left (t.extractLsb' 0 32)
      { o with hd := o.hd.withSide left { o.hd.side left with key := some t }, take := [q] }) := by
  simp [joinTake, ht, hw, hk, hc, hn]

/-- A control token where the key is due raises JOINREC. -/
theorem joinTake_noKey {w : Nat} (hw : (o.hd.side left).weight = some w) (hk : (o.hd.side left).key = none) (ht : o.e.head q = some t)
    (hc : tokC t = true) : joinTake h left q o = some { o with errs := [0x1A], hd := o.hd.withSide left default } := by
  simp [joinTake, ht, hw, hk, hc]

/-- A side that holds a record takes nothing more. -/
theorem joinTake_full (hf : (o.hd.side left).full = true) (ht : o.e.head q = some t) : joinTake h left q o = none := by
  obtain ⟨hw, hk⟩ : (o.hd.side left).weight.isSome = true ∧ (o.hd.side left).key.isSome = true := by
    simpa [JoinSide.full] using hf
  simp [joinTake, ht, JoinSide.clear, Option.isNone_iff_eq_none, Option.isSome_iff_ne_none.1 hw, Option.isSome_iff_ne_none.1 hk]

/-- A record leaves with its value. -/
theorem joinDrop_data (ht : o.e.head q = some t) (hc : tokC t = false) :
    joinDrop left q o = { o with hd := o.hd.withSide left default, take := o.take ++ [q] } := by
  simp [joinDrop, ht, hc]

end

section
variable {s : State} {key hnd : Nat} {h : HWord} {t u k l : FTok} {w z : Nat}

variable (r : Runs s key hnd 0x60 h)
include r

/-- Between matches, join does first what its left side takes. -/
theorem Runs.join_takes {o : Fire} (hg : (handlerIn s key hnd).gapPend = false) (hp : (handlerIn s key hnd).ph = 0#8)
    (ho : joinTake h true h.a.toNat (fireOf s key hnd) = some o) : exec (.join h) s = fired s key hnd 0x60 h o := by
  refine r.firing ?_
  simp [hg, hp, ho]

/-- Two records with data keys and values: the lesser key's goes, and equal keys start a match. -/
theorem Runs.join_compares (hg : (handlerIn s key hnd).gapPend = false) (hp : (handlerIn s key hnd).ph = 0#8)
    (hA : (handlerIn s key hnd).sideA = { weight := some w, key := some k })
    (hB : (handlerIn s key hnd).sideB = { weight := some z, key := some l })
    (ht : (elemIn s key).head h.a.toNat = some t) (hu : (elemIn s key).head h.b.toNat = some u)
    (hk : tokN k = false) (hl : tokN l = false) (hct : tokC t = false) (hcu : tokC u = false) :
    exec (.join h) s = fired s key hnd 0x60 h (
      let o := fireOf s key hnd
      if k.extractLsb' 0 32 < l.extractLsb' 0 32 then joinDrop true h.a.toNat o
      else if l.extractLsb' 0 32 < k.extractLsb' 0 32 then joinDrop false h.b.toNat o
      else { o with
        out := some (ctlTok h.och 8 (min 0xFFFFFF (divRne ((w * z : Nat) : Int) 256).toNat)), hd := { o.hd with ph := 1#8 } }) := by
  have left : joinTake h true h.a.toNat (fireOf s key hnd) = none :=
    joinTake_full (by simp [Fire.of, Handler.side, hA, JoinSide.full]) ht
  have right : joinTake h false h.b.toNat (fireOf s key hnd) = none :=
    joinTake_full (by simp [Fire.of, Handler.side, hB, JoinSide.full]) hu
  refine r.firing ?_
  simp [hg, hp, left, right, Handler.side, hA, hB, JoinSide.full, hk, hl, ht, hu, hct, hcu]

/-! The three firings of a match after its REC: the key, and the values of both sides, with which the records leave. -/

theorem Runs.join_sendsKey (hk : (handlerIn s key hnd).sideA.key = some k) (hp : (handlerIn s key hnd).ph = 1#8) :
    exec (.join h) s = fired s key hnd 0x60 h
      { fireOf s key hnd with out := some (tokOn k h.och), res := true, hd := { handlerIn s key hnd with ph := 2#8 } } := by
  refine r.firing ?_
  simp [hp, Handler.side, hk, Fire.of]

theorem Runs.join_sendsLeft (ht : (elemIn s key).head h.a.toNat = some t) (hp : (handlerIn s key hnd).ph = 2#8) :
    exec (.join h) s = fired s key hnd 0x60 h
      { fireOf s key hnd with out := some (tokOn t h.och), res := true, hd := { handlerIn s key hnd with ph := 3#8 } } := by
  refine r.firing ?_
  simp [hp, ht, Fire.of]

theorem Runs.join_sendsRight (hu : (elemIn s key).head h.b.toNat = some u) (hp : (handlerIn s key hnd).ph = 3#8) :
    exec (.join h) s = fired s key hnd 0x60 h { fireOf s key hnd with
      out := some (tokOn u h.och), res := true, take := [h.a.toNat, h.b.toNat]
      hd := { handlerIn s key hnd with ph := 0#8, sideA := default, sideB := default } } := by
  refine r.firing ?_
  simp [hp, hu, Fire.forward, Fire.of]

end

/-! ### win (R347) -/

section
variable {h : HWord} {st : Nat} {qs : List Nat} {o : Fire}

/-! A close by size, in phases 0, 1 and 2. -/

theorem winClose_weight (hp : o.hd.ph = 0#8) :
    winClose h 0#8 st qs o = { o with
      out := some (ctlTok h.och 8 (min 0xFFFFFF (o.e.st1.extractLsb' 0 32).toNat)), hd := { o.hd with ph := 1#8 } } := by
  simp [winClose, hp]

theorem winClose_sum (hp : o.hd.ph = 1#8) :
    winClose h 0#8 st qs o = { o with
      out := some (tokOn (o.e.st0 &&& 0x7FFFFFFFFFFF#48) h.och), hd := { o.hd with ph := 2#8 } } := by
  simp [winClose, hp]

theorem winClose_status (hp : o.hd.ph = 2#8) :
    winClose h 0#8 st qs o = { o with
      out := some (tokOn (BitVec.ofNat 48 st) h.och), take := qs, hd := { o.hd with ph := 0#8 }
      e := { o.e with st0 := 0#48, st1 := 0#48 } } := by
  simp [winClose, hp]

end

section
variable {s : State} {key hnd q : Nat} {h : HWord} {t : FTok}

/-- The window once a data token stands in it: its sum and its weight, by records or by weight as PARAM[15] says. -/
def winAdd (h : HWord) (e : Elem) (hd : Handler) (t : FTok) : Elem :=
  let rm := RMode.ofCode h.rm.toNat
  { e with
    st0 := if h.param.getLsbD 15 then Machine.Num.xfRound rm (Machine.Num.add rm (Machine.Num.xfOf e.st0) (Machine.Num.xfOf t))
      else Machine.Num.xfRound rm (Machine.Num.fma rm (Machine.Num.xfOf t) (rwtVal hd) (Machine.Num.xfOf e.st0))
    st1 := if h.param.getLsbD 15 then countUp e.st1 256 else e.st1 }

/-- Has a window its size, PARAM[14:0]? -/
abbrev WinFull (h : HWord) (e : Elem) : Prop := (h.param.extractLsb' 0 15).toNat * 256 ≤ (e.st1.extractLsb' 0 32).toNat

variable (r : Runs s key hnd 0x61 h)
include r

/-- A data token enters the window, which closes where it has its size then. -/
theorem Runs.win_adds (hg : (handlerIn s key hnd).gapPend = false) (hp : (handlerIn s key hnd).ph = 0#8) (hq : fireQs h = [q])
    (ha : h.a.toNat = q) (ht : (elemIn s key).head q = some t) (hc : tokC t = false) (hn : tokN t = false) :
    exec (.win h) s = fired s key hnd 0x61 h (
      let e := winAdd h (elemIn s key) (handlerIn s key hnd) t
      if WinFull h e then winClose h 0#8 0 (fireQs h) { fireOf s key hnd with e := e }
      else { fireOf s key hnd with e := e, take := fireQs h }) := by
  have lt : q < 4 := lt_of_mem_fireQs (h := h) (by simp [hq])
  refine r.firing ?_
  simp [hp, hg, hq, ht, hc, ha, operand_queue _ _ lt ht, hn, winAdd]

/-- The later firings of a close by size. -/
theorem Runs.win_closes (hp : (handlerIn s key hnd).ph = 1#8 ∨ (handlerIn s key hnd).ph = 2#8) :
    exec (.win h) s = fired s key hnd 0x61 h (winClose h 0#8 0 (fireQs h) (fireOf s key hnd)) := by
  refine r.firing ?_
  rcases hp with hp | hp <;> simp [hp]

end

/-! ### mxnode, cpnode and clnode (R348, R349) -/

section
variable {s : State} {key hnd : Nat} {h : HWord}

/-- An A-feed passes a data token on, which then reaches the island. -/
theorem Runs.mxnode_feeds (hp : h.param.getLsbD 0 = false) (r : Runs s key hnd 0x62 { h with dsel := 0#3 }) (d : OnData s key hnd h) :
    let o := passFire h (elemIn s key) (handlerIn s key hnd)
    exec (.mxnode h) s = .next (feedToken (fireEnd s key hnd 0x62 { h with dsel := 0#3 } o) key h false
      (tokOn (operand (elemIn s key) (handlerIn s key hnd) false h.a.toNat) h.och)) := by
  refine (if_pos (by rw [hp]; rfl)).trans (congrArg Host.Outcome.next
    (r.fires_as (o := passFire h (elemIn s key) (handlerIn s key hnd)) ?_))
  simp only [d.gap, d.none_control, Bool.false_eq_true, if_false]

/-- A result port without FIRE queues sends on the first token that waits at the island. -/
theorem Runs.mxnode_result {t : FTok} {ts : List FTok} (hp : h.param.getLsbD 0 = true) (hq : fireQs h = []) (r : Runs s key hnd 0x62 h)
    (ho : (s.eng.islands.at (elemCore key)).outq = t :: ts) :
    exec (.mxnode h) s = .next (islandUpd
      (fireEnd s key hnd 0x62 h { fireOf s key hnd with out := some (tokOn t h.och), res := !tokC t, also := some t }) (elemCore key)
      (fun i => { i with outq := i.outq.drop 1 })) := by
  refine (if_neg (by simp [hp])).trans ((if_pos (by simp [hq])).trans (congrArg Host.Outcome.next (r.fires_as ?_)))
  simp only [r.cur, ho]
  rfl

/-- May a cpnode fire its template: it is armed, and of the region's ASID (R349)? -/
abbrev CopyArmed (s : State) (rid : Nat) (d : Template) : Prop := d.v = true ∧ d.arm = true ∧ d.asid = (regionOf s rid).asid

/-- cpnode sends its data token on, and fires its template, or raises CPNOTARMED. -/
theorem Runs.cpnode (r : Runs s key hnd 0x63 h) (d : OnData s key hnd h)
    (hn : tokN (operand (elemIn s key) (handlerIn s key hnd) false h.a.toNat) = false)
    (hc : tokC (operand (elemIn s key) (handlerIn s key hnd) false h.a.toNat) = false) :
    let a := operand (elemIn s key) (handlerIn s key hnd) false h.a.toNat
    let t := fireEnd s key hnd 0x63 h { fireOf s key hnd with out := some a, take := fireQs h }
    let core := elemCore key
    let rid := slotRid t core h.graph.toNat
    exec (.cpnode h) s = .next (if CopyArmed t rid (tmplOf t core h.param.toNat) then tmplFire t core h.param.toNat (a.extractLsb' 0 32)
      else regionError t rid 0x1B (keyLoc key) []) := by
  refine congrArg Host.Outcome.next ((r.fire _ _).trans ?_)
  simp [injectFire, d.gap, d.none_control, hn, hc, Fire.of, and_assoc]

/-- The tokens of the members of a collective, of which this element's is one and the others are free values (log entry 26). -/
def collMembers (s : State) (n me : Nat) (t : FTok) : List FTok :=
  (List.range n).map (fun i => if i = me then t
    else (Config.freeWord (s.sim.freeIdx + (if i < me then i else i - 1))).setWidth 48 &&& 0x07FFFFFFFFFF#48)

theorem collMembers_own {n me : Nat} (t : FTok) (hm : me < n) : (collMembers s n me t)[me]? = some t := by
  simp [collMembers, hm]

/-- A null, or else a computed result. -/
theorem nullRule_or_result (c : Prop) [Decidable c] (h : HWord) (qs : List Nat) (o : Fire) (t : FTok) :
    (if c then nullRule h qs o else o.result h qs t) = { o with
      out := some (if c then tokNull h.och else tokOn (t &&& 0x7FFFFFFFFFFF#48) h.och), res := true, take := qs } := by
  split <;> rfl

/-- clnode of a member on data sends the combination of the members' tokens, or a null where one is null, and takes the edge's
acquire. -/
theorem Runs.clnode (r : Runs s key hnd 0x64 { h with dsel := 0#3 }) (d : OnData s key hnd h)
    (hn : tokN (operand (elemIn s key) (handlerIn s key hnd) true h.a.toNat) = false)
    (hm : groupLocal s (h.param.toNat % 64) < groupCount s (h.param.toNat % 64)) (hf : groupLocal s (h.param.toNat % 64) ≠ 0x7F) :
    let n := groupCount s (h.param.toNat % 64)
    let ts := collMembers s n (groupLocal s (h.param.toNat % 64)) (operand (elemIn s key) (handlerIn s key hnd) true h.a.toNat)
    let v := if ts.any tokN then tokNull h.och
      else tokOn (collTok (h.param.toNat / 64 % 4) (RMode.ofCode h.rm.toNat) ts &&& 0x7FFFFFFFFFFF#48) h.och
    let t := fireEnd s key hnd 0x64 { h with dsel := 0#3 } { fireOf s key hnd with out := some v, res := true, take := fireQs h }
    exec (.clnode h) s = .next (acquire { t with sim.freeIdx := t.sim.freeIdx + (n - 1) } (elemCore key) 4) := by
  have member : ¬(groupCount s (h.param.toNat % 64) = 0 ∨ groupLocal s (h.param.toNat % 64) = 0x7F) := by omega
  intro n ts v t
  refine congrArg Host.Outcome.next
    ((r.fires_as (o := { fireOf s key hnd with out := some v, res := true, take := fireQs h }) ?fire).trans ?edge)
  case fire =>
    simp only [d.gap, d.none_control, hn, Bool.false_or, Bool.false_eq_true, if_false, Bool.or_eq_true, decide_eq_true_eq,
      if_neg member]
    exact nullRule_or_result ..
  case edge =>
    simp only [Bool.or_eq_true, decide_eq_true_eq, if_neg member]
    rfl

end

end Sys2Proof.Safety

namespace Sys2Proof.Proofs.OrderWide
open Sys2Proof Sys2Proof.Machine Sys2Proof.Safety

/-- Settles O54: each handler operation by its firing, join by what its sides hold (`joinTake_rec` and its like), win by whether its
window is full. The tokens of the other members at clnode are free values by log entry 26; the passes of a row that mxnode feeds are log
entry 25, the order of join's sides log entry 45, and control tokens without a write to DST log entry 44. -/
theorem nodeOperations : Obligations.NodeOperations := by
  intro s key hnd h e hd o qs a b p core rm runs out onto ta xa sixteen after
  refine ⟨fun r => r.widen, fun r t u ht hu ha => ?cmpd, fun r hg t u ht hu => ?join, fun r hg q t hq ha ht hc hn => ?win,
    fun hp r d => r.mxnode_feeds hp d, fun hp hq r t ts ho => r.mxnode_result hp hq ho, fun r d hn hc => ?cpnode,
    fun r d hn hm hf => ?clnode⟩
  case cmpd =>
    exact ⟨fun same => (r.cmpd ht hu).trans (congrArg _ ((if_pos same).trans (passFire_queue ha ht))),
      fun unequal => (r.cmpd ht hu).trans (congrArg _ (if_neg unequal))⟩
  case join =>
    refine ⟨fun hp hA rec => ?record, fun hp w hw hk => ⟨fun hc hn => ?key, fun hc => ?noKey⟩,
      fun w z k l hAw hAk hBw hBk hk hl => ?records⟩
    case record => exact r.join_takes hg hp (joinTake_rec hA ht rec)
    case key => exact r.join_takes hg hp (joinTake_key hw hk ht hc hn)
    case noKey => exact r.join_takes hg hp (joinTake_noKey hw hk ht hc)
    case records =>
      have hA : hd.sideA = { weight := some w, key := some k } := by rw [← hAw, ← hAk]
      have hB : hd.sideB = { weight := some z, key := some l } := by rw [← hBw, ← hBk]
      refine ⟨fun hp hct hcu => ?compare, r.join_sendsKey hAk, r.join_sendsLeft ht, r.join_sendsRight hu⟩
      have run := r.join_compares hg hp hA hB ht hu hk hl hct hcu
      refine ⟨fun lt => run.trans ?_, fun gt => run.trans ?_, fun eq => run.trans ?_⟩
      · exact congrArg _ ((if_pos lt).trans (joinDrop_data ht hct))
      · exact congrArg _ ((if_neg (BitVec.lt_asymm gt)).trans ((if_pos gt).trans (joinDrop_data hu hcu)))
      · exact congrArg _ ((if_neg fun lt => BitVec.ne_of_lt lt eq).trans (if_neg fun gt => BitVec.ne_of_lt gt eq.symm))
  case win =>
    refine ⟨fun hp full => ?adds, fun hp full => ?full, fun hp => ?sum, fun hp => ?status⟩
    case adds => exact (r.win_adds hg hp hq ha ht hc hn).trans (congrArg _ (if_neg full))
    case full =>
      exact (r.win_adds hg hp hq ha ht hc hn).trans (congrArg _ ((if_pos full).trans (winClose_weight (by exact hp))))
    case sum => exact (r.win_closes (.inl hp)).trans (congrArg _ (winClose_sum hp))
    case status => exact (r.win_closes (.inr hp)).trans (congrArg _ (winClose_status hp))
  case cpnode =>
    have run := r.cpnode d hn hc
    exact ⟨fun ours => run.trans (congrArg _ (if_pos ours)), fun ours => run.trans (congrArg _ (if_neg ours))⟩
  case clnode =>
    exact ⟨_, by simp [collMembers], collMembers_own xa hm, r.clnode d hn hm hf⟩

end Sys2Proof.Proofs.OrderWide

/-! ## The statements of the execution model: forms that no context executes, firings, engines, and blocks -/

namespace Sys2Proof.Safety
open Sys2Proof Sys2Proof.Machine

/-! ### Forms of which no context takes its turn (R190, R209) -/

section
variable {s : State} {p : BitVec 2} {l : BitVec 5} {n : BitVec 6} {k : BitVec 8} {t u : BitVec 9}

/-- A form leaves the state where the current agent is not a context that is RUNNING or HELD in a frame of its own, with its block
loaded. -/
theorem withCt_idle (idle : ∀ core x ix, s.sim.cur = .ct core x ix →
      (ctxOf s core x).st ≠ .run ∧ (ctxOf s core x).st ≠ .held ∨ (frameOf s core x).own ≠ x + 1 ∨ (frameOf s core x).loaded = false)
    (k : Nat → Nat → Nat → Frame → State) : Machine.withCt s k = s := by
  unfold Machine.withCt
  split
  next core x ix hc =>
    refine if_neg ?_
    rcases idle core x ix hc with ⟨run, held⟩ | own | loaded
    · simp [run, held]
    · simp [own]
    · simp [loaded]
  · rfl

/-- An outcome is reached on the frame of the context whose turn it is, and leaves the state where there is none. -/
def InTurn (s : State) (o : Out) : Prop := ∃ k, o = .next (Machine.withCt s k)

theorem ctForm_inTurn {left right : Bool} {ts : List (BitVec 9)} (k : Nat → Nat → Nat → Word → Word → State) :
    InTurn s (.next (ctForm s p left right ts k)) := ⟨_, rfl⟩

theorem ctMem_inTurn {left right : Bool} {ts : List (BitVec 9)} (k : Nat → Nat → Nat → Word → Word → State) :
    InTurn s (.next (ctMem s p left right l ts k)) := ⟨_, rfl⟩

theorem ctCommand_inTurn {left right priv : Bool} {ts : List (BitVec 9)} (k : Nat → Nat → Nat → Word → Word → State) :
    InTurn s (.next (ctCommand s p left right priv ts k)) := ⟨_, rfl⟩

theorem ctLoad_inTurn {n : Nat} {home : Bool} {addr ext : Word → Word} : InTurn s (.next (ctLoad s p l t n home addr ext)) :=
  ctMem_inTurn _

theorem ctStore_inTurn {n : Nat} {rel : Option Nat} {addr : Word → Word} : InTurn s (.next (ctStore s p l n rel addr)) :=
  ctMem_inTurn _

theorem ctAtomic_inTurn {sc : BitVec 3} {op : Nat} : InTurn s (.next (ctAtomic s p l sc t op)) := ctMem_inTurn _

theorem ctProducer_inTurn {bad : Word → Bool} {k : Nat → Nat → Word → State → Nat × State} :
    InTurn s (.next (ctProducer s p t n bad k)) := ctCommand_inTurn _

theorem ctConsumer_inTurn {v : BitVec 2} {stat : Bool} {bad : Queue → Word → Bool} {k : Nat → Nat → Nat → Word → Word × State} :
    InTurn s (.next (ctConsumer s p t v n stat bad k)) := ctForm_inTurn _

theorem ctConfig_inTurn {g : BitVec 2} {sh : Bool} : InTurn s (.next (ctConfig s p g t sh)) := ctForm_inTurn _

theorem ctTile_inTurn {g : Nat → Tile → State → TileStatus × State} : InTurn s (.next (ctTile s p k t g)) := ctCommand_inTurn _

theorem ctLaunch_inTurn {park : Bool} : InTurn s (.next (ctLaunch s p t u park)) := ctCommand_inTurn _

theorem ctTdeq_inTurn {park : Bool} : InTurn s (.next (ctTdeq s p t u park)) := ctCommand_inTurn _

theorem ctPriv_inTurn {left right : Bool} {ts : List (BitVec 9)} {k : Nat → Nat → Nat → Word → Word → State} :
    InTurn s (.next (ctPriv s p left right ts k)) := ctForm_inTurn _

/-- Every control-thread form is executed by the context whose turn it is: each is one of the shared operations on its frame. -/
theorem exec_inTurn {i : Instr} {m : Form} (hm : i.form = some m) (s : State) : InTurn s (exec i s) := by
  cases i <;> cases hm
  case ldb | ldbs | ldh | ldhs | ldw | ldws | ldd | lda => exact ctLoad_inTurn
  case stb | sth | stw | std | stl => exact ctStore_inTurn
  case aadd | aaddf | amin | amax | aminn | amaxn | aand | aor | axor | aswp | acas | ainc => exact ctAtomic_inTurn
  case qrsv | qgap | qmark => exact ctProducer_inTurn
  case qadv | qpadv | qstat => exact ctConsumer_inTurn
  case cfgld | cfgsh => exact ctConfig_inTurn
  case ttsetUndefine | ttsetFill | ttsetReady | ttsetAbort | ttsetDrain | ttsetEmpty => exact ctTile_inTurn
  case launch | launchPark => exact ctLaunch_inTurn
  case tdeq | tdeqPark => exact ctTdeq_inTurn
  case eret | idle => exact ctPriv_inTurn
  all_goals exact ⟨_, rfl⟩

end

end Sys2Proof.Safety

namespace Sys2Proof.Proofs.ExecutionModel
open Sys2Proof Sys2Proof.Machine Sys2Proof.Safety

/-- Settles O13: every form is executed by the context whose turn it is (`exec_inTurn`), and leaves the state where there is none. That a
step whose guard does not hold leaves the state is log entry 2. -/
theorem otherAgentsLeaveTheState : Obligations.OtherAgentsLeaveTheState := by
  intro i m s hm idle
  obtain ⟨k, run⟩ := exec_inTurn hm s
  rw [run, withCt_idle idle]

end Sys2Proof.Proofs.ExecutionModel

namespace Sys2Proof.Machine

/-! ### The element that a firing leaves (R322) -/

/-- Does a firing send a token on to consumers? -/
def Fire.sent (o : Fire) (h : HWord) : Bool := o.out.isSome && sends h

/-- A state register after a firing: the result where DST names it. -/
def Fire.written (o : Fire) (h : HWord) (dst : BitVec 4) (old : FTok) : FTok :=
  if o.res = true ∧ h.dst = dst then o.out.getD old else old

/-- The element once a firing has taken its tokens and put its result. -/
def Fire.elem (o : Fire) (hnd : Nat) (h : HWord) : Elem :=
  { o.e with
    inq := o.take.foldl (fun m q => m.upd q (fun l => l.drop 1)) o.e.inq
    act := o.e.act.set hnd { o.hd with age := 0 }
    st0 := o.written h 8#4 o.e.st0, st1 := o.written h 9#4 o.e.st1
    res := if o.sent h then o.out else o.e.res
    pend := if o.sent h then consumersOf h else o.e.pend
    resSlot := if o.sent h then h.graph.toNat else o.e.resSlot }

end Sys2Proof.Machine

namespace Sys2Proof.Safety
open Sys2Proof Sys2Proof.Machine

/-! ### What a firing on data changes (R185, R187, R322, R325) -/

/-- The head of a queue is the first of its tokens. -/
theorem head_eq_tokens (e : Elem) (q : Nat) : e.head q = ((e.inq.at q).map (·.tok)).head? := by
  rw [Elem.head, List.head?_map]

/-- The tokens of a queue, its head with another stamp. -/
def restamped (n : Nat) : List QTok → List QTok
  | x :: r => { x with at_ := n } :: r
  | [] => []

theorem tokens_restamped (n : Nat) (l : List QTok) : (restamped n l).map (·.tok) = l.map (·.tok) := by
  cases l <;> rfl

section
variable {s t u : State} {key : Nat}

/-- `t` is `s` but for the stamps of one element's waiting tokens, and the counter of arrivals. -/
structure StampsOnly (s t : State) (key : Nat) : Prop where
  rest : t = { s with fab.elems := t.fab.elems, sim.seqNo := t.sim.seqNo }
  others : ∀ k, k ≠ key → elemIn t k = elemIn s k
  own : elemIn t key = { elemIn s key with inq := (elemIn t key).inq }
  tokens : ∀ q, ((elemIn t key).inq.at q).map (·.tok) = ((elemIn s key).inq.at q).map (·.tok)

theorem StampsOnly.refl (s : State) (key : Nat) : StampsOnly s s key := ⟨rfl, fun _ _ => rfl, rfl, fun _ => rfl⟩

theorem StampsOnly.trans (a : StampsOnly s t key) (b : StampsOnly t u key) : StampsOnly s u key where
  rest := by rw [b.rest, a.rest]
  others k hk := (b.others k hk).trans (a.others k hk)
  own := by rw [b.own, a.own]
  tokens q := (b.tokens q).trans (a.tokens q)

/-- What does not depend on the queues of the element stays. -/
theorem StampsOnly.field {β : Type} (a : StampsOnly s t key) (f : Elem → β) (hf : ∀ e l, f { e with inq := l } = f e) :
    f (elemIn t key) = f (elemIn s key) := by
  rw [a.own]
  exact hf ..

/-- Where an element stands in a slot's segment, the head of a queue is of that slot. -/
def HeadOwn (s : State) (key q : Nat) : Prop :=
  ∀ g, (elemIn s key).seg = some g → ∀ v, (elemIn s key).head q = some v → (elemIn s key).tokSlot v = some g

theorem StampsOnly.headOwn {q : Nat} (a : StampsOnly s t key) (own : HeadOwn s key q) : HeadOwn t key q := by
  intro g hg v hv
  rw [head_eq_tokens, a.tokens, ← head_eq_tokens] at hv
  rw [a.own] at hg ⊢
  exact own g hg v hv

/-- The state in which the new head of a queue has its stamp. -/
def headStamped (key : Nat) (s : State) (q : Nat) : State :=
  elemUpd (stamp s).2 key (fun e => { e with inq := e.inq.upd q (restamped s.sim.seqNo) })

theorem elemIn_headStamped (key : Nat) (s : State) (q : Nat) :
    elemIn (headStamped key s q) key = { elemIn s key with inq := (elemIn s key).inq.upd q (restamped s.sim.seqNo) } := by
  simp [elemIn, headStamped]

theorem headStamped_stampsOnly (key : Nat) (s : State) (q : Nat) : StampsOnly s (headStamped key s q) key where
  rest := rfl
  others k hk := by simp [elemIn, headStamped, SMap.at_upd_other _ _ hk]
  own := by rw [elemIn_headStamped]
  tokens p := by
    rw [elemIn_headStamped]
    by_cases hp : p = q
    · subst hp
      rw [SMap.at_upd_same, tokens_restamped]
    · rw [SMap.at_upd_other _ _ hp]

/-- A head of the slot in whose segment the element stands is not discarded. -/
theorem headArrive_own {q : Nat} (n : Nat) (own : HeadOwn s key q) : headArrive key q n s = s := by
  cases n with
  | zero => rfl
  | succ n =>
    unfold HeadOwn elemIn at own
    unfold headArrive
    simp only
    split
    next t g ht hg =>
      rw [own g hg t ht]
      exact if_pos rfl
    · rfl

/-- A queue that has a new head, one that is not discarded. -/
theorem headNew_own {q : Nat} (own : HeadOwn s key q) : headNew key s q = headStamped key s q :=
  headArrive_own 3 ((headStamped_stampsOnly key s q).headOwn own)

theorem foldl_headNew_stampsOnly {qs : List Nat} (own : ∀ q ∈ qs, HeadOwn s key q) : StampsOnly s (qs.foldl (headNew key) s) key := by
  induction qs generalizing s with
  | nil => exact .refl s key
  | cons q qs ih =>
    obtain ⟨first, rest⟩ := List.forall_mem_cons.1 own
    have stamped := headStamped_stampsOnly key s q
    rw [List.foldl_cons, headNew_own first]
    exact stamped.trans (ih fun p hp => stamped.headOwn (rest p hp))

end

section
variable {s : State} {key hnd : Nat} {h : HWord} {o : Fire}

/-- Data tokens have no effect of a control token. -/
theorem foldl_ctlEffects_data (g op : Nat) {ts : List FTok} (data : ∀ t ∈ ts, tokC t = false) :
    ts.foldl (ctlEffects key hnd g op h) s = s := by
  induction ts with
  | nil => rfl
  | cons t ts ih =>
    obtain ⟨first, rest⟩ := List.forall_mem_cons.1 data
    rw [List.foldl_cons, ctlEffects, first]
    exact ih rest

/-- A firing on data without a blocking cause or an error: its element changes, and the queues that it took from have new heads. -/
theorem fireEnd_data (op : Nat) (noBlock : o.block = none) (noAlso : o.also = none) (noErr : o.errs = [])
    (data : ∀ q ∈ o.take, ∀ t, o.e.head q = some t → tokC t = false) :
    fireEnd s key hnd op h o = o.take.foldl (headNew key) { s with fab.elems := s.fab.elems.set key (o.elem hnd h) } := by
  have seen : ∀ t ∈ ([3, 2, 1, 0].filter (fun q => o.take.contains q)).filterMap o.e.head, tokC t = false := by
    intro t ht
    obtain ⟨q, hq, hqt⟩ := List.mem_filterMap.1 ht
    exact data q (List.contains_iff_mem.1 (List.mem_filter.1 hq).2) t hqt
  simp only [fireEnd, noBlock, noAlso, noErr, List.nil_append, List.foldl_nil, foldl_ctlEffects_data _ _ seen]
  unfold Fire.elem Fire.sent Fire.written
  cases o.out with
  | none => simp
  | some t => simp

/-- A queue after a firing has lost its head where the firing took from it. -/
theorem at_foldl_drop {qs : List Nat} (nodup : qs.Nodup) (m : SMap (List QTok)) (q : Nat) :
    (qs.foldl (fun m q => m.upd q (fun l => l.drop 1)) m).at q = (m.at q).drop (if q ∈ qs then 1 else 0) := by
  induction qs generalizing m with
  | nil => rfl
  | cons p qs ih =>
    obtain ⟨new, nodup⟩ := List.nodup_cons.1 nodup
    rw [List.foldl_cons, ih nodup]
    by_cases hq : q = p
    · subst hq
      rw [SMap.at_upd_same, if_neg new, if_pos List.mem_cons_self, List.drop_zero]
    · rw [SMap.at_upd_other _ _ hq]
      simp only [List.mem_cons, hq, false_or]

/-- The slot of a token depends on the channel map and on which handlers are present with which words. -/
theorem tokSlot_congr {e f : Elem} (chm : f.chm = e.chm)
    (acts : ∀ k, (f.act.at k).word = (e.act.at k).word ∧ (f.act.at k).present = (e.act.at k).present) (t : FTok) :
    f.tokSlot t = e.tokSlot t := by
  simp only [Elem.tokSlot, Elem.bind, handlerSlot, chm, acts]

theorem act_elem_other {k : Nat} (hk : k ≠ hnd) : (o.elem hnd h).act.at k = o.e.act.at k := SMap.at_set_other _ _ hk

theorem act_elem_same : (o.elem hnd h).act.at hnd = { o.hd with age := 0 } := SMap.at_set_same ..

theorem tokSlot_elem (word : o.hd.word = (o.e.act.at hnd).word) (present : o.hd.present = (o.e.act.at hnd).present) (t : FTok) :
    (o.elem hnd h).tokSlot t = o.e.tokSlot t := by
  refine tokSlot_congr (f := o.elem hnd h) (e := o.e) rfl (fun k => ?_) t
  rcases eq_or_ne k hnd with rfl | hk
  · rw [act_elem_same]
    exact ⟨word, present⟩
  · rw [act_elem_other hk]
    exact ⟨rfl, rfl⟩

end

end Sys2Proof.Safety

namespace Sys2Proof.Proofs.ExecutionModel
open Sys2Proof Sys2Proof.Machine Sys2Proof.Safety

/-- Settles O52: the firing changes its element (`fireEnd_data`), where the queues that it took from then have new heads, whose stamps alone
change (`foldl_headNew_stampsOnly`), as none of them is a token of another slot than the segment's. -/
theorem firingFrame : Obligations.FiringFrame := by
  intro s key hnd op h o e he noBlock noAlso noErr nodup four data next word present t n
  let s1 : State := { s with fab.elems := s.fab.elems.set key (o.elem hnd h) }
  have at1 : elemIn s1 key = o.elem hnd h := SMap.at_set_same ..
  have queues (q : Nat) : (o.elem hnd h).inq.at q = (e.inq.at q).drop (if q ∈ o.take then 1 else 0) := by
    rw [← he]
    exact at_foldl_drop nodup o.e.inq q
  have own : ∀ q ∈ o.take, HeadOwn s1 key q := by
    intro q hq g hg v hv
    rw [at1] at hg hv ⊢
    rw [Elem.head, queues, if_pos hq] at hv
    obtain ⟨w, hw, rfl⟩ := Option.map_eq_some_iff.1 hv
    rw [tokSlot_elem (by rw [he]; exact word) (by rw [he]; exact present), he]
    exact next g (he ▸ hg) q hq w hw
  have ends : t = o.take.foldl (headNew key) s1 := fireEnd_data op noBlock noAlso noErr (he ▸ data)
  have only : StampsOnly s1 t key := ends ▸ foldl_headNew_stampsOnly own
  have same {β : Type} (f : Elem → β) (hf : ∀ e l, f { e with inq := l } = f e) : f n = f (o.elem hnd h) := at1 ▸ only.field f hf
  have acts (k : Nat) : handlerIn t key k = (o.elem hnd h).act.at k := same (·.act.at k) fun _ _ => rfl
  have sent : (o.sent h = true) ↔ (o.out.isSome ∧ (h.outmask ≠ 0#4 ∨ h.dsel ≠ 0#3)) := by simp [Fire.sent, sends]
  refine ⟨?rest, fun k hk => (only.others k hk).trans (SMap.at_set_other _ _ hk), fun q => ?tokens, fun k hk => ?others, ?own,
    ?st0, ?st1, fun yes => ?sends, fun no => ?keeps, ?element⟩
  case rest => exact only.rest
  case tokens => rw [only.tokens, at1, queues, List.map_drop]
  case others => rw [acts, act_elem_other hk, he]; rfl
  case own => rw [acts, act_elem_same]
  case st0 => rw [same (·.st0) fun _ _ => rfl, ← he]; rfl
  case st1 => rw [same (·.st1) fun _ _ => rfl, ← he]; rfl
  case sends =>
    have yes := sent.2 yes
    exact ⟨(same (·.res) fun _ _ => rfl).trans (if_pos yes), (same (·.pend) fun _ _ => rfl).trans (if_pos yes),
      (same (·.resSlot) fun _ _ => rfl).trans (if_pos yes)⟩
  case keeps =>
    have no := fun yes => no (sent.1 yes)
    rw [← he]
    exact ⟨(same (·.res) fun _ _ => rfl).trans (if_neg no), (same (·.pend) fun _ _ => rfl).trans (if_neg no),
      (same (·.resSlot) fun _ _ => rfl).trans (if_neg no)⟩
  case element =>
    have whole : n = { o.elem hnd h with inq := n.inq } := at1 ▸ only.own
    rw [whole, ← he]
    rfl

end Sys2Proof.Proofs.ExecutionModel

namespace Sys2Proof.Safety
open Sys2Proof Sys2Proof.Machine

variable {s s1 : State} {core x ix k : Nat} {p : BitVec 2} {l r : Word} {t u : BitVec 9}

/-! ### Copy templates (R56, R301, R303) -/

/-- The template that an operand names. -/
abbrev tmplIx (l : Word) : Nat := (l.extractLsb' 0 5).toNat

/-- A template is defined, and of the context's ASID. -/
abbrev OwnTmpl (s : State) (core x k : Nat) : Prop := (tmplOf s core k).v = true ∧ (tmplOf s core k).asid = (ctxOf s core x).asid

/-- A template that is to be armed from a tile waits for its entry (R56). -/
abbrev SourceHeld (s : State) (core k : Nat) : Prop :=
  (tmplOf s core k).srck = 1#2 ∧ (s.st.tiles.at (tileKey core (tmplOf s core k).stile.toNat)).canIssue = false

/-- The source of a template once an arming has taken its use, and asked for its release where REL says so (R55, R303). -/
def sourceTaken (s : State) (core k : Nat) : State :=
  let d := tmplOf s core k
  let s := if d.srck = 1#2 then tileUse s core d.stile.toNat else s
  if d.rel then tileUpd s core d.stile.toNat (fun e => { e with drq := true }) else s

theorem sourceTaken_mem : (sourceTaken s core k).mem = s.mem := by
  unfold sourceTaken tileUse
  dsimp only
  split <;> split <;> rfl

@[simp] theorem tmplOf_tmplUpd_same (f : Template → Template) : tmplOf (tmplUpd s core k f) core k = f (tmplOf s core k) :=
  SMap.at_upd_same ..

/-- The status of cpgo for a template (R303). -/
def cpgoStatus (s : State) (core x k : Nat) : Nat :=
  if ¬OwnTmpl s core x k then 1 else if (tmplOf s core k).arm = false then 3 else if islandFull s core k then 7 else 0

/-- The status of cpdis for a template (R303). -/
def cpdisStatus (s : State) (core x k : Nat) : Nat :=
  if ¬OwnTmpl s core x k then 1 else if (tmplOf s core k).arm = false then 3 else 0

/-- The state once a template is disarmed; the use of its source ends with its last copy. -/
def tmplDisarmed (s : State) (core k : Nat) : State :=
  armingEnd (tmplUpd s core k (fun d => { d with arm := false })) core k (tmplOf s core k).arming

theorem not_ownTmpl_iff :
    ¬OwnTmpl s core x k ↔ (!(tmplOf s core k).v || (tmplOf s core k).asid != (ctxOf s core x).asid) = true := by
  simp [OwnTmpl, imp_iff_not_or]

section
variable (h : Fires s core x ix p true true (some l) (some r)) (c : Commands s core x ix)
include h c

theorem Fires.cparm_refused (hs : armStatus s core (ctxOf s core x) l r ≠ 0) :
    exec (.cparm p t u) s = performs s core x ix [t, u] (some (BitVec.ofNat 64 (armStatus s core (ctxOf s core x) l r))) :=
  (congrArg Host.Outcome.next (h.cmd c _)).trans (congrArg _ (if_pos (bne_iff_ne.2 hs)))

theorem Fires.cparm_waits (hs : armStatus s core (ctxOf s core x) l r = 0) (held : SourceHeld s core (tmplIx l)) :
    exec (.cparm p t u) s = .next (ctHold s core x 5 (tmplOf s core (tmplIx l)).stile.toNat) :=
  (congrArg Host.Outcome.next (h.cmd c _)).trans (congrArg _
    ((if_neg (by simp [hs])).trans (if_pos (by simpa using held))))

/-- A template is armed, with no fire counted, once its source has been taken. -/
theorem Fires.cparm_arms (hs : armStatus s core (ctxOf s core x) l r = 0) (held : ¬SourceHeld s core (tmplIx l)) :
    ∃ f : Template → Template, (∀ d, (f d).arm = true ∧ (f d).fires = 0) ∧
      exec (.cparm p t u) s = performs (tmplUpd (stamp (sourceTaken s core (tmplIx l))).2 core (tmplIx l) f) core x ix [t, u]
        (some 0#64) :=
  ⟨_, fun _ => ⟨rfl, rfl⟩, (congrArg Host.Outcome.next (h.cmd c _)).trans (congrArg _
    ((if_neg (by simp [hs])).trans (if_neg (by simpa using held))))⟩

theorem Fires.cpgo {st : Nat} (hz : l.extractLsb' 5 59 = 0#59) (hst : cpgoStatus s core x (tmplIx l) = st) :
    exec (.cpgo p t u) s = performs (if st = 0 then tmplFire s core (tmplIx l) (r.extractLsb' 0 32) (x + 1) else s) core x ix [t, u]
      (some (BitVec.ofNat 64 st)) := by
  subst hst
  refine (congrArg Host.Outcome.next (h.cmd c _)).trans ?_
  simp only [hz, bne_self_eq_false, Bool.false_eq_true, if_false, cpgoStatus, not_ownTmpl_iff, Bool.not_eq_true']
  rfl

end

theorem Fires.cpdis (h : Fires s core x ix p true false (some l) (some 0#64)) (c : Commands s core x ix)
    {st : Nat} (hz : l.extractLsb' 5 59 = 0#59) (hst : cpdisStatus s core x (tmplIx l) = st) :
    exec (.cpdis p t u) s = performs (if st = 0 then tmplDisarmed s core (tmplIx l) else s) core x ix [t, u]
      (some (BitVec.ofNat 64 st)) := by
  subst hst
  refine (congrArg Host.Outcome.next (h.cmd c _)).trans ?_
  simp only [hz, bne_self_eq_false, Bool.false_eq_true, if_false, cpdisStatus, not_ownTmpl_iff, Bool.not_eq_true']
  rfl

/-! ### Matrix tasks (R56, R195, R305) -/

/-- The MX path of a context, on which mxtask reads its record. -/
abbrev mxActor (s : State) (core x : Nat) : Actor :=
  { core := core, path := .mx, asid := (ctxOf s core x).asid, gen := (ctxOf s core x).gen, rid := 0 }

/-- The record that mxtask reads. -/
abbrev mxRecord (s : State) (core x : Nat) (l : Word) : (MemFault ⊕ List Word) × State := memWords s (mxActor s core x) l.toNat 8

/-- A tenant has as many entries in its Arbiter queue as it may (R196). -/
abbrev ArbFull (s : State) (core x : Nat) : Prop :=
  (s.rg.schedQ.at (ctxOf s core x).ten.toNat).aqmax ≤ arbHeld s (core / 64) (ctxOf s core x).ten

/-- The task of a record that a context queues on its own island. -/
abbrev localTask (s : State) (core x : Nat) (ws : List Word) : MxTask :=
  { words := ws, asid := (ctxOf s core x).asid, gen := (ctxOf s core x).gen, start := 0#64, owner := ctxKey core x + 1, used := true
    rid := (ctxOf s core x).rid }

/-- The tile-table entry that a task of this core names. -/
abbrev taskEntry (s1 : State) (core : Nat) (k : MxTask) : Tile := s1.st.tiles.at (tileKey core k.ent)

section
variable {ws : List Word} (h : Fires s core x ix p true true (some l) (some r)) (c : Commands s core x ix)
include h c

theorem Fires.mxtask_refused (bad : l.toNat % 64 ≠ 0 ∨ r.extractLsb' 1 63 ≠ 0#63) :
    exec (.mxtask p t u) s = performs s core x ix [t, u] (some 2#64) :=
  (congrArg Host.Outcome.next (h.cmd c _)).trans (congrArg _ (if_pos (by simpa using bad)))

theorem Fires.mxtask_full (hl : l.toNat % 64 = 0) (hr : r = 0#64) (full : ArbFull s core x) :
    exec (.mxtask p t u) s = performs s core x ix [t, u] (some 1#64) := by
  subst hr
  exact (congrArg Host.Outcome.next (h.cmd c _)).trans (congrArg _
    ((if_neg (by simp [hl])).trans (if_pos (by simpa using full))))

theorem Fires.mxtask_unread {e : MemFault} (hl : l.toNat % 64 = 0) (hr : r = 1#64) (hm : mxRecord s core x l = (.inl e, s1)) :
    exec (.mxtask p t u) s = performs s1 core x ix [t, u] (some 3#64) := by
  subst hr
  refine (congrArg Host.Outcome.next (h.cmd c _)).trans ?_
  simp only [hl, hm, bne_self_eq_false, BitVec.reduceExtractLsb', Bool.or_self, Bool.false_eq_true, if_false, Nat.ofNat_pos,
    BitVec.getLsbD_eq_getElem, BitVec.getElem_one, decide_true, Bool.not_true, Bool.false_and]
  rfl

/-- A record read whole is queued on the core's own island, once the entry that it names can be used. -/
theorem Fires.mxtask_local (hl : l.toNat % 64 = 0) (hr : r = 1#64) (hm : mxRecord s core x l = (.inr ws, s1))
    (run : s1.sim.stall = false) :
    exec (.mxtask p t u) s =
      let k := localTask s core x ws
      if (taskEntry s1 core k).badRef (ctxOf s core x).asid = true then
        .next (ctFault (ctFired s1 core x ix) core x (addrFlt 0x14 ix l))
      else if (taskEntry s1 core k).canIssue = false then .next (ctHold s1 core x 5 k.ent)
      else performs (islandNext (islandUpd (tileUse s1 core k.ent) core (fun i => { i with wait := i.wait ++ [k] })) core) core x ix
        [t, u] (some 0#64) := by
  subst hr
  refine (congrArg Host.Outcome.next (h.cmd c _)).trans ?_
  simp only [hl, hm, run, bne_self_eq_false, BitVec.reduceExtractLsb', Bool.or_self, Bool.false_eq_true, if_false, if_true,
    Nat.ofNat_pos, BitVec.getLsbD_eq_getElem, BitVec.getElem_one, decide_true, Bool.not_true, Bool.false_and, Bool.not_eq_true',
    apply_ite Host.Outcome.next]
  rfl

/-- A record read whole is queued with the Arbiter of the die. -/
theorem Fires.mxtask_arbiter (hl : l.toNat % 64 = 0) (hr : r = 0#64) (room : ¬ArbFull s core x)
    (hm : mxRecord s core x l = (.inr ws, s1)) (run : s1.sim.stall = false) :
    exec (.mxtask p t u) s =
      let e := tileEntry s1 ws (ctxOf s core x).asid (if (ctxOf s core x).rid = 0 then 0 else (regionOf s (ctxOf s core x).rid).pri)
        (ctxKey core x + 1) (ctxOf s core x).rid
      performs (arbAdd e.2 (core / 64) e.1) core x ix [t, u] (some 0#64) := by
  subst hr
  refine (congrArg Host.Outcome.next (h.cmd c _)).trans ?_
  simp only [hl, hm, run, room, bne_self_eq_false, BitVec.extractLsb'_zero, Bool.or_self, Bool.false_eq_true, if_false,
    Nat.ofNat_pos, BitVec.getLsbD_eq_getElem, BitVec.getElem_zero, Bool.not_false, decide_false, Bool.and_false]
  rfl

theorem Fires.tenq :
    exec (.tenq p t u) s =
      let q := heapPut s (core / 64) (ctxOf s core x).ten l r
      performs q.2 core x ix [t, u] (some (stTok (if q.1 then 0 else 1))) :=
  congrArg Host.Outcome.next (h.cmd c _)

end

/-! ### Collectives (R280, R306) -/

/-- The descriptor that coll reads. -/
abbrev collDesc (s : State) (core x : Nat) (l : Word) : (MemFault ⊕ List Word) × State :=
  memWords s (ctxActor core (ctxOf s core x)) l.toNat 4

/-- The collective of a descriptor that a context issues, its number the next order stamp. -/
abbrev collOf (s s1 : State) (core x : Nat) (ws : List Word) : CollRun :=
  { id := s1.sim.seqNo, core := core, asid := (ctxOf s core x).asid, gen := (ctxOf s core x).gen, rid := (ctxOf s core x).rid, desc := ws
    ctx := x + 1 }

/-- The state in which a collective is issued; one of a group with no other member ends by itself. -/
def collIssued (s1 : State) (q : CollRun) : State :=
  let s2 : State := { (stamp s1).2 with eng.colls := s1.eng.colls ++ [q] }
  if groupCount s2 q.grp = 1 then pushEv s2 .collectiveComplete { (default : EvArg) with core := BitVec.ofNat 8 q.core, n := q.id } else s2

theorem collIssued_colls {q : CollRun} : (collIssued s1 q).eng.colls = s1.eng.colls ++ [q] := by
  unfold collIssued
  dsimp only
  split <;> rfl

/-- Is the module no member of a replica group (R306)? -/
abbrev NoMember (s : State) (g : Nat) : Prop := groupLocal s g = 0x7F ∨ groupCount s g = 0

theorem noMember_iff {g : Nat} : NoMember s g ↔ (decide (groupLocal s g = 0x7F) || decide (groupCount s g = 0)) = true := by
  simp [NoMember]

section
variable {ws : List Word} (h : Fires s core x ix p true false (some l) (some 0#64)) (c : Commands s core x ix)
include h c

/-- A descriptor that cannot be read is a fault of its address, unless a word of it is poisoned. -/
theorem Fires.coll_unread {f : MemFault} (hm : collDesc s core x l = (.inl f, s1)) (run : s1.sim.stall = false)
    (clean : f.kind ≠ .poison) :
    exec (.coll p t u) s = .next (ctFault (ctFired s1 core x ix) core x (xlateFlt f.st.code ix f.va)) := by
  refine (congrArg Host.Outcome.next (h.cmd c _)).trans ?_
  simp only [hm, run, Bool.false_eq_true, if_false]

theorem Fires.coll_bad (hm : collDesc s core x l = (.inr ws, s1)) (run : s1.sim.stall = false) (bad : (collOf s s1 core x ws).bad = true) :
    exec (.coll p t u) s = performs s1 core x ix [t, u] (some 2#64) := by
  refine (congrArg Host.Outcome.next (h.cmd c _)).trans ?_
  simp only [hm, run, Bool.false_eq_true, if_false]
  exact congrArg _ (if_pos bad)

section
variable (hm : collDesc s core x l = (.inr ws, s1)) (run : s1.sim.stall = false) (good : (collOf s s1 core x ws).bad = false)
include hm run good

theorem Fires.coll_noMember (out : NoMember s (collOf s s1 core x ws).grp) :
    exec (.coll p t u) s = performs s1 core x ix [t, u] (some 1#64) := by
  refine (congrArg Host.Outcome.next (h.cmd c _)).trans ?_
  simp only [hm, run, Bool.false_eq_true, if_false]
  exact congrArg _ ((if_neg (ne_true_of_eq_false good)).trans (if_pos (noMember_iff.1 out)))

/-- A good descriptor of a group of the module is issued. -/
theorem Fires.coll_issues (member : ¬NoMember s (collOf s s1 core x ws).grp) :
    exec (.coll p t u) s = performs (collIssued s1 (collOf s s1 core x ws)) core x ix [t, u] (some 0#64) := by
  refine (congrArg Host.Outcome.next (h.cmd c _)).trans ?_
  simp only [hm, run, Bool.false_eq_true, if_false]
  exact congrArg Host.Outcome.next
    ((if_neg (ne_true_of_eq_false good)).trans (if_neg (fun e => member (noMember_iff.2 e))))

end

/-! ### launch (R178, R200, R281, R309) -/

variable {park : Bool}

/-- A launch that a check refuses answers its status. -/
theorem Fires.launch_refused {st : Nat} (hc : launchCheck s core (ctxOf s core x) l = (st, none, s1)) (run : s1.sim.stall = false) :
    ctLaunch s p t u park = ctPerformed s1 core x ix (outsOf [t, u] (some (stTok st))) := by
  refine (h.cmd c _).trans ?_
  simp only [hc, run, Bool.false_eq_true, if_false]

section
variable {q : Region} (hc : launchCheck s core (ctxOf s core x) l = (0, some q, s1)) (run : s1.sim.stall = false)
include hc run

/-- A launch without a free slot is FULL, or waits for one in PARK. -/
theorem Fires.launch_full (full : poolFree s (core / 64) (ctxOf s core x).ten q.depth (ctxKey core x) = 0) :
    ctLaunch s p t u park = if park then ctWait s1 core x (some .parked) 10 0 l 0
      else ctPerformed s1 core x ix (outsOf [t, u] (some (stTok 1))) := by
  refine (h.cmd c _).trans ?_
  simp only [hc, run, full, Bool.false_eq_true, if_false, if_true]

/-- A launch with a free slot is admitted after the stores of its block and a release of scope .m. -/
theorem Fires.launch_admits (free : poolFree s (core / 64) (ctxOf s core x).ten q.depth (ctxKey core x) ≠ 0)
    (pass : StoresPass s1 core x 32) :
    ctLaunch s p t u park = ctPerformed (poolDrop (regionAdmit (release (storesFirst s1 core x 32) core 3)
      { q with pool := poolFree s (core / 64) (ctxOf s core x).ten q.depth (ctxKey core x) }) core x) core x ix
        (outsOf [t, u] (some (stTok 0))) := by
  refine (h.cmd c _).trans ?_
  simp only [hc, run, free, Bool.false_eq_true, if_false]
  exact pass.ready _

end
end

/-! ### Heaps and schedules (R198, R199, R310) -/

section
variable {park : Bool} (h : Fires s core x ix p false false (some 0#64) (some 0#64))
include h

theorem Fires.tdeq_takes (c : Commands s core x ix) {e : HeapEnt}
    (ht : heapTake s (core / 64) (ctxOf s core x).ten = (some e, s1)) :
    ctTdeq s p t u park = ctPerformed s1 core x ix [(0, t, some e.val), (1, u, some e.key)] := by
  refine (h.cmd c _).trans ?_
  simp only [ht]

theorem Fires.tdeq_none (c : Commands s core x ix) (ht : (heapTake s (core / 64) (ctxOf s core x).ten).1 = none) :
    ctTdeq s p t u park = if park then ctWait s core x (some .wait) 11 1 0#64 0 else ctPerformed s core x ix (outsOf [t, u] none) := by
  refine (h.cmd c _).trans ?_
  simp only [ht]

theorem Fires.schnext :
    exec (.schnext p t u) s =
      let e := schedAt s core (ctxOf s core x)
      if e.v = true then .next (ctDone (atCommit s core x ix .schnext) core x ix none [(0, t, some e.arg), (1, u, some 0#64)])
      else .next (ctDone s core x ix none [(0, t, none), (1, u, some 1#64)]) :=
  (congrArg Host.Outcome.next (h.form _)).trans (apply_ite Host.Outcome.next _ _ _)

end

/-- Nothing is taken from an empty heap. -/
theorem heapTake_empty {die : Nat} {ten : BitVec 6} (empty : s.rg.heaps.at (heapKey die ten) = []) : heapTake s die ten = (none, s) := by
  have due : heapDue [] = [] := rfl
  simp [heapTake, empty, due]

end Sys2Proof.Safety

namespace Sys2Proof.Proofs.ExecutionModel
open Sys2Proof Sys2Proof.Machine Sys2Proof.Safety

/-- Settles O48: each form by the equation of its outcome, where the checks before it pass: cparm by `armStatus` and the wait for its
source, cpgo and cpdis by their status, mxtask by the record that it reads, coll by its descriptor, the launch forms by `launchCheck` and
the pool, the tdeq forms by what the heap gives. The order of statuses is log entry 62, a launch after the stores of its block log entry
14, the pool and the heap log entry 49, the use of a task's entry log entry 61. -/
theorem copyMatrixAndTaskForms : Obligations.CopyMatrixAndTaskForms := by
  refine ⟨fun s core x ix p t u l r cmd => ?forms, fun s core x ix p t u h => ?schedule⟩
  case schedule => exact ⟨fun v => h.schnext.trans (if_pos v), fun v => h.schnext.trans (if_neg (ne_true_of_eq_false v))⟩
  case forms =>
    intro c k d ours gives
    refine ⟨fun h => ⟨h.cparm_refused cmd, fun hs src held => h.cparm_waits cmd hs ⟨src, held⟩, fun hs free => ?arms, fun hz => ?cpgo,
      ?mxtask, h.tenq cmd⟩, fun h => ⟨fun hz => ?cpdis, ?fault, ?coll, ?refused, ?launch⟩, fun h => ⟨?tdeq, ?empty⟩⟩
    case arms =>
      have taken : ¬SourceHeld s core k := fun held => ne_true_of_eq_false held.2 (free held.1)
      obtain ⟨f, armed, run⟩ := h.cparm_arms (t := t) (u := u) cmd hs taken
      refine ⟨_, run, ?_, ?_, ?_⟩
      · rw [tmplOf_tmplUpd_same, (armed _).1]
      · rw [tmplOf_tmplUpd_same, (armed _).2]
      · exact sourceTaken_mem
    case cpgo =>
      exact ⟨fun no => h.cpgo cmd hz (if_pos no),
        fun own off => h.cpgo cmd hz ((if_neg (not_not_intro own)).trans (if_pos off)),
        fun own on full => h.cpgo cmd hz ((if_neg (not_not_intro own)).trans ((if_neg (ne_false_of_eq_true on)).trans (if_pos full))),
        fun own on room => h.cpgo cmd hz ((if_neg (not_not_intro own)).trans ((if_neg (ne_false_of_eq_true on)).trans
          (if_neg (ne_true_of_eq_false room))))⟩
    case cpdis =>
      exact ⟨fun no => h.cpdis cmd hz (if_pos no),
        fun own off => h.cpdis cmd hz ((if_neg (not_not_intro own)).trans (if_pos off)),
        fun own on => h.cpdis cmd hz ((if_neg (not_not_intro own)).trans (if_neg (ne_false_of_eq_true on)))⟩
    case mxtask =>
      refine ⟨h.mxtask_refused cmd, h.mxtask_full cmd, fun e s1 hl hr hm => h.mxtask_unread cmd hl hr hm,
        fun ws s1 hl hr hm run => ?_, fun ws s1 hl hr room hm run => h.mxtask_arbiter cmd hl hr (Nat.not_le.2 room) hm run⟩
      have here := h.mxtask_local (t := t) (u := u) cmd hl hr hm run
      exact ⟨fun bad => here.trans (if_pos bad),
        fun good wait => here.trans ((if_neg (ne_true_of_eq_false good)).trans (if_pos wait)),
        fun good free => here.trans ((if_neg (ne_true_of_eq_false good)).trans (if_neg (ne_false_of_eq_true free)))⟩
    case fault => exact fun f s1 hm run clean => h.coll_unread cmd hm run clean
    case coll =>
      intro ws s1 hm run q
      refine ⟨h.coll_bad cmd hm run, h.coll_noMember cmd hm run, fun good index count => ?_⟩
      exact ⟨_, h.coll_issues cmd hm run good (fun no => no.elim index count), collIssued_colls⟩
    case refused =>
      exact fun st s1 hc run => ⟨congrArg _ (h.launch_refused cmd hc run), congrArg _ (h.launch_refused cmd hc run)⟩
    case launch =>
      intro q s1 hc run kind
      exact ⟨fun full => ⟨congrArg _ (h.launch_full cmd hc run full), congrArg _ (h.launch_full cmd hc run full)⟩,
        fun free pass => ⟨congrArg _ (h.launch_admits cmd hc run free pass), congrArg _ (h.launch_admits cmd hc run free pass)⟩⟩
    case tdeq => exact fun e s1 ht => ⟨congrArg _ (h.tdeq_takes cmd ht), congrArg _ (h.tdeq_takes cmd ht)⟩
    case empty =>
      intro empty
      have nothing := congrArg Prod.fst (heapTake_empty empty)
      exact ⟨congrArg _ (h.tdeq_none cmd nothing), congrArg _ (h.tdeq_none cmd nothing)⟩

end Sys2Proof.Proofs.ExecutionModel

namespace Sys2Proof.Machine

/-! The core that an event names, and its context there with its frame. -/

abbrev eventCore (s : State) : Nat := s.sim.arg.core.toNat
abbrev eventCtx (s : State) : Nat := s.sim.arg.ctx.toNat
abbrev eventContext (s : State) : Ctx := ctxOf s (eventCore s) (eventCtx s)
abbrev eventFrame (s : State) : Frame := frameOf s (eventCore s) (eventCtx s)

variable {s : State}

/-! ### Frames (R191) -/

/-- A free frame goes to the READY context that is first. -/
theorem execFrameAllocate_allots {n y : Nat} (free : frameFree s (eventCore s) = some n) (ready : readyFirst s (eventCore s) = some y) :
    execFrameAllocate s = .next (ctxUpd
      { s with ctl.frames := s.ctl.frames.set (frameKey (eventCore s) n) (Frame.empty y) } (eventCore s) y
      (fun c => { c with st := .run, frm := n, wcode := 0, widx := 0 })) := by
  unfold execFrameAllocate
  simp only [free, ready]

theorem execFrameAllocate_leaves (h : frameFree s (eventCore s) = none ∨ readyFirst s (eventCore s) = none) :
    execFrameAllocate s = .next s := by
  unfold execFrameAllocate
  simp only
  split
  next n y free ready => exact absurd h (by simp [free, ready])
  · rfl

/-! ### Fetch (R178, R205, R207, R278) -/

/-- The context that an event names awaits its next block in a frame of its own. -/
structure AwaitsBlock (s : State) : Prop where
  run : (eventContext s).st = .run
  own : (eventFrame s).own = eventCtx s + 1
  empty : (eventFrame s).loaded = false

/-- The state in which a block is fetched: a context that owes an acquire of scope .m begins its block with it. -/
def fetchBegin (s : State) (core x : Nat) : State :=
  if (ctxOf s core x).acq then ctxUpd (acquire s core 3) core x (fun c => { c with acq := false }) else s

/-- The read of the block that comes next. -/
abbrev nextBlock (s : State) : Except Flt (BitVec 32 × List (BitVec 32)) × State :=
  blockRead (fetchBegin s (eventCore s) (eventCtx s)) (eventCore s) (eventCtx s) (eventContext s).blkAddr

section
variable (h : AwaitsBlock s)
include h

theorem AwaitsBlock.guard :
    ((eventContext s).st != .run || (eventFrame s).own != eventCtx s + 1 ||
      (eventFrame s).loaded) = false := by
  simp [h.run, h.own, h.empty]

theorem AwaitsBlock.yields (barred : ctxBarred s (eventCore s) (eventContext s) = true) :
    execBlockFetch s = .next (ctxYield s (eventCore s) (eventCtx s)) :=
  (if_neg (ne_true_of_eq_false h.guard)).trans (if_pos barred)

section
variable {s1 : State} (goes : ctxBarred s (eventCore s) (eventContext s) = false)
include goes

/-- A block that fails its fetch or its checks traps the context. -/
theorem AwaitsBlock.traps {e : Flt} (read : nextBlock s = (.error e, s1)) :
    execBlockFetch s = .next (takeTrap s1 (eventCore s) (eventCtx s) e (eventContext s).blk none) := by
  refine (if_neg (ne_true_of_eq_false h.guard)).trans ((if_neg (ne_true_of_eq_false goes)).trans ?_)
  unfold nextBlock fetchBegin at read
  simp only [read]

/-- A block that passes stands in the frame of its context. -/
theorem AwaitsBlock.loads {hdr : BitVec 32} {ws : List (BitVec 32)} (read : nextBlock s = (.ok (hdr, ws), s1)) :
    execBlockFetch s = .next { s1 with
      ctl.frames := s1.ctl.frames.set (frameKey (eventCore s) (eventContext s).frm)
        { Frame.empty (eventCtx s) with loaded := true, hdr := hdr, words := ws } } := by
  refine (if_neg (ne_true_of_eq_false h.guard)).trans ((if_neg (ne_true_of_eq_false goes)).trans ?_)
  unfold nextBlock fetchBegin at read
  simp only [read]

end
end

/-! ### Waiting contexts (R278, R281, R314) -/

theorem ctxOf_ctxReady (s : State) (core x : Nat) :
    ctxOf (ctxReady s core x) core x =
      { ctxOf s core x with st := .ready, wcode := 0, widx := 0, deadline := 0#64, since := s.sim.seqNo } :=
  Safety.ctxOf_ctxUpd_same (stamp s).2 core x _

section
variable (wait : (eventContext s).st = .wait) (code : (eventContext s).wcode ≠ 0)
include wait code

theorem execWaitRelease_waits (holds : waitHolds s (eventCore s) (eventCtx s) = false) : execWaitRelease s = .next s :=
  (if_pos (by simp [wait, code])).trans (if_pos (by simp [holds]))

/-- A context whose condition holds is READY. -/
theorem execWaitRelease_readies (holds : waitHolds s (eventCore s) (eventCtx s) = true)
    (other : ¬((eventContext s).wcode = 11 ∧ (eventContext s).widx = 0)) :
    execWaitRelease s = .next (ctxReady s (eventCore s) (eventCtx s)) :=
  (if_pos (by simp [wait, code])).trans ((if_neg (by simp [holds])).trans (if_neg (by simpa using other)))

/-- A context that waits for its event flag takes it. -/
theorem execWaitRelease_event (holds : waitHolds s (eventCore s) (eventCtx s) = true)
    (event : (eventContext s).wcode = 11 ∧ (eventContext s).widx = 0) :
    execWaitRelease s = .next (ctxReady
      (ctxUpd s (eventCore s) (eventCtx s) (fun c => { c with evf := false, acq := true })) (eventCore s) (eventCtx s)) :=
  (if_pos (by simp [wait, code])).trans ((if_neg (by simp [holds])).trans (if_pos (by simpa using event)))

end

theorem execIdleTimeout_due (wait : (eventContext s).st = .wait) (code : (eventContext s).wcode = 11)
    (set : (eventContext s).deadline ≠ 0#64) (due : (eventContext s).deadline.toNat ≤ s.dev.gtsc.toNat) :
    execIdleTimeout s = .next (ctxReady s (eventCore s) (eventCtx s)) :=
  if_pos (by simp [wait, code, set, due])

/-! ### Segment budgets (R186, R391, R393) -/

/-! The graph slot that an event names, by its number on its core. -/

abbrev eventUnit (s : State) : Nat := s.sim.arg.unit.toNat % 4
abbrev eventSlot (s : State) : GSlot := s.rg.slots.at (slotIx (eventCore s) (eventUnit s))

/-- A segment of the slot has reached SEGB. -/
abbrev SegmentDue (s : State) : Prop :=
  (eventSlot s).rid ≠ 0 ∧ (eventSlot s).live = true ∧ (eventSlot s).halted = false ∧ (eventSlot s).segN ≠ 0 ∧
    stopped s (eventSlot s).rid = false ∧ 5 * (regionOf s (eventSlot s).rid).segb.toNat ≤ 4 * (s.dev.gtsc - (eventSlot s).segAt).toNat

theorem not_segmentDue_iff :
    ¬SegmentDue s ↔ (decide ((eventSlot s).rid = 0) || !(eventSlot s).live || (eventSlot s).halted || decide ((eventSlot s).segN = 0) ||
      stopped s (eventSlot s).rid ||
      decide (4 * (s.dev.gtsc - (eventSlot s).segAt).toNat < 5 * (regionOf s (eventSlot s).rid).segb.toNat)) = true := by
  simp only [SegmentDue, not_and_or, Bool.or_eq_true, decide_eq_true_eq, Bool.not_eq_true', or_assoc, not_not, ne_eq, Bool.not_eq_true,
    Bool.not_eq_false, Nat.not_le]

theorem execSegmentBudgetExpiry_leaves (no : ¬SegmentDue s) : execSegmentBudgetExpiry s = .next s := if_pos (not_segmentDue_iff.1 no)

/-- The overrun is recorded, the region is to be pre-empted, and rolls back first. -/
theorem execSegmentBudgetExpiry_due (due : SegmentDue s) :
    execSegmentBudgetExpiry s =
      let r := regionOf s (eventSlot s).rid
      let s1 := eventRecord s 5 r.err r.asid r.fd (eventCore s) 0 r.rcba
        [0#64, 0#64, 0#64, coreLoc (eventCore s), BitVec.ofNat 64 r.waveId]
      .next (pushFirst (regUpd (preemptAsk s1 (eventSlot s).rid) (eventSlot s).rid (fun r => { r with want := true, inFlight := false }))
        .regionRollback { (default : EvArg) with n := (eventSlot s).rid, unit := 0x100#12 }) :=
  if_neg (fun e => not_segmentDue_iff.2 e due)

/-! ### The stalemate detector (R202, R383, R387) -/

/-- The blocked nodes of the region in the slot that an event names. -/
abbrev eventNodes (s : State) : List Blocked := blockedNodes s (eventCore s) (eventUnit s)

theorem execStalemateCheck_leaves (no : watchDue s (eventCore s) (eventUnit s) = false) : execStalemateCheck s = .next s :=
  if_pos (by simp [no])

/-- A region of which no node waits outward is reported. -/
theorem execStalemateCheck_stalled (due : watchDue s (eventCore s) (eventUnit s) = true)
    (inward : (eventNodes s).all (fun b => !b.outward) = true) :
    execStalemateCheck s =
      .next (watchReport s (eventCore s) (slotRid s (eventCore s) (eventUnit s)) 0x1D (eventNodes s)) := by
  have noOut : ((eventNodes s).filter (·.outward)).isEmpty = true := by
    simpa [List.isEmpty_iff, List.filter_eq_nil_iff] using inward
  exact (if_neg (by simp [due])).trans (if_pos noOut)

/-- A wait on a bounded object outside restarts both counters. -/
theorem execStalemateCheck_bounded (due : watchDue s (eventCore s) (eventUnit s) = true)
    (bounded : (eventNodes s).any (fun b => b.outward && b.bounded s (eventCore s)) = true) :
    execStalemateCheck s = .next { s with
      rg.slots := s.rg.slots.upd (slotIx (eventCore s) (eventUnit s)) (fun x => { x with prog := s.dev.gtsc, prog2 := s.dev.gtsc }) } := by
  have anyOut : ((eventNodes s).filter (·.outward)).isEmpty = false := by
    obtain ⟨b, hb, out⟩ := List.any_eq_true.1 bounded
    exact List.isEmpty_eq_false_iff_exists_mem.2 ⟨b, List.mem_filter.2 ⟨hb, (Bool.and_eq_true_iff.1 out).1⟩⟩
  have outs : ((eventNodes s).filter (·.outward)).any (fun b => b.bounded s (eventCore s)) = true := by
    rw [List.any_filter]; exact bounded
  refine (if_neg (by simp [due])).trans ((if_neg (ne_true_of_eq_false anyOut)).trans ?_)
  simp only [outs, if_true, SMap.at_upd_same, BitVec.sub_self]
  rfl

/-- The second count of a region in which a node waits outward without a bound has reached 2^24 mc: the region is reported. -/
theorem execStallout_reports (on : watched s (eventCore s) (eventUnit s) = true)
    (late : stalloutNs ≤ (s.dev.gtsc - (eventSlot s).prog2).toNat)
    (out : (eventNodes s).any (fun b => b.outward && !b.bounded s (eventCore s)) = true) :
    execStallout s = .next (watchReport
      { s with rg.slots := s.rg.slots.upd (slotIx (eventCore s) (eventUnit s)) (fun x => { x with prog2 := s.dev.gtsc }) }
      (eventCore s) (slotRid s (eventCore s) (eventUnit s)) 0x21 (eventNodes s)) := by
  have due : (!watched s (eventCore s) (eventUnit s) || decide ((s.dev.gtsc - (eventSlot s).prog2).toNat < stalloutNs)) = false := by
    rw [on, decide_eq_false (Nat.not_lt.2 late)]
    rfl
  refine (if_neg (ne_true_of_eq_false due)).trans ((if_neg (by simp [out])).trans ?_)
  simp only [slotRid, SMap.at_upd_same]

theorem execStallout_leaves (off : watched s (eventCore s) (eventUnit s) = false) : execStallout s = .next s :=
  if_pos (by simp [off])

/-! ### The debugger (R395) -/

/-- HALT stands in the debug area of the core, and its slot is halted where a debugger is attached to it. -/
theorem execDebugHalt_halts :
    ∃ t, execDebugHalt s = .next t ∧ t.ctl.dbga.at (eventCore s) = { s.ctl.dbga.at (eventCore s) with halt := true } ∧ t.mem = s.mem ∧
      ((s.ctl.dbga.at (eventCore s)).v = true →
        (t.rg.slots.at (slotIx (eventCore s) (s.ctl.dbga.at (eventCore s)).slot.toNat)).halted = true) ∧
      ((s.ctl.dbga.at (eventCore s)).v = false → t.rg.slots = s.rg.slots) := by
  refine ⟨_, rfl, ?_⟩
  cases hv : (s.ctl.dbga.at (eventCore s)).v with
  | true => simp [hv]
  | false => simp [hv]

/-- HALT is cleared, and no slot of the core is halted. -/
theorem execDebugResume_resumes :
    ∃ t, execDebugResume s = .next t ∧ (t.ctl.dbga.at (eventCore s)).halt = false ∧ t.mem = s.mem ∧
      ∀ e ∈ t.rg.slots, e.1 / 4 = eventCore s → e.2.halted = false := by
  refine ⟨_, rfl, by simp, rfl, fun e he on => ?_⟩
  obtain ⟨y, -, rfl⟩ := List.mem_map.1 he
  split
  · rfl
  next other =>
    rw [if_neg other] at on
    simpa [on] using other

/-- Nothing of a debug area returns while the slot is halted, or where none of it can. -/
theorem execDebugAreaRefill_leaves
    (h : (s.rg.slots.at (slotIx (eventCore s) (s.ctl.dbga.at (eventCore s)).slot.toNat)).halted = true ∨
      dbgNext s (eventCore s) = none) : execDebugAreaRefill s = .next s := by
  unfold execDebugAreaRefill
  simp only
  split
  · rfl
  next on => simp only [h.resolve_left on]

theorem execDebugAreaRefill_returns {e : DbgEnt}
    (on : (s.rg.slots.at (slotIx (eventCore s) (s.ctl.dbga.at (eventCore s)).slot.toNat)).halted = false)
    (next : dbgNext s (eventCore s) = some e) : execDebugAreaRefill s = .next (dbgReturn s (eventCore s) e) := by
  refine (if_neg (ne_true_of_eq_false on)).trans ?_
  simp only [next]

/-! ### The Arbiter (R197, R391, R440) -/

/-- The die that an event names. -/
abbrev eventDie (s : State) : Nat := s.sim.arg.die.toNat

theorem execArbiterPlaceRegion_places {t : State} (ht : regionsTry (eventDie s) (arbOrder s (eventDie s) false) s = some t) :
    execArbiterPlaceRegion s = .next t := by
  unfold execArbiterPlaceRegion
  simp only [ht]

theorem execArbiterPlaceRegion_asks (stuck : regionsTry (eventDie s) (arbOrder s (eventDie s) false) s = none) :
    execArbiterPlaceRegion s =
      .next ((preemptFor s (eventDie s) (arbOrder s (eventDie s) false)).foldl preemptAsk s) := by
  unfold execArbiterPlaceRegion
  simp only [stuck]

/-- The first tile task goes to the core that is chosen for it. -/
theorem execArbiterPlaceTile_places {e : ArbEnt} {r : List ArbEnt} {k : Nat} (first : arbOrder s (eventDie s) true = e :: r)
    (core : tileCore s (eventDie s) (e.task s) = some k) :
    execArbiterPlaceTile s = .next (taskBegin (arbRemove s (eventDie s) e) k (e.task s)) := by
  unfold execArbiterPlaceTile
  simp only [first, tilesTry, core]

theorem execRegionPreempt_saves (named : s.sim.arg.n ≠ 0) (may : maySave s s.sim.arg.n = true) :
    execRegionPreempt s = .next (regionSave s s.sim.arg.n) :=
  congrArg Host.Outcome.next (if_pos (by simp [named, may]))

theorem execRegionPreempt_leaves (h : s.sim.arg.n = 0 ∨ maySave s s.sim.arg.n = false) : execRegionPreempt s = .next s :=
  congrArg Host.Outcome.next (if_neg (by simpa [imp_iff_not_or] using h))

end Sys2Proof.Machine

namespace Sys2Proof.Safety
open Sys2Proof Sys2Proof.Machine

/-! ### Commit (R202, R208, R247) -/

section
variable {s t u : State} {core x ix : Nat}

/-- `t` is `s` but for the regions, their slots, and what they queue and hold. -/
def RegionsOnly (s t : State) : Prop := t = { s with rg := t.rg }

theorem RegionsOnly.trans (a : RegionsOnly s t) (b : RegionsOnly t u) : RegionsOnly s u :=
  Eq.trans b (congrArg (fun v : State => { v with rg := u.rg }) a)

theorem progress_regionsOnly (s : State) (core rid : Nat) : RegionsOnly s (progress s core rid) := by
  unfold progress
  split <;> rfl

theorem poolDrop_regionsOnly (s : State) (core x : Nat) : RegionsOnly s (poolDrop s core x) := rfl

theorem ctxSnap_regionsOnly (s : State) (core x : Nat) : RegionsOnly s (ctxSnap s core x) := by
  unfold ctxSnap
  dsimp only
  split <;> rfl

theorem ctxBoundary_regionsOnly (s : State) (core x : Nat) : RegionsOnly s (ctxBoundary s core x) := by
  unfold ctxBoundary
  dsimp only
  split
  · exact ctxSnap_regionsOnly s core x
  · rfl

/-- A block that has nothing to perform at its commit but its hold writes and its exit. -/
structure PlainBlock (f : Frame) : Prop where
  stores : f.stores = []
  qwrites : f.qwrites = []
  commits : f.commits = []
  defer : f.defer = none
  kind : Hdr.kind f.hdr ≠ 1

theorem storesPass_of_none {l : Nat} (empty : (frameOf s core x).stores = []) : StoresPass s core x l := by
  intro p hp
  rw [empty] at hp
  exact absurd hp List.not_mem_nil

/-- Where no store waits, none is performed. -/
theorem storesBelow_none {l : Nat} (empty : (frameOf s core x).stores = []) :
    storesBelow s core x l = frameUpd s core x (fun f => { f with stores := f.stores.filter (fun p => l ≤ p.lsid) }) := by
  have all : ((List.range l).map (fun k => ([] : List PendStore).filter (fun p => p.lsid == k))).flatten = [] := by simp
  simp only [storesBelow, empty, all, List.foldl_nil]

theorem queueWrites_nil : queueWrites core x [] s = s := by
  have all : ((List.range 64).map (fun ix => (List.range 2).map (fun pos =>
      ([] : List (Nat × Nat × Nat × Tok)).filter (fun w => w.1 == ix && w.2.1 == pos)))).flatten.flatten = [] := by
    simp
  simp only [queueWrites, all, List.foldl_nil]

theorem commitOrder_none {f : Frame} (empty : f.commits = []) : commitOrder f = [] := by
  simp [commitOrder, empty]

theorem astatOf_none {f : Frame} (empty : f.commits = []) (old : Word) : astatOf f old = old := by
  rw [astatOf, empty]
  rfl

theorem frame_frameClear (s : State) (core x : Nat) :
    (frameClear s core x).ctl.frames.at (frameKey core (ctxOf s core x).frm) = Frame.empty x := by
  rw [frameClear, frameUpd_ctl_frames, SMap.at_upd_same]

/-- A context whose block has ended runs on at the block that the exit names. -/
def ctxExits (f : Frame) (n : NextBlk) (ix : Nat) (c : Ctx) : Ctx :=
  { c with
    blk := n.addr.setWidth 55, blkHi := n.addr.extractLsb' 55 9, link := n.link, exitIx := f.exitIndex ix, resume := none
    astat := astatOf f c.astat, st := .run, wcode := 0, widx := 0 }

/-- A plain block is committed: its hold writes stand in the context, which goes on, and its frame is empty. -/
def plainCommit (s : State) (core x : Nat) (n : NextBlk) (ix : Nat) : State :=
  let f := frameOf s core x
  frameClear (ctxUpd (ctxUpd (storesBelow s core x 32) core x (fun c => { c with h := holdWrites f c.h })) core x (ctxExits f n ix)) core x

section
variable {n : NextBlk} (plain : PlainBlock (frameOf s core x))
include plain

/-- The commit of a plain block: its context and frame, and then what it leaves to its region. -/
theorem blockCommit_plain :
    ∃ rid, blockCommit s core x n ix =
      ctxBoundary (poolDrop (progress (plainCommit s core x n ix) core rid) core x) core x := by
  obtain ⟨-, qwrites, commits, defer, kind⟩ := plain
  have kind : (Hdr.kind (frameOf s core x).hdr == 1) = false := beq_eq_false_iff_ne.2 kind
  refine ⟨(ctxOf (plainCommit s core x n ix) core x).rid, ?_⟩
  unfold blockCommit
  simp only [qwrites, queueWrites_nil, commitOrder_none commits, defer, List.foldl_nil, kind, Bool.and_false, Bool.false_and,
    Bool.false_eq_true, if_false]
  rfl

/-- A plain block writes its hold registers alone. -/
theorem plainCommit_eq :
    plainCommit s core x n ix =
      frameClear (ctxUpd (ctxUpd (frameUpd s core x (fun f => { f with stores := f.stores.filter (fun p => 32 ≤ p.lsid) })) core x
        (fun c => { c with h := holdWrites (frameOf s core x) c.h })) core x (ctxExits (frameOf s core x) n ix)) core x := by
  rw [plainCommit, storesBelow_none plain.stores]

theorem plainCommit_mem : (plainCommit s core x n ix).mem = s.mem := by
  rw [plainCommit_eq plain]
  rfl

theorem ctxOf_plainCommit :
    ctxOf (plainCommit s core x n ix) core x =
      ctxExits (frameOf s core x) n ix { ctxOf s core x with h := holdWrites (frameOf s core x) (ctxOf s core x).h } := by
  rw [plainCommit_eq plain]
  refine (ctxOf_ctxUpd_same _ core x _).trans (congrArg _ ?_)
  exact ctxOf_ctxUpd_same _ core x _

theorem frame_plainCommit :
    (plainCommit s core x n ix).ctl.frames.at (frameKey core (ctxOf s core x).frm) = Frame.empty x := by
  have same : (ctxOf (plainCommit s core x n ix) core x).frm = (ctxOf s core x).frm :=
    (congrArg Ctx.frm (ctxOf_plainCommit plain)).trans rfl
  rw [← same]
  exact frame_frameClear ..

/-- The region's part of a commit leaves memory, contexts and frames. -/
theorem blockCommit_plain_regionsOnly : RegionsOnly (plainCommit s core x n ix) (blockCommit s core x n ix) := by
  obtain ⟨rid, run⟩ := blockCommit_plain (n := n) (ix := ix) plain
  rw [run]
  exact ((progress_regionsOnly ..).trans (poolDrop_regionsOnly ..)).trans (ctxBoundary_regionsOnly ..)

end

theorem RegionsOnly.mem (a : RegionsOnly s t) : t.mem = s.mem := by rw [a]
theorem RegionsOnly.ctl (a : RegionsOnly s t) : t.ctl = s.ctl := by rw [a]

/-- Without effects at commit, the hold writes are those of the block's tokens. -/
theorem holdWrites_none {f : Frame} (empty : f.commits = []) (h : SMap Word) :
    holdWrites f h = f.holds.foldl (fun h w => match w.2 with
      | some v => h.set w.1 v
      | none => h) h := by
  rw [holdWrites, empty]
  rfl

end

/-- Everything that the block of the context that an event names needs for its completion has arrived, with an exit (R208). -/
structure BlockDone (s : State) (ix : Nat) (tgt : Word) : Prop where
  active : (eventContext s).st = .run ∨ (eventContext s).st = .held
  own : (eventFrame s).own = eventCtx s + 1
  loaded : (eventFrame s).loaded = true
  complete : (eventFrame s).complete = true
  exit : (eventFrame s).exit = some (ix, tgt)

/-- The outcome of the exit of the block that an event names. -/
abbrev eventExit (s : State) (ix : Nat) (tgt : Word) : NextBlk :=
  exitOutcome (eventContext s) (eventFrame s) ix tgt

section
variable {s : State} {ix : Nat} {tgt : Word} (h : BlockDone s ix tgt)
include h

theorem BlockDone.guard :
    (!((eventContext s).st == .run || (eventContext s).st == .held) ||
      (eventFrame s).own != eventCtx s + 1 || !(eventFrame s).loaded ||
      !(eventFrame s).complete) = false := by
  rcases h.active with run | held
  · simp [run, h.own, h.loaded, h.complete]
  · simp [held, h.own, h.loaded, h.complete]

/-- A block commits once its stores can be performed. -/
theorem BlockDone.commits (good : (eventExit s ix tgt).flt = none) (pass : StoresPass s (eventCore s) (eventCtx s) 32) :
    execBlockCommit s = .next (blockCommit s (eventCore s) (eventCtx s) (eventExit s ix tgt) ix) := by
  unfold execBlockCommit
  simp only [h.exit]
  refine (if_neg (ne_true_of_eq_false h.guard)).trans ?_
  simp only [good]
  exact congrArg _ (pass.ready _)

/-- A link-stack fault of a block that can be abandoned traps the context. -/
theorem BlockDone.traps {e : Flt} (bad : (eventExit s ix tgt).flt = some e) (can : mustCommit s (eventCore s) (eventCtx s) = false) :
    execBlockCommit s = .next (takeTrap s (eventCore s) (eventCtx s) e (eventContext s).blk none) := by
  unfold execBlockCommit
  simp only [h.exit]
  refine (if_neg (ne_true_of_eq_false h.guard)).trans ?_
  simp only [bad]
  exact if_pos (by simp [can])

end

end Sys2Proof.Safety

namespace Sys2Proof.Proofs.ExecutionModel
open Sys2Proof Sys2Proof.Machine Sys2Proof.Safety

/-- Settles O59: each step by its outcomes; the fetch by what the block's read gives (`AwaitsBlock`), the commit by the outcome of the exit
(`BlockDone`). A block with nothing to perform but its hold writes and its exit commits its context and frame (`plainCommit`), and the
rest of its commit stays within the region (`RegionsOnly`). Which contexts start no block is log entry 43, the Arbiter's choice log entry
47, when a region is saved log entry 24, the detector's reports log entry 33, the debugger's halt log entry 35. -/
theorem blocksAndPlacement : Obligations.BlocksAndPlacement := by
  intro s g core x die c f gives
  refine ⟨fun n y free ready => ?allots, execFrameAllocate_leaves, fun may => congrArg _ (if_pos may),
    fun may => congrArg _ (if_neg (ne_true_of_eq_false may)), fun run own empty => ?fetch,
    fun ix tgt active own loaded complete exit => ?commit, fun wait code => ?wait, fun wait code set due => ?idle,
    fun t => execArbiterPlaceRegion_places, execArbiterPlaceRegion_asks, fun e r k => execArbiterPlaceTile_places, rfl,
    execRegionPreempt_saves, execRegionPreempt_leaves, ⟨execSegmentBudgetExpiry_leaves, execSegmentBudgetExpiry_due⟩,
    ⟨execStalemateCheck_leaves, execStalemateCheck_stalled, fun due bounded => ?bounded, execStallout_reports, execStallout_leaves⟩,
    execDebugHalt_halts, execDebugResume_resumes,
    ⟨fun held => execDebugAreaRefill_leaves (.inl held), fun _ none => execDebugAreaRefill_leaves (.inr none),
      fun e on => execDebugAreaRefill_returns on⟩⟩
  case allots =>
    refine ⟨_, execFrameAllocate_allots free ready, SMap.at_set_same (α := Frame) .., ctxOf_ctxUpd_same .., rfl, fun k hk => ?_⟩
    rw [ctxUpd_ctl_ctxs, SMap.at_upd_other _ _ hk]
  case fetch =>
    have waits : AwaitsBlock s := ⟨run, own, empty⟩
    exact ⟨waits.yields, fun goes => ⟨fun e s1 => waits.traps goes,
      fun hdr ws s1 read => ⟨_, waits.loads goes read, rfl, SMap.at_set_same (α := Frame) ..⟩⟩⟩
  case commit =>
    have ends : BlockDone s ix tgt := ⟨active, own, loaded, complete, exit⟩
    refine ⟨ends.commits, fun e bad => ends.traps bad, fun good stores qwrites commits defer kind => ?_⟩
    have plain : PlainBlock f := ⟨stores, qwrites, commits, defer, kind⟩
    have only := blockCommit_plain_regionsOnly (n := exitOutcome c f ix tgt) (ix := ix) plain
    refine ⟨_, ends.commits good (storesPass_of_none stores), only.mem.trans (plainCommit_mem plain), ?_, ?_⟩
    · rw [only.ctl]
      exact frame_plainCommit plain
    · rw [ctxOf, only.ctl]
      refine (ctxOf_plainCommit plain).trans ?_
      rw [ctxExits, holdWrites_none commits, astatOf_none commits] <;> rfl
  case wait =>
    refine ⟨execWaitRelease_waits wait code, execWaitRelease_readies wait code, fun holds event unit => ?_⟩
    refine ⟨_, execWaitRelease_event wait code holds ⟨event, unit⟩, ?_, ?_⟩
    · rw [ctxOf_ctxReady]
    · rw [ctxOf_ctxReady, ctxOf_ctxUpd_same]
  case idle => exact ⟨_, execIdleTimeout_due wait code set due, ctxOf_ctxReady ..⟩
  case bounded =>
    refine ⟨_, execStalemateCheck_bounded due bounded, rfl, ?_, ?_⟩
    · rw [SMap.at_upd_same]
    · rw [SMap.at_upd_same]

end Sys2Proof.Proofs.ExecutionModel

/-! ## The statements of formats and the opcode map: words, firing, tokens, exits, and operations on values -/

namespace Sys2Proof.Laws.Roundtrip
open Sys2Proof

/-! ### Every instruction's own word (R212, R219, R412) -/

/-- A handler operation has no word but its handler word. -/
theorem statement_of_handlerOp {i : Instr} {op : BitVec 8} {h : HWord} (ho : handlerOp i = some (op, h)) : Statement i := by
  cases i <;> cases ho <;> exact handlerWord rfl rfl (by decide) (by decide) rfl

/-- The control-thread forms in the order of the opcode table, each by the lemma of its encoding. -/
theorem statement_of_form {i : Instr} {m : Form} (hm : i.form = some m) : Statement i := by
  cases i <;> cases hm
  exacts [
    add _ _ _, sub _ _ _, mul _ _ _, mulh _ _ _, mulhn _ _ _, adds _ _ _, min _ _ _, max _ _ _, minn _ _ _, maxn _ _ _, divs _ _ _,
    divn _ _ _, rems _ _ _, remn _ _ _, and _ _ _, or _ _ _, xor _ _ _, andn _ _ _, shl _ _ _, shr _ _ _, sha _ _ _, rol _ _ _,
    clz _ _ _, ctz _ _ _, popc _ _ _, mov _ _ _, sext _ _ _ _, zext _ _ _ _, addi _ _ _, muli _ _ _, andi _ _ _, ori _ _ _, xori _ _ _,
    shli _ _ _, shri _ _ _, shai _ _ _, bfx _ _ _ _, bfi _ _ _ _, movc _ _, movh _ _, rdh _ _ _ _, teq _ _ _, tne _ _ _, tlt _ _ _,
    tle _ _ _, tltn _ _ _, tlen _ _ _, teqi _ _ _, tlti _ _ _, tltni _ _ _, pand _ _ _, por _ _ _, pnot _ _ _, ldb _ _ _ _, ldbs _ _ _ _,
    ldh _ _ _ _, ldhs _ _ _ _, ldw _ _ _ _, ldws _ _ _ _, ldd _ _ _ _, lda _ _ _ _, ldred _ _ _ _, ldt _ _ _ _, prf _ _ _, stb _ _ _,
    sth _ _ _, stw _ _ _, std _ _ _, stl _ _ _ _, stt _ _ _, spills _ _ _ _, fills _ _ _ _, aadd _ _ _ _, aaddf _ _ _ _, amin _ _ _ _,
    amax _ _ _ _, aminn _ _ _ _, amaxn _ _ _ _, aand _ _ _ _, aor _ _ _ _, axor _ _ _ _, aswp _ _ _ _, acas _ _ _ _, ainc _ _ _ _,
    fence _ _ _ _, xfence _ _ _ _ _, sbar _ _ _ _, abar _ _ _, wbar _ _ _, tbar _ _ _ _, yield _ _ _, wfe _ _ _, sev _ _ _, nwrite _ _ _,
    qrsv _ _ _, qpush _ _ _, qwait _ _ _ _, qpop _ _ _ _, qadv _ _ _ _, qpadv _ _ _ _, qpol _ _ _, qstat _ _ _ _, qgap _ _ _,
    qmark _ _ _, rwait _ _ _, rrel _ _ _, sopen _ _ _ _, sclose _ _ _ _, sseek _ _ _, shand _ _ _, cfgld _ _ _, cfgsh _ _ _, rgo _ _ _,
    rdrain _ _ _, rstat _ _ _ _, rmark _ _ _, rroll _ _ _, bankm _ _ _ _, ttsetDefine _ _ _, ttsetUndefine _ _ _, ttsetFill _ _ _,
    ttsetReady _ _ _, ttsetAbort _ _ _, ttsetDrain _ _ _, ttsetEmpty _ _ _, ttq _ _ _ _, cparm _ _ _, cpgo _ _ _, cpdis _ _ _,
    mxtask _ _ _, coll _ _ _, zres _ _ _, zrel _ _ _, zbar _ _ _, zanno _ _ _, launch _ _ _, tenq _ _ _, tdeq _ _ _, schnext _ _ _,
    launchPark _ _ _, tdeqPark _ _ _, acopen _ _ _, acadd _ _ _, acscope _ _ _, acnorm _ _ _, acevict _ _ _, acload _ _ _, br _ _ _,
    call _ _ _, brt _ _, callt _ _, ret _ _, sel _ _ _, nullw _ _ _, nulls _ _ _, trap _, sysc _, rdsr _ _ _, wrsr _ _ _, rdtime _ _ _,
    eret _, halt _, brk _, idle _ _ _, setctx _ _ _, inval _ _ _, kill _ _ _, dsnap _ _ _]

/-- A ply form has a word of its own (R412), an event none. -/
theorem statement_of_other {i : Instr} (hm : i.form = none) (ho : handlerOp i = none) : Statement i := by
  cases i <;> cases hm <;> cases ho
  case plySend => exact plySend _ _ _
  case plyRecv => exact plyRecv _ _ _
  case plyPoll => exact plyPoll _ _ _
  case plyTag => exact plyTag _ _ _
  case plyFlag => exact plyFlag _ _ _
  case plyEnd => exact plyEnd _ _ _
  case plyRwd => exact plyRwd _ _ _
  all_goals exact noWord rfl rfl

/-- The word of every instruction decodes to it. -/
theorem statement (i : Instr) : Statement i :=
  match hm : i.form, ho : handlerOp i with
  | some _, _ => statement_of_form hm
  | none, some _ => statement_of_handlerOp ho
  | none, none => statement_of_other hm ho

theorem encodeWord_isSome_of_form {i : Instr} (h : i.form.isSome = true) : (encodeWord i).isSome = true := by
  obtain ⟨m, hm⟩ := Option.isSome_iff_exists.1 h
  cases i <;> cases hm <;> rfl

theorem encodeHandler_isSome (i : Instr) : (encodeHandler i).isSome = (handlerOp i).isSome := by
  rw [encodeHandler, Option.isSome_map]

end Sys2Proof.Laws.Roundtrip

namespace Sys2Proof.Proofs.Formats
open Sys2Proof Sys2Proof.Machine Sys2Proof.Safety

/-- Settles O4: each instruction decodes from its own word by the lemma of its encoding (`Roundtrip.statement`). -/
theorem encodingsDecode : Obligations.EncodingsDecode := by
  intro i wf
  obtain ⟨word, handler⟩ := Laws.Roundtrip.statement i wf
  exact ⟨word, handler, Laws.Roundtrip.encodeWord_isSome_of_form, fun op => (Laws.Roundtrip.encodeHandler_isSome i).trans op⟩

end Sys2Proof.Proofs.Formats

namespace Sys2Proof
open Sys2Proof

/-! ### Words that no instruction has (R214, R216, R218) -/

section
variable {w : BitVec 32}

theorem decodeWord_op00 (zero : w ≠ 0#32) (h : w.extractLsb' 25 7 = 0#7) : decodeWord w = .error .badop := by
  have ones : w ≠ 0xFFFFFFFF#32 := by
    rintro rfl
    exact absurd h (by decide)
  rw [decodeWord, if_neg (not_or.2 ⟨zero, ones⟩), h]
  rfl

theorem decodeWord_op7E (h : w.extractLsb' 25 7 = 0x7E#7) : decodeWord w = .error .badop := by
  rw [decodeWord, if_neg (Laws.Roundtrip.notEdge h (by decide) (by decide)), h]
  rfl

theorem decodeWord_op01_badxop (h : w.extractLsb' 25 7 = 1#7) (hx : 10 ≤ (w.extractLsb' 18 5).toNat) :
    decodeWord w = .error .badxop := by
  rw [decodeWord, if_neg (Laws.Roundtrip.notEdge h (by decide) (by decide)), h]
  obtain ⟨k, e⟩ := Nat.exists_eq_add_of_le' hx
  rw [e]
  rfl

theorem fldOk_pr3 (h : w.extractLsb' 23 2 = 3#2) (zeros : Bool) (i : Instr) : fldOk w true zeros i = .error .badpr := by
  simp [fldOk, h]

theorem decodeWord_op01_badpr (h : w.extractLsb' 25 7 = 1#7) (hx : (w.extractLsb' 18 5).toNat < 10) (hp : w.extractLsb' 23 2 = 3#2) :
    decodeWord w = .error .badpr := by
  rw [decodeWord, if_neg (Laws.Roundtrip.notEdge h (by decide) (by decide)), h]
  generalize (w.extractLsb' 18 5).toNat = x at hx ⊢
  interval_cases x <;> exact fldOk_pr3 hp _ _

end

end Sys2Proof

namespace Sys2Proof.Proofs.Formats
open Sys2Proof Sys2Proof.Machine Sys2Proof.Safety

/-- Settles O6: the words 0 and 0xFFFFFFFF by themselves, every other by its OP, and under OP 0x01 by its XOP and PR. -/
theorem unassignedWordsRefused : Obligations.UnassignedWordsRefused :=
  ⟨rfl, rfl, fun _ => decodeWord_op00, fun _ => decodeWord_op7E, fun _ => decodeWord_op01_badxop, fun _ => decodeWord_op01_badpr,
    rfl, rfl⟩

end Sys2Proof.Proofs.Formats

namespace Sys2Proof.Safety
open Sys2Proof Sys2Proof.Machine

/-! ### The turns of the agents (R209, R217, R412) -/

/-- A step is what its first turn answers, or the turn is held. -/
theorem step_settles {s : State} {t : Turn} {r : List Turn} {o : Host.Outcome State Fault Refusal} (head : s.sim.agenda = t :: r)
    (answers : turnDo t (taken s r) = o) : step s = settled t (taken s r) o := by
  rw [step_head head, holdTurn_settled, answers]

/-- The turn of a context whose block is loaded executes the instruction that stands next. -/
theorem ctTurn_next {s : State} {core x ix : Nat} {i : Instr} (active : (ctxOf s core x).st = .run ∨ (ctxOf s core x).st = .held)
    (own : (frameOf s core x).own = x + 1) (loaded : (frameOf s core x).loaded = true) (next : (frameOf s core x).next = some ix)
    (word : (frameOf s core x).instr ix = some i) : ctTurn core x s = runAs i (.ct core x ix) s := by
  have runs : ((ctxOf s core x).st == .run || (ctxOf s core x).st == .held) = true := by
    rcases active with e | e <;> rw [e] <;> rfl
  simp [ctTurn, runs, own, loaded, next, word]

theorem hartDo_run {s t : State} {hc : Nat} {i : Instr} (turn : hartTurn s hc = .run i t) : hartDo hc s = exec i t := by
  rw [hartDo, turn]

theorem elTurn_some {s t : State} {core n : Nat} {i : Instr} (turn : elemTurn s (core * 4096 + n % 4096) = (t, some i)) :
    elTurn core n s = exec i t := by
  unfold elTurn
  generalize elemTurn s (core * 4096 + n % 4096) = y at turn ⊢
  subst turn
  rfl

end Sys2Proof.Safety

namespace Sys2Proof.Proofs.Formats
open Sys2Proof Sys2Proof.Machine Sys2Proof.Safety

/-- Settles O7: after the tick the first turn does in a READY module what its kind does (`turnDo_ready`), and each kind executes what it
decodes. The order of turns is log entry 2. -/
theorem stepRunsDecodedInstruction : Obligations.StepRunsDecodedInstruction := by
  refine ⟨fun s core x r ix i head ready active own loaded next word =>
      step_settles head ((turnDo_ready (s := taken s r) ready _).trans ?context),
    fun s hc r i t head ready turn => step_settles head ((turnDo_ready (s := taken s r) ready _).trans ?hart),
    fun s core n r i t head ready turn => step_settles head ((turnDo_ready (s := taken s r) ready _).trans ?element),
    fun s i a r head ready => step_settles head (turnDo_ready (s := taken s r) ready _)⟩
  case context => exact ctTurn_next active own loaded next word
  case hart => exact hartDo_run turn
  case element => exact elTurn_some turn

end Sys2Proof.Proofs.Formats

namespace Sys2Proof.Safety
open Sys2Proof Sys2Proof.Machine

/-! ### When an instruction fires (R209) -/

section
variable {f : Frame} {ix : Nat} {p : BitVec 2} {left right : Bool}

theorem pred_true_iff : f.pred ix p = some true ↔
    p = 0#2 ∨ ∃ v : Word, f.input ix 2 = some (some v) ∧ v.getLsbD 0 = (p == 1#2) := by
  unfold Frame.pred
  by_cases hp : p = 0#2
  · simp [hp]
  · rcases f.input ix 2 with - | - | v <;> simp [hp]

theorem pred_false_iff : f.pred ix p = some false ↔
    p ≠ 0#2 ∧ (f.input ix 2 = some none ∨ ∃ v : Word, f.input ix 2 = some (some v) ∧ v.getLsbD 0 ≠ (p == 1#2)) := by
  unfold Frame.pred
  by_cases hp : p = 0#2
  · simp [hp]
  · rcases f.input ix 2 with - | - | v <;> simp [hp]

theorem used_eq_some_iff {i : Nat} {use : Bool} {t : Tok} :
    f.used ix i use = some t ↔ if use then f.input ix i = some t else t = some 0#64 := by
  cases use <;> simp [Frame.used, eq_comm]

theorem ready_on_iff {l r : Tok} : f.ready ix p left right = .on l r ↔
    f.pred ix p = some true ∧ f.used ix 0 left = some l ∧ f.used ix 1 right = some r := by
  unfold Frame.ready
  rcases f.pred ix p with - | - | - <;> rcases f.used ix 0 left with - | _ <;> rcases f.used ix 1 right with - | _ <;> simp

theorem ready_off_iff : f.ready ix p left right = .off ↔ f.pred ix p = some false := by
  unfold Frame.ready
  rcases f.pred ix p with - | - | - <;> rcases f.used ix 0 left with - | _ <;> rcases f.used ix 1 right with - | _ <;> simp

end

/-- An instruction that has fired or issued is not executed again. -/
theorem withCt_gone {s : State} {core x ix : Nat} (hc : s.sim.cur = .ct core x ix) (gone : (frameOf s core x).gone ix = true)
    (k : Nat → Nat → Nat → Frame → State) : Machine.withCt s k = s := by
  simp [Machine.withCt, hc, gone]

/-! ### What every form does before its own meaning (R209, R210, R227, R253, R280) -/

section
variable {s : State} {core x ix : Nat} {p : BitVec 2} {left right : Bool} {ts : List (BitVec 9)} {l r : Tok}
  {t u : BitVec 9} {n : BitVec 5}

/-- The outcome of a form is one of the three shared operations on its predicate, its inputs and its targets: that of a form that
reads state or leaves an effect for the commit, that of a memory token, or that of a command. -/
inductive SharedRun (s : State) (m : Form) (o : Out) : Prop
  | form (k : Nat → Nat → Nat → Word → Word → State)
      (run : o = .next (ctForm s m.pr m.left m.right m.targets k)) (noLsid : m.lsid = none)
  | mem (l : BitVec 5) (k : Nat → Nat → Nat → Word → Word → State)
      (run : o = .next (ctMem s m.pr m.left m.right l m.targets k)) (has : m.lsid = some l)
  | command (priv : Bool) (k : Nat → Nat → Nat → Word → Word → State)
      (run : o = .next (ctCommand s m.pr m.left m.right priv m.targets k)) (noLsid : m.lsid = none)

/-- A form that acts on its operands alone sends what it computes. -/
theorem ctPure_eq_ctForm (g : Word → Word → Word) : ctPure s p left right ts g =
    ctForm s p left right ts (fun core x ix a b => ctDone s core x ix none (outsOf ts (some (g a b)))) := rfl

/-- Every form but sel, nulls and acadd, which have rules of their own (R250, R252, R311), is a shared operation. -/
theorem exec_sharedRun {i : Instr} {m : Form} (hm : i.form = some m) (sel : ∀ p t u, i ≠ .sel p t u)
    (nulls : ∀ p t l, i ≠ .nulls p t l) (acadd : ∀ p t u, i ≠ .acadd p t u) (s : State) : SharedRun s m (exec i s) := by
  cases i <;> cases hm
  case sel => exact absurd rfl (sel _ _ _)
  case nulls => exact absurd rfl (nulls _ _ _)
  case acadd => exact absurd rfl (acadd _ _ _)
  case ldb | ldbs | ldh | ldhs | ldw | ldws | ldd | lda | stb | sth | stw | std | stl | aadd | aaddf | amin | amax | aminn | amaxn | aand
      | aor | axor | aswp | acas | ainc | ldred | ldt | prf | stt | spills | fills | fence | xfence | sbar | abar | wbar | tbar | nwrite
      | sopen | sclose | bankm | acscope => exact .mem _ _ rfl rfl
  case qrsv | qgap | qmark | qpol | rgo | rmark | rroll | ttsetDefine | ttsetUndefine | ttsetFill | ttsetReady | ttsetAbort | ttsetDrain
      | ttsetEmpty | cparm | cpgo | cpdis | mxtask | coll | zres | zrel | zbar | zanno | launch | launchPark | tdeq | tdeqPark | tenq | acopen
      | acnorm | acevict | acload | setctx | inval | kill | dsnap => exact .command _ _ rfl rfl
  case movc | movh => exact .form _ (congrArg Host.Outcome.next (ctPure_eq_ctForm _)) rfl
  all_goals exact .form _ rfl rfl

/-- A control-thread form is sel, nulls or acadd, or a shared operation. -/
theorem form_cases {i : Instr} {m : Form} (hm : i.form = some m) (s : State) :
    (∃ p t u, i = .sel p t u) ∨ (∃ p t l, i = .nulls p t l) ∨ (∃ p t u, i = .acadd p t u) ∨
      (∀ p t u, i ≠ .sel p t u) ∧ (∀ p t l, i ≠ .nulls p t l) ∧ (∀ p t u, i ≠ .acadd p t u) ∧ SharedRun s m (exec i s) := by
  by_cases sel : ∃ p t u, i = .sel p t u
  · exact .inl sel
  by_cases nulls : ∃ p t l, i = .nulls p t l
  · exact .inr (.inl nulls)
  by_cases acadd : ∃ p t u, i = .acadd p t u
  · exact .inr (.inr (.inl acadd))
  push Not at sel nulls acadd
  exact .inr (.inr (.inr ⟨sel, nulls, acadd, exec_sharedRun hm sel nulls acadd s⟩))

/-- A form that is predicated off sends its null writes and completes its LSID. -/
theorem SharedRun.off {m : Form} {o : Out} (run : SharedRun s m o) (off : PredOff s core x ix m.pr m.left m.right) :
    o = .next (ctOff s core x ix (m.lsid.map (·.toNat)) m.targets) := by
  cases run with
  | form k run noLsid => rw [run, off.form, noLsid]; rfl
  | mem l k run has => rw [run, off.mem, has]; rfl
  | command priv k run noLsid => rw [run, off.command, noLsid]; rfl

/-- A form that fires on a null operand sends nulls and completes its LSID. -/
theorem SharedRun.null {m : Form} {o : Out} (run : SharedRun s m o) (fires : Fires s core x ix m.pr m.left m.right l r)
    (null : l = none ∨ r = none) : o = .next (ctDone s core x ix (m.lsid.map (·.toNat)) (outsOf m.targets none)) := by
  cases run with
  | form k run noLsid => rw [run, fires.form_null null, noLsid]; rfl
  | mem l k run has => rw [run, fires.mem_null null, has]; rfl
  | command priv k run noLsid => rw [run, fires.command_null null, noLsid]; rfl

/-- A form whose tokens have not come leaves the state. -/
theorem SharedRun.wait {m : Form} {o : Out} (run : SharedRun s m o) (at_ : CtAt s core x ix)
    (wait : (frameOf s core x).ready ix m.pr m.left m.right = .wait) : o = .next s := by
  cases run with
  | form k run => rw [run, ctForm, at_.withCt, wait]
  | mem l k run => rw [run, ctMem, at_.withCt, wait]
  | command priv k run => rw [run, ctCommand, at_.withCt, wait]

/-! sel, nulls and acadd by their own rules. -/

theorem exec_sel_off (at_ : CtAt s core x ix) (off : (frameOf s core x).readyEither ix p = .off) :
    exec (.sel p t u) s = .next (ctOff s core x ix none [t, u]) := by
  change Host.Outcome.next (Machine.withCt s _) = _
  rw [at_.withCt, off]

theorem exec_sel_wait (at_ : CtAt s core x ix) (wait : (frameOf s core x).readyEither ix p = .wait) : exec (.sel p t u) s = .next s := by
  change Host.Outcome.next (Machine.withCt s _) = _
  rw [at_.withCt, wait]

theorem exec_nulls_off (off : PredOff s core x ix p false false) :
    exec (.nulls p t n) s = .next (ctOff s core x ix none [t]) := congrArg Host.Outcome.next (off.form _)

theorem exec_nulls_wait (at_ : CtAt s core x ix) (wait : (frameOf s core x).ready ix p false false = .wait) :
    exec (.nulls p t n) s = .next s := by
  change Host.Outcome.next (ctForm s p false false [t] _) = _
  rw [ctForm, at_.withCt, wait]

theorem readyOf_of_form {f : Frame} {i : Instr} {m : Form} (hm : i.form = some m) (sel : ∀ p t u, i ≠ .sel p t u) :
    f.readyOf ix i = f.ready ix m.pr m.left m.right := by
  unfold Frame.readyOf
  split
  next => exact absurd rfl (sel _ _ _)
  next hm' =>
    cases hm.symm.trans hm'
    rfl
  next noForm => cases hm.symm.trans noForm

theorem exec_acadd_off (off : PredOff s core x ix p true true) : exec (.acadd p t u) s = .next (ctOff s core x ix none [t, u]) := by
  change Host.Outcome.next (Machine.withCt s _) = _
  rw [off.toCtAt.withCt, off.ready]

theorem exec_acadd_null (fires : Fires s core x ix p true true none r) :
    exec (.acadd p t u) s = .next (ctDone s core x ix none (outsOf [t, u] none)) := by
  change Host.Outcome.next (Machine.withCt s _) = _
  rw [fires.toCtAt.withCt, fires.ready]

theorem exec_acadd_wait (at_ : CtAt s core x ix) (wait : (frameOf s core x).ready ix p true true = .wait) :
    exec (.acadd p t u) s = .next s := by
  change Host.Outcome.next (Machine.withCt s _) = _
  rw [at_.withCt, wait]

end

end Sys2Proof.Safety

namespace Sys2Proof.Proofs.Formats
open Sys2Proof Sys2Proof.Machine Sys2Proof.Safety

/-- Settles O9: the two clauses on readiness by what the predicate and each input say; an instruction that is gone is not executed
again (`exec_inTurn`). -/
theorem firingRule : Obligations.FiringRule := by
  refine ⟨fun f ix p left right => ⟨fun l r => ?on, ready_off_iff.trans pred_false_iff⟩,
    fun i m s core x ix hm hc gone => ?once, ?const⟩
  case on => rw [ready_on_iff, pred_true_iff, used_eq_some_iff, used_eq_some_iff]
  case once =>
    obtain ⟨k, run⟩ := exec_inTurn hm s
    rw [run, withCt_gone hc gone]
  case const =>
    rintro i m hm ⟨c, t, rfl | rfl⟩ <;> cases hm <;> rfl

/-- Settles O10: each form is a shared operation, which sends the null writes (`SharedRun.off`), but for sel, nulls and acadd. That nulls
completes no LSID is log entry 34. -/
theorem predicatedOff : Obligations.PredicatedOff := by
  intro i m s core x ix hm at_ off
  rcases form_cases hm s with ⟨p, t, u, rfl⟩ | ⟨p, t, l, rfl⟩ | ⟨p, t, u, rfl⟩ | ⟨notSel, notNulls, -, run⟩
  case inl =>
    cases hm
    exact exec_sel_off at_ off
  case inr.inl =>
    cases hm
    exact exec_nulls_off ⟨at_, off⟩
  case inr.inr.inl =>
    cases hm
    exact exec_acadd_off ⟨at_, off⟩
  case inr.inr.inr =>
    rw [run.off ⟨at_, (readyOf_of_form hm notSel).symm.trans off⟩]
    split
    next => exact absurd rfl (notNulls _ _ _)
    next => rfl

/-- Settles O11: each form is a shared operation, which leaves the state where a token is missing (`SharedRun.wait`), but for sel, nulls
and acadd, which do so too. -/
theorem waitingChangesNothing : Obligations.WaitingChangesNothing := by
  intro i m s core x ix hm at_ wait
  rcases form_cases hm s with ⟨p, t, u, rfl⟩ | ⟨p, t, l, rfl⟩ | ⟨p, t, u, rfl⟩ | ⟨notSel, -, -, run⟩
  · exact exec_sel_wait at_ wait
  · exact exec_nulls_wait at_ wait
  · exact exec_acadd_wait at_ wait
  · exact run.wait at_ ((readyOf_of_form hm notSel).symm.trans wait)

/-- Settles O12: each form is a shared operation, which sends nulls where an operand is null (`SharedRun.null`), and acadd where its left
operand is. That a privileged form with a null operand gives nulls under any ASID, not PRIV, is log entry 23. -/
theorem nullOperands : Obligations.NullOperands := by
  intro i m s core x ix l r hm at_ on null other
  rcases form_cases hm s with ⟨p, t, u, rfl⟩ | ⟨p, t, n, rfl⟩ | ⟨p, t, u, rfl⟩ | ⟨notSel, -, -, run⟩
  · exact absurd rfl (other p t u 0#5).1
  · exact absurd rfl (other p t 0#9 n).2
  · cases hm
    obtain rfl | ⟨-, notAcadd⟩ := null
    · exact exec_acadd_null ⟨at_, on⟩
    · exact absurd rfl (notAcadd p t u)
  · exact run.null ⟨at_, (readyOf_of_form hm notSel).symm.trans on⟩ (null.imp_right And.left)

end Sys2Proof.Proofs.Formats

namespace Sys2Proof.Safety
open Sys2Proof Sys2Proof.Machine

/-! ### Tokens and their targets (R208, R211, R213) -/

section
variable {f : Frame} {ix pos : Nat} {t : BitVec 9} {v : Tok}

/-- The input of a target: its instruction and its class. -/
def tgtKey (t : BitVec 9) : Nat := 4 * tgtNum t + tgtClass t

theorem tgtClass_lt (t : BitVec 9) : tgtClass t < 4 := (t.extractLsb' 7 2).isLt

/-- The two fields of a target give it. -/
theorem tgt_ext {t u : BitVec 9} (hc : tgtClass t = tgtClass u) (hn : tgtNum t = tgtNum u) : t = u := by
  simp only [tgtClass, tgtNum, BitVec.extractLsb'_toNat] at hc hn
  apply BitVec.eq_of_toNat_eq
  have := t.isLt
  have := u.isLt
  omega

theorem tgtKey_inj {t u : BitVec 9} (h : tgtKey t = tgtKey u) : t = u := by
  have ht := tgtClass_lt t
  have hu := tgtClass_lt u
  unfold tgtKey at h
  exact tgt_ext (by omega) (by omega)

/-- The frame in which an input has received its token. -/
def received (f : Frame) (t : BitVec 9) (v : Tok) : Frame :=
  { f with
    opnd := f.opnd.set (tgtKey t) (some v)
    rightFirst := if tgtClass t == 1 && (f.input (tgtNum t) 0).isNone then f.rightFirst ||| (1#64 <<< tgtNum t) else f.rightFirst }

theorem put_input_empty (hc : tgtClass t < 3) (empty : f.opnd.at (tgtKey t) = none) : f.put ix pos t v = .ok (received f t v) := by
  have he : (f.opnd.at (4 * tgtNum t + tgtClass t)).isSome = false := by
    rw [← tgtKey, empty]
    rfl
  simp [Frame.put, hc, he, received, tgtKey]

theorem put_input_full (hc : tgtClass t < 3) (full : f.opnd.at (tgtKey t) ≠ none) :
    f.put ix pos t v = .error (dataFlt 0x16 (tgtNum t)) := by
  have he : (f.opnd.at (4 * tgtNum t + tgtClass t)).isSome = true := Option.isSome_iff_ne_none.2 full
  simp [Frame.put, hc, he]

/-- A target of class 3 is a hold register, no target, or a queue handle. -/
theorem put_held (hc : tgtClass t = 3) : f.put ix pos t v =
    if tgtNum t < 32 then
      if Hdr.nw f.hdr ≤ f.holds.length || f.filled (tgtNum t) ||
        (v.isSome && f.holds.any (fun h => h.1 == tgtNum t && h.2.isSome)) then .error (dataFlt 0x17 ix)
      else .ok { f with holds := f.holds ++ [(tgtNum t, v)] }
    else if tgtNum t = 32 then .ok f
    else .ok { f with qwrites := f.qwrites ++ [(ix, pos, tgtNum t - 64, v)] } := by
  simp only [Frame.put, hc, Nat.lt_irrefl, if_false]

theorem rightFirst_received {n : Nat} (hn : n < 64) : (received f t v).rightFirst.getLsbD n =
    (f.rightFirst.getLsbD n || (decide (tgtClass t = 1 ∧ tgtNum t = n) && (f.input n 0).isNone)) := by
  have bit : (1#64 <<< tgtNum t).getLsbD n = decide (n = tgtNum t) := by
    rw [← BitVec.twoPow_eq, BitVec.getLsbD_twoPow, ← Bool.decide_and]
    exact decide_eq_decide.2 (by omega)
  by_cases here : tgtClass t = 1 ∧ tgtNum t = n
  · obtain ⟨h1, rfl⟩ := here
    cases h : (f.input (tgtNum t) 0).isNone <;> simp [received, h1, h, bit]
  · unfold received
    dsimp only
    split
    next first =>
      have h1 : tgtClass t = 1 := beq_iff_eq.1 (Bool.and_eq_true_iff.1 first).1
      have h2 : ¬n = tgtNum t := fun e => here ⟨h1, e.symm⟩
      simp [bit, h2, here]
    next => simp [here]

/-- What the tokens for a list of inputs give: each has received the token, and nothing else has changed. -/
structure Delivered (f g : Frame) (ts : List (BitVec 9)) (v : Tok) : Prop where
  rest : g = { f with opnd := g.opnd, rightFirst := g.rightFirst }
  arrived : ∀ t ∈ ts, g.opnd.at (tgtKey t) = some v
  others : ∀ k, (∀ t ∈ ts, k ≠ tgtKey t) → g.opnd.at k = f.opnd.at k
  order : ∀ n, n < 64 → (∀ t ∈ ts, ¬(tgtClass t = 1 ∧ tgtNum t = n)) → g.rightFirst.getLsbD n = f.rightFirst.getLsbD n

theorem Delivered.nil (f : Frame) (v : Tok) : Delivered f f [] v :=
  ⟨rfl, fun _ h => absurd h List.not_mem_nil, fun _ _ => rfl, fun _ _ _ => rfl⟩

theorem Delivered.cons {g : Frame} {ts : List (BitVec 9)} (new : t ∉ ts) (h : Delivered (received f t v) g ts v) :
    Delivered f g (t :: ts) v where
  rest := h.rest
  arrived u hu := by
    obtain rfl | hu := List.mem_cons.1 hu
    · rw [h.others _ fun w hw e => new (by rwa [tgtKey_inj e])]
      exact SMap.at_set_same ..
    · exact h.arrived u hu
  others k hk := by
    rw [h.others k fun w hw => hk w (List.mem_cons_of_mem _ hw)]
    exact SMap.at_set_other _ _ (hk t List.mem_cons_self)
  order n hn hk := by
    rw [h.order n hn fun w hw => hk w (List.mem_cons_of_mem _ hw), rightFirst_received hn]
    simp [hk t List.mem_cons_self]

/-- Tokens for distinct inputs that hold none all arrive. -/
theorem puts_delivers (ix : Nat) (v : Tok) : ∀ (ts : List (BitVec 9)) (f : Frame) (n : Nat), ts.Pairwise (· ≠ ·) →
    (∀ t ∈ ts, tgtClass t < 3 ∧ f.opnd.at (tgtKey t) = none) →
    ∃ g, puts ix ((ts.zipIdx n).map (fun x => (x.2, x.1, v))) f = .ok g ∧ Delivered f g ts v
  | [], f, _, _, _ => ⟨f, rfl, .nil f v⟩
  | t :: ts, f, n, distinct, empty => by
    obtain ⟨new, distinct⟩ := List.pairwise_cons.1 distinct
    obtain ⟨hc, he⟩ := empty t List.mem_cons_self
    have still : ∀ u ∈ ts, tgtClass u < 3 ∧ (received f t v).opnd.at (tgtKey u) = none := fun u hu => by
      obtain ⟨hcu, heu⟩ := empty u (List.mem_cons_of_mem _ hu)
      exact ⟨hcu, (SMap.at_set_other _ _ fun e => new u hu (tgtKey_inj e).symm).trans heu⟩
    obtain ⟨g, hg, d⟩ := puts_delivers ix v ts (received f t v) (n + 1) distinct still
    refine ⟨g, ?_, d.cons fun h => new t h rfl⟩
    rw [List.zipIdx_cons, List.map_cons, puts_cons, put_input_empty hc he]
    exact hg

end

end Sys2Proof.Safety

namespace Sys2Proof.Proofs.Formats
open Sys2Proof Sys2Proof.Machine Sys2Proof.Safety

/-- Settles O22: the first clause by induction on the targets (`puts_delivers`), the others by what the class and number of one target
name (`put_input_empty` and its like, `put_held`). That BADOPND names the consumer and BADHOLD the writer is log entry 30. -/
theorem tokenDelivery : Obligations.TokenDelivery := by
  refine ⟨fun ts f ix v distinct empty => ?all, fun f ix pos t v => ⟨put_input_full, fun hc hn empty => ?first,
    fun hc hn filled room value => ?hold, fun hc hn bad => ?bad, fun hc hn => ?none, fun hc hn => ?queue⟩⟩
  case all =>
    obtain ⟨g, hg, d⟩ := puts_delivers ix v ts f 0 distinct empty
    exact ⟨g, hg, d.rest, d.arrived, d.others, d.order⟩
  case first =>
    have empty' : f.opnd.at (tgtKey t) = none := by rw [tgtKey, hc]; exact empty
    refine ⟨_, put_input_empty (by omega) empty', ?_⟩
    rw [rightFirst_received hn]
    simp [hc]
  case hold =>
    have noValue : (v.isSome && f.holds.any (fun h => h.1 == tgtNum t && h.2.isSome)) = false := by
      rcases value with rfl | none
      · rfl
      · rw [Bool.and_eq_false_iff]
        refine .inr (List.any_eq_false.2 fun h hh => ?_)
        simpa using none h hh
    rw [put_held hc, if_pos hn, if_neg]
    simp [filled, noValue, room]
  case bad =>
    rw [put_held hc, if_pos hn, if_pos]
    rcases bad with full | ⟨hv, h, hh, e, hw⟩
    · simp [full]
    · have : f.holds.any (fun h => h.1 == tgtNum t && h.2.isSome) = true :=
        List.any_eq_true.2 ⟨h, hh, by simp [e, Option.isSome_iff_ne_none.2 hw]⟩
      simp [this, Option.isSome_iff_ne_none.2 hv]
  case none => rw [put_held hc, if_neg (by omega), if_pos hn]
  case queue => rw [put_held hc, if_neg (by omega), if_neg (by omega)]

end Sys2Proof.Proofs.Formats

namespace Sys2Proof.Safety
open Sys2Proof Sys2Proof.Machine

/-! ### Instructions that send tokens, fault, or give an exit (R144, R208, R211, R245, R376) -/

section
variable {s t : State} {core x ix l : Nat} {ts : List (BitVec 9)} {v : Tok} {g : Frame} {f : Flt}

/-- Tokens that are all taken, after a change of the frame alone, give the frame and leave the rest. -/
theorem FrameOnly.delivers {outs : List (Nat × BitVec 9 × Tok)} (only : FrameOnly s t core x)
    (taken : puts ix outs (frameOf t core x) = .ok g) :
    frameOf (ctSend core x ix outs t) core x = g ∧ FrameOnly s (ctSend core x ix outs t) core x ∧
      ∀ a, Mem.get (ctSend core x ix outs t).mem a = Mem.get s.mem a := by
  obtain ⟨-, frame, -⟩ := ctSend_ok core x ix outs t g taken
  have after := only.send taken
  exact ⟨frame, after, fun a => by rw [after.mem]⟩

theorem ctDone_none (outs : List (Nat × BitVec 9 × Tok)) :
    ctDone s core x ix none outs = ctSend core x ix outs (ctFired s core x ix) := rfl

/-- A memory token completes its LSID where it has not completed yet. -/
theorem ctDone_some (outs : List (Nat × BitVec 9 × Tok)) (first : (frameOf s core x).lsidDone l = false) :
    ctDone s core x ix (some l) outs = ctSend core x ix outs (ctLsid (ctFired s core x ix) core x l) := by
  have first' : (frameOf (ctFired s core x ix) core x).lsidDone l = false := by
    rw [frameOf_ctFired]
    exact first
  simp only [ctDone, first', Bool.false_eq_true, if_false]

theorem frameOf_ctLsid : frameOf (ctLsid s core x l) core x = lsidIn (frameOf s core x) l := frameOf_frameUpd s core x _

/-- That an instruction has fired decides nothing on whether its block must commit. -/
theorem mustCommit_ctFired : mustCommit (ctFired s core x ix) core x = mustCommit s core x := by
  rw [mustCommit, frameOf_ctFired]
  rfl

/-- A fault in a block that can be abandoned is taken at the block. -/
theorem ctFault_fired_trap (can : mustCommit s core x = false) :
    ctFault (ctFired s core x ix) core x f = takeTrap (ctFired s core x ix) core x f (ctxOf s core x).blk none := by
  rw [ctFault, mustCommit_ctFired, can, ctxOf_ctFired]
  rfl

/-- A fault in a block that must commit waits in its frame, where none waits yet. -/
theorem ctFault_fired_defer (must : mustCommit s core x = true) (first : (frameOf s core x).defer = none) :
    FrameOnly s (ctFault (ctFired s core x ix) core x f) core x ∧
      frameOf (ctFault (ctFired s core x ix) core x f) core x = { firedIn (frameOf s core x) ix with defer := some f } := by
  rw [ctFault, mustCommit_ctFired, must, if_pos rfl]
  refine ⟨(ctFired_only s core x ix).upd _, ?_⟩
  rw [frameOf_frameUpd, frameOf_ctFired]
  have : (firedIn (frameOf s core x) ix).defer = none := first
  simp only [this]

/-- A token that its target does not take is the fault that the target says. -/
theorem ctSend_refused {outs : List (Nat × BitVec 9 × Tok)} {pos : Nat} {u : BitVec 9}
    (refused : (frameOf s core x).put ix pos u v = .error f) : ctSend core x ix ((pos, u, v) :: outs) s =
      if mustCommit s core x then ctSend core x ix outs (ctFault s core x f) else ctFault s core x f := by
  rw [ctSend, refused]

/-- A token for an input that holds one faults. -/
theorem token_full {u : BitVec 9} (hc : tgtClass u < 3) (full : (frameOf s core x).opnd.at (tgtKey u) ≠ none) :
    token s core x ix [u] v = .next (ctFault (ctFired s core x ix) core x (dataFlt 0x16 (tgtNum u))) := by
  have refused : (frameOf (ctFired s core x ix) core x).put ix 0 u v = .error (dataFlt 0x16 (tgtNum u)) := by
    rw [frameOf_ctFired]
    exact put_input_full hc full
  refine congrArg Host.Outcome.next ((ctDone_none _).trans ((ctSend_refused refused).trans ?_))
  exact ite_self _

theorem ctExit_first (tgt : Word) (noExit : (frameOf s core x).exit = none) :
    ctExit s core x ix tgt = frameUpd (ctFired s core x ix) core x (fun f => { f with exit := some (ix, tgt) }) := by
  have : (frameOf (ctFired s core x ix) core x).exit = none := by
    rw [frameOf_ctFired]
    exact noExit
  simp only [ctExit, this, Option.isSome_none, Bool.false_eq_true, if_false]

theorem ctExit_second (tgt : Word) (anExit : (frameOf s core x).exit ≠ none) :
    ctExit s core x ix tgt = ctFault (ctFired s core x ix) core x (dataFlt 0x18 ix) := by
  have : (frameOf (ctFired s core x ix) core x).exit.isSome = true := by
    rw [frameOf_ctFired]
    exact Option.isSome_iff_ne_none.2 anExit
  simp only [ctExit, this, if_true]

/-- A first exit changes the frame alone. -/
theorem ctExit_only (tgt : Word) (noExit : (frameOf s core x).exit = none) : FrameOnly s (ctExit s core x ix tgt) core x ∧
    frameOf (ctExit s core x ix tgt) core x = { firedIn (frameOf s core x) ix with exit := some (ix, tgt) } := by
  rw [ctExit_first tgt noExit]
  exact ⟨(ctFired_only s core x ix).upd _, by rw [frameOf_frameUpd, frameOf_ctFired]⟩

/-- Each of the five forms gives an exit, to the target that its form names. -/
theorem exec_exit {p : BitVec 2} {e : BitVec 3} {o : BitVec 20} {a : Word} {i : Instr} {n : Word}
    (h : Fires s core x ix p false false (some 0#64) (some 0#64) ∧
        ((i = .br p e o ∨ i = .call p e o) ∧ n = (ctxOf s core x).blk.setWidth 64 + 4#64 * o.signExtend 64 ∨ i = .ret p e ∧ n = 0#64) ∨
      Fires s core x ix p true false (some a) (some 0#64) ∧ (i = .brt p e ∨ i = .callt p e) ∧ n = a) :
    exec i s = .next (ctExit s core x ix n) := by
  rcases h with ⟨fires, ⟨rfl | rfl, rfl⟩ | ⟨rfl, rfl⟩⟩ | ⟨fires, rfl | rfl, rfl⟩
  case inl.inl.inl | inl.inl.inr =>
    rw [BitVec.mul_comm]
    exact congrArg _ (fires.form _)
  all_goals exact congrArg _ (fires.form _)

end

end Sys2Proof.Safety

namespace Sys2Proof.Proofs.Formats
open Sys2Proof Sys2Proof.Machine Sys2Proof.Safety

/-- Settles O23: firing and completing an LSID change the frame and the state of the context (`ctFired_only`, `FrameOnly.upd`), and so do
tokens that are all taken (`FrameOnly.delivers`). -/
theorem tokenFrame : Obligations.TokenFrame := by
  refine ⟨fun s core x ix ts v g taken => ⟨_, rfl, (ctFired_only s core x ix).delivers ?fired⟩,
    fun s core x ix l ts v g first taken => ⟨_, congrArg Host.Outcome.next (ctDone_some _ first),
      ((ctFired_only s core x ix).upd _).delivers ?lsid⟩⟩
  case fired =>
    rw [frameOf_ctFired]
    exact taken
  case lsid =>
    rw [frameOf_frameUpd, frameOf_ctFired]
    exact taken

/-- Settles O24: the one token is refused (`token_full`), and its fault is taken at the block or waits in the frame. That BADOPND names
the consumer is log entry 30. -/
theorem tokenFaults : Obligations.TokenFaults := by
  intro s core x ix t v hc full
  rw [token_full hc full]
  exact ⟨fun can => congrArg _ (ctFault_fired_trap can), fun must first => ⟨_, rfl, ctFault_fired_defer must first⟩⟩

/-- Settles O28: each form gives an exit (`exec_exit`), the first of which the frame takes, and a second of which is the fault. -/
theorem exits : Obligations.Exits := by
  intro s core x ix p e o a i n fires
  rw [exec_exit fires]
  refine ⟨fun noExit => ?first, fun anExit can => ?second⟩
  case first =>
    obtain ⟨only, frame⟩ := ctExit_only (ix := ix) n noExit
    exact ⟨_, rfl, only, frame, fun b => by rw [only.mem]⟩
  case second => rw [ctExit_second n anExit, ctFault_fired_trap can]

end Sys2Proof.Proofs.Formats

namespace Sys2Proof.Safety
open Sys2Proof Sys2Proof.Machine

/-! ### Operations that compute one result from their operands (R322, R323, R324) -/

section
variable {s : State} {key hnd op : Nat} {h : HWord} {flt : Bool} {f : FTok → FTok → FTok → FTok} {t : FTok} {ts : List FTok}

/-- A control token that is forwarded as one with another: of equal code and argument, or a REC as the other is (R223, R324). -/
def CtlAligned (t u : FTok) : Prop := tokC u = true ∧ (ctlKey u = ctlKey t ∨ (isRec t = true ∧ isRec u = true))

/-- The heads of a firing are aligned where the first is a control token and each other is aligned to it. -/
theorem all_aligned_iff : (∀ u ∈ t :: ts, CtlAligned t u) ↔
    (tokC t && ts.all (fun u => tokC u && (ctlKey u == ctlKey t || (isRec u && isRec t)))) = true := by
  simp [CtlAligned, and_comm]

theorem dataFire_control (run : (handlerIn s key hnd).gapPend = false) (heads : (fireQs h).filterMap (elemIn s key).head = t :: ts)
    (ctl : (t :: ts).any tokC = true) : dataFire h op flt f (elemIn s key) (handlerIn s key hnd) =
      if tokC t && ts.all (fun u => tokC u && (ctlKey u == ctlKey t || (isRec u && isRec t))) then
        { fireOf s key hnd with
          out := some (tokOn t h.och), take := fireQs h, hd := { handlerIn s key hnd with gapPend := tokCode t == 7 } }
      else { fireOf s key hnd with block := some 0x15 } := by
  simp only [dataFire, run, Bool.false_eq_true, if_false, heads, ctl, if_true, ctlRule, fireQs_filter, Fire.of, Fire.forward]

/-- On data the operation sends its result, or a null where an operand that it uses is null. -/
theorem Runs.value (r : Runs s key hnd op h) (d : OnData s key hnd h) :
    Host.Outcome.next (handlerFire s op h (dataFire h op flt f)) = fired s key hnd op h { fireOf s key hnd with
      out := some (
        if tokN (operand (elemIn s key) (handlerIn s key hnd) flt h.a.toNat) ||
            (hUsesB op && tokN (operand (elemIn s key) (handlerIn s key hnd) flt h.b.toNat)) ||
            (hUsesC op && tokN (operand (elemIn s key) (handlerIn s key hnd) flt h.c.toNat)) then tokNull h.och
        else tokOn (f (operand (elemIn s key) (handlerIn s key hnd) flt h.a.toNat)
          (operand (elemIn s key) (handlerIn s key hnd) flt h.b.toNat)
          (operand (elemIn s key) (handlerIn s key hnd) flt h.c.toNat) &&& 0x7FFFFFFFFFFF#48) h.och)
      res := true
      take := fireQs h } := r.firing (dataFire_data d.gap d.data)

/-- The weight token after a GAP is forwarded. -/
theorem Runs.value_gap (r : Runs s key hnd op h) (gap : (handlerIn s key hnd).gapPend = true)
    (heads : (fireQs h).filterMap (elemIn s key).head = t :: ts) :
    Host.Outcome.next (handlerFire s op h (dataFire h op flt f)) = fired s key hnd op h { fireOf s key hnd with
      out := some (tokOn t h.och), take := fireQs h, wt := true, hd := { handlerIn s key hnd with gapPend := false } } :=
  r.firing (dataFire_gap gap heads)

/-- Aligned control tokens are forwarded as one. -/
theorem Runs.value_aligned (r : Runs s key hnd op h) (run : (handlerIn s key hnd).gapPend = false)
    (heads : (fireQs h).filterMap (elemIn s key).head = t :: ts) (ctl : (t :: ts).any tokC = true)
    (aligned : ∀ u ∈ t :: ts, CtlAligned t u) :
    Host.Outcome.next (handlerFire s op h (dataFire h op flt f)) = fired s key hnd op h { fireOf s key hnd with
      out := some (tokOn t h.och), take := fireQs h, hd := { handlerIn s key hnd with gapPend := tokCode t == 7 } } :=
  r.firing ((dataFire_control run heads ctl).trans (if_pos (all_aligned_iff.1 aligned)))

/-- Control tokens that are not aligned block the slot with CTLMIS. -/
theorem Runs.value_misaligned (r : Runs s key hnd op h) (run : (handlerIn s key hnd).gapPend = false)
    (heads : (fireQs h).filterMap (elemIn s key).head = t :: ts) (ctl : (t :: ts).any tokC = true)
    (not : ¬∀ u ∈ t :: ts, CtlAligned t u) :
    (Host.Outcome.next (handlerFire s op h (dataFire h op flt f)) : Out) = .next (elemBlock s key h.graph.toNat 0x15) :=
  r.firing ((dataFire_control run heads ctl).trans (if_neg (mt all_aligned_iff.2 not)))

end

/-! ### The values of the operations (R332, R333, R334) -/

/-- The low five bits of a shift count. -/
theorem toNat_mod_32 (b : BitVec 32) : b.toNat % 32 = (b.extractLsb' 0 5).toNat := by
  simp [BitVec.extractLsb'_toNat]

/-- Bits [63:32] of the signed product of two integers of 32 bits. -/
theorem ofInt_mul_div (a b : BitVec 32) :
    BitVec.ofInt 32 (a.toInt * b.toInt / 2 ^ 32) = (a.signExtend 64 * b.signExtend 64).extractLsb' 32 32 := by
  have product : a.signExtend 64 * b.signExtend 64 = BitVec.ofInt 64 (a.toInt * b.toInt) := (BitVec.ofInt_mul ..).symm
  rw [product]
  generalize a.toInt * b.toInt = p
  apply BitVec.eq_of_toNat_eq
  simp only [BitVec.toNat_ofInt, BitVec.extractLsb'_toNat, Nat.shiftRight_eq_div_pow]
  omega

theorem ite_slt_eq_ite_sle (a b : BitVec 32) {α : Type} (x y : α) : (if b.slt a then y else x) = if a.sle b then x else y := by
  rw [BitVec.sle_eq_not_slt]
  cases b.slt a <;> rfl

theorem flag32_eq_ite (p : Prop) [Decidable p] (q : Bool) (h : q = true ↔ p) : flag32 q = if p then 1#32 else 0#32 := by
  unfold flag32
  exact if_congr h rfl rfl

theorem setWidth_flag32 (q : Bool) : (flag32 q).setWidth 48 = if q then 1#48 else 0#48 := by
  cases q <;> rfl

section
variable (a b : FTok)

theorem floatPick_least : floatPick true a b =
    if Machine.Num.xfOf a = .nan ∨ Machine.Num.xfOf b = .nan then Machine.Num.xfNaN
    else Machine.Num.xfRound .rne
      (if Machine.Num.ltz (Machine.Num.xfOf b) (Machine.Num.xfOf a) then Machine.Num.xfOf b else Machine.Num.xfOf a) := by
  simp only [floatPick, if_true, Bool.or_eq_true, decide_eq_true_eq]

theorem floatPick_greatest : floatPick false a b =
    if Machine.Num.xfOf a = .nan ∨ Machine.Num.xfOf b = .nan then Machine.Num.xfNaN
    else Machine.Num.xfRound .rne
      (if Machine.Num.ltz (Machine.Num.xfOf a) (Machine.Num.xfOf b) then Machine.Num.xfOf b else Machine.Num.xfOf a) := by
  simp only [floatPick, Bool.false_eq_true, if_false, Bool.or_eq_true, decide_eq_true_eq]

end

theorem positive_iff (z : FV) : (z != .nan && !Machine.Num.sign z) = true ↔ z ≠ .nan ∧ Machine.Num.sign z = false := by
  simp

/-- Saturation between two bounds. -/
theorem clampInt_eq_max_min {lo hi : Int} (i : Int) (h : lo ≤ hi) : Machine.Num.clampInt lo hi i = max lo (min hi i) := by
  unfold Machine.Num.clampInt
  split
  · omega
  · split <;> omega

/-- The conversion to an integer that saturates. -/
theorem toInteger_saturates {lo hi : Int} (rm : RMode) (x : FV) (h : lo ≤ hi) :
    (match x with
      | .nan => 0#48
      | .inf n => Machine.Num.intTok (if n then lo else hi)
      | w => Machine.Num.intTok (Machine.Num.clampInt lo hi (Machine.Num.toInteger rm w))) =
    match x with
      | .nan => 0#48
      | .inf n => Machine.Num.intTok (if n then lo else hi)
      | w => Machine.Num.intTok (max lo (min hi (Machine.Num.toInteger rm w))) := by
  cases x with
  | nan | inf => rfl
  | zero | fin => exact congrArg Machine.Num.intTok (clampInt_eq_max_min _ h)

end Sys2Proof.Safety

namespace Sys2Proof.Proofs.Formats
open Sys2Proof Sys2Proof.Machine Sys2Proof.Safety

/-- Settles O51: each operation is one firing whose value is a function of its operands; what it does with data, with the weight token
of a GAP, and with control tokens is said once for all of them (`Runs.value` and its like). Which bits of an argument have an effect, and
that forwarded tokens do not go to DST, are log entry 44, fexp2 and flog2 by a series log entry 12. -/
theorem valueOperations : Obligations.ValueOperations := by
  intro s key hnd h e hd o qs heads v gives int a b c rm x y z num same test
  have value (i : HWord → Instr) (op : Nat) (flt nb nc : Bool) (f : FTok → FTok → FTok → FTok) (t : FTok)
      (run : exec (i h) s = .next (handlerFire s op h (dataFire h op flt f))) (hb : hUsesB op = nb) (hc : hUsesC op = nc)
      (ht : f (v flt h.a) (v flt h.b) (v flt h.c) = t) : gives i op flt nb nc t := by
    subst hb hc ht
    refine fun r => ⟨fun d => run.trans (r.value d), fun gap t ts heads => run.trans (r.value_gap gap heads),
      fun gap t ts heads ctl => ⟨fun aligned => run.trans (r.value_aligned gap heads (heads ▸ ctl) (heads ▸ aligned)),
        fun not => run.trans (r.value_misaligned gap heads (heads ▸ ctl) (heads ▸ not))⟩⟩
  have integer (i : HWord → Instr) (op : Nat) (nc : Bool) (f : BitVec 32 → BitVec 32 → BitVec 32 → BitVec 32) (w : BitVec 32)
      (run : exec (i h) s = .next (intOp s op h f)) (hb : hUsesB op = true) (hc : hUsesC op = nc) (hw : f a b c = w) :
      int i op nc w := value i op false true nc _ _ run hb hc (congrArg (BitVec.setWidth 48) hw)
  have float (i : HWord → Instr) (op : Nat) (nb nc : Bool) (f : RMode → FV → FV → FV → FV) (w : FV)
      (run : exec (i h) s = .next (floatOp s op h f)) (hb : hUsesB op = nb) (hc : hUsesC op = nc) (hw : f rm x y z = w) :
      num i op nb nc w := value i op true nb nc _ _ run hb hc (congrArg (Machine.Num.xfRound rm) hw)
  have token (i : HWord → Instr) (op : Nat) (nb nc : Bool) (f : FTok → FTok → FTok → FTok) (t : FTok)
      (run : exec (i h) s = .next (tokenOp s op h f)) (hb : hUsesB op = nb) (hc : hUsesC op = nc)
      (ht : f (v true h.a) (v true h.b) (v true h.c) = t) : gives i op true nb nc t := value i op true nb nc f t run hb hc ht
  refine ⟨integer .iadd 0x01 false _ _ rfl rfl rfl rfl, integer .isub 0x02 false _ _ rfl rfl rfl rfl,
    integer .imul 0x03 false _ _ rfl rfl rfl rfl, integer .imulh 0x04 false _ _ rfl rfl rfl (ofInt_mul_div a b),
    integer .iand 0x05 false _ _ rfl rfl rfl rfl, integer .ior 0x06 false _ _ rfl rfl rfl rfl, integer .ixor 0x07 false _ _ rfl rfl rfl rfl,
    integer .ishl 0x08 false _ _ rfl rfl rfl (congrArg (a <<< ·) (toNat_mod_32 b)),
    integer .ishr 0x09 false _ _ rfl rfl rfl (congrArg (a >>> ·) (toNat_mod_32 b)),
    integer .isha 0x0A false _ _ rfl rfl rfl (congrArg a.sshiftRight (toNat_mod_32 b)),
    integer .imin 0x0B false _ _ rfl rfl rfl (ite_slt_eq_ite_sle a b a b),
    integer .imax 0x0C false _ _ rfl rfl rfl (ite_slt_eq_ite_sle b a a b),
    integer .ieq 0x0D false _ _ rfl rfl rfl (flag32_eq_ite _ _ beq_iff_eq),
    integer .ilt 0x0E false _ _ rfl rfl rfl (flag32_eq_ite _ _ BitVec.slt_iff_toInt_lt),
    integer .iltn 0x0F false _ _ rfl rfl rfl (flag32_eq_ite _ _ BitVec.ult_iff_toNat_lt),
    integer .isel 0x10 true _ _ rfl rfl rfl rfl,
    float .fadd 0x20 true false _ _ rfl rfl rfl rfl, float .fsub 0x21 true false _ _ rfl rfl rfl rfl,
    float .fmul 0x22 true false _ _ rfl rfl rfl rfl, float .fma 0x23 true true _ _ rfl rfl rfl rfl,
    token .fmin 0x24 true false _ _ rfl rfl rfl (floatPick_least _ _), token .fmax 0x25 true false _ _ rfl rfl rfl (floatPick_greatest _ _),
    token .fneg 0x26 false false _ _ rfl rfl rfl rfl, token .fabs 0x27 false false _ _ rfl rfl rfl rfl,
    float .frcp 0x28 false false _ _ rfl rfl rfl rfl, float .frsq 0x29 false false _ _ rfl rfl rfl rfl,
    float .fexp2 0x2A false false _ _ rfl rfl rfl rfl, float .flog2 0x2B false false _ _ rfl rfl rfl rfl,
    token .feq 0x2C true false _ _ rfl rfl rfl (setWidth_flag32 _), token .flt 0x2D true false _ _ rfl rfl rfl (setWidth_flag32 _),
    token .fsel 0x2E true true _ _ rfl rfl rfl ?sel,
    value .cvif 0x30 false false false _ _ rfl rfl rfl rfl, token .cvfi 0x31 false false _ _ rfl rfl rfl ?toInt⟩
  case sel => exact if_congr (positive_iff z) rfl rfl
  case toInt =>
    refine toInteger_saturates rm x ?_
    split <;> omega

end Sys2Proof.Proofs.Formats

/-! ## The statements of compute and control, memory and synchronisation, streams and engines, elements, faults and contexts, hearth -/

namespace Sys2Proof.Safety
open Sys2Proof Sys2Proof.Machine

/-! ### Every step goes on (R401, R412) -/

/-- An outcome that is a next state. -/
def Answers (o : Out) : Prop := ∃ t, o = .next t

theorem answers_next (t : State) : Answers (.next t) := ⟨t, rfl⟩

/-- An event answers a next state, whichever of its checks fails. -/
theorem exec_answers (i : Instr) (s : State) : Answers (exec i s) := by
  cases i
  case mxnode =>
    simp only [exec, execMxnode]
    repeat' split
    all_goals exact answers_next _
  case asidDisableDrained | inboundRequest | invalidationComplete | coreCacheFill | l2Access | l2FillComplete | tileRefIssue
      | reservationRequest | reservationReply | slotWriteArrival | slotEndToken | retrainWindowExpiry | linkRetrained
      | remoteAtomicArrival | remoteReply | remoteReplyTimeout | arbiterPlaceRegion | arbiterPlaceTile | frameAllocate | blockFetch
      | blockCommit | segmentBudgetExpiry | stalemateCheck | stallout | elementSwap | waitRelease | idleTimeout | copyComplete
      | collectiveComplete | cfgldComplete | regionDrainComplete | killDrainComplete | debugAreaRefill | episodeBind
      | hearthWindowAccess | actionRecordAccept | flagFall | portDisable | flitReceive | gtscAlign | reseqPacketArrival
      | reseqSourceTimeout | powerOn | flowLoss | linkTrained =>
    simp only [exec, execAsidDisableDrained, execInboundRequest, execInvalidationComplete, execCoreCacheFill, execL2Access,
      execL2FillComplete, execTileRefIssue, execReservationRequest, execReservationReply, execSlotWriteArrival, execSlotEndToken,
      execRetrainWindowExpiry, execLinkRetrained, execRemoteAtomicArrival, execRemoteReply, execRemoteReplyTimeout,
      execArbiterPlaceRegion, execArbiterPlaceTile, execFrameAllocate, execBlockFetch, execBlockCommit, execSegmentBudgetExpiry,
      execStalemateCheck, execStallout, execElementSwap, execWaitRelease, execIdleTimeout, execCopyComplete, execCollectiveComplete,
      execCfgldComplete, execRegionDrainComplete, execKillDrainComplete, execDebugAreaRefill, execEpisodeBind,
      execHearthWindowAccess, execActionRecordAccept, execFlagFall, execPortDisable, execFlitReceive, execGtscAlign,
      execReseqPacketArrival, execReseqSourceTimeout, execPowerOn, execFlowLoss, execLinkTrained]
    repeat' split
    all_goals exact answers_next _
  all_goals exact answers_next _

/-- The turn of a context leaves the state, executes an instruction or an event, or holds the context. -/
theorem ctTurn_answers (core x : Nat) (s : State) : Answers (ctTurn core x s) := by
  unfold ctTurn
  dsimp only
  split
  · exact answers_next s
  split
  · exact exec_answers .blockFetch _
  split
  · split
    · exact exec_answers _ _
    · exact answers_next s
  · split
    · exact exec_answers .blockCommit _
    · exact answers_next _

theorem elTurn_answers (core n : Nat) (s : State) : Answers (elTurn core n s) := by
  unfold elTurn
  dsimp only
  split
  · exact exec_answers _ _
  · exact answers_next _

theorem hartDo_answers (hc : Nat) (s : State) : Answers (hartDo hc s) := by
  unfold hartDo
  split
  · exact exec_answers _ _
  · exact answers_next _

/-- Before the module is READY a turn leaves the state; then it is one of the five kinds. -/
theorem turnDo_answers (t : Turn) (s : State) : Answers (turnDo t s) := by
  unfold turnDo
  split
  · exact answers_next s
  cases t with
  | ev i a => exact exec_answers i _
  | ct core x => exact ctTurn_answers core x s
  | el core n => exact elTurn_answers core n s
  | hart hc => exact hartDo_answers hc s
  | err e => exact answers_next _

/-- A turn that answers a next state is taken or held. -/
theorem holdTurn_answers (t : Turn) (s : State) : Answers (holdTurn t s) := by
  obtain ⟨u, answers⟩ := turnDo_answers t s
  cases wait : u.sim.stall with
  | true => exact ⟨_, holdTurn_held answers wait⟩
  | false => exact ⟨u, holdTurn_next answers wait⟩

theorem goesOn (s : State) : GoesOn s := by
  unfold GoesOn step
  split
  · exact holdTurn_answers _ _
  · exact answers_next _

theorem safeRun (n : Nat) (s : State) : SafeRun n s := by
  induction n generalizing s with
  | zero => trivial
  | succ n ih =>
    obtain ⟨t, next⟩ := goesOn s
    exact ⟨t, next, ih t⟩

end Sys2Proof.Safety

namespace Sys2Proof.Proofs.Hearth
open Sys2Proof Sys2Proof.Machine Sys2Proof.Safety

/-- Settles O8: every instruction answers a next state (`exec_answers`), so every kind of turn does, and every run goes on, by induction
on its length. What the hearth cores do on their base instructions is log entry 7. -/
theorem everyStepGoesOn : Obligations.EveryStepGoesOn := ⟨exec_answers, goesOn, safeRun⟩

end Sys2Proof.Proofs.Hearth

namespace Sys2Proof
open Sys2Proof

/-! ### Words of OP 0x02, 0x03, 0x04 and 0x18 that no instruction has (R232, R233, R234, R241) -/

section
variable {w : BitVec 32} {n : Nat}

/-- A word of an assigned OP is decoded by its XOP; from the first unassigned XOP on it is BADXOP. -/
theorem decodeWord_badxop (h : w.extractLsb' 25 7 = 2#7 ∨ w.extractLsb' 25 7 = 3#7 ∨ w.extractLsb' 25 7 = 4#7)
    (hx : 4 ≤ (w.extractLsb' 18 5).toNat) : decodeWord w = .error .badxop := by
  obtain ⟨k, e⟩ := Nat.exists_eq_add_of_le' hx
  rcases h with h | h | h <;>
    rw [decodeWord, if_neg (Laws.Roundtrip.notEdge h (by decide) (by decide)), h, e] <;> rfl

theorem decodeWord_op18_badxop (h : w.extractLsb' 25 7 = 0x18#7) (hx : 6 ≤ (w.extractLsb' 18 5).toNat) :
    decodeWord w = .error .badxop := by
  obtain ⟨k, e⟩ := Nat.exists_eq_add_of_le' hx
  rw [decodeWord, if_neg (Laws.Roundtrip.notEdge h (by decide) (by decide)), h, e]
  rfl

end

end Sys2Proof

namespace Sys2Proof.Safety
open Sys2Proof Sys2Proof.Machine

/-! ### Forms that send one value (R227, R231–R243) -/

/-- A form that acts on its operands alone sends what it computes. -/
theorem Fires.sends {s : State} {core x ix : Nat} {p : BitVec 2} {left right : Bool} {ts : List (BitVec 9)} {a b v : Word}
    {g : Word → Word → Word} (fires : Fires s core x ix p left right (some a) (some b)) (value : g a b = v) :
    Host.Outcome.next (ctPure s p left right ts g) = token s core x ix ts (some v) := by
  rw [fires.pure, value]
  rfl

/-! ### The values of the arithmetic group (R231) -/

section
variable (a b : Word)

/-- Bits [127:64] of the signed product. -/
theorem mulHigh_eq_extractLsb' : mulHigh a b = (a.signExtend 128 * b.signExtend 128).extractLsb' 64 64 := by
  have product : a.signExtend 128 * b.signExtend 128 = BitVec.ofInt 128 (a.toInt * b.toInt) := (BitVec.ofInt_mul ..).symm
  rw [mulHigh, product]
  generalize a.toInt * b.toInt = p
  apply BitVec.eq_of_toNat_eq
  simp only [BitVec.toNat_ofInt, BitVec.extractLsb'_toNat, Nat.shiftRight_eq_div_pow]
  omega

/-- Bits [127:64] of the unsigned product, which 128 bits hold. -/
theorem mulHighN_eq_extractLsb' : mulHighN a b = (a.setWidth 128 * b.setWidth 128).extractLsb' 64 64 := by
  have fits : a.toNat * b.toNat < 2 ^ 128 := (Nat.mul_lt_mul'' a.isLt b.isLt : _ < 2 ^ 64 * 2 ^ 64)
  have product : (a.setWidth 128 * b.setWidth 128).toNat = a.toNat * b.toNat := by
    rw [BitVec.toNat_mul, BitVec.toNat_setWidth_of_le (by decide), BitVec.toNat_setWidth_of_le (by decide), Nat.mod_eq_of_lt fits]
  apply BitVec.eq_of_toNat_eq
  rw [mulHighN, BitVec.toNat_ofNat, BitVec.extractLsb'_toNat, product, Nat.shiftRight_eq_div_pow]

theorem addSat_eq_ite : addSat a b = if a.toInt + b.toInt < -2 ^ 63 then 0x8000000000000000#64
    else if 2 ^ 63 ≤ a.toInt + b.toInt then 0x7FFFFFFFFFFFFFFF#64 else a + b := by
  have sum : BitVec.ofInt 64 (a.toInt + b.toInt) = a + b := by simp [BitVec.ofInt_add]
  unfold addSat Num.clampInt
  split
  next => rfl
  next =>
    split
    next above => rw [if_pos (by omega)]; rfl
    next above => rw [if_neg (by omega), sum]

/-! ### The values of the division group (R232) -/

/-- But for the overflow the quotient and the remainder are those of the signed division toward zero. -/
theorem ne_intMin_or_ne_allOnes {a b : Word} (fits : ¬(a.toInt = -2 ^ 63 ∧ b.toInt = -1)) : a ≠ BitVec.intMin 64 ∨ b ≠ -1#64 := by
  by_contra both
  push Not at both
  obtain ⟨rfl, rfl⟩ := both
  exact fits (by decide)

theorem divSigned_eq_sdiv {a b : Word} (nonzero : b ≠ 0#64) (fits : ¬(a.toInt = -2 ^ 63 ∧ b.toInt = -1)) :
    divSigned a b = a.sdiv b := by
  rw [divSigned, if_neg nonzero, if_neg fits, ← BitVec.toInt_sdiv_of_ne_or_ne _ _ (ne_intMin_or_ne_allOnes fits), BitVec.ofInt_toInt]

theorem remSigned_eq_srem {a b : Word} (nonzero : b ≠ 0#64) (fits : ¬(a.toInt = -2 ^ 63 ∧ b.toInt = -1)) :
    remSigned a b = a.srem b := by
  rw [remSigned, if_neg nonzero, if_neg fits, mul_comm, ← Int.tmod_def, ← BitVec.toInt_srem, BitVec.ofInt_toInt]

/-- Quotient and remainder recombine, but for the overflow. -/
theorem toInt_sdiv_mul_add_srem {a b : Word} (fits : ¬(a.toInt = -2 ^ 63 ∧ b.toInt = -1)) :
    a.toInt = (a.sdiv b).toInt * b.toInt + (a.srem b).toInt := by
  rw [BitVec.toInt_sdiv_of_ne_or_ne _ _ (ne_intMin_or_ne_allOnes fits), BitVec.toInt_srem, Int.tdiv_mul_add_tmod]

/-- The remainder is smaller in magnitude than the divisor. -/
theorem natAbs_srem_lt {a b : Word} (nonzero : b ≠ 0#64) : (a.srem b).toInt.natAbs < b.toInt.natAbs := by
  rw [BitVec.toInt_srem, Int.natAbs_tmod]
  refine Nat.mod_lt _ (Int.natAbs_pos.2 fun zero => nonzero ?_)
  exact BitVec.toInt_inj.1 zero

/-- A remainder that is not zero has the sign of the dividend. -/
theorem srem_neg_iff {a b : Word} (r : (a.srem b).toInt ≠ 0) : (a.srem b).toInt < 0 ↔ a.toInt < 0 := by
  rw [BitVec.toInt_srem] at r ⊢
  have sign := Int.sign_tmod a.toInt b.toInt
  rw [if_neg fun dvd => r (Int.tmod_eq_zero_of_dvd dvd)] at sign
  rw [← Int.sign_eq_neg_one_iff_neg, sign, Int.sign_eq_neg_one_iff_neg]

/-! ### The values of the shift group, the field forms and the counts (R234, R235, R236, R238) -/

theorem getLsbD_shl {i : Nat} (hi : i < 64) :
    (a <<< shiftCount b).getLsbD i = (decide (b.toNat % 64 ≤ i) && a.getLsbD (i - b.toNat % 64)) := by
  simp only [shiftCount, BitVec.getLsbD_shiftLeft, hi, decide_true, Bool.true_and, ← decide_not, Nat.not_lt]

theorem getLsbD_sha {i : Nat} (hi : i < 64) : (a.sshiftRight (shiftCount b)).getLsbD i =
    if i + b.toNat % 64 < 64 then a.getLsbD (i + b.toNat % 64) else a.getLsbD 63 := by
  rw [BitVec.getLsbD_sshiftRight, decide_eq_false (not_le.2 hi), Nat.add_comm, BitVec.msb_eq_getLsbD_last]
  rfl

theorem getLsbD_rol {i : Nat} (hi : i < 64) :
    (a.rotateLeft (shiftCount b)).getLsbD i = a.getLsbD ((i + 64 - b.toNat % 64) % 64) := by
  have small : b.toNat % 64 < 64 := Nat.mod_lt _ (by decide)
  rw [BitVec.getLsbD_rotateLeft, shiftCount, Nat.mod_mod]
  by_cases wraps : i < b.toNat % 64
  · simp only [wraps, decide_true, cond_true]
    congr 1
    omega
  · simp only [wraps, decide_false, cond_false, hi, decide_true, Bool.true_and]
    congr 1
    omega

theorem getLsbD_bitsTake (q : Nat) {w : Nat} (hw : w < 64) (i : Nat) :
    (bitsTake a q (w + 1)).getLsbD i = (decide (i ≤ w) && a.getLsbD (q + i)) := by
  by_cases inField : i ≤ w
  · simp [bitsTake, zx, inField, Nat.lt_succ_of_le inField, Nat.lt_of_le_of_lt inField hw]
  · simp [bitsTake, zx, inField, show ¬i < w + 1 by omega]

theorem getLsbD_bitsPut {q w : Nat} (fits : q + w + 1 ≤ 64) (i : Nat) :
    (bitsPut a b q (w + 1)).getLsbD i = if q ≤ i ∧ i ≤ q + w then b.getLsbD (i - q) else a.getLsbD i := by
  have mask : (BitVec.ofNat 64 (2 ^ (w + 1) - 1) <<< q).getLsbD i = decide (q ≤ i ∧ i ≤ q + w) := by
    rw [BitVec.getLsbD_shiftLeft, BitVec.getLsbD_ofNat, Nat.testBit_two_pow_sub_one, Bool.eq_iff_iff]
    simp only [Bool.and_eq_true, decide_eq_true_eq, Bool.not_eq_true', decide_eq_false_iff_not]
    omega
  rw [bitsPut, BitVec.getLsbD_or, BitVec.getLsbD_and, BitVec.getLsbD_and, BitVec.getLsbD_not, mask]
  by_cases inField : q ≤ i ∧ i ≤ q + w
  · simp [inField, show i < 64 by omega, show ¬i < q by omega, BitVec.getLsbD_eq_getElem (show i - q < 64 by omega)]
  · by_cases hi : i < 64
    · simp [inField, hi]
    · simp [inField, BitVec.getLsbD_of_ge a i (not_lt.1 hi)]

/-- The sign extension of the low bits. -/
theorem toInt_sx {w : Nat} (hw : w ≤ 64) : (sx a w).toInt = (a.setWidth w).toInt := BitVec.toInt_signExtend_of_le hw

theorem toNat_zx {w : Nat} (hw : w ≤ 64) : (zx a w).toNat = a.toNat % 2 ^ w := by
  rw [zx, BitVec.toNat_setWidth_of_le hw, BitVec.toNat_setWidth]

/-- The widths of sext and zext lie in a word. -/
theorem extend_width_le (w : BitVec 2) : 8 * 2 ^ w.toNat ≤ 64 :=
  Nat.mul_le_mul_left 8 (Nat.pow_le_pow_right (by decide) (Nat.le_of_lt_succ w.isLt))

/-- The first index below a bound that satisfies a test, or the bound where none does. -/
theorem find?_range_getD_spec (f : Nat → Bool) (m : Nat) : ∃ n, ((List.range m).find? f).getD m = n ∧ n ≤ m ∧
    (n < m → f n = true) ∧ ∀ i, i < n → f i = false := by
  cases found : (List.range m).find? f with
  | none =>
    rw [List.find?_range_eq_none] at found
    exact ⟨m, rfl, le_rfl, fun lt => absurd lt (lt_irrefl m), fun i hi => by simpa using found i hi⟩
  | some n =>
    obtain ⟨holds, inRange, before⟩ := List.find?_range_eq_some.1 found
    exact ⟨n, rfl, (List.mem_range.1 inRange).le, fun _ => holds, fun i hi => by simpa using before i hi⟩

theorem leadingZeros_spec : ∃ n, n ≤ 64 ∧ leadingZeros a = BitVec.ofNat 64 n ∧ (n = 64 ↔ a = 0#64) ∧
    (n < 64 → a.getLsbD (63 - n) = true) ∧ ∀ i, 64 - n ≤ i → a.getLsbD i = false := by
  obtain ⟨n, found, le, set, above⟩ := find?_range_getD_spec (fun k => a.getLsbD (63 - k)) 64
  have clear (i : Nat) (hi : 64 - n ≤ i) : a.getLsbD i = false := by
    by_cases high : i < 64
    · simpa [show 63 - (63 - i) = i by omega] using above (63 - i) (by omega)
    · exact BitVec.getLsbD_of_ge a i (by omega)
  refine ⟨n, le, by rw [leadingZeros, found], ⟨?_, ?_⟩, set, clear⟩
  · rintro rfl
    exact BitVec.eq_of_getLsbD_eq fun i _ => by simpa using clear i (by omega)
  · rintro rfl
    exact le.antisymm (not_lt.1 fun lt => by simpa using set lt)

theorem trailingZeros_spec : ∃ n, n ≤ 64 ∧ trailingZeros a = BitVec.ofNat 64 n ∧ (n = 64 ↔ a = 0#64) ∧
    (n < 64 → a.getLsbD n = true) ∧ ∀ i, i < n → a.getLsbD i = false := by
  obtain ⟨n, found, le, set, below⟩ := find?_range_getD_spec (fun k => a.getLsbD k) 64
  refine ⟨n, le, by rw [trailingZeros, found], ⟨?_, ?_⟩, set, below⟩
  · rintro rfl
    exact BitVec.eq_of_getLsbD_eq fun i hi => by simpa using below i hi
  · rintro rfl
    exact le.antisymm (not_lt.1 fun lt => by simpa using set lt)

/-! ### The values of the tests (R241–R243) -/

theorem bit64_eq_ite (q : Bool) (c : Prop) [Decidable c] (h : q = true ↔ c) : bit64 q = if c then 1#64 else 0#64 := if_congr h rfl rfl

theorem getLsbD_zero_iff : a.getLsbD 0 = true ↔ a.toNat % 2 = 1 := by
  simp [BitVec.getLsbD]

theorem toInt_lt_signExtend_iff (k : BitVec 14) : a.slt (k.signExtend 64) = true ↔ a.toInt < k.toInt := by
  rw [BitVec.slt_iff_toInt_lt, BitVec.toInt_signExtend_of_le (by decide)]

theorem toNat_lt_setWidth_iff (k : BitVec 14) : a.ult (k.setWidth 64) = true ↔ a.toNat < k.toNat := by
  rw [BitVec.ult_iff_toNat_lt, BitVec.toNat_setWidth_of_le (by decide)]

end

/-! ### Joins (R250) -/

/-- Where one token has come at sel, or one at each input, it fires on the one that arrived first. -/
theorem readyEither_on {f : Frame} {ix : Nat} {p : BitVec 2} {v : Tok} (on : f.pred ix p = some true)
    (first : f.input ix 0 = some v ∧ (f.input ix 1 = none ∨ f.rightFirst.getLsbD ix = false) ∨
      f.input ix 1 = some v ∧ (f.input ix 0 = none ∨ f.rightFirst.getLsbD ix = true)) : f.readyEither ix p = .on v none := by
  unfold Frame.readyEither
  rw [on]
  rcases first with ⟨left, none | order⟩ | ⟨right, none | order⟩
  case inl.inl => rw [left, none]
  case inr.inl => rw [right, none]
  case inl.inr => rw [left]; cases f.input ix 1 <;> simp [order]
  case inr.inr => rw [right]; cases f.input ix 0 <;> simp [order]

theorem exec_sel_on {s : State} {core x ix : Nat} {p : BitVec 2} {t u : BitVec 9} {v r : Tok} (at_ : CtAt s core x ix)
    (on : (frameOf s core x).readyEither ix p = .on v r) : exec (.sel p t u) s = token s core x ix [t, u] v := by
  change Host.Outcome.next (Machine.withCt s _) = _
  rw [at_.withCt, on]
  rfl

end Sys2Proof.Safety

namespace Sys2Proof.Proofs.Compute
open Sys2Proof Sys2Proof.Machine Sys2Proof.Safety

/-- Settles O14: each form sends what it computes (`Fires.sends`). -/
theorem arithmeticGroup : Obligations.ArithmeticGroup := by
  intro s core x ix p t u a b fires
  exact ⟨fires.sends rfl, fires.sends rfl, fires.sends rfl, fires.sends (mulHigh_eq_extractLsb' a b),
    fires.sends (mulHighN_eq_extractLsb' a b), fires.sends (addSat_eq_ite a b),
    fires.sends (if_congr BitVec.sle_iff_toInt_le rfl rfl), fires.sends (if_congr BitVec.sle_iff_toInt_le rfl rfl),
    fires.sends (if_congr BitVec.ule_iff_toNat_le rfl rfl), fires.sends (if_congr BitVec.ule_iff_toNat_le rfl rfl)⟩

/-- Settles O15: each form sends what it computes, and but for the overflow that is the signed division of two words. -/
theorem divisionGroup : Obligations.DivisionGroup := by
  intro s core x ix p t u a b fires
  refine ⟨fires.sends rfl, fires.sends rfl, fires.sends rfl, fires.sends rfl, fun nonzero fits => ?recombine,
    fun w op => decodeWord_badxop (.inl op)⟩
  exact ⟨a.sdiv b, a.srem b, fires.sends (divSigned_eq_sdiv nonzero fits), fires.sends (remSigned_eq_srem nonzero fits),
    toInt_sdiv_mul_add_srem fits, natAbs_srem_lt nonzero, srem_neg_iff⟩

/-- Settles O16, by the bits of each value. -/
theorem logicGroup : Obligations.LogicGroup := by
  intro s core x ix p t u a b fires
  refine ⟨⟨a &&& b, fires.sends rfl, fun i => BitVec.getLsbD_and⟩, ⟨a ||| b, fires.sends rfl, fun i => BitVec.getLsbD_or⟩,
    ⟨a ^^^ b, fires.sends rfl, fun i => BitVec.getLsbD_xor⟩, ⟨a &&& ~~~b, fires.sends rfl, fun i hi => by simp [hi]⟩,
    fun w op => decodeWord_badxop (.inr (.inl op))⟩

/-- Settles O17, by the bits of each value. -/
theorem shiftGroup : Obligations.ShiftGroup := by
  intro s core x ix p t u a b fires
  refine ⟨⟨⟨_, fires.sends rfl, fun i => getLsbD_shl a b⟩, ⟨_, fires.sends rfl, fun i => ?shr⟩,
    ⟨_, fires.sends rfl, fun i => getLsbD_sha a b⟩, ⟨_, fires.sends rfl, fun i => getLsbD_rol a b⟩⟩,
    fun w op => decodeWord_badxop (.inr (.inr op))⟩
  case shr => rw [BitVec.getLsbD_ushiftRight, shiftCount, Nat.add_comm]

/-- Settles O18: the counts are the first index at which a bit is set (`find?_range_getD_spec`), the others by their value or bits. -/
theorem unaryAndFieldForms : Obligations.UnaryAndFieldForms := by
  refine ⟨fun s core x ix p t u a fires => ⟨?clz, ?ctz, ?popc, fires.sends rfl, fun w _ => ⟨?sext, ?zext⟩⟩,
    fun s core x ix p t q w a b fits => ⟨fun fires => ?bfx, fun fires => ?bfi⟩⟩
  case clz =>
    obtain ⟨n, le, value, rest⟩ := leadingZeros_spec a
    exact ⟨n, le, fires.sends value, rest⟩
  case ctz =>
    obtain ⟨n, le, value, rest⟩ := trailingZeros_spec a
    exact ⟨n, le, fires.sends value, rest⟩
  case popc => exact fires.sends (congrArg (BitVec.ofNat 64) List.countP_eq_length_filter)
  case sext => exact ⟨_, fires.sends rfl, toInt_sx a (extend_width_le w)⟩
  case zext => exact ⟨_, fires.sends rfl, toNat_zx a (extend_width_le w)⟩
  case bfx => exact ⟨_, fires.sends rfl, getLsbD_bitsTake a q.toNat w.isLt⟩
  case bfi => exact ⟨_, fires.sends rfl, getLsbD_bitsPut a b fits⟩

/-- Settles O19: each form sends what it computes (`Fires.sends`), the tests and the predicate group by their conditions. -/
theorem immediateForms : Obligations.ImmediateForms := by
  refine ⟨fun s core x ix p t a k n fires => ⟨fires.sends rfl, fires.sends rfl, fires.sends rfl, fires.sends rfl, fires.sends rfl,
      fires.sends rfl, fires.sends rfl, fires.sends rfl⟩,
    fun s core x ix t c fires => fires.sends rfl, fun s core x ix t c a fires => fires.sends rfl,
    fun s core x ix p t a k fires => ⟨fires.sends (bit64_eq_ite _ _ beq_iff_eq),
      fires.sends (bit64_eq_ite _ _ (toInt_lt_signExtend_iff a k)), fires.sends (bit64_eq_ite _ _ (toNat_lt_setWidth_iff a k))⟩,
    fun s core x ix p t u a b fires => ⟨fires.sends (bit64_eq_ite _ _ ?and), fires.sends (bit64_eq_ite _ _ ?or)⟩,
    fun s core x ix p t u a fires => fires.sends ((bit64_eq_ite _ _ ?not).trans (ite_not ..))⟩
  case and => rw [Bool.and_eq_true, getLsbD_zero_iff, getLsbD_zero_iff]
  case or => rw [Bool.or_eq_true, getLsbD_zero_iff, getLsbD_zero_iff]
  case not => rw [Bool.not_eq_true', ← Bool.not_eq_true, getLsbD_zero_iff]

/-- Settles O20: each test sends the bit of its condition. -/
theorem registerTests : Obligations.RegisterTests := by
  intro s core x ix p t u a b fires
  exact ⟨fires.sends (bit64_eq_ite _ _ beq_iff_eq), fires.sends (bit64_eq_ite _ _ bne_iff_ne),
    fires.sends (bit64_eq_ite _ _ BitVec.slt_iff_toInt_lt), fires.sends (bit64_eq_ite _ _ BitVec.sle_iff_toInt_le),
    fires.sends (bit64_eq_ite _ _ BitVec.ult_iff_toNat_lt), fires.sends (bit64_eq_ite _ _ BitVec.ule_iff_toNat_le),
    fun w => decodeWord_op18_badxop⟩

/-- Settles O5: each word decodes by evaluation. -/
theorem writtenWordsDecode : Obligations.WrittenWordsDecode := ⟨rfl, rfl, rfl, rfl, rfl, rfl, rfl⟩

/-- Settles O21: rdh, nullw and nulls by their meanings where they fire, sel by the token that it fires on (`readyEither_on`). -/
theorem joinsAndHolds : Obligations.JoinsAndHolds :=
  ⟨fun _ _ _ _ _ _ _ _ fires => congrArg Host.Outcome.next (fires.form _),
    fun _ _ _ _ _ _ _ _ at_ on first => exec_sel_on at_ (readyEither_on (pred_true_iff.2 on) first),
    fun _ _ _ _ _ _ _ fires => congrArg Host.Outcome.next (fires.form _),
    fun _ _ _ _ _ _ _ fires => congrArg Host.Outcome.next (fires.form _)⟩

end Sys2Proof.Proofs.Compute

namespace Sys2Proof.Safety
open Sys2Proof Sys2Proof.Machine

/-! ### Privileged forms under another ASID (R282) -/

section
variable {s : State} {core x ix : Nat} {p : BitVec 2} {left right : Bool} {ts : List (BitVec 9)} {a b : Word}

/-- A privileged form that is no command faults under another ASID. -/
theorem Fires.priv_fault (fires : Fires s core x ix p left right (some a) (some b)) (other : (ctxOf s core x).asid ≠ 0#8)
    (k : Nat → Nat → Nat → Word → Word → State) :
    ctPriv s p left right ts k = ctFault (ctFired s core x ix) core x (dataFlt 0x1B ix) := by
  rw [ctPriv, fires.form, if_pos (bne_iff_ne.2 other)]

end

/-! ### Rings (R288, R289) -/

section
variable {s : State} {core x ix : Nat} {p : BitVec 2} {t : BitVec 9} {n : BitVec 6} {a : Word}

theorem ringOk_iff {n : Nat} : ringOk s core x n a = true ↔
    (s.eng.rings.at (ringKey core n)).v = true ∧ (s.eng.rings.at (ringKey core n)).asid = (ctxOf s core x).asid ∧ a ≠ 0#64 ∧
      a.toNat ≤ 2 ^ (s.eng.rings.at (ringKey core n)).log.toNat := by
  simp [ringOk, and_assoc]

theorem Fires.rwait (fires : Fires s core x ix p true false (some a) (some 0#64)) : exec (.rwait p n t) s =
    if ringOk s core x n.toNat a then
      if (s.eng.rings.at (ringKey core n.toNat)).avail < a.toNat then .next (ctWait s core x (some .wait) 4 n.toNat a 0)
      else token (acquire s core 3) core x ix [t] (some ((s.eng.rings.at (ringKey core n.toNat)).rd.setWidth 64))
    else token s core x ix [t] none := by
  refine (congrArg Host.Outcome.next (fires.form _)).trans ?_
  dsimp only
  cases ringOk s core x n.toNat a with
  | false => rfl
  | true =>
    rw [Bool.not_true, if_neg Bool.false_ne_true, if_pos rfl, apply_ite Host.Outcome.next]
    rfl

theorem Fires.rrel (fires : Fires s core x ix p true false (some a) (some 0#64)) : exec (.rrel p n t) s =
    if ringOk s core x n.toNat a then token (atCommit s core x ix (.rrel n.toNat a.toNat)) core x ix [t] (some 0#64)
    else token s core x ix [t] none := by
  refine (congrArg Host.Outcome.next (fires.form _)).trans ?_
  cases ringOk s core x n.toNat a <;> rfl

end

/-! ### Regions (R294–R298) -/

section
variable {s : State} {core x ix : Nat} {p : BitVec 2} {t : BitVec 9} {g : BitVec 2} {a : Word}

theorem ctMine_iff : ctMine s core x g = true ↔ (ctxOf s core x).rid ≠ 0 ∧ slotRid s core g.toNat = (ctxOf s core x).rid := by
  simp [ctMine]

/-- A status alone is its byte in [63:56]. -/
theorem regTok_zero (st : Nat) : regTok st 0#64 = BitVec.ofNat 64 (st * 2 ^ 56) := by
  simp [regTok]

/-- With status 0 a value keeps its bits [55:0]. -/
theorem regTok_ok (v : Word) : regTok 0 v = v &&& 0x00FFFFFFFFFFFFFF#64 := by
  simp [regTok]

theorem toNat_regTok_ok {n : Nat} (fits : n < 2 ^ 56) : (regTok 0 (BitVec.ofNat 64 n)).toNat = n := by
  have mask : (0x00FFFFFFFFFFFFFF#64).toNat = 2 ^ 56 - 1 := rfl
  rw [regTok_ok, BitVec.toNat_and, BitVec.toNat_ofNat, mask, Nat.and_two_pow_sub_one_eq_mod]
  omega

/-- cfgld and cfgsh in a slot of another region. -/
theorem Fires.config_noSlot {sh : Bool} (fires : Fires s core x ix p true false (some a) (some 0#64)) (other : ctMine s core x g = false) :
    (Host.Outcome.next (ctConfig s p g t sh) : Out) = token s core x ix [t] (some 0x0A00000000000000#64) := by
  rw [ctConfig, fires.form, other]
  exact congrArg (token s core x ix [t] ∘ some) (regTok_zero 10)

/-- In a slot of its own region cfgld, where the slot is not live, and cfgsh check the address and issue their load. -/
theorem Fires.config {sh : Bool} (fires : Fires s core x ix p true false (some a) (some 0#64)) (mine : ctMine s core x g = true)
    (may : sh = true ∨ (s.rg.slots.at (slotIx core g.toNat)).live = false) : ctConfig s p g t sh =
      if a.toNat % 64 ≠ 0 then ctFault (ctFired s core x ix) core x (addrFlt 0x12 ix a)
      else pushEv (pendIssue s core x ix (if sh then .cfgsh else .cfgld) 0 0 (g.setWidth 64) 0#64 a) .cfgldComplete
        { (default : EvArg) with core := BitVec.ofNat 8 core, ctx := BitVec.ofNat 3 x } := by
  have pass : (!sh && (s.rg.slots.at (slotIx core g.toNat)).live) = false := by
    rcases may with rfl | dead
    · rfl
    · rw [dead, Bool.and_false]
  simp only [ctConfig, fires.form, mine, pass, Bool.not_true, Bool.false_eq_true, if_false, bne_iff_ne]

theorem Fires.rmark (fires : Fires s core x ix p true false (some a) (some 0#64)) (c : Commands s core x ix) : exec (.rmark p g t) s =
    if ctMine s core x g then
      if (regionOf s (ctxOf s core x).rid).inFlight then performs s core x ix [t] (some 0x0100000000000000#64)
      else performs (waveStart s (ctxOf s core x).rid (a.extractLsb' 0 24).toNat [core] (some (ctxKey core x))) core x ix [t] (some 0#64)
    else performs s core x ix [t] (some 0x0A00000000000000#64) := by
  refine (congrArg Host.Outcome.next (fires.cmd c _)).trans ?_
  dsimp only
  cases ctMine s core x g with
  | false => rfl
  | true => cases (regionOf s (ctxOf s core x).rid).inFlight <;> rfl

theorem Fires.rgo (fires : Fires s core x ix p false false (some 0#64) (some 0#64)) (c : Commands s core x ix) : exec (.rgo p g t) s =
    if ctMine s core x g then
      if (s.rg.slots.at (slotIx core g.toNat)).live then performs s core x ix [t] (some 0x0100000000000000#64)
      else performs (regionGo s core g.toNat (ctxOf s core x).rid) core x ix [t] (some 0#64)
    else performs s core x ix [t] (some 0x0A00000000000000#64) := by
  refine (congrArg Host.Outcome.next (fires.cmd c _)).trans ?_
  dsimp only
  cases ctMine s core x g with
  | false => rfl
  | true => cases (s.rg.slots.at (slotIx core g.toNat)).live <;> rfl

theorem Fires.rroll (fires : Fires s core x ix p false false (some 0#64) (some 0#64)) (c : Commands s core x ix) : exec (.rroll p g t) s =
    if ctMine s core x g then
      performs (pushEv (regUpd s (ctxOf s core x).rid (fun r => { r with want := true, inFlight := false })) .regionRollback
        { (default : EvArg) with n := (ctxOf s core x).rid }) core x ix [t] (some 0#64)
    else performs s core x ix [t] (some 0x0A00000000000000#64) := by
  refine (congrArg Host.Outcome.next (fires.cmd c _)).trans ?_
  dsimp only
  cases ctMine s core x g <;> rfl

/-- What rdrain says of its region before it waits: the core has asked for the drain, and with the last of its members the region drains
(R297). -/
def drainAsked (s : State) (core rid : Nat) : State :=
  let s := regUpd s rid (fun r => { r with
    drainCores := if r.drainCores.contains core then r.drainCores else r.drainCores ++ [core] })
  let r := regionOf s rid
  if r.rst == 2 && r.members.all (fun c => r.drainCores.contains c) then setRst s rid 3 else s

theorem Fires.rdrain_noSlot (fires : Fires s core x ix p false false (some 0#64) (some 0#64)) (other : ctMine s core x g = false) :
    exec (.rdrain p g t) s = token s core x ix [t] (some 0x0A00000000000000#64) := by
  refine (congrArg Host.Outcome.next (fires.form _)).trans ?_
  rw [other]
  rfl

theorem Fires.rdrain (fires : Fires s core x ix p false false (some 0#64) (some 0#64)) (mine : ctMine s core x g = true) :
    exec (.rdrain p g t) s = .next (pushEv
      (pendIssue (drainAsked s core (ctxOf s core x).rid) core x ix .rdrain 0 0 (g.setWidth 64) 0#64 0#64) .regionDrainComplete
      { (default : EvArg) with core := BitVec.ofNat 8 core, ctx := BitVec.ofNat 3 x }) := by
  refine (congrArg Host.Outcome.next (fires.form _)).trans ?_
  rw [mine]
  rfl

/-- What rstat answers for each selection (R298). -/
def statTok (s : State) (core x q k : Nat) : Tok :=
  let rid := (ctxOf s core x).rid
  let n := streamOf s core k
  let r := regionOf s rid
  let own := rid != 0 && n.rid == rid
  let here := rid != 0 && slotRid s core (k % 4) == rid
  match q with
  | 0 => if own then some (regTok 0 (BitVec.ofNat 64 n.counts)) else none
  | 1 => if own then some (regTok 0 (BitVec.ofNat 64 (n.nulln % 65536 * 2 ^ 40 + n.done % 2 ^ 40))) else none
  | 2 => if here then some (regTok 0 r.word6) else none
  | 3 => if here then
      some (regTok 0 (BitVec.ofNat 64 (r.lastId % 2 ^ 24 + (if r.inFlight then r.waveId % 2 ^ 24 * 2 ^ 24 + 2 ^ 48 else 0))))
    else none
  | _ => none

theorem Fires.rstat {q : BitVec 6} {k : BitVec 8} (fires : Fires s core x ix p false false (some 0#64) (some 0#64)) :
    exec (.rstat p q k t) s = token s core x ix [t] (statTok s core x q.toNat k.toNat) :=
  congrArg Host.Outcome.next (fires.form _)

end

end Sys2Proof.Safety

namespace Sys2Proof.Proofs.Streams
open Sys2Proof Sys2Proof.Machine Sys2Proof.Safety

/-- Settles O44: rwait and rrel by whether the ring and the count are good (`ringOk_iff`). -/
theorem ringForms : Obligations.RingForms := by
  intro s core x ix p n t a fires r good
  have ok : good ↔ ringOk s core x n.toNat a = true := ringOk_iff.symm
  refine ⟨fun isGood enough => ?goes, fun isGood few => ?waits, fun isGood => ?releases, fun bad => ⟨?badWait, ?badRelease⟩⟩
  case goes => rw [fires.rwait, if_pos (ok.1 isGood)]; exact if_neg (not_lt.2 enough)
  case waits => rw [fires.rwait, if_pos (ok.1 isGood)]; exact if_pos few
  case releases => rw [fires.rrel, if_pos (ok.1 isGood)]
  case badWait => rw [fires.rwait, if_neg (mt ok.2 bad)]
  case badRelease => rw [fires.rrel, if_neg (mt ok.2 bad)]

/-- Settles O47: each form by its equation, split by whether the slot is the region's own (`ctMine_iff`). The fault of an unaligned image
is log entry 62, the status above [55:0] log entry 16, and the wait code 0 of a load log entry 32. -/
theorem regionForms : Obligations.RegionForms := by
  constructor
  case left =>
    intro s core x ix p g t a rid r mine live arg noslot
    have isMine : mine ↔ ctMine s core x g = true := ctMine_iff.symm
    have other (no : ¬mine) : ctMine s core x g = false := Bool.eq_false_iff.2 (mt isMine.2 no)
    refine ⟨fun fires => ?operand, fun fires => ?plain⟩
    case operand =>
      refine ⟨fun no => ⟨fires.config_noSlot (other no), fires.config_noSlot (other no)⟩,
        fun yes aligned => ⟨fun dead => ?load, ?shadow⟩, fun yes unaligned dead can => ?align,
        fun c => ⟨fun no => ?noSlot, fun yes flies => ?busy, fun yes rests => ?wave⟩⟩
      case load => exact congrArg Host.Outcome.next ((fires.config (isMine.1 yes) (.inr dead)).trans (if_neg (not_not.2 aligned)))
      case shadow => exact congrArg Host.Outcome.next ((fires.config (isMine.1 yes) (.inl rfl)).trans (if_neg (not_not.2 aligned)))
      case align =>
        refine congrArg Host.Outcome.next ((fires.config (isMine.1 yes) (.inr dead)).trans ((if_pos unaligned).trans ?_))
        exact ctFault_fired_trap can
      case noSlot => rw [fires.rmark c, if_neg (mt isMine.2 no)]
      case busy => rw [fires.rmark c, if_pos (isMine.1 yes)]; exact if_pos flies
      case wave => rw [fires.rmark c, if_pos (isMine.1 yes)]; exact if_neg (ne_true_of_eq_false rests)
    case plain =>
      refine ⟨fun c => ⟨fun no => ⟨?goNoSlot, ?rollNoSlot⟩, fun yes dead => ?go, fun yes lives => ?running, fun yes => ?roll⟩,
        fun no => fires.rdrain_noSlot (other no), fun yes => ?drain⟩
      case goNoSlot => rw [fires.rgo c, if_neg (mt isMine.2 no)]
      case rollNoSlot => rw [fires.rroll c, if_neg (mt isMine.2 no)]
      case go => rw [fires.rgo c, if_pos (isMine.1 yes)]; exact if_neg (ne_true_of_eq_false dead)
      case running => rw [fires.rgo c, if_pos (isMine.1 yes)]; exact if_pos lives
      case roll => rw [fires.rroll c, if_pos (isMine.1 yes)]
      case drain =>
        refine ⟨_, fires.rdrain (isMine.1 yes), ctxOf_ctHold_st _ core x 0 0, ?_⟩
        rw [pushEv_sim_agenda]
        exact List.mem_append_right _ (List.mem_singleton_self _)
  case right =>
    intro s core x ix p q k t fires rid r n low own here
    have isOwn : own ↔ (rid != 0 && n.rid == rid) = true := by simp [own]
    have isHere : here ↔ (rid != 0 && slotRid s core (k.toNat % 4) == rid) = true := by simp [here]
    have answers (q : BitVec 6) {v : Tok} (value : statTok s core x q.toNat k.toNat = v) :
        exec (.rstat p q k t) s = token s core x ix [t] v := fires.rstat.trans (congrArg _ value)
    refine ⟨fun yes => answers 0#6 ((if_pos (isOwn.1 yes)).trans (congrArg some (regTok_ok _))),
      fun yes => ⟨_, answers 1#6 (if_pos (isOwn.1 yes)), toNat_regTok_ok ?counts⟩,
      fun yes => answers 2#6 ((if_pos (isHere.1 yes)).trans (congrArg some (regTok_ok _))),
      fun yes => ⟨_, answers 3#6 (if_pos (isHere.1 yes)), toNat_regTok_ok ?waves⟩,
      fun no => ⟨answers 0#6 (if_neg (mt isOwn.2 no)), answers 1#6 (if_neg (mt isOwn.2 no))⟩,
      fun no => ⟨answers 2#6 (if_neg (mt isHere.2 no)), answers 3#6 (if_neg (mt isHere.2 no))⟩, fun beyond => answers q ?null⟩
    case counts => omega
    case waves => split <;> omega
    case null =>
      obtain ⟨j, e⟩ := Nat.exists_eq_add_of_le' beyond
      rw [e]
      rfl

end Sys2Proof.Proofs.Streams

namespace Sys2Proof.Proofs.MemorySync
open Sys2Proof Sys2Proof.Machine Sys2Proof.Safety

/-- Settles O27: eret and idle are no commands (`Fires.priv_fault`), the other four are (`Fires.command_priv`); the fault is taken at the
block. That the fault comes when the command fires is log entry 31. -/
theorem privilegedForms : Obligations.PrivilegedForms := by
  intro s core x ix p t u a b i other can form
  rw [← ctFault_fired_trap can]
  rcases form with ⟨fires, rfl | rfl | rfl⟩ | ⟨fires, rfl | rfl | rfl⟩
  case inl.inl | inl.inr.inl => exact congrArg Host.Outcome.next (fires.priv_fault other _)
  all_goals exact congrArg Host.Outcome.next (fires.command_priv other _)

end Sys2Proof.Proofs.MemorySync

namespace Sys2Proof

/-- A map of whose entries each value changes by its key reads as that change, where it keeps the value of an entry that is not listed. -/
theorem SMap.at_mapEntries {α β : Type} [Inhabited α] [Inhabited β] (f : Nat → α → β) (m : SMap α) {k : Nat}
    (h : f k default = default) :
    SMap.at (m.map (fun e => (e.1, f e.1 e.2))) k = f k (m.at k) := by
  induction m with
  | nil => exact h.symm
  | cons e m ih =>
    obtain ⟨j, v⟩ := e
    simp only [SMap.at, SMap.getD, List.map_cons] at ih ⊢
    split
    case isTrue same => rw [same]
    case isFalse => exact ih

end Sys2Proof

namespace Sys2Proof.Safety
open Sys2Proof Sys2Proof.Machine

/-! ### Exceptions (R376–R381) -/

section
variable {s : State} {core x k : Nat}

/-- The frames of a context are given up, and every other stays. -/
theorem frameDrop_at (s : State) (core x k : Nat) : (frameDrop s core x).ctl.frames.at k =
    if k / 4 = core ∧ (s.ctl.frames.at k).own = x + 1 then default else s.ctl.frames.at k := by
  have drop : (frameDrop s core x).ctl.frames =
      s.ctl.frames.map (fun e => (e.1, if e.1 / 4 = core ∧ e.2.own = x + 1 then default else e.2)) := by
    refine List.map_congr_left fun e _ => ?_
    simp only [Bool.and_eq_true, beq_iff_eq]
    split <;> rfl
  rw [drop, SMap.at_mapEntries (fun k (f : Frame) => if k / 4 = core ∧ f.own = x + 1 then default else f) _ (ite_self _)]

theorem frameDrop_own_ne (hk : k < 4) : ((frameDrop s core x).ctl.frames.at (frameKey core k)).own ≠ x + 1 := by
  rw [frameDrop_at]
  split
  next => exact (Nat.succ_ne_zero x).symm
  next kept => exact fun own => kept ⟨by unfold frameKey; omega, own⟩

theorem frameDrop_at_other (other : (s.ctl.frames.at k).own ≠ x + 1) :
    (frameDrop s core x).ctl.frames.at k = s.ctl.frames.at k := by
  rw [frameDrop_at, if_neg fun h => other h.2]

/-- What a trap makes of its context (R377, R379). -/
def trapCtx (s : State) (f : Flt) (b : BitVec 55) (prog : Option Nat) (c : Ctx) : Ctx := { c with
  flt0 := fltWord0 f c.exitIx prog, flt1 := b.setWidth 64, flt2 := f.addr, flt3 := s.dev.gtsc
  st := .wait, wcode := 0, widx := f.code, blk := b, resume := none }

/-- The state in which a context stands trapped, before its event record: its frames and pending requests are given up (R377, R379). -/
def trapped (s : State) (core x : Nat) (f : Flt) (b : BitVec 55) (prog : Option Nat) : State :=
  pendDrop (ctxUpd (frameDrop s core x) core x (trapCtx s f b prog)) core x

/-- A trap of a context of ASID 0 on a core without a supervisor, of whose block nothing is taken back, is the trap and its event
record. -/
theorem takeTrap_alone {f : Flt} {b : BitVec 55} {prog : Option Nat} (free : (s.ctl.tsup.at core).v = false)
    (asid : (ctxOf s core x).asid = 0#8) (nothing : (frameOf s core x).commits = []) :
    ∃ fd r d, takeTrap s core x f b prog = eventRecord (trapped s core x f b prog) 1 f.code 0#8 fd core x r d := by
  have undo : blockUndo s core x (frameOf s core x) = s := by rw [blockUndo, nothing]; rfl
  have quiet (k c : Nat) (a : BitVec 8) (fd : BitVec 12) (r : BitVec 55) (d : List Word) :
      ((eventRecord (trapped s core x f b prog) k c a fd core x r d).ctl.tsup.at core).v = false := by
    obtain ⟨_, _, _, _, _, _, record⟩ := eventRecord_rest (trapped s core x f b prog) k c a fd core x r d
    rw [record]
    exact free
  refine ⟨if (ctxOf s core x).rid = 0 then 0#12 else (regionOf s (ctxOf s core x).rid).fd, (ctxOf s core x).rcba,
    [(ctxOf (trapped s core x f b prog) core x).flt0, (ctxOf (trapped s core x f b prog) core x).flt1,
      (ctxOf (trapped s core x f b prog) core x).flt2, coreLoc core,
      if (ctxOf s core x).rid = 0 then 0#64 else BitVec.ofNat 64 (regionOf s (ctxOf s core x).rid).waveId], ?_⟩
  unfold takeTrap
  simp only [undo, asid, bne_self_eq_false, Bool.false_and, Bool.false_eq_true, if_false]
  exact if_neg (ne_true_of_eq_false (quiet ..))

theorem ctxOf_trapped (s : State) (core x : Nat) (f : Flt) (b : BitVec 55) (prog : Option Nat) :
    ctxOf (trapped s core x f b prog) core x = trapCtx s f b prog (ctxOf s core x) :=
  ctxOf_ctxUpd_same (frameDrop s core x) core x (trapCtx s f b prog)

theorem trapped_ctxs_other {f : Flt} {b : BitVec 55} {prog : Option Nat} (other : k ≠ ctxKey core x) :
    (trapped s core x f b prog).ctl.ctxs.at k = s.ctl.ctxs.at k :=
  ctxUpd_other (frameDrop s core x) (trapCtx s f b prog) other

theorem pendDrop_not_mem {w : PendOp} (mem : w ∈ (pendDrop s core x).ctl.pend) : ¬(w.core = core ∧ w.ctx = x) := by
  obtain ⟨-, kept⟩ := List.mem_filter.1 mem
  simpa only [Bool.not_eq_true', Bool.and_eq_false_iff, beq_eq_false_iff_ne, not_and_or] using kept

end

/-! ### The fields of FLTREC word 0 (R377) -/

section
variable {f : Flt} {exit : Nat} {prog : Option Nat}

/-- PV and PROG, as the number they stand for. -/
def progBits : Option Nat → Nat
  | some p => 2 ^ 37 + p % 32 * 2 ^ 32
  | none => 0

/-- A word whose fields fit is the number that they make. -/
theorem toNat_fltWord0 (cls : f.cls < 16) (xst : f.xst < 16) (code : f.code < 256) (idx : f.idx < 128) (hexit : exit < 8) :
    (fltWord0 f exit prog).toNat = f.cls * 2 ^ 60 + f.xst * 2 ^ 56 + f.code * 2 ^ 48 + f.idx * 2 ^ 41 + exit * 2 ^ 38 + progBits prog := by
  have low : progBits prog < 2 ^ 38 := by
    cases prog with
    | none => decide
    | some p => simp only [progBits]; omega
  have value : fltWord0 f exit prog = BitVec.ofNat 64 (f.cls * 2 ^ 60 + f.xst % 16 * 2 ^ 56 + f.code * 2 ^ 48 + f.idx % 128 * 2 ^ 41 +
    exit % 8 * 2 ^ 38 + progBits prog) := by cases prog <;> rfl
  rw [value, BitVec.toNat_ofNat]
  omega

theorem progBits_fields (fits : ∀ p, prog = some p → p < 32) : ∃ v : Bool, v = prog.isSome ∧
    progBits prog = v.toNat * 2 ^ 37 + prog.getD 0 * 2 ^ 32 ∧ prog.getD 0 < 32 := by
  cases prog with
  | none => exact ⟨false, rfl, rfl, by decide⟩
  | some p => exact ⟨true, rfl, by simp [progBits, Nat.mod_eq_of_lt (fits p rfl)], fits p rfl⟩

end

/-! ### The return from an exception (R381) -/

section
variable {s : State} {core me : Nat} {l : Word}

theorem toNat_extractLsb'_low3 (l : Word) : (l.extractLsb' 0 3).toNat = l.toNat % 8 := by
  simp [BitVec.extractLsb'_toNat]

theorem extractLsb'_high61_eq_zero_iff (l : Word) : l.extractLsb' 3 61 = 0#61 ↔ l.toNat < 8 := by
  rw [← BitVec.toNat_inj, BitVec.extractLsb'_toNat, Nat.shiftRight_eq_div_pow]
  have := l.isLt
  simp only [BitVec.toNat_ofNat]
  omega

theorem trapped_iff {c : Ctx} : c.trapped = true ↔ c.st = .wait ∧ c.wcode = 0 := by
  simp [Ctx.trapped]

/-- What the return makes of the context (R381). -/
def returned (s : State) (c : Ctx) : Ctx := { c with
  st := .ready, wcode := 0, widx := 0, since := s.sim.seqNo, blk := c.flt1.setWidth 55
  resume := if (c.flt0.extractLsb' 60 4).toNat ≤ 3 ∧ c.flt0.getLsbD 37 = true ∧ c.flt1.setWidth 55 = c.blk
    then some (c.flt0.extractLsb' 32 5).toNat else none }

theorem returnTrap_trapped (low : l.toNat < 8) (trap : (ctxOf s core (l.toNat % 8)).trapped = true) :
    returnTrap s core me l = ctxUpd (stamp s).2 core (l.toNat % 8) (fun c => { c with
      st := .ready, wcode := 0, widx := 0, since := s.sim.seqNo
      resume := (returned s (ctxOf s core (l.toNat % 8))).resume, blk := (ctxOf s core (l.toNat % 8)).flt1.setWidth 55 }) := by
  have zero : (l.extractLsb' 3 61 != 0#61) = false := bne_eq_false_iff_eq.2 ((extractLsb'_high61_eq_zero_iff l).2 low)
  simp only [returnTrap, toNat_extractLsb'_low3, zero, trap, Bool.not_true, Bool.or_self, Bool.false_eq_true, if_false, returned,
    Bool.and_eq_true, decide_eq_true_eq, beq_iff_eq, and_assoc]
  rfl

/-- An operand that names no trapped context gives an event record. -/
theorem returnTrap_refused (bad : 8 ≤ l.toNat ∨ (ctxOf s core (l.toNat % 8)).trapped = false) :
    ∃ a fd r, returnTrap s core me l = eventRecord s 9 0 a fd core me r [] := by
  have refused : (l.extractLsb' 3 61 != 0#61 || !(ctxOf s core (l.toNat % 8)).trapped) = true := by
    rcases bad with high | no
    · rw [bne_iff_ne.2 (mt (extractLsb'_high61_eq_zero_iff l).1 (not_lt.2 high)), Bool.true_or]
    · rw [no, Bool.not_false, Bool.or_true]
  refine ⟨(ctxOf s core me).asid, if (ctxOf s core me).rid = 0 then 0#12 else (regionOf s (ctxOf s core me).rid).fd,
    (ctxOf s core me).rcba, ?_⟩
  simp only [returnTrap, toNat_extractLsb'_low3]
  exact if_pos refused

end

end Sys2Proof.Safety

namespace Sys2Proof.Proofs.FaultsContext
open Sys2Proof Sys2Proof.Machine Sys2Proof.Safety

/-- Settles O25: the trap and its event record (`takeTrap_alone`), which leaves what the clauses name (`eventRecord_rest`); the fields of
FLTREC word 0 from the number they make (`toNat_fltWord0`). -/
theorem trapEntry : Obligations.TrapEntry := by
  constructor
  case left =>
    intro s core x f b prog free asid nothing c t
    obtain ⟨fd, r, d, trap⟩ := takeTrap_alone (f := f) (b := b) (prog := prog) free asid nothing
    obtain ⟨logs, mem, st, hbm, agenda, seqNo, record⟩ := eventRecord_rest (trapped s core x f b prog) 1 f.code 0#8 fd core x r d
    have after := trap.trans record
    change t = _ at after
    rw [after]
    exact ⟨ctxOf_trapped s core x f b prog, fun k => trapped_ctxs_other, fun k => frameDrop_own_ne, fun k => frameDrop_at_other,
      fun w => pendDrop_not_mem (s := ctxUpd (frameDrop s core x) core x _), rfl, rfl, rfl, rfl, rfl⟩
  case right =>
    intro f exit prog cls xst code idx hexit fits w
    have value : w.toNat = _ := toNat_fltWord0 cls xst code idx hexit
    obtain ⟨v, some, bits, low⟩ := progBits_fields fits
    have bit := v.toNat_lt
    rw [bits] at value
    have field (i n : Nat) : (w.extractLsb' i n).toNat = w.toNat / 2 ^ i % 2 ^ n := by
      rw [BitVec.extractLsb'_toNat, Nat.shiftRight_eq_div_pow]
    have pv : w.getLsbD 37 = decide (w.toNat / 2 ^ 37 % 2 = 1) := Nat.testBit_eq_decide_div_mod_eq
    have set : w.toNat / 2 ^ 37 % 2 = v.toNat := by omega
    refine ⟨?_, ?_, ?_, ?_, ?_, ?pv, ?_, BitVec.eq_of_toNat_eq ?zeros⟩
    case pv =>
      rw [pv, set, ← some]
      cases v <;> rfl
    case zeros =>
      rw [field, BitVec.toNat_zero]
      omega
    all_goals
      rw [field]
      omega

/-- Settles O26: the operand names a trapped context, which alone changes (`returnTrap_trapped`), or it gives an event record. -/
theorem trapReturn : Obligations.TrapReturn := by
  intro s core me l x c t
  refine ⟨fun low wait code => ?trap, fun bad => ?refused⟩
  case trap =>
    have back : t = _ := returnTrap_trapped low (trapped_iff.2 ⟨wait, code⟩)
    rw [back]
    exact ⟨ctxOf_ctxUpd_same (stamp s).2 core x _, fun k => ctxUpd_other (stamp s).2 _, rfl⟩
  case refused =>
    have no : 8 ≤ l.toNat ∨ c.trapped = false := bad.imp_right fun stands => Bool.eq_false_iff.2 fun trap =>
      stands.elim (· (trapped_iff.1 trap).1) (· (trapped_iff.1 trap).2)
    obtain ⟨a, fd, r, e⟩ := returnTrap_refused (me := me) no
    obtain ⟨_, _, _, _, _, _, record⟩ := eventRecord_rest s 9 0 a fd core me r []
    have back : t = _ := e.trans record
    rw [back]

end Sys2Proof.Proofs.FaultsContext

namespace Sys2Proof.Safety
open Sys2Proof Sys2Proof.Machine

/-! ### Spills and fills (R264, R265) -/

section
variable {core x ix l : Nat} {c : Ctx}

/-- The address of a later register of a range. -/
theorem add_eight_mul (va : Word) (i : Nat) : va + 8#64 + BitVec.ofNat 64 (8 * i) = va + BitVec.ofNat 64 (8 * (i + 1)) := by
  rw [Nat.mul_succ, BitVec.ofNat_add, BitVec.add_comm (BitVec.ofNat 64 (8 * i)), ← BitVec.add_assoc]

/-- The stores of a spills stand in the order of their registers, each at its distance from the first (R264). -/
theorem spillRun_stores (n k : Nat) (va : Word) (s : State) : ∀ i q, (spillRun core c ix l n k va s).1[i]? = some q →
    q.lsid = l ∧ q.va = va + BitVec.ofNat 64 (8 * i) ∧ q.bytes = leBytes 8 (c.h.at (k + i)).toNat := by
  induction n generalizing k va s with
  | zero => exact fun i q store => nomatch store
  | succ n ih =>
    intro i q store
    unfold spillRun at store
    dsimp only at store
    split at store
    next => exact nomatch store
    next =>
      split at store
      next => exact nomatch store
      next =>
        cases i with
        | zero =>
          cases store
          exact ⟨rfl, (BitVec.add_zero va).symm, rfl⟩
        | succ i =>
          obtain ⟨lsid, addr, bytes⟩ := ih (k + 1) (va + 8#64) _ i q store
          exact ⟨lsid, addr.trans (add_eight_mul va i), by rw [bytes, Nat.add_right_comm, Nat.add_assoc]⟩

/-- A spills that ends well has a store for each register. -/
theorem spillRun_done {n k : Nat} {va : Word} {s t : State} {ps : List PendStore}
    (run : spillRun core c ix l n k va s = (ps, .done, t)) : ps.length = n := by
  induction n generalizing k va s t ps with
  | zero =>
    cases run
    rfl
  | succ n ih =>
    unfold spillRun at run
    dsimp only at run
    split at run
    next => cases run
    next =>
      split at run
      next => cases run
      next =>
        obtain ⟨rfl, done, rfl⟩ := Prod.ext_iff.1 run |>.imp_right Prod.ext_iff.1
        exact congrArg Nat.succ (ih (Prod.ext rfl (Prod.ext done rfl)))

/-- A spills that faults has a store for each register before the one that faults. -/
theorem spillRun_fault {n k j : Nat} {va : Word} {s t : State} {ps : List PendStore} {e : Flt}
    (run : spillRun core c ix l n k va s = (ps, .flt j e, t)) : j = k + ps.length := by
  induction n generalizing k va s t ps with
  | zero => cases run
  | succ n ih =>
    unfold spillRun at run
    dsimp only at run
    split at run
    next =>
      cases run
      rfl
    next =>
      split at run
      next => cases run
      next =>
        obtain ⟨rfl, faults, rfl⟩ := Prod.ext_iff.1 run |>.imp_right Prod.ext_iff.1
        rw [ih (Prod.ext rfl (Prod.ext faults rfl)), List.length_cons, Nat.add_right_comm, Nat.add_assoc]

/-- A fills that ends well has a value for each register in order (R264). -/
theorem fillRun_done {n k : Nat} {va : Word} {s t : State} {vs : List (Nat × Word)}
    (run : fillRun core x c ix l n k va s = (vs, .done, t)) : vs.map (·.1) = List.range' k n := by
  induction n generalizing k va s t vs with
  | zero =>
    cases run
    rfl
  | succ n ih =>
    unfold fillRun at run
    dsimp only at run
    split at run
    next => cases run
    next =>
      split at run
      next => cases run
      next =>
        split at run
        next => cases run
        next =>
          obtain ⟨rfl, done, rfl⟩ := Prod.ext_iff.1 run |>.imp_right Prod.ext_iff.1
          rw [List.map_cons, ih (Prod.ext rfl (Prod.ext done rfl)), List.range'_succ]

end

section
variable {s s1 : State} {core x ix k : Nat} {p : BitVec 2} {l b a : BitVec 5} {v : Word} {ps : List PendStore} {vs : List (Nat × Word)}
  {e : Flt}

theorem Fires.spills_unaligned (fires : Fires s core x ix p true false (some v) (some 0#64)) (turn : Turns s core x l.toNat)
    (unaligned : v.toNat % 8 ≠ 0) (can : mustCommit s core x = false) : exec (.spills p l b a) s =
      .next (takeTrap s core x (addrFlt 0x12 ix v) (ctxOf s core x).blk (some (rangeStart (ctxOf s core x) a.toNat))) := by
  refine congrArg Host.Outcome.next ((fires.mem turn _).trans ?_)
  rw [if_pos (bne_iff_ne.2 unaligned), memFault_trap can]

/-- What spills does by how its registers went: the stores are left for the commit, the context is held, or the stores before the one that
faults are performed. -/
def spillsEnd (core x ix l : Nat) (c : Ctx) (ps : List PendStore) (s : State) : RangeEnd → State
  | .held => ctHold s core x 9 l
  | .flt k e => ctMemFault (ps.foldl (storePerform core c) s) core x ix l [] e (some k)
  | .done => ctDone (frameUpd s core x (fun f => { f with stores := f.stores ++ ps })) core x ix (some l) []

theorem Fires.spills (fires : Fires s core x ix p true false (some v) (some 0#64)) (turn : Turns s core x l.toNat)
    (aligned : v.toNat % 8 = 0) {r : RangeEnd}
    (run : spillRun core (ctxOf s core x) ix l.toNat (b.toNat + 1 - rangeStart (ctxOf s core x) a.toNat)
        (rangeStart (ctxOf s core x) a.toNat)
      (v + BitVec.ofNat 64 (8 * (rangeStart (ctxOf s core x) a.toNat - a.toNat))) s = (ps, r, s1)) :
    exec (.spills p l b a) s = .next (spillsEnd core x ix l.toNat (ctxOf s core x) ps s1 r) := by
  refine congrArg Host.Outcome.next ((fires.mem turn _).trans ?_)
  rw [if_neg (fun unaligned => bne_iff_ne.1 unaligned aligned)]
  dsimp only
  generalize spillRun core (ctxOf s core x) ix l.toNat _ _ _ s = o at run ⊢
  subst run
  cases r <;> rfl

/-- What fills does with an aligned base that reads every register, where no hold write of the block goes to one of them. -/
theorem Fires.fills_done (fires : Fires s core x ix p true false (some v) (some 0#64)) (turn : Turns s core x l.toNat)
    (aligned : v.toNat % 8 = 0)
    (apart : (frameOf s core x).holds.any (fun h => decide (a.toNat ≤ h.1) && decide (h.1 ≤ b.toNat)) = false)
    (run : fillRun core x (ctxOf s core x) ix l.toNat (b.toNat + 1 - rangeStart (ctxOf s core x) a.toNat)
        (rangeStart (ctxOf s core x) a.toNat)
      (v + BitVec.ofNat 64 (8 * (rangeStart (ctxOf s core x) a.toNat - a.toNat))) s = (vs, .done, s1)) :
    exec (.fills p l b a) s =
      .next (ctDone (vs.foldl (fun s y => atCommit s core x ix (.fill y.1 y.2)) s1) core x ix (some l.toNat) []) := by
  refine congrArg Host.Outcome.next ((fires.mem turn _).trans ?_)
  dsimp only
  rw [apart, if_neg Bool.false_ne_true, if_neg (fun unaligned => bne_iff_ne.1 unaligned aligned), run]

/-- An instruction that fires after effects were left one by one has left them at once. -/
theorem ctFired_atCommits (es : List AtCommit) : ∀ s, ctFired (es.foldl (fun s e => atCommit s core x ix e) s) core x ix =
    ctFired (frameUpd s core x (fun f => { f with commits := f.commits ++ es.map (ix, ·) })) core x ix := by
  induction es with
  | nil =>
    intro s
    simp only [ctFired, frameUpd_frameUpd, List.foldl_nil, List.map_nil, List.append_nil]
  | cons e es ih =>
    intro s
    rw [List.foldl_cons, ih, atCommit, frameUpd_frameUpd]
    simp only [List.append_assoc, List.singleton_append, List.map_cons]

/-- What an instruction does when it completes rests on the state in which it has fired alone. -/
theorem ctDone_congr {s t : State} (fired : ctFired s core x ix = ctFired t core x ix) (n : Option Nat)
    (outs : List (Nat × BitVec 9 × Tok)) : ctDone s core x ix n outs = ctDone t core x ix n outs := by
  simp only [ctDone, fired]

end

/-! ### Atomics (R267–R269) -/

section
variable {s s1 s2 s3 : State} {core x ix : Nat} {p : BitVec 2} {l : BitVec 5} {sc : BitVec 3} {t : BitVec 9} {a b : Word}

/-- An atomic on this module whose checks pass: after the lower stores and a release, one read and one write at the home point, an
acquire, and the old value (R267, R269). -/
theorem Fires.atomic_here {op pa : Nat} {mt : MType} {bs : List Byte} (fires : Fires s core x ix p true true (some a) (some b))
    (turn : Turns s core x l.toNat) (fresh : isRetry a = false) (reach : Reaches s core x ix a .atomic (atomicWidth op) mt pa s1)
    (allows : Allows s1 core x l.toNat s2) (pass : StoresPass s2 core x l.toNat)
    (read : homeRead (release (storesFirst (setIrrev s2 core x) core x l.toNat) core sc.toNat) (ctxActor core (ctxOf s2 core x)) mt pa
      (atomicWidth op) = (.ok bs, s3)) :
    (Host.Outcome.next (ctAtomic s p l sc t op) : Out) =
      tokenMem (acquire (homeWrite s3 (ctxActor core (ctxOf s2 core x)) mt pa
        (leBytes (atomicWidth op) (atomicNew op (leWord bs) b).toNat)).2 core sc.toNat) core x ix l.toNat [t] (some (leWord bs)) := by
  refine congrArg Host.Outcome.next ((fires.mem turn _).trans ?_)
  simp only [fresh, Bool.false_eq_true, if_false, reach.passes, MRes.at_]
  split
  next => exact absurd ‹_› (reach.here _ _)
  next =>
    rw [allows.irrev, ctAtomicHere, pass.ready]
    simp only [atomicPerform, read]
    rfl

/-- acas compares with the low half of its operand (R268). -/
theorem eq_zx_iff {o b : Word} : o = zx b 32 ↔ o.toNat = b.toNat % 2 ^ 32 := by
  rw [← BitVec.toNat_inj, toNat_zx b (by decide)]

end

end Sys2Proof.Safety

namespace Sys2Proof.Proofs.MemorySync
open Sys2Proof Sys2Proof.Machine Sys2Proof.Safety

/-- Settles O36: spills by how its registers went (`Fires.spills`), fills where it reads them all; the stores and values stand in the
order of the registers, by induction on their number. The wait code 9 with the LSID is log entry 32. -/
theorem spillsAndFills : Obligations.SpillsAndFills := by
  intro s core x ix p l b a v fires turn c k0 base
  refine ⟨fun unaligned can => fires.spills_unaligned turn unaligned can, fun aligned => ⟨fun ps s1 run => ?done,
    fun ps k e s1 run can => ⟨?fault, spillRun_fault run⟩, fun ps s1 run => fires.spills turn aligned run,
    fun apart vs s1 run => ?fills⟩⟩
  case done =>
    refine ⟨fires.spills turn aligned run, spillRun_done run, fun i q store => ?_⟩
    have stores := spillRun_stores (core := core) (c := c) (ix := ix) (l := l.toNat) (b.toNat + 1 - k0) k0 base s i q
    rw [run] at stores
    exact stores store
  case fault => exact (fires.spills turn aligned run).trans (congrArg Host.Outcome.next (memFault_trap can))
  case fills =>
    have noHold : (frameOf s core x).holds.any (fun h => decide (a.toNat ≤ h.1) && decide (h.1 ≤ b.toNat)) = false := by
      rw [List.any_eq_false]
      intro h mem
      have out := List.all_eq_true.1 apart h mem
      simp only [decide_eq_true_eq] at out
      simp only [Bool.and_eq_true, decide_eq_true_eq]
      omega
    refine ⟨(fires.fills_done turn aligned noHold run).trans (congrArg Host.Outcome.next (ctDone_congr ?_ _ _)), fillRun_done run⟩
    have left := ctFired_atCommits (core := core) (x := x) (ix := ix) (vs.map fun y => .fill y.1 y.2) s1
    rwa [List.foldl_map, List.map_map] at left

/-- Settles O38: each atomic is the shared one at its operation (`Fires.atomic_here`), whose new value is that of the table. That the
lower stores are performed with it is log entry 14. -/
theorem atomics : Obligations.Atomics := by
  intro s core x ix p l sc t a b i n f mt pa s1 s2 bs s3 fires turn retry form reach allows pass act r read
  have fresh : isRetry a = false := isRetry_false retry
  have here (op : Nat) (width : atomicWidth op = n) (value : ∀ o, atomicNew op o b = f o)
      (run : exec i s = .next (ctAtomic s p l sc t op)) :
      exec i s = tokenMem (acquire (homeWrite s3 act mt pa (leBytes n (f (leWord bs)).toNat)).2 core sc.toNat) core x ix l.toNat [t]
        (some (leWord bs)) := by
    subst width
    rw [run, ← value]
    exact fires.atomic_here turn fresh reach allows pass read
  rcases form with ⟨rfl, form⟩ | ⟨rfl, form⟩
  case inl =>
    rcases form with ⟨rfl, rfl⟩ | ⟨rfl, rfl⟩ | ⟨rfl, rfl⟩ | ⟨rfl, rfl⟩ |
      ⟨rfl, rfl⟩ | ⟨rfl, rfl⟩ | ⟨rfl, rfl⟩ | ⟨rfl, rfl⟩ | ⟨rfl, rfl⟩ |
      ⟨rfl, rfl⟩
    · exact here 0 rfl (fun _ => rfl) rfl
    · exact here 2 rfl (fun _ => if_congr BitVec.sle_iff_toInt_le rfl rfl) rfl
    · exact here 3 rfl (fun _ => if_congr BitVec.sle_iff_toInt_le rfl rfl) rfl
    · exact here 4 rfl (fun _ => if_congr BitVec.ule_iff_toNat_le rfl rfl) rfl
    · exact here 5 rfl (fun _ => if_congr BitVec.ule_iff_toNat_le rfl rfl) rfl
    · exact here 6 rfl (fun _ => rfl) rfl
    · exact here 7 rfl (fun _ => rfl) rfl
    · exact here 8 rfl (fun _ => rfl) rfl
    · exact here 9 rfl (fun _ => rfl) rfl
    · exact here 11 rfl (fun _ => if_congr BitVec.ule_iff_toNat_le rfl rfl) rfl
  case inr =>
    rcases form with ⟨rfl, rfl⟩ | ⟨rfl, rfl⟩
    · exact here 1 rfl (fun _ => rfl) rfl
    · exact here 10 rfl (fun _ => if_congr eq_zx_iff rfl rfl) rfl

end Sys2Proof.Proofs.MemorySync

namespace Sys2Proof.Safety
open Sys2Proof Sys2Proof.Machine

/-! ### Control tokens (R223) -/

/-- Bit C of a token does not depend on its channel. -/
theorem tokC_tokOn (t : FTok) (ch : BitVec 4) : tokC (tokOn t ch) = tokC t := by
  simp [tokC, tokOn]

/-- The code of a token does not depend on its channel. -/
theorem tokCode_tokOn (t : FTok) (ch : BitVec 4) : tokCode (tokOn t ch) = tokCode t := by
  have mask : ∀ i < 8, (0x87FFFFFFFFFF#48).getLsbD (24 + i) = true := by decide
  refine congrArg BitVec.toNat (BitVec.eq_of_getLsbD_eq fun i hi => ?_)
  have low : 24 + i < 43 := by omega
  simp [tokOn, hi, mask i hi, low]

/-- A control token has the code that it was made with. -/
theorem isCode_ctlTok (ch : BitVec 4) {code : Nat} (arg : Nat) (fits : code < 256) : isCode code (ctlTok ch code arg) = true := by
  have value : (BitVec.ofNat 48 (2 ^ 47 + code * 2 ^ 24 + arg % 2 ^ 24)).toNat = 2 ^ 47 + code * 2 ^ 24 + arg % 2 ^ 24 := by
    rw [BitVec.toNat_ofNat]
    omega
  have control : tokC (BitVec.ofNat 48 (2 ^ 47 + code * 2 ^ 24 + arg % 2 ^ 24)) = true := by
    refine Nat.testBit_eq_decide_div_mod_eq.trans (decide_eq_true ?_)
    rw [value]
    omega
  have coded : tokCode (BitVec.ofNat 48 (2 ^ 47 + code * 2 ^ 24 + arg % 2 ^ 24)) = code := by
    rw [tokCode, BitVec.extractLsb'_toNat, value, Nat.shiftRight_eq_div_pow]
    omega
  rw [isCode, ctlTok, tokC_tokOn, tokCode_tokOn, control, coded, beq_self_eq_true]
  rfl

/-! ### Firings on data (R322, R335–R343) -/

section
variable {s : State} {key hnd : Nat} {h : HWord}

/-- A head that is a control token is the one that a search for a control token finds. -/
theorem OnData.find_control (d : OnData s key hnd h) : ((fireQs h).filterMap (elemIn s key).head).find? tokC = none := by
  have none := d.none_control
  rw [List.any_eq_false] at none
  exact List.find?_eq_none.2 none

/-- An operation that injects a control token for each data token sends it. -/
theorem injectFire_data (d : OnData s key hnd h) (f : FTok → FTok)
    (hn : tokN (operand (elemIn s key) (handlerIn s key hnd) false h.a.toNat) = false) :
    injectFire h f (elemIn s key) (handlerIn s key hnd) = { fireOf s key hnd with
      out := some (f (operand (elemIn s key) (handlerIn s key hnd) false h.a.toNat)), take := fireQs h } := by
  simp only [injectFire, d.gap, d.none_control, hn, Bool.false_eq_true, if_false, Fire.of]

/-- mark sends a MARK and takes the snapshot of its element. -/
theorem Runs.mark (r : Runs s key hnd 0x4A h) (d : OnData s key hnd h)
    (hn : tokN (operand (elemIn s key) (handlerIn s key hnd) false h.a.toNat) = false) :
    let t := fireEnd s key hnd 0x4A h { fireOf s key hnd with
      out := some (ctlTok h.och 6 (tokArg (operand (elemIn s key) (handlerIn s key hnd) false h.a.toNat))), take := fireQs h }
    exec (.mark h) s = .next (elemSnap t (slotRid t (elemCore key) h.graph.toNat) key) := by
  refine congrArg Host.Outcome.next ((r.fires_as (injectFire_data d _ hn)).trans ?_)
  have code := isCode_ctlTok h.och (tokArg (operand (elemIn s key) (handlerIn s key hnd) false h.a.toNat)) (code := 6) (by decide)
  simp only [Fire.of, Option.any_some, code, d.none_control, Option.isNone_none, Bool.not_false, Bool.and_true, if_true]

/-- dup sends its token and keeps it while fewer than PARAM[7:0] + 1 have gone. -/
theorem Runs.dup_again (r : Runs s key hnd 0x41 h) (d : OnData s key hnd h)
    (more : (handlerIn s key hnd).ph.toNat < h.param.toNat % 256) :
    exec (.dup h) s = fired s key hnd 0x41 h { fireOf s key hnd with
      out := some (tokOn (operand (elemIn s key) (handlerIn s key hnd) false h.a.toNat) h.och), res := true
      hd := { handlerIn s key hnd with ph := (handlerIn s key hnd).ph + 1#8, dout := (handlerIn s key hnd).dout + 1 } } := by
  refine r.firing ?_
  simp only [d.gap, d.none_control, Bool.false_eq_true, if_false, decide_eq_false (not_le.2 more)]
  rfl

/-- The last token of dup consumes what it sends. -/
theorem Runs.dup_last (r : Runs s key hnd 0x41 h) (d : OnData s key hnd h)
    (last : h.param.toNat % 256 ≤ (handlerIn s key hnd).ph.toNat) :
    exec (.dup h) s = fired s key hnd 0x41 h { fireOf s key hnd with
      out := some (tokOn (operand (elemIn s key) (handlerIn s key hnd) false h.a.toNat) h.och), res := true, take := fireQs h
      hd := { handlerIn s key hnd with
        ph := 0#8, din := (handlerIn s key hnd).din + 1, dout := (handlerIn s key hnd).dout + 1 } } := by
  refine r.firing ?_
  simp only [d.gap, d.none_control, Bool.false_eq_true, if_false, decide_eq_true last, if_true]
  rfl

end

/-! ### Steering by a predicate (R338, R339) -/

section
variable {s : State} {key hnd : Nat} {h : HWord} {t u v : FTok}

/-- tsel on a data token at c: a null of it is sent on, else the head of the queue that it chooses. -/
theorem Runs.tsel (r : Runs s key hnd 0x44 h) (gap : (handlerIn s key hnd).gapPend = false)
    (ht : (elemIn s key).head h.c.toNat = some t) (hc : tokC t = false) :
    exec (.tsel h) s = fired s key hnd 0x44 h (
      let q := if t.getLsbD 0 then h.a.toNat else h.b.toNat
      let v := ((elemIn s key).head q).getD 0#48
      if tokN t then nullRule h [h.c.toNat] (fireOf s key hnd)
      else if tokC v then { fireOf s key hnd with block := some 0x15 }
      else { (fireOf s key hnd).forward h [h.c.toNat, q] v with res := true }) := by
  refine r.firing ?_
  simp only [gap, ht, Option.getD_some, hc, Bool.false_eq_true, if_false]

/-- gate on a data token at b: what each mode passes, drops or advances. -/
theorem Runs.gate (r : Runs s key hnd 0x43 h) (gap : (handlerIn s key hnd).gapPend = false)
    (hu : (elemIn s key).head h.b.toNat = some u) (hc : tokC u = false) :
    exec (.gate h) s = fired s key hnd 0x43 h (
      let o := fireOf s key hnd
      let a := h.a.toNat
      let b := h.b.toNat
      let t := ((elemIn s key).head a).getD 0#48
      let pass (qs : List Nat) (t : FTok) : Fire := { o.forward h qs t with res := true }
      let adv := u.getLsbD (if h.param.getLsbD 0 then 1 else 0)
      let qs := if adv then [a, b] else [b]
      if tokN u then { o with take := [b] }
      else if h.param.getLsbD 1 then if u.getLsbD 0 then pass [a, b] t else { o with take := [a, b] }
      else if adv && tokC t then { o with block := some 0x15 }
      else if u.getLsbD 2 then pass qs (if adv then t else 0#48) else { o with take := qs }) := by
  have bit : (h.param.extractLsb' 0 1).toNat = if h.param.getLsbD 0 then 1 else 0 := by
    rw [BitVec.extractLsb'_toNat, BitVec.getLsbD, Nat.testBit_eq_decide_div_mod_eq]
    simp only [decide_eq_true_eq, Nat.shiftRight_zero, pow_zero, Nat.div_one, pow_one]
    split <;> omega
  refine r.firing ?_
  simp only [gap, hu, Option.getD_some, hc, bit, Bool.false_eq_true, if_false, Bool.not_false, Bool.true_and]

end

/-! ### Coordinate streams (R336, R337) -/

section
variable {s : State} {key hnd : Nat} {h : HWord} {t u : FTok}

/-- The error of a coordinate that is not above the one before it in its fibre. -/
def orderErr (prev : Option (BitVec 32)) (x : BitVec 32) : List Nat := if prev.any (fun y => decide (x ≤ y)) then [0x16] else []

theorem coordTake_left (x : BitVec 32) (o : Fire) : coordTake true x o = { o with
    hd := { o.hd with prevA := some x }, errs := o.errs ++ orderErr o.hd.prevA x } := by
  simp only [coordTake, orderErr, if_true]
  split <;> simp

theorem coordTake_right (x : BitVec 32) (o : Fire) : coordTake false x o = { o with
    hd := { o.hd with prevB := some x }, errs := o.errs ++ orderErr o.hd.prevB x } := by
  simp only [coordTake, orderErr, Bool.false_eq_true, if_false]
  split <;> simp

/-- The steering word of a coordinate. -/
def steerWord (t : FTok) (f : BitVec 3) : FTok := (t.extractLsb' 0 29).setWidth 48 <<< 3 ||| f.setWidth 48

/-- Data at both heads, no null. -/
structure BothData (s : State) (key hnd : Nat) (h : HWord) (t u : FTok) : Prop where
  gap : (handlerIn s key hnd).gapPend = false
  left : (elemIn s key).head h.a.toNat = some t
  right : (elemIn s key).head h.b.toNat = some u
  dataA : tokC t = false
  dataB : tokC u = false
  valueA : tokN t = false
  valueB : tokN u = false

variable (d : BothData s key hnd h t u)
include d

/-- On two values merge takes the lesser coordinate, of equal ones the left. -/
theorem coordFire_merge : coordFire h true false (elemIn s key) (handlerIn s key hnd) =
    if t.extractLsb' 0 32 ≤ u.extractLsb' 0 32 then
      { (coordTake true (t.extractLsb' 0 32) (fireOf s key hnd)).forward h [h.a.toNat] t with res := true }
    else { (coordTake false (u.extractLsb' 0 32) (fireOf s key hnd)).forward h [h.b.toNat] u with res := true } := by
  by_cases le : t.extractLsb' 0 32 ≤ u.extractLsb' 0 32
  · simp [coordFire, d.gap, d.left, d.right, d.dataA, d.dataB, d.valueA, d.valueB, le]
  · simp [coordFire, d.gap, d.left, d.right, d.dataA, d.dataB, d.valueA, d.valueB, le, BitVec.le_of_lt (BitVec.not_le.1 le)]

/-! isect and union: a lesser left coordinate, a lesser right one, and equal ones. -/

theorem coordFire_left (union : Bool) (lt : t.extractLsb' 0 32 < u.extractLsb' 0 32) :
    coordFire h false union (elemIn s key) (handlerIn s key hnd) =
      (coordTake true (t.extractLsb' 0 32) (fireOf s key hnd)).result h [h.a.toNat] (steerWord t (1#3 ||| if union then 4#3 else 0#3)) := by
  have le := BitVec.le_of_lt lt
  have nle := BitVec.not_le.2 lt
  cases union <;>
    simp [coordFire, d.gap, d.left, d.right, d.dataA, d.dataB, d.valueA, d.valueB, le, nle, steerWord, BitVec.or_assoc]

theorem coordFire_right (union : Bool) (lt : u.extractLsb' 0 32 < t.extractLsb' 0 32) :
    coordFire h false union (elemIn s key) (handlerIn s key hnd) =
      (coordTake false (u.extractLsb' 0 32) (fireOf s key hnd)).result h [h.b.toNat]
        (steerWord u (2#3 ||| if union then 4#3 else 0#3)) := by
  have le := BitVec.le_of_lt lt
  have nle := BitVec.not_le.2 lt
  cases union <;>
    simp [coordFire, d.gap, d.left, d.right, d.dataA, d.dataB, d.valueA, d.valueB, le, nle, steerWord, BitVec.or_assoc]

theorem coordFire_both (union : Bool) (eq : t.extractLsb' 0 32 = u.extractLsb' 0 32) :
    coordFire h false union (elemIn s key) (handlerIn s key hnd) =
      (coordTake false (u.extractLsb' 0 32) (coordTake true (t.extractLsb' 0 32) (fireOf s key hnd))).result h [h.a.toNat, h.b.toNat]
        (steerWord t 7#3) := by
  simp [coordFire, d.gap, d.left, d.right, d.dataA, d.dataB, d.valueA, d.valueB, eq, steerWord, BitVec.or_assoc]

end

/-! ### Accumulation (R341–R343) -/

section
variable {s : State} {key hnd q : Nat} {h : HWord} {t : FTok}

/-- A trigger of acc or accw, as PARAM[1:0] chooses it (R341). -/
def TriggeredBy (h : HWord) (t : FTok) : Prop :=
  (h.param.toNat % 4 = 0 ∧ isCode 4 t = true) ∨
    (h.param.toNat % 4 = 1 ∧ isCode 3 t = true ∧ h.param.toNat / 16 % 16 ≤ tokArg t / 2 ^ 20) ∨
      (h.param.toNat % 4 = 2 ∧ isCode 2 t = true)

theorem isTrigger_of_triggeredBy (trigger : TriggeredBy h t) : isTrigger h t = true := by
  rcases trigger with ⟨mode, code⟩ | ⟨mode, code, level⟩ | ⟨mode, code⟩
  · simp only [isTrigger, mode, code]
  · simp only [isTrigger, mode, code, level, decide_true, Bool.and_self]
  · simp only [isTrigger, mode]
    exact code

/-- A token of one code has no other. -/
theorem tokCode_of_isCode {c : Nat} (code : isCode c t = true) : tokCode t = c := by
  rw [isCode, Bool.and_eq_true, beq_iff_eq] at code
  exact code.2

/-- No trigger is a GAP. -/
theorem tokCode_ne_gap (code : isCode 4 t = true ∨ isCode 3 t = true ∨ isCode 2 t = true) : (tokCode t == 7) = false := by
  rcases code with code | code | code <;> rw [tokCode_of_isCode code] <;> rfl

/-- A control token at the one queue that fires, no GAP, is forwarded. -/
theorem ctlRule_one {o : Fire} (hq : fireQs h = [q]) (ht : o.e.head q = some t) (hc : tokC t = true) (noGap : (tokCode t == 7) = false) :
    ctlRule h (fireQs h) o = { o with out := some (tokOn t h.och), take := [q], hd := { o.hd with gapPend := false } } := by
  simp only [ctlRule, fireQs_filter]
  simp only [hq, List.filterMap_cons, ht, List.filterMap_nil, hc, List.all_nil, Bool.and_self, if_true, noGap, Fire.forward]

/-- The first firing at a trigger sends the sum. -/
theorem triggerFire_first {v : FTok} {errs : List Nat} {both : Bool} {o : Fire} (first : o.hd.ph = 0#8) :
    triggerFire h v errs both o = { o with
      out := some (tokOn (v &&& 0x7FFFFFFFFFFF#48) h.och), errs := errs, hd := { o.hd with ph := 1#8 } } := if_pos first

/-- The second firing at a trigger forwards it and clears the sum. -/
theorem triggerFire_last {v : FTok} {errs : List Nat} {both : Bool} {o : Fire} (second : o.hd.ph ≠ 0#8) (hq : fireQs h = [q])
    (ht : o.e.head q = some t) (code : isCode 4 t = true ∨ isCode 3 t = true ∨ isCode 2 t = true) :
    triggerFire h v errs both o = { o with
      out := some (tokOn t h.och), take := [q], hd := { o.hd with ph := 0#8, gapPend := false }
      e := { o.e with st0 := 0#48, st1 := if both then 0#48 else o.e.st1 } } := by
  have control : tokC t = true := by
    simp only [isCode, Bool.and_eq_true] at code
    tauto
  exact (if_neg second).trans (ctlRule_one hq ht control (tokCode_ne_gap code))

/-- Where the one queue holds a control token, the search for one finds it. -/
theorem find_control (hq : fireQs h = [q]) (ht : (elemIn s key).head q = some t) (hc : tokC t = true) :
    ((fireQs h).filterMap (elemIn s key).head).find? tokC = some t := by
  simp only [hq, List.filterMap_cons, ht, List.filterMap_nil, List.find?_cons, hc]

theorem Runs.acc (r : Runs s key hnd 0x50 h) (d : OnData s key hnd h)
    (hn : tokN (operand (elemIn s key) (handlerIn s key hnd) (!h.param.getLsbD 2) h.a.toNat) = false) :
    exec (.acc h) s = fired s key hnd 0x50 h (
      let w := operand (elemIn s key) (handlerIn s key hnd) (!h.param.getLsbD 2) h.a.toNat
      let rm := RMode.ofCode h.rm.toNat
      { fireOf s key hnd with
        take := fireQs h, e := { elemIn s key with
        st0 := if h.param.getLsbD 2 then ((elemIn s key).st0.extractLsb' 0 32 + w.extractLsb' 0 32).setWidth 48
          else Machine.Num.xfRound rm (Machine.Num.add rm (Machine.Num.xfOf (elemIn s key).st0) (Machine.Num.xfOf w))
        st1 := ((elemIn s key).st1.extractLsb' 0 32 + 1#32).setWidth 48 } }) := by
  refine r.firing ?_
  simp only [d.gap, d.find_control, hn, Bool.false_eq_true, if_false, Fire.of]

theorem Runs.accw (r : Runs s key hnd 0x51 h) (d : OnData s key hnd h)
    (hn : tokN (operand (elemIn s key) (handlerIn s key hnd) true h.a.toNat) = false) :
    exec (.accw h) s = fired s key hnd 0x51 h (
      let rm := RMode.ofCode h.rm.toNat
      { fireOf s key hnd with
        take := fireQs h, e := { elemIn s key with
        st0 := Machine.Num.xfRound rm (Machine.Num.fma rm (Machine.Num.xfOf (operand (elemIn s key) (handlerIn s key hnd) true h.a.toNat))
          (rwtVal (handlerIn s key hnd)) (Machine.Num.xfOf (elemIn s key).st0))
        st1 := countUp (elemIn s key).st1 (handlerIn s key hnd).rwt.toNat } }) := by
  refine r.firing ?_
  simp only [d.gap, d.find_control, hn, Bool.false_eq_true, if_false, Fire.of]

theorem Runs.cnt (r : Runs s key hnd 0x42 h) (d : OnData s key hnd h)
    (hn : tokN (operand (elemIn s key) (handlerIn s key hnd) false h.a.toNat) = false) :
    exec (.cnt h) s = fired s key hnd 0x42 h (
      if h.param.getLsbD 0 then
        { fireOf s key hnd with take := fireQs h, e := { elemIn s key with st0 := countUp (elemIn s key).st0 256 } }
      else { fireOf s key hnd with take := fireQs h }) := by
  refine r.firing ?_
  simp only [d.gap, d.find_control, hn, Bool.false_eq_true, if_false, Fire.of]

/-- bfly sends the sum, then the difference with which it consumes. -/
theorem Runs.bfly (r : Runs s key hnd 0x52 h) (d : OnData s key hnd h)
    (hna : tokN (operand (elemIn s key) (handlerIn s key hnd) true h.a.toNat) = false)
    (hnb : tokN (operand (elemIn s key) (handlerIn s key hnd) true h.b.toNat) = false) :
    exec (.bfly h) s = fired s key hnd 0x52 h (
      let hd := handlerIn s key hnd
      let rm := RMode.ofCode h.rm.toNat
      let x := Machine.Num.xfOf (operand (elemIn s key) hd true h.a.toNat)
      let y := Machine.Num.xfOf (operand (elemIn s key) hd true h.b.toNat)
      if hd.ph = 0#8 then
        { (fireOf s key hnd).result h [] (Machine.Num.xfRound rm (Machine.Num.add rm x y)) with
          hd := { hd with ph := 1#8, dout := hd.dout + 1 } }
      else
        { (fireOf s key hnd).result { h with och := h.param.extractLsb' 0 4 } (fireQs h)
            (Machine.Num.xfRound rm (Machine.Num.add rm x (Machine.Num.neg y))) with
          hd := { hd with ph := 0#8, din := hd.din + 2, dout := hd.dout + 1 } }) := by
  refine r.firing ?_
  simp only [d.gap, d.none_control, hna, hnb, Bool.or_self, Bool.false_eq_true, if_false]

variable (gap : (handlerIn s key hnd).gapPend = false) (hq : fireQs h = [q]) (ht : (elemIn s key).head q = some t)
include gap hq ht

theorem Runs.acc_trigger (r : Runs s key hnd 0x50 h) (hc : tokC t = true) (trigger : TriggeredBy h t) :
    exec (.acc h) s = fired s key hnd 0x50 h (triggerFire h (elemIn s key).st0
      (if isCode 4 t && tokArg t != 0 && tokArg t != ((elemIn s key).st1.extractLsb' 0 32).toNat then [0x18] else []) true
      (fireOf s key hnd)) := by
  refine r.firing ?_
  simp only [gap, find_control hq ht hc, isTrigger_of_triggeredBy trigger, Bool.false_eq_true, if_false, if_true]

theorem Runs.accw_trigger (r : Runs s key hnd 0x51 h) (hc : tokC t = true) (trigger : TriggeredBy h t) :
    exec (.accw h) s = fired s key hnd 0x51 h (triggerFire h
      (if h.param.getLsbD 8 then meanOf (RMode.ofCode h.rm.toNat) (elemIn s key) else (elemIn s key).st0) [] true (fireOf s key hnd)) := by
  refine r.firing ?_
  simp only [gap, find_control hq ht hc, isTrigger_of_triggeredBy trigger, Bool.false_eq_true, if_false, if_true]

theorem Runs.cnt_trigger (r : Runs s key hnd 0x42 h) (hc : tokC t = true) (eot : isCode 2 t = true) :
    exec (.cnt h) s = fired s key hnd 0x42 h (triggerFire h (elemIn s key).st0 [] false (fireOf s key hnd)) := by
  refine r.firing ?_
  simp only [gap, find_control hq ht hc, isEot, eot, Bool.false_eq_true, if_false, if_true]

end

/-! ### gapw (R344) -/

section
variable {s : State} {key hnd : Nat} {h : HWord} {t : FTok}

theorem Runs.gapw (r : Runs s key hnd 0x54 h) (ha : h.a.toNat < 4) (ht : (elemIn s key).head h.a.toNat = some t) :
    exec (.gapw h) s = fired s key hnd 0x54 h (
      let hd := handlerIn s key hnd
      if hd.gapPend then { fireOf s key hnd with
        out := some (tokOn t (h.param.extractLsb' 0 4)), res := !tokC t, take := fireQs h, hd := { hd with gapPend := false } }
      else if isCode 7 t then { fireOf s key hnd with take := fireQs h, hd := { hd with gapPend := true } }
      else { fireOf s key hnd with out := some (tokOn t h.och), res := !tokC t, take := fireQs h }) := by
  refine r.firing ?_
  simp only [operand_queue _ false ha ht, passFire_queue ha ht]

end

end Sys2Proof.Safety

namespace Sys2Proof.Proofs.Elements
open Sys2Proof Sys2Proof.Machine Sys2Proof.Safety

/-- Settles O53: each operation is one firing, given by what its handler does with the heads (`Runs.dup` and its like). That forwarded
control and weight tokens do not go to DST is log entry 44, what CRDORDER compares with log entry 45. -/
theorem streamOperations : Obligations.StreamOperations := by
  intro s key hnd h e hd o qs a b c p rm runs out mis onto value ta xa count after
  refine ⟨fun r => r.firing rfl, fun r => r.firing rfl, fun d hn => ?inject, fun d r => ⟨r.dup_again d, r.dup_last d⟩,
    fun gap r t ht hc => ?tsel, fun gap r u hu hc => ?gate, fun gap t u ht hu hct hnt hcu hnu => ?coordinates, fun d => ?data,
    fun q t hq ht hc gap => ?trigger, fun q t hq ht ha r => ?gapw⟩
  case inject =>
    exact ⟨fun r => r.firing (injectFire_data d _ hn), fun r => r.mark d hn, fun r => r.firing (injectFire_data d _ hn)⟩
  case tsel =>
    refine ⟨fun hn => (r.tsel gap ht hc).trans (congrArg _ (if_pos hn)), fun hn v hv => ?_⟩
    have chosen := (r.tsel gap ht hc).trans (congrArg _ (if_neg (ne_true_of_eq_false hn)))
    have head : (elemIn s key).head (if t.getLsbD 0 then h.a.toNat else h.b.toNat) = some v := hv
    rw [head, Option.getD_some] at chosen
    exact ⟨fun data => chosen.trans (congrArg _ (if_neg (ne_true_of_eq_false data))),
      fun control => chosen.trans (congrArg _ (if_pos control))⟩
  case gate =>
    have run := r.gate gap hu hc
    refine ⟨fun hn => run.trans (congrArg _ (if_pos hn)), fun hn mode t ht => ?_,
      fun hn mode => ⟨fun stays => ?_, fun adv t ht => ?_⟩⟩
    case refine_1 =>
      rw [if_neg (ne_true_of_eq_false hn), if_pos mode, ht, Option.getD_some] at run
      exact run
    all_goals rw [if_neg (ne_true_of_eq_false hn), if_neg (ne_true_of_eq_false mode)] at run
    · rw [stays] at run
      exact run
    · rw [adv, ht] at run
      exact ⟨fun control => run.trans (congrArg _ (if_pos control)),
        fun data => run.trans (congrArg _ (if_neg (ne_true_of_eq_false data)))⟩
  case coordinates =>
    have d : BothData s key hnd h t u := ⟨gap, ht, hu, hct, hcu, hnt, hnu⟩
    intro x y word ea eb
    refine ⟨fun r => (r.firing (coordFire_merge d)).trans (congrArg _ ?_), fun i op m form r => ?_⟩
    · rw [coordTake_left, coordTake_right]
      rfl
    · have steps (union : Bool) (hm : m = if union then 4#3 else 0#3)
          (run : exec (i h) s = .next (handlerFire s op h (coordFire h false union))) :
          (x < y → out i op { o with out := word (1#3 ||| m) t, res := true, take := [a], errs := ea,
                                      hd := { hd with prevA := some x } }) ∧
          (y < x → out i op { o with out := word (2#3 ||| m) u, res := true, take := [b], errs := eb,
                                      hd := { hd with prevB := some y } }) ∧
          (x = y → out i op { o with
            out := word 7#3 t, res := true, take := [a, b], errs := ea ++ eb, hd := { hd with prevA := some x, prevB := some y } }) := by
        subst hm
        refine ⟨fun lt => run.trans (r.firing ((coordFire_left d union lt).trans ?_)),
          fun lt => run.trans (r.firing ((coordFire_right d union lt).trans ?_)),
          fun eq => run.trans (r.firing ((coordFire_both d union eq).trans ?_))⟩
        · rw [coordTake_left]; rfl
        · rw [coordTake_right]; rfl
        · rw [coordTake_left, coordTake_right]; rfl
      rcases form with form | form <;> cases form
      · exact steps false rfl rfl
      · exact steps true rfl rfl
  case data =>
    intro w
    refine ⟨fun r hn => r.acc d hn, fun r hn => r.accw d hn, fun r hn => r.cnt d hn, fun r hn => ?wmul, fun r => ?bfly⟩
    case wmul =>
      refine r.firing ((dataFire_data d.gap d.data).trans ?_)
      rw [show tokN (operand (elemIn s key) (handlerIn s key hnd) true h.a.toNat) = false from hn]
      rfl
    case bfly =>
      intro xb hna hnb
      exact ⟨fun sum => (r.bfly d hna hnb).trans (congrArg _ (if_pos sum)),
        fun diff => (r.bfly d hna hnb).trans (congrArg _ (if_neg diff))⟩
  case trigger =>
    intro level trigger first last
    have code (trig : trigger) : isCode 4 t = true ∨ isCode 3 t = true ∨ isCode 2 t = true :=
      trig.imp And.right (Or.imp (fun stop => stop.2.1) And.right)
    refine ⟨fun trig r => ?acc, fun trig r => ?accw, fun eot r => ?cnt⟩
    case acc =>
      have run := r.acc_trigger gap hq ht hc trig
      exact ⟨fun one => run.trans (congrArg _ (triggerFire_first one)),
        fun two => run.trans (congrArg _ (triggerFire_last two hq ht (code trig)))⟩
    case accw =>
      have run := r.accw_trigger gap hq ht hc trig
      exact ⟨fun one => run.trans (congrArg _ (triggerFire_first one)),
        fun two => run.trans (congrArg _ (triggerFire_last two hq ht (code trig)))⟩
    case cnt =>
      have run := r.cnt_trigger gap hq ht hc eot
      exact ⟨fun one => run.trans (congrArg _ (triggerFire_first one)),
        fun two => run.trans (congrArg _ (triggerFire_last two hq ht (.inr (.inr eot))))⟩
  case gapw =>
    subst ha
    have fires : fireQs h = [h.a.toNat] := hq
    have lt : h.a.toNat < 4 := lt_of_mem_fireQs (fires ▸ List.mem_singleton_self _)
    have run := r.gapw lt ht
    rw [fires] at run
    exact ⟨fun pend => run.trans (congrArg _ (if_pos pend)),
      fun rest gap => run.trans (congrArg _ ((if_neg (ne_true_of_eq_false rest)).trans (if_pos gap))),
      fun rest other => run.trans (congrArg _ ((if_neg (ne_true_of_eq_false rest)).trans (if_neg (ne_true_of_eq_false other))))⟩

end Sys2Proof.Proofs.Elements

namespace Sys2Proof.Safety
open Sys2Proof Sys2Proof.Machine

/-! ### The next instruction of a hearth core (R401) -/

@[simp] theorem hartOf_hartUpd_same (s : State) (hc : Nat) (f : Hart → Hart) : hartOf (hartUpd s hc f) hc = f (hartOf s hc) :=
  SMap.at_upd_same ..

theorem hartOf_hartUpd_other (s : State) {hc j : Nat} (f : Hart → Hart) (other : j ≠ hc) : hartOf (hartUpd s hc f) j = hartOf s j :=
  SMap.at_upd_other _ _ other

@[simp] theorem reg_setReg_same (h : Hart) (d : BitVec 5) (v : Word) : (h.setReg d v).reg d = if d = 0#5 then 0#64 else v := by
  by_cases zero : d = 0#5 <;> simp [Hart.reg, Hart.setReg, zero]

theorem reg_setReg_other (h : Hart) {d r : BitVec 5} (v : Word) (other : r ≠ d) : (h.setReg d v).reg r = h.reg r := by
  have apart : r.toNat ≠ d.toNat := fun same => other (BitVec.eq_of_toNat_eq same)
  by_cases zero : d = 0#5
  · rw [Hart.setReg, if_pos zero]
  · simp only [Hart.reg, Hart.setReg, zero, if_false, SMap.at_set_other _ _ apart]

@[simp] theorem setReg_pc (h : Hart) (d : BitVec 5) (v : Word) : (h.setReg d v).pc = h.pc := by
  unfold Hart.setReg
  split <;> rfl

/-- Neither the pc nor the count of instructions is a register. -/
theorem reg_hartNext (s : State) (hc : Nat) (d r : BitVec 5) (v : Word) :
    (hartOf (hartNext s hc d v) hc).reg r = ((hartOf s hc).setReg d v).reg r := by
  rw [hartNext, hartOf_hartUpd_same]
  rfl

theorem pc_hartNext (s : State) (hc : Nat) (d : BitVec 5) (v : Word) :
    (hartOf (hartNext s hc d v) hc).pc = (hartOf s hc).pc + 4#64 := by
  rw [hartNext, hartOf_hartUpd_same]

theorem eps_epUpd_other (s : State) {k j : Nat} (f : Episode → Episode) (other : j ≠ k) :
    (epUpd s k f).hth.eps.at j = s.hth.eps.at j :=
  SMap.at_upd_other _ _ other

/-! ### A ply form without and with a current episode (R412) -/

section
variable {s t : State} {hc : Nat} {d : BitVec 5} {f : Nat → Nat → Hart → Episode → State × Option Word}

/-- The entry that HEPCUR names. -/
def currentKey (s : State) (hc : Nat) : Nat := epKey hc ((hartOf s hc).hepcur.extractLsb' 0 4).toNat

theorem episode_eq_some (on : (hartOf s hc).hepcur.getLsbD 4 = true) : (hartOf s hc).episode hc = some (currentKey s hc) :=
  if_pos on

theorem plyForm_of_noEpisode (cur : s.sim.cur = .hart hc) (off : (hartOf s hc).hepcur.getLsbD 4 = false) :
    plyForm s d f = hartNext s hc d (plyStatus 1 0) := by
  have none : (hartOf s hc).episode hc = none := if_neg (by rw [off]; decide)
  simp only [plyForm, cur, none]

/-- What the form answers for the current episode goes into rd. -/
theorem plyForm_of_some {v : Word} (cur : s.sim.cur = .hart hc) (on : (hartOf s hc).hepcur.getLsbD 4 = true)
    (answer : f hc (currentKey s hc) (hartOf s hc) (s.hth.eps.at (currentKey s hc)) = (t, some v)) :
    plyForm s d f = hartNext t hc d v := by
  simp only [plyForm, cur, episode_eq_some on, answer]

/-- A form that has taken an exception writes no rd. -/
theorem plyForm_of_none (cur : s.sim.cur = .hart hc) (on : (hartOf s hc).hepcur.getLsbD 4 = true)
    (answer : f hc (currentKey s hc) (hartOf s hc) (s.hth.eps.at (currentKey s hc)) = (t, none)) :
    plyForm s d f = t := by
  simp only [plyForm, cur, episode_eq_some on, answer]

end

/-! ### Each ply form, for the current episode (R412–R414) -/

section
variable {s : State} {hc k : Nat} {b a d : BitVec 5} {h : Hart} {e : Episode} {off len : Nat}
  (cur : s.sim.cur = .hart hc) (on : (hartOf s hc).hepcur.getLsbD 4 = true) (isHart : h = hartOf s hc)
  (isKey : k = currentKey s hc) (isEntry : e = s.hth.eps.at k) (isOff : off = (h.reg a).toNat)
  (isLen : len = ((h.reg b).extractLsb' 0 13).toNat)

include cur on isKey isEntry

theorem plySend_ended (ended : e.st ≠ .live) : exec (.plySend b a d) s = .next (hartNext s hc d (plyStatus 1 0)) := by
  subst isKey isEntry
  refine congrArg Host.Outcome.next (plyForm_of_some cur on ?_)
  simp [ended]

theorem plyRwd_ended (ended : e.st ≠ .live) : exec (.plyRwd b a d) s = .next (hartNext s hc d (plyStatus 1 0)) := by
  subst isKey isEntry
  refine congrArg Host.Outcome.next (plyForm_of_some cur on ?_)
  simp [ended]

theorem plyEnd_ended (ended : e.st ≠ .live) : exec (.plyEnd b a d) s = .next (hartNext s hc d (plyStatus 1 0)) := by
  subst isKey isEntry
  refine congrArg Host.Outcome.next (plyForm_of_some cur on ?_)
  simp [ended]

theorem plyPoll_counts : exec (.plyPoll b a d) s = .next (hartNext s hc d (BitVec.ofNat 64 e.acts.length)) := by
  subst isKey isEntry
  exact congrArg Host.Outcome.next (plyForm_of_some cur on rfl)

theorem plyTag_reads : exec (.plyTag b a d) s = .next (hartNext s hc d (e.ptag.setWidth 64)) := by
  subst isKey isEntry
  exact congrArg Host.Outcome.next (plyForm_of_some cur on rfl)

theorem plyRecv_free (unbound : e.st = .free) : exec (.plyRecv b a d) s = .next (hartNext s hc d (plyStatus 1 0)) := by
  subst isKey isEntry
  refine congrArg Host.Outcome.next (plyForm_of_some cur on ?_)
  simp [unbound]

include isHart

theorem plyRwd_live (live : e.st = .live) : exec (.plyRwd b a d) s =
    .next (hartNext (obsPlace s k (epi k e) 4 ((h.reg a).extractLsb' 0 32) []) hc d (plyStatus 0 e.oseq.toNat)) := by
  subst isHart isKey isEntry
  refine congrArg Host.Outcome.next (plyForm_of_some cur on ?_)
  simp [live]

theorem plyEnd_live (live : e.st = .live) : exec (.plyEnd b a d) s =
    .next (hartNext (epUpd (obsPlace s k (epi k e) 3 ((h.reg a).extractLsb' 0 32) []) k fun e => { e with st := .dead, flag := 0#40 })
      hc d (plyStatus 0 e.oseq.toNat)) := by
  subst isHart isKey isEntry
  refine congrArg Host.Outcome.next (plyForm_of_some cur on ?_)
  simp [live]

omit isEntry in
/-- ply.flag writes the budget of the current entry, and no other entry. -/
theorem plyFlag_sets_budget : ∃ t, exec (.plyFlag b a d) s = .next (hartNext t hc d 0#64) ∧
    (t.hth.eps.at k).bud = (h.reg a).extractLsb' 0 40 ∧ (∀ j, j ≠ k → t.hth.eps.at j = s.hth.eps.at j) ∧ t.mem = s.mem := by
  subst isHart isKey
  exact ⟨_, congrArg Host.Outcome.next (plyForm_of_some cur on rfl), by simp, fun j other => eps_epUpd_other _ _ other, rfl⟩

/-! #### ply.recv -/

include isOff

/-- BADP: the buffer is not aligned, or not in the window. -/
theorem plyRecv_badBuffer (bound : e.st ≠ .free) (bad : off % 64 ≠ 0 ∨ e.inWindow off 4160 = false) :
    exec (.plyRecv b a d) s = .next (hartNext s hc d (plyStatus 2 0)) := by
  subst isHart isKey isEntry isOff
  refine congrArg Host.Outcome.next (plyForm_of_some cur on ?_)
  simp [bound, bad]

section
variable (bound : e.st ≠ .free) (aligned : off % 64 = 0) (inside : e.inWindow off 4160 = true)
include aligned inside

include bound in
theorem plyRecv_truncated {m : BitVec 32 × BitVec 32 × Word} (pending : e.trunc = some m) : exec (.plyRecv b a d) s =
    .next (hartNext (recvTrunc s k e off m) hc d (plyStatus 0 (5 * 2 ^ 24))) := by
  subst isHart isKey isEntry isOff
  refine congrArg Host.Outcome.next (plyForm_of_some cur on ?_)
  simp [bound, aligned, inside, pending]

theorem plyRecv_dead (none : e.trunc = none) (dead : e.st = .dead) :
    exec (.plyRecv b a d) s = .next (hartNext s hc d (plyStatus 1 0)) := by
  subst isHart isKey isEntry isOff
  refine congrArg Host.Outcome.next (plyForm_of_some cur on ?_)
  simp [aligned, inside, none, dead]

theorem plyRecv_empty_machine (none : e.trunc = none) (live : e.st = .live) (empty : e.acts = []) (mode : h.user = false) :
    exec (.plyRecv b a d) s = .next (hartNext s hc d (plyStatus 4 0)) := by
  subst isHart isKey isEntry isOff
  refine congrArg Host.Outcome.next (plyForm_of_some cur on ?_)
  simp [aligned, inside, none, live, empty, mode]

/-- WAITACT, with a free mtval. -/
theorem plyRecv_empty_user (none : e.trunc = none) (live : e.st = .live) (empty : e.acts = []) (mode : h.user = true) :
    exec (.plyRecv b a d) s = .next (hartTrap (free s).2 hc false 24 (free s).1) := by
  subst isHart isKey isEntry isOff
  refine congrArg Host.Outcome.next (plyForm_of_none cur on ?_)
  simp [aligned, inside, none, live, empty, mode]

theorem plyRecv_action {m : Action} {r : List Action} (none : e.trunc = none) (live : e.st = .live) (oldest : e.acts = m :: r) :
    exec (.plyRecv b a d) s = .next (hartNext (recvAction s k e off m) hc d (plyStatus 0 (m.kind * 2 ^ 24 + m.len))) := by
  subst isHart isKey isEntry isOff
  refine congrArg Host.Outcome.next (plyForm_of_some cur on ?_)
  simp [aligned, inside, none, live, oldest]

end

/-! #### ply.send -/

section
include isLen

/-- BADP: the payload is too long, or not in the window. -/
theorem plySend_badPayload (live : e.st = .live) (bad : 4096 < len ∨ e.inWindow off len = false) :
    exec (.plySend b a d) s = .next (hartNext s hc d (plyStatus 2 0)) := by
  subst isHart isKey isEntry isOff isLen
  refine congrArg Host.Outcome.next (plyForm_of_some cur on ?_)
  simp only [live, bne_self_eq_false, Bool.false_eq_true, if_false]
  exact if_pos (by simpa using bad)

theorem plySend_noSlot (live : e.st = .live) (short : len ≤ 4096) (inside : e.inWindow off len = true) (some : len ≠ 0)
    (full : e.slots ≤ e.busy.length) : exec (.plySend b a d) s = .next (hartNext s hc d (plyStatus 3 0)) := by
  subst isHart isKey isEntry isOff isLen
  refine congrArg Host.Outcome.next (plyForm_of_some cur on ?_)
  simp [live, inside, Nat.not_lt.mpr short, full, some, -BitVec.extractLsb'_toNat]

/-- A STEP observation is placed; its VAL is free. -/
theorem plySend_places (live : e.st = .live) (short : len ≤ 4096) (inside : e.inWindow off len = true)
    (room : len = 0 ∨ e.busy.length < e.slots) : exec (.plySend b a d) s =
      .next (hartNext (obsPlace (freeN (winRead s k e off len).2).2 k (epi k e) 1
        (BitVec.ofNat 32 (freeN (winRead s k e off len).2).1) (winRead s k e off len).1) hc d (plyStatus 0 e.oseq.toNat)) := by
  subst isHart isKey isEntry isOff isLen
  refine congrArg Host.Outcome.next (plyForm_of_some cur on ?_)
  simp only [live, bne_self_eq_false, Bool.false_eq_true, if_false]
  rw [if_neg (by simp [inside, Nat.not_lt.mpr short, -BitVec.extractLsb'_toNat]),
    if_neg (by simpa [Classical.or_iff_not_imp_left] using room)]

end
end

/-- A delivered action gives the entry its tag and its number, and starts an interval with the whole budget. -/
theorem recvAction_entry (s : State) (k : Nat) (e : Episode) (off : Nat) (m : Action) :
    let n := (recvAction s k e off m).hth.eps.at k
    n.ptag = m.ptag ∧ n.dseq = m.seq ∧ n.ivl = true ∧ n.flag = n.bud := by
  simp only [recvAction, epUpd_hth_eps, SMap.at_upd_same, and_self]

/-! ### Binding, acceptance of actions, and the flag (R404, R407, R415, R416) -/

/-- A code of BERR fits its field. -/
theorem bindCheck_lt (s : State) (k : Nat) : bindCheck s k < 16 := by
  dsimp only [bindCheck]
  split_ifs <;> decide

section
variable {s : State} {k : Nat} (isKey : k = epKey s.sim.arg.core.toNat (s.sim.arg.unit.toNat % 16))
include isKey

theorem episodeBind_refused (unbound : (s.hth.eps.at k).v = false) (fails : bindCheck s k ≠ 0) :
    exec .episodeBind s = .next (epUpd s k fun e => { e with v := false, st := .free, berr := BitVec.ofNat 4 (bindCheck s k) }) := by
  subst isKey
  change execEpisodeBind s = _
  simp [execEpisodeBind, unbound, fails]

theorem episodeBind_bound (unbound : (s.hth.eps.at k).v = false) (passes : bindCheck s k = 0) :
    exec .episodeBind s = .next (epUpd s k fun e => { e with
      v := true, st := .live, berr := 0#4, aseq := 0#32, oseq := 0#32, flag := 0#40, bud := 0#40, ptag := 0#32, dseq := 0xFFFFFFFF#32
      ivl := false, tagSet := false, acts := [], busy := [], trunc := none }) := by
  subst isKey
  change execEpisodeBind s = _
  simp [execEpisodeBind, unbound, passes]

theorem episodeUnbind_bound (bound : (s.hth.eps.at k).v = true) : exec .episodeUnbind s = .next (epUnbind s k) := by
  subst isKey
  exact congrArg Host.Outcome.next (if_pos bound)

theorem episodeUnbind_unbound (unbound : (s.hth.eps.at k).v = false) : exec .episodeUnbind s = .next s := by
  subst isKey
  exact congrArg Host.Outcome.next (if_neg (by simp [unbound]))

/-- A record that is an action is accepted; any other is discarded. -/
theorem actionRecordAccept_reads (reads : boxReads s k = true)
    (clean : readPoison s (s.hth.eps.at k).core (s.hth.eps.at k).aq.toNat 0 0 = none) :
    let e := s.hth.eps.at k
    let q := s.qu.queues.at (queueKey e.core e.aq.toNat)
    let ts := ((q.views.at 0).readable q.ch).headD []
    let ds := (ts.drop 1).map (fun t => t.extractLsb' 0 32)
    let t := progress (viewPop s e.core e.aq.toNat 0 1) e.core q.rid
    exec .actionRecordAccept s = .next (if isRec (ts.headD 0#48) = true ∧ actionOk e ds = true then actionTake t k ds else t) := by
  subst isKey
  change execActionRecordAccept s = _
  simp only [execActionRecordAccept, reads, clean, Bool.not_true, Bool.false_eq_true, if_false, Option.isSome_none,
    Bool.and_eq_true]

/-- The KILLED observation bears the EPI that the entry had before KGEN advanced. -/
theorem flagFall_kills (down : flagDown s k = true) :
    let t := obsPlace (epUpd s k (fun e => { e with st := .dead, kgen := e.kgen + 1#16 })) k (epi k (s.hth.eps.at k)) 6 0#32 []
    exec .flagFall s = .next (hartUpd t s.sim.arg.core.toNat (fun h => { h with
      falls := h.falls ++ [BitVec.ofNat 4 (s.sim.arg.unit.toNat % 16)], mip := h.mip ||| 0x10000#64 })) := by
  subst isKey
  change execFlagFall s = _
  simp only [execFlagFall, down, Bool.not_true, Bool.false_eq_true, if_false]

end

/-! ### Windowed accesses (R405) -/

section
variable {s : State} {kind : HKind} {k n : Nat} (isAccess : s.sim.arg.load = .hearth kind)
  (user : (hartOf s s.sim.arg.core.toNat).user = true) (current : (hartOf s s.sim.arg.core.toNat).episode s.sim.arg.core.toNat = some k)
  (isLength : n = if kind = .store then s.sim.arg.data.length else s.sim.arg.n)
include isAccess user current isLength

theorem windowAccess_outside (outside : (s.hth.eps.at k).inWindow s.sim.arg.v.toNat n = false) : exec .hearthWindowAccess s =
    .next (hartTrap s s.sim.arg.core.toNat false (HKind.cause kind) s.sim.arg.v) := by
  subst isLength
  change execHearthWindowAccess s = _
  simp only [execHearthWindowAccess, isAccess, user, current, beq_iff_eq, outside]
  rfl

theorem windowAccess_load (inside : (s.hth.eps.at k).inWindow s.sim.arg.v.toNat n = true) (isLoad : kind = .load) :
    let r := winRead s k (s.hth.eps.at k) s.sim.arg.v.toNat n
    exec .hearthWindowAccess s = .next (hartUpd r.2 s.sim.arg.core.toNat
      (fun h => h.setReg (s.sim.arg.unit.setWidth 5) (loadedValue r.1 s.sim.arg.flag))) := by
  subst isLoad isLength
  change execHearthWindowAccess s = _
  simp only [reduceCtorEq, if_false] at inside
  simp [execHearthWindowAccess, isAccess, user, current, inside]

/-- A store that bears the KEY and KGEN of the entry is performed; one that bears others is dropped. -/
theorem windowAccess_store (inside : (s.hth.eps.at k).inWindow s.sim.arg.v.toNat n = true) (isStore : kind = .store) :
    exec .hearthWindowAccess s = .next (
      if s.sim.arg.w.extractLsb' 0 16 = (s.hth.eps.at k).kgen ∧ s.sim.arg.w.extractLsb' 16 16 = (s.hth.eps.at k).key
      then winWrite s k (s.hth.eps.at k) s.sim.arg.v.toNat s.sim.arg.data else s) := by
  subst isStore isLength
  change execHearthWindowAccess s = _
  simp only [if_true] at inside
  simp [execHearthWindowAccess, isAccess, user, current, inside]

end

end Sys2Proof.Safety

namespace Sys2Proof.Proofs.Hearth
open Sys2Proof Sys2Proof.Machine Sys2Proof.Safety

/-- Settles O55: each clause is the rule above for its form or step. That ply.poll, ply.tag and ply.flag answer for an entry that is
not LIVE is log entry 36; the EPI of the KILLED observation and the free VAL are log entry 37: both the model's choice. -/
theorem hearthForms : Obligations.HearthForms := by
  unfold Obligations.HearthForms
  refine ⟨fun s hc d v => ⟨pc_hartNext .., (reg_hartNext ..).trans (reg_setReg_same ..),
      fun r other => (reg_hartNext ..).trans (reg_setReg_other _ _ other), fun k other => hartOf_hartUpd_other _ _ other, rfl⟩,
    ?withoutEpisode, ?withEpisode, ?box, ?window⟩
  case withoutEpisode =>
    rintro s hc b a d cur off i (rfl | rfl | rfl | rfl | rfl | rfl | rfl)
    all_goals exact congrArg Host.Outcome.next (plyForm_of_noEpisode cur off)
  case withEpisode =>
    intro s hc b a d cur on h k e off len gives
    refine ⟨fun ended => ⟨plySend_ended cur on rfl rfl ended, plyRwd_ended cur on rfl rfl ended, plyEnd_ended cur on rfl rfl ended⟩,
      fun live => ⟨plySend_badPayload cur on rfl rfl rfl rfl rfl live, fun short inside =>
          ⟨plySend_noSlot cur on rfl rfl rfl rfl rfl live short inside,
            fun room => ⟨_, plySend_places cur on rfl rfl rfl rfl rfl live short inside room⟩⟩,
        plyRwd_live cur on rfl rfl rfl live, _, plyEnd_live (k := k) cur on rfl rfl rfl live, by simp, by simp⟩,
      plyPoll_counts cur on rfl rfl, plyTag_reads cur on rfl rfl, plyFlag_sets_budget cur on rfl rfl,
      plyRecv_free cur on rfl rfl, fun bound => ⟨plyRecv_badBuffer cur on rfl rfl rfl rfl bound,
        fun aligned inside => ⟨?_, ?_, ?_, ?_⟩⟩⟩
    · exact fun m => plyRecv_truncated cur on rfl rfl rfl rfl bound aligned inside
    · exact plyRecv_dead cur on rfl rfl rfl rfl aligned inside
    · exact fun none live empty => ⟨plyRecv_empty_machine cur on rfl rfl rfl rfl aligned inside none live empty,
        fun mode => ⟨_, plyRecv_empty_user cur on rfl rfl rfl rfl aligned inside none live empty mode⟩⟩
    · exact fun m r none live oldest => ⟨plyRecv_action cur on rfl rfl rfl rfl aligned inside none live oldest, recvAction_entry ..⟩
  case box =>
    intro s hc x k e
    refine ⟨fun unbound fails => ⟨_, episodeBind_refused (k := k) rfl unbound fails, ?_⟩,
      fun unbound passes => ⟨_, episodeBind_bound (k := k) rfl unbound passes, ?_⟩,
      episodeUnbind_bound rfl, episodeUnbind_unbound rfl, actionRecordAccept_reads rfl, flagFall_kills rfl⟩
    · simp [e, Nat.mod_eq_of_lt (bindCheck_lt s k)]
    · simp [e]
  case window =>
    intro s kind k isAccess g hc ep n user current
    refine ⟨windowAccess_outside isAccess user current rfl, windowAccess_load isAccess user current rfl,
      fun inside isStore gen key => ?_, fun inside isStore stale => ?_⟩
    · exact (windowAccess_store isAccess user current rfl inside isStore).trans (by rw [if_pos ⟨gen, key⟩])
    · exact (windowAccess_store isAccess user current rfl inside isStore).trans (by rw [if_neg stale])

end Sys2Proof.Proofs.Hearth
